-- ==== Sys2Proof/Word.lean ====
section
/-! DEFINITION. The word types of the W1056 model: bytes, 64-bit registers and words (R17), and the
named index types of the indexed instances (R4, R16). Only types and their plainest names. -/

namespace Sys2Proof

/-- A byte of a frame, a memory or an image. -/
abbrev Byte := BitVec 8

/-- A 64-bit register, SRAM word or mesh word (R17, R53, R117). -/
abbrev Word := BitVec 64

/-- MACn and PRHn, n from 0 to 15 (R16). -/
abbrev MacNo := Fin 16

/-- STKk, k from 0 to 15 (R16). -/
abbrev StkNo := Fin 16

/-- A logical herd index hy * 32 + hx (R4). -/
abbrev HerdNo := Fin 1024

/-- A stream number (R351). -/
abbrev StreamNo := Fin 4096

/-- An Ibex model number (R270). -/
abbrev ModelNo := Fin 4096

/-- A mailbox number (R471). -/
abbrev MailNo := Fin 16

/-- Logical tile coordinates (R4). -/
structure Coord where
  x : Fin 1024
  y : Fin 1024
deriving DecidableEq, Repr

/-- A physical position p(x, y) (R4, R25): x below 33 * 33 = 1,089 and y below 33 * 32 = 1,056. -/
structure Phys where
  x : Nat
  y : Nat
deriving DecidableEq, Repr

end Sys2Proof
end

