-- ==== Sys2Proof/Syntax.lean ====
section
/-! DEFINITION. The commands of the W1056: one constructor per row of spec/opcode_table.json, in the
table's order. The table gives no operands; those here are what each row's rule needs from outside. -/

namespace Sys2Proof

/-- An element format (R59, R88). -/
inductive Fmt where
  | fp32 | bf16 | fp16 | e4m3 | e5m2 | tine6 | tine4
deriving DecidableEq, Repr

/-- A rounding mode (R66). -/
inductive RMode where
  | rne | rtz | sr
deriving DecidableEq, Repr

/-- A host access that has no row of its own (R17 to R20, R463, R464). -/
inductive HostAccess where
  /-- Aligned 64-bit write of a BAR0 register. -/
  | write64 (off : BitVec 26) (v : Word)
  /-- Aligned 32-bit write of one half of a BAR0 register. -/
  | write32 (off : BitVec 26) (v : BitVec 32)
  /-- Aligned 64-bit read of a BAR0 register: clears RC fields (R18). -/
  | read64 (off : BitVec 26)
  /-- Aligned 32-bit read of one half: clears nothing (R19). -/
  | read32 (off : BitVec 26)
  /-- A write into BAR2 ring memory, a mailbox buffer or a directory word (R463, R464). -/
  | bar2Write (off : BitVec 30) (bytes : List Byte)
  /-- A read of BAR2. -/
  | bar2Read (off : BitVec 30) (len : Nat)
deriving DecidableEq, Repr

/-- An access that R19 does not support: 8 or 16 bits, unaligned, or wider than 64 bits. -/
structure BadAccess where
  write : Bool
  off   : Nat
  bits  : Nat
deriving DecidableEq, Repr

/-- A dense dot product (R73, R81): A is rows x k, row-major from addrA; B is k x n, column after
column from addrB; scales of Tine operands lie in the lines of R64. -/
structure DotOp where
  fmtA  : Fmt
  fmtB  : Fmt
  addrA : Nat
  addrB : Nat
  rows  : Nat
  n     : Nat
  k     : Nat
  /-- First accumulator (long-accumulator formats). -/
  acc   : Nat
  /-- SRAM address of the FP32 results (BF16 and FP32 formats, R81). -/
  dst   : Nat
  /-- SRAM address of the FP32 addends, when the instruction has them (R81). -/
  addend : Option Nat
deriving DecidableEq, Repr

/-- An output conversion of an SRAM vector (R66). -/
structure ConvOp where
  src  : Fmt
  dst  : Fmt
  addrSrc : Nat
  addrDst : Nat
  /-- Elements, at most 32 (R50). -/
  n    : Nat
  mode : Option RMode
deriving DecidableEq, Repr

/-- An accumulator output (R78). -/
structure AccOutOp where
  acc   : Nat
  n     : Nat
  dst   : Fmt
  addr  : Nat
  mode  : Option RMode
  clear : Bool
deriving DecidableEq, Repr

/-- An accumulator load (R79): element `elem` of the data at `addr`. -/
structure AccLoadOp where
  acc  : Nat
  src  : Fmt
  addr : Nat
  elem : Nat
deriving DecidableEq, Repr

/-- The vector-unit functions (R61, R71). -/
inductive VecFn where
  | add | sub | mul | fma | div | sqrt | neg | max | min | lt | le | eq
  | exp | log | rsqrt | tanh | sigmoid
deriving DecidableEq, Repr

/-- A vector-unit instruction (R71): n lanes, at most 32, of FP32. -/
structure VecOp where
  fn   : VecFn
  a    : Nat
  b    : Nat
  c    : Nat
  dst  : Nat
  n    : Nat
  mode : Option RMode
deriving DecidableEq, Repr

/-- A Tine block encode (R65): 16 FP32 values at `src` into block `blk` of the line at `line`. -/
structure TineOp where
  fmt  : Fmt
  src  : Nat
  line : Nat
  blk  : Nat
  mode : Option RMode
deriving DecidableEq, Repr

/-- A sparse dot product (R86 to R92). -/
structure SparseOp where
  desc  : Nat
  /-- The instruction names a second sparse operand (illegal, R86). -/
  twoSparse : Bool
  transposed : Bool
  fmtA  : Fmt
  fmtB  : Fmt
  addrB : Nat
  /-- Columns of B. -/
  n     : Nat
  /-- Inner dimension of B. -/
  k     : Nat
  acc   : Nat
  dst   : Nat
  addend : Option Nat
deriving DecidableEq, Repr

/-- A compress, masked compress or build (R96, R503). -/
structure BuildOp where
  src   : Nat
  rows  : Nat
  cols  : Nat
  fmt   : Fmt
  /-- Masked compress: the descriptor whose mask is kept. -/
  descIn : Nat
  desc  : Nat
  index : Nat
  metaA : Nat
  value : Nat
  /-- BSR build: segment length L, 1 to 256. -/
  segLen : Nat
deriving DecidableEq, Repr

/-- A decompress (R96). -/
structure DecompOp where
  desc : Nat
  fmt  : Fmt
  dst  : Nat
deriving DecidableEq, Repr

/-- Where a send takes its payload from: data SRAM from a byte address, or the accumulator file from an accumulator on,
as partials of four words (R80). -/
inductive SendSrc where
  | sram (addr : Nat)
  | accs (first : Fin 32)
deriving DecidableEq, Repr

/-- A packet a tile program sends (R120, R121, R124). -/
structure SendOp where
  kind : BitVec 4
  edge : Bool
  dx   : BitVec 10
  dy   : BitVec 10
  addr : BitVec 16
  ctr  : BitVec 4
  tag  : BitVec 8
  src  : SendSrc
  /-- Payload words. -/
  len  : BitVec 8
deriving DecidableEq, Repr

/-- A READ_REQ (R123, R155). -/
structure ReadOp where
  stack : StkNo
  addr  : BitVec 37
  lines : BitVec 5
  dst   : BitVec 16
  ctr   : BitVec 4
  tag   : BitVec 8
deriving DecidableEq, Repr

/-- A scalar instruction of a tile program (R50, R51, R57, R502). -/
inductive ScalarOp where
  /-- An operation of two scalar registers into a third. -/
  | alu (dst a b : Fin 16)
  /-- A 64-bit load from data SRAM. -/
  | load (dst : Fin 16) (addr : Nat)
  /-- A 64-bit store into data SRAM. -/
  | store (src : Fin 16) (addr : Nat)
  /-- A store into program SRAM: a no-operation (R51). -/
  | storeProgram (src : Fin 16) (addr : Nat)
  /-- A jump to an instruction index. -/
  | jump (target : Nat)
  /-- A read of a tile arithmetic or sparse register (R57). -/
  | readReg (dst : Fin 16) (off : BitVec 16)
  /-- A write of a tile arithmetic or sparse register (R57). -/
  | writeReg (src : Fin 16) (off : BitVec 16)
  /-- A reserved opcode: an illegal instruction (R502). -/
  | reserved
deriving DecidableEq, Repr

/-- Who gives a herd controller a command (R140, R142, R143). -/
inductive CmdSrc where
  | fault | firmware | host | sequence | loader
deriving DecidableEq, Repr

/-- A herd controller command: its source, its herd (or every herd), its argument (R142, R145). -/
structure HerdCmd where
  src  : CmdSrc
  herd : HerdNo
  all  : Bool
  arg  : BitVec 40
deriving DecidableEq, Repr

/-- What a BIST or probe finds failed (R406, R407, R376). -/
inductive Elem where
  | tile | router | controller
deriving DecidableEq, Repr

structure Failed where
  at_  : Phys
  elem : Elem
deriving DecidableEq, Repr

/-- What the RS-FEC of a MAC's lanes counts: codewords corrected, codewords it could not correct, symbols corrected (R233).
-/
structure FecCount where
  mac    : MacNo
  corr   : Nat
  uncorr : Nat
  symbols : Nat
deriving DecidableEq, Repr

/-- A frame on the wire, destination address to FCS (R212). -/
structure WireFrame where
  bytes  : List Byte
  /-- A PCS error block or an uncorrectable FEC codeword. -/
  pcsErr : Bool
  /-- Cut by link loss before its last byte. -/
  trunc  : Bool
  /-- Device time of the timestamp point beyond the last tick, in 2^-16 ns (R324). -/
  sub    : BitVec 16
  /-- What the RS-FEC of each MAC's lanes counted meanwhile (R233). -/
  fec    : List FecCount
deriving DecidableEq, Repr

/-- What the servo firmware writes to TIME_CMD (R319, R320): the step or the slew that STEP_LIMIT decides (R322), a
LOAD, a CANCEL or nothing. -/
inductive ServoCmd where
  | correct
  | load (hi : BitVec 16)
  | cancel
  | none
deriving DecidableEq, Repr

/-- What the servo firmware measured, and what it writes to TIME_INC, TIME_RATE_SLEW, TIME_ADJ and TIME_CMD (R320,
R321). An increment of 0 writes no TIME_INC (R318). -/
structure ServoFix where
  offset : BitVec 64
  inc    : BitVec 48
  rate   : BitVec 32
  slew   : BitVec 32
  adj    : BitVec 64
  cmd    : ServoCmd
deriving DecidableEq, Repr

/-- What happens to a word of a packet on the link it crosses (R117): nothing, an error of one, two or more bits; with
more, the word (0 is the head). -/
inductive LinkErr where
  | clean | single | double
  | multi (word : Nat)
deriving DecidableEq, Repr

/-- A packet of the mesh, by its place in the list of packets, and what the link it crosses does to it. -/
structure LinkStep where
  i   : Nat
  err : LinkErr
deriving DecidableEq, Repr

/-- An operation of the collectives engines (R146). The packets and the image name none; the step that forms a result
brings it, with the member index that a reduction goes to or that a broadcast comes from. DESIGN CHOICE (log entry 121). -/
inductive CollOp where
  | allReduce
  | reduce (member : Nat)
  | reduceScatter
  | allGather
  | dataBroadcast (member : Nat)
deriving DecidableEq, Repr

/-- A collective: its group, and its operation. -/
structure CollRun where
  coll : Fin 64
  op   : CollOp
deriving DecidableEq, Repr

/-- What an error has done to a stack line (R166): corrected on the die, corrected by the controller, uncorrectable. -/
inductive LineErr where
  | onDie | ctrl | uncorr
deriving DecidableEq, Repr

/-- An error that has arisen in a stored word (R53, R129, R166). DESIGN CHOICE (log entry 108). -/
inductive Upset where
  /-- A word of data SRAM (0 to 5,119) or program SRAM (5,120 to 6,143) of a tile, and how many of its bits. -/
  | sram (t : Coord) (word : Fin 6144) (nbits : Nat)
  /-- An entry of a router's route memory: herd table 0 to 1,023, local table 1,024 to 2,047, edge table 2,048 to
  2,111, broadcast entries 2,112 to 2,115. -/
  | route (r : Phys) (entry : Fin 2116) (nbits : Nat)
  /-- A line of a stack. -/
  | line (k : StkNo) (line : Nat) (err : LineErr)
deriving DecidableEq, Repr

/-- A segment of a firmware broadcast as it arrived in error at the controller of a physical herd (R413). -/
structure FwSeg where
  ph    : Nat
  seg   : Nat
  bytes : List Byte
deriving DecidableEq, Repr

/-- How a firmware broadcast ends: the segments that tiles have missed, by position, and those that herd controllers have
received in error (R413, R414). -/
structure BcastEnd where
  missed : List (Nat × Nat)
  bad    : List FwSeg
deriving DecidableEq, Repr

/-- Where a relayed part of an image goes: the worker, and the offset in its staging area (R195). -/
structure RelayTo where
  w   : Fin 256
  off : Nat
deriving DecidableEq, Repr

/-- How a reserve herd comes into service (R379, R416): it passes its BIST, and the segments of the firmware that its tiles
miss in the end, by position. -/
structure MoveEnd where
  bistOk : Bool
  missed : List (Nat × Nat)
deriving DecidableEq, Repr

/-- An edge of PPS_IN, and how long the level after it lasts (R330). -/
structure PpsEdge where
  rising  : Bool
  widthNs : Nat
deriving DecidableEq, Repr

/-- A frequency input of the coolant loop over a gate: its edges in Hz, and its pulses that were too short (R443, R457). -/
structure FreqIn where
  hz       : Nat
  glitches : Nat
deriving DecidableEq, Repr

/-- A herd transport message (R45, R355). -/
inductive HtBody where
  /-- A work message of a WAFER stream (R351). -/
  | work (stream : StreamNo) (herd : HerdNo) (outseq : Word) (payload : List Byte)
  /-- A collective partial of a group: accumulators as words (R80). -/
  | collPart (group : Fin 64) (words : List Word)
  /-- A subtree result over `width` slices from slice `slice` of a tree collective of a group (R148). -/
  | collTree (group : Fin 64) (slice width : Nat) (values : List (BitVec 32))
  /-- A member's piece of an all-gather or a data broadcast of a group (R146). -/
  | collGather (group : Fin 64) (slice : Nat) (words : List Word)
  /-- An acknowledgement of a sent message: its stream of the transport and its number there. -/
  | ack (chan : Nat) (seq : Word)
  /-- Credits returned (R46, R149). -/
  | credit (n : Nat)
  /-- An epoch boundary of the manager (R368). -/
  | epoch (e : Word)
  /-- A report of commit (R375). -/
  | commitReport (e : Word)
  /-- Rack commit announced by the manager (R375). -/
  | rackCommit (e : Word)
  /-- A replaying wafer asks for the collective messages of a group from a sequence number on (R375). -/
  | resend (group : Fin 64) (from_ : Word)
  /-- Bytes of an image for the receiver's staging area (R195). -/
  | image (off : Nat) (bytes : List Byte)
  /-- A request of admission or leave (R384). -/
  | admission (join : Bool)
deriving DecidableEq, Repr

/-- DEDUCED (log entry 106). -/
structure HtMsg where
  peer : Fin 256
  seq  : Word
  body : HtBody
deriving DecidableEq, Repr

/-- An output of a herd (R363). -/
inductive HerdOut where
  | completion (tag : Word) (payload : List Byte)
  | reply (stream : StreamNo) (seq : Word) (frame : List Byte)
  | stream (stream : StreamNo) (payload : List Byte)
  | wafer (peer : Fin 256) (stream : StreamNo) (payload : List Byte)
deriving DecidableEq, Repr

/-- Training outcome of one stack at cold or requested training (R168, R170, R476). -/
structure TrainResult where
  stack  : StkNo
  /-- Channels that fail their eye or run out of spare lanes. -/
  failed : BitVec 32
  /-- Worst eye margin in 1/64 UI. -/
  margin : BitVec 8
  temp   : Nat
deriving DecidableEq, Repr

/-- Why a retraining is triggered (R169, R476). -/
inductive RetrainWhy where
  | temperature | errors | host
deriving DecidableEq, Repr

/-- What the power arbiter latches and measures in an epoch (R434, R435, R440, R441). -/
structure PowerIn where
  /-- Requests of PD0 to PD95 in units. -/
  req   : List Nat
  /-- Junction sensors in quarters of a degree C: physical herd (hx, hy) at 33 hy + hx, then PD66 to PD95; one beyond the list
  reads 0 (R440, R447). -/
  temp  : List Int
  pDist : Nat
  pStk  : Nat
  pFix  : Nat
  /-- Supply level per domain above 0.66 V in 10 mV steps, and whether it throttles (R432). -/
  volt  : List Nat
  throttle : List Bool
  /-- Temperatures that STK0 to STK15 report, in degrees C; a stack beyond the list reports none (R175, R441). -/
  stk   : List Nat := []
  /-- Errors that have arisen in stored words since the boundary before. DESIGN CHOICE (log entry 108). -/
  upsets : List Upset := []
deriving DecidableEq, Repr

/-- Who made a rate-limited report due (R257). -/
inductive ReportSrc where
  | featureInvalid (n : MacNo)
  | notScored (n : MacNo)
  | modelAbsent
  | tsOverflow (n : MacNo)
  | powerCause (c : Fin 4)
deriving DecidableEq, Repr

/-- The kinds of BAR2 rings (R466). -/
inductive RingKind where
  | submit | receive | completion | transmit | event
deriving DecidableEq, Repr

structure RingId where
  kind : RingKind
  idx  : Nat
deriving DecidableEq, Repr

/-- A source of MSI-X messages (R472). -/
inductive MsixSrc where
  | event | stop
  | ring (r : RingId)
deriving DecidableEq, Repr

/-- A stop of R417 other than broadcast repair's, HOLD_RELEASE's and STOP_AT's, or STOP_AT. -/
inductive BruStopKind where
  | remap | serdes (m : MacNo) | stopAt (stage : Fin 8)
deriving DecidableEq, Repr

/-- The commands, one constructor per row of spec/opcode_table.json, in its order. DESIGN CHOICE (log entry 6). -/
inductive Instr where
  | registerWrite (a : HostAccess)
  | unsupportedAccess (a : BadAccess)
  | dotProduct (t : Coord) (op : DotOp)
  | outputConversion (t : Coord) (op : ConvOp)
  | accumulatorOutput (t : Coord) (op : AccOutOp)
  | accumulatorLoad (t : Coord) (op : AccLoadOp)
  | vectorOperation (t : Coord) (op : VecOp)
  | tineEncode (t : Coord) (op : TineOp)
  | sparseDot (t : Coord) (op : SparseOp)
  | metadataCheck (t : Coord) (op : SparseOp)
  | segmentDone (t : Coord) (lane : Fin 8)
  | s24Compress (t : Coord) (op : BuildOp)
  | s24MaskedCompress (t : Coord) (op : BuildOp)
  | s24Decompress (t : Coord) (op : DecompOp)
  | bsrDecompress (t : Coord) (op : DecompOp)
  | bsrBuild (t : Coord) (op : BuildOp)
  | haltInstruction (t : Coord)
  | epochBarrierPoint (t : Coord)
  | sendPacket (t : Coord) (op : SendOp)
  | readReq (t : Coord) (op : ReadOp)
  | arrivalWait (t : Coord) (ctr : Fin 16) (count : BitVec 32)
  | counterSet (t : Coord) (ctr : Fin 16) (reg : Fin 16) (value : Option (BitVec 32))
  | journalTake (t : Coord) (stream : StreamNo) (dst : BitVec 16)
  | hrdTileStepWrite (t : Coord) (step : BitVec 32)
  | hrdTileSparseFaultClear (t : Coord)
  | routePacket (p : LinkStep)
  | packetDeliver (i : Nat)
  | tileHandshakeTimeout (r : Phys)
  | bcastForward (p : LinkStep)
  | redAccCombine (r : Phys) (tree : Fin 4) (c : CollRun)
  | redTreeNode (h : HerdNo) (c : CollRun) (slice : Nat)
  | collectiveMessageSend (group : Fin 64)
  | htMessageReceive (msg : HtMsg)
  | routerFailure (r : Phys)
  | routePatch (h : HerdNo)
  | release (c : HerdCmd)
  | halt (c : HerdCmd)
  | barrier (c : HerdCmd)
  | snapshot (c : HerdCmd)
  | restore (c : HerdCmd)
  | resetTiles (c : HerdCmd)
  | routeRepair (c : HerdCmd)
  | drain (c : HerdCmd)
  | rollcall (c : HerdCmd)
  | repair (c : HerdCmd) (still : List (Nat × Nat))
  | waitEpochTimer (h : HerdNo)
  | waitEvent (h : HerdNo)
  | sequenceJump (h : HerdNo)
  | sequenceStop (h : HerdNo)
  | windowRead
  | windowWrite (v : Word)
  | windowTimeout (write : Bool)
  | stackRead (k : StkNo) (i : Nat)
  | readRsp (k : StkNo)
  | stackWrite (k : StkNo) (i : Nat)
  | mirrorCopy (k : StkNo)
  | journalLineWrite (pair : Fin 8)
  | refresh (k : StkNo) (bank : Fin 48)
  | scrubRead (k : StkNo)
  | retrainTrigger (k : StkNo) (ch : Fin 32) (why : RetrainWhy) (temp : Nat)
  | stknRetrain (k : StkNo) (ch : Fin 32)
  | retrain (k : StkNo)
  | stackStopTimeout (k : StkNo)
  | stknEccAddrClear (k : StkNo)
  | bar4Read (off : BitVec 36) (len : Nat)
  | bar4Write (off : BitVec 36) (bytes : List Byte)
  | start
  | abort
  | verify
  | commit
  | broadcast (b : BcastEnd)
  | herdLoad
  | reshaping
  | residentReload (h : Option HerdNo)
  | imageRelay (at_ : RelayTo) (bytes : List Byte)
  | fuseProgram (slot : Fin 4) (confirm : BitVec 16)
  | fuseRevoke (slot : Fin 4) (confirm : BitVec 16)
  | frameReceive (m : MacNo) (f : WireFrame)
  | fcsVerdict (m : MacNo)
  | queueDeliver (m : MacNo) (q : Fin 16)
  | pauseFrameReceive (m : MacNo)
  | pauseExpire (m : MacNo) (p : Fin 8)
  | pauseResend (m : MacNo) (p : Fin 8)
  | transmitStart (m : MacNo) (sub : BitVec 16)
  | linkDown (m : MacNo)
  | portTraining (m : MacNo) (ok : Bool)
  | portTrainingRetry (m : MacNo)
  | ext (n : MacNo) (ctx : Fin 16)
  | metaField (n : MacNo) (ctx : Fin 16)
  | alu (n : MacNo) (ctx : Fin 16)
  | adv (n : MacNo) (ctx : Fin 16)
  | br (n : MacNo) (ctx : Fin 16)
  | feat (n : MacNo) (ctx : Fin 16)
  | endParse (n : MacNo) (ctx : Fin 16)
  | rateLimitedReport (src : ReportSrc)
  | evaluate (n : MacNo) (busy : List Bool)
  | batchWaitExpire (model : ModelNo)
  | batchStream
  | batchComplete
  | ibexStopTimeout
  | run (model : ModelNo)
  | suspend (model : ModelNo)
  | validate (model : ModelNo)
  | tick
  | ppsOutPulseEnd
  | step
  | slew
  | load (hi : BitVec 16)
  | ack
  | cancel
  | timeCtrlWrite (v : Word)
  | timeNowRead
  | timePpsOutNextWrite (v : Word)
  | servoUpdate (fix : ServoFix)
  | timeStopTimeout
  | pop (n : MacNo)
  | ppsInEdge (e : PpsEdge)
  | ppsStuck (high : Bool)
  | refLoss
  | refRelock
  | itemArrival (pair : Fin 8)
  | itemAccept (pair : Fin 8)
  | itemDeliver (h : HerdNo) (stream : StreamNo)
  | herdOutput (h : HerdNo) (o : HerdOut)
  | outputSent (h : HerdNo)
  | replyOutput (h : HerdNo)
  | epochBoundary
  | epochAnnounce (e : Word)
  | epochCommit (group : Fin 256)
  | rackCommit (e : Word)
  | detect (h : HerdNo) (found : Option Failed)
  | decide
  | chamoisRemap
  | herdMove (m : MoveEnd)
  | reload
  | recoveryRestore
  | replay
  | resume
  | decideStopTimeout
  | replayStopTimeout
  | fltAccept
  | fltMove (h : HerdNo)
  | fltHold
  | jrnReplay (group : Fin 256)
  | jrnHold (group : Fin 256)
  | handover (group : Fin 256)
  | workerJoin (w : Fin 256)
  | workerLeave (w : Fin 256)
  | managerSilence
  | mgmtWatchdog
  | ramp
  | train (rs : List TrainResult)
  | bist (failed : List Failed)
  | remap
  | releaseStage
  | warmStart
  | repairStopTimeout
  | bringupStopTimeout (k : BruStopKind)
  | bringupStop (stage : Fin 8)
  | bruAccept (m : MacNo)
  | retireNow
  | retry (m : MacNo)
  | go
  | mark (px py : BitVec 11)
  | down (m : MacNo)
  | powerEpoch (inp : PowerIn)
  | powerStopTimeout
  | powerAck
  | pwrDomCfgWrite (v : Word)
  | vdistLow (trips : Bool)
  | vdistRecover
  | vaonLoss
  | thermAlertNLow (us : Nat)
  | thermAlert
  | thermAlertNHigh
  | trip
  | coolantMeasure (flow tin tout : FreqIn)
  | sensorLost (input : Fin 3)
  | quiesce
  | calWrite (confirm : BitVec 16)
  | pwrCalDataAccess (write : Option Word)
  | submitDoorbell (ring : Fin 4096) (prod : BitVec 32)
  | submitEntry (ring : Fin 4096)
  | transmitDoorbell (ring : Fin 256) (prod : BitVec 32)
  | consWrite (ring : RingId) (cons : BitVec 32)
  | ringEnable (ring : RingId) (irq : Bool)
  | eventRecord
  | msixSignal
  | msixHoldoffExpire (src : MsixSrc)
  | post (m : MailNo) (len : BitVec 17)
  | mailboxReply (m : MailNo) (reply : List Byte)
  | mailboxExpire (m : MailNo)
  | glbExportBaseWrite (v : Word)
  | glbExportPtrWrite (cons : BitVec 32)
  | harvestPass
  | harvestStopTimeout
  | harvestAccept
  | stackAccept (k : StkNo)
  | stackRetrain (k : StkNo) (ch : Fin 32)
  | stackDown (k : StkNo) (ch : Fin 32)
  | stackStart (k : StkNo)
  | stackDefer (k : StkNo) (ms : BitVec 10)
  | deferExpire (k : StkNo)
  | glbModeWrite (v : Word)
  | coldReset
  | warmReset (fundamental : Bool) (confirm : BitVec 16)
  | herdReset (h : HerdNo)
  | portReset (m : MacNo)
  | functionLevelReset
  | getId
  | getState
  | getPower
  | getCool
  | getPwrStatus
  | getEvent
  | setCap (w : BitVec 16)
  | sidebandWarmReset (b : Byte)
  | sidebandColdReset (b : Byte)
  | regAddr (off : BitVec 32)
  | regRead
  | bypass
  | idcode
  | samplePreload (pins : List Bool) (chain : List Bool)
  | extest
  | clamp
  | highz
  | scalarInstruction (t : Coord) (op : ScalarOp)
  | refreshManagement (k : StkNo)
  | retrainComplete (k : StkNo) (ok : Bool)
  | validateComplete (model : ModelNo)
  | calWriteComplete (readBackOk : Bool)
  | coolFaultNHigh (lowMs : Nat)
  | quiesceTimeout
  | refGlitch
  | testLogicReset
deriving DecidableEq, Repr

end Sys2Proof
end

