-- ==== Sys2Proof/Decode.lean ====
section
/-! DEFINITION. What a word spells. The command table of this hardware gives no row any bits (its rows are
operations and events, not words), so no word spells a command. -/

namespace Sys2Proof

/-- The command that a word of `nbits` bits spells by the table's bits: none, since no row has bits.
DEDUCED (log entry 9). -/
def decodeTableWord (_nbits _w : Nat) : Option Instr := none

end Sys2Proof
end

