-- ==== Sys2Proof/Machine/State.lean ====
section
/-! DEFINITION. The state of the W1056 as plain data, the reasons a step could stop, and the state right
after a cold reset. Sparse parts are lists of (key, value) pairs in rising key order that leave out every
entry equal to the part's default (Machine/Map.lean holds their operations). -/

namespace Sys2Proof.Machine

/-- A sparse table: (key, value) pairs in strictly rising key order. -/
abbrev NatMap (α : Type) := List (Nat × α)

/-- A byte memory in canonical form; an address not listed reads as 0. -/
abbrev Mem := List Host.Cell

/-- The register file: BAR0 offset of a register and its stored bits; an offset not listed holds its
reset value (R17, R21). -/
abbrev RegFile := List (Nat × Word)

/-! ### Why a step could stop -/

/-- Faults of the step. No meaning raises one: every fault of the manual is an event record and a state
change (R473, R474), so a fault here would be safe and is never seen. -/
inductive Fault where
  /-- Reserved for a state that the manual rules out; raised by nothing. Safe. -/
  | impossible
deriving DecidableEq, Repr

/-- Refusals of the step. -/
inductive Refusal where
  /-- A command that has no meaning yet: raised by the dispatch alone. Safe. -/
  | notModelled (mnemonic : String)
deriving DecidableEq, Repr

/-! ### The tile (R50 to R58, R86 to R116, R122, R123) -/

/-- A long accumulator (R72): the value is a * 2^-112. -/
structure Acc where
  a    : BitVec 192
  nan  : Bool
  pinf : Bool
  ninf : Bool
  win  : Bool
deriving DecidableEq, Repr

/-- What the sequencer of a tile is doing (R52, R53, R100, R369, R502, R507). -/
inductive Run where
  /-- Not started: halted before instruction 0. -/
  | fresh
  | running
  /-- Halted at an instruction boundary by HALT. -/
  | halted
  /-- Halted at its epoch barrier. -/
  | atBarrier
  /-- Has run its halt instruction. -/
  | finished
  /-- Halted by a fault of this code. -/
  | faulted (code : Nat)
  /-- Halted by a poisoned stack response (R173, R507). -/
  | stackFault
deriving DecidableEq, Repr

/-- Who sent a request (R179). -/
inductive Src where
  | tile (key : Nat)
  | herd (h : Nat)
  | block (port : Nat)
deriving DecidableEq, Repr

/-- A packet (R120): the head's fields and the payload words. `src` is the model's own note of the
sender, which the stack controller's check needs (R159). DEDUCED (log entry 28). -/
structure Packet where
  dx      : Nat
  dy      : Nat
  edge    : Bool
  kind    : Nat
  addr    : Nat
  ctr     : Nat
  tag     : Nat
  payload : List Word
  src     : Src
deriving DecidableEq, Repr

/-- What a running tile program waits for. -/
inductive Wait where
  | none
  /-- An arrival counter to reach a count (R56). -/
  | arrival (ctr : Nat) (count : BitVec 32)
  /-- A READ_REQ beyond the eighth (R123). -/
  | readSlot (p : Packet)
  /-- The next item of a stream (R361), to be written from this word address. -/
  | take (stream : Nat) (dst : Nat)
  /-- The lanes of a sparse instruction to merge their last segment (R108, R111). -/
  | lanes
deriving DecidableEq, Repr

/-- An outstanding READ_REQ of a tile (R123). -/
structure ReadOut where
  tag      : Nat
  poisoned : Bool
deriving DecidableEq, Repr

/-- A sparse descriptor (R88). -/
structure Desc where
  kind  : Nat
  fmt   : Nat
  rsv   : Nat
  brows : Nat
  bcols : Nat
  nnz   : Nat
  nseg  : Nat
  meta_ : Nat
  index : Nat
  value : Nat
deriving DecidableEq, Repr

/-- What a lane has of the segment it runs (R108): a long-accumulator partial of each output the segment adds to, or for
BF16 and FP32 the rounded products, each by its place output * k + index. -/
structure Partial where
  accs  : List (Nat × Acc)
  prods : List (Nat × BitVec 32)
deriving DecidableEq, Repr

/-- A sparse lane (R105 to R108): the segment it runs with its partial, and its unstarted segments. -/
structure Lane where
  current : Option Nat
  partial_ : Partial
  todo    : List Nat
  merged  : Nat
deriving DecidableEq, Repr

/-- A sparse dot product on the sparse path whose lanes have not finished (R104 to R109). -/
structure SparseRun where
  op    : SparseOp
  desc  : Desc
  /-- Data SRAM as the instruction read it. DEDUCED (log entry 118). -/
  mem   : Mem
  /-- STEAL as it was when the instruction began (R114). -/
  steal : Bool
  /-- Products merged so far, of a format that the fixed tree sums. -/
  prods : NatMap (BitVec 32)
deriving DecidableEq, Repr

structure Tile where
  /-- Data SRAM, 40 KiB (R50). -/
  sram    : Mem
  /-- Program SRAM, 8 KiB (R51). -/
  prog    : Mem
  hasProg : Bool
  /-- Data SRAM words (by index) that hold wrong bits, and how many (R53). -/
  bad     : NatMap Nat
  accs    : NatMap Acc
  sregs   : NatMap Word
  pc      : Nat
  run     : Run
  wait    : Wait
  ctrs    : NatMap (BitVec 32)
  arith   : Word
  seed    : Word
  step    : Word
  status  : Word
  ecc     : Word
  sparse  : Word
  sparseStat  : Word
  sparseFault : Word
  reads   : List ReadOut
  /-- Descriptor address of the instruction whose metadata passed the check unit (R97, R112). -/
  checked : Option Nat
  lanes   : List Lane
  sparseRun : Option SparseRun
  /-- Granules written since their bit was last cleared, for slot 0 and slot 1 (R371). -/
  dirty0  : BitVec 40
  dirty1  : BitVec 40
deriving DecidableEq, Repr

/-! ### The mesh (R117 to R139) and collectives (R146 to R150) -/

/-- A side of a router. -/
inductive Port where
  | north | east | south | west | local_ | controller | edge
deriving DecidableEq, Repr

/-- Where a packet is. -/
inductive Loc where
  /-- In the input buffer of the router at a physical position, having come in by a side. -/
  | router (px py : Nat) (inp : Port)
  /-- At the local port of a logical tile. -/
  | tile (x y : Nat)
  /-- At a herd controller. -/
  | herd (h : Nat)
  /-- At an edge port's block, having left the mesh by the edge link of a boundary router (R128). -/
  | edge (port link : Nat)
deriving DecidableEq, Repr

structure Flight where
  pkt      : Packet
  loc      : Loc
  poisoned : Bool
deriving DecidableEq, Repr

/-- A router (R129, R132): its table entries that differ from the generated ones (R187). -/
structure Router where
  bypass   : Bool
  herdTab  : NatMap Nat
  localTab : NatMap Nat
  edgeTab  : NatMap Nat
  bcast    : NatMap Nat
  /-- Entries of the route memory that hold wrong bits, and how many; 255: an uncorrectable one that has raised its
  fault (R53, R129). -/
  bad      : NatMap Nat
  /-- The input that each output served last on each channel, by output * 4 + channel; the broadcast unit's is
  29 (R126). -/
  served   : NatMap Nat
  discards : Nat
  /-- The handshake fault of the wait in progress has been raised (R119). -/
  timedOut : Bool
deriving DecidableEq, Repr

/-- The bypassed routers that generated route tables go around: for the entries of every herd, and those rewritten
since for one herd by a ROUTE_PATCH (R131, R135, R136). -/
structure RouteGen where
  all  : List Nat
  herd : NatMap (List Nat)
deriving DecidableEq, Repr

/-- A collective group (R146, R190). -/
structure Group where
  tree    : Nat
  chunk   : Nat
  members : List Nat
  sender  : Nat
deriving DecidableEq, Repr

/-- An FP32 subtree result held by a collectives engine (R148): `width` slices from slice `slice`. -/
structure RedNode where
  herd  : Nat
  coll  : Nat
  slice : Nat
  width : Nat
  values : List (BitVec 32)
  /-- Where the result goes: data SRAM word address, arrival counter and TAG of the subtree results. -/
  addr  : Nat
  ctr   : Nat
  tag   : Nat
  /-- It has gone to the group's other wafers (R149). -/
  sent  : Bool
deriving DecidableEq, Repr

/-- An accumulator partial of a group at the wafer's rim sender, in 64-bit words (R80, R149). -/
structure CollPart where
  group : Nat
  op    : CollOp
  words : List Word
  /-- Where the result goes: data SRAM word address, arrival counter and TAG of the partials. -/
  addr  : Nat
  ctr   : Nat
  tag   : Nat
  /-- Words that have gone to the group's other wafers. -/
  sent  : Nat
deriving DecidableEq, Repr

/-- A member's piece of an all-gather or a data broadcast, in the engine of a herd (R146). -/
structure Gather where
  herd  : Nat
  coll  : Nat
  slice : Nat
  words : List Word
  addr  : Nat
  ctr   : Nat
  tag   : Nat
  /-- Words that have gone to the group's other wafers. -/
  sent  : Nat
deriving DecidableEq, Repr

structure Mesh where
  /-- What the generated tables go around: those of physical herds regenerated since the last whole load, and the
  others'. -/
  genAll       : RouteGen
  gens         : NatMap RouteGen
  routers      : NatMap Router
  flights      : List Flight
  /-- Packets to a reserved edge port, discarded and counted (R128). -/
  edgeDiscards : Nat
  groups       : NatMap Group
  nodes        : List RedNode
  gathers      : List Gather
  /-- This wafer's combined partials of groups on more than one wafer, oldest first (R149). -/
  parts        : List CollPart
  /-- Words of a group's partials received from other wafers: wafer, group, words (R149). -/
  early        : List (Nat × Nat × List Word)
  /-- Credits that a full buffer withholds from a peer (R149). -/
  owed         : NatMap Nat
deriving DecidableEq, Repr

/-! ### Herd controllers (R140 to R145, R368 to R373) -/

inductive HState where
  | dark | loaded | running | halted | faulted | reshaping
deriving DecidableEq, Repr

/-- A BARRIER or DRAIN in progress (R142). -/
structure Barrier where
  epoch : Nat
  drain : Bool
  src   : CmdSrc
deriving DecidableEq, Repr

/-- A command waiting in a herd controller's queues (R140). -/
structure QCmd where
  src : CmdSrc
  op  : Nat
  arg : Nat
  /-- REPAIR: positions whose segments still miss after the round, with their bitmaps. -/
  still : List (Nat × Nat)
deriving DecidableEq, Repr

/-- DEDUCED (log entry 33). -/
structure Herd where
  st       : HState
  /-- Fault code of a FAULTED herd. -/
  fault    : Nat
  /-- The fault is a stack read fault that R507 lets RELEASE answer. -/
  stackFault : Bool
  queue    : List QCmd
  /-- The firmware was served last (R140: firmware and host alternate). -/
  lastFw   : Bool
  seq      : List (BitVec 32)
  /-- Position of the running sequence. -/
  seqPos   : Option Nat
  /-- The epoch timer has fired and no wait has taken it yet. -/
  timer    : Bool
  /-- The sequence has taken the epoch timer: its BARRIER and SNAPSHOT have the boundary's epoch as argument until its
  RELEASE (R369). -/
  seqEpoch : Bool
  epoch    : Nat
  barrier  : Option Barrier
  /-- Halted at the barrier of this epoch. -/
  atEpoch  : Option Nat
  /-- Halted there through DRAIN (R150, R203). -/
  drained  : Bool
  /-- Collectives that were open when its DRAIN was requested (R142). -/
  drainOpen : List Nat
  taken    : NatMap Nat
  outseq   : Nat
  hasProg  : Bool
  /-- TILE_INIT of the herd's last load (R189). -/
  init     : List Byte
  /-- Re-shaped by a partial image, and no snapshot since (R204). -/
  reshaped : Bool
  /-- Bit i: the next snapshot into slot i writes every granule (R369, R371). -/
  snapAll  : BitVec 2
  /-- TAKEN and OUTSEQ recorded at the last release (R373). -/
  relTaken : NatMap Nat
  relOutseq : Nat
  /-- An epoch of the herd has committed since that release. -/
  committed : Bool
  /-- OR of the missing-segment bitmaps of the last ROLLCALL (R414). -/
  missing  : BitVec 16
deriving DecidableEq, Repr

/-- What a snapshot holds of one tile (R370). -/
structure TileSnap where
  key    : Nat
  data   : Mem
  accs   : NatMap Acc
  arith  : Word
  seed   : Word
  step   : Word
  status : Word
  sparse : Word
  ctrs   : NatMap (BitVec 32)
  sregs  : NatMap Word
  pc     : Nat
deriving DecidableEq, Repr

/-- A snapshot slot (R370, R371): the header's epoch and valid mark, the herd part and the tiles. -/
structure Snap where
  epoch  : Nat
  valid  : Bool
  /-- The copy in the partner stack is complete (R162). -/
  copied : Bool
  tiles  : List TileSnap
  seqPos : Option Nat
  taken  : NatMap Nat
  outseq : Nat
  /-- Herd transport state: the messages received from each peer, each by stream of the transport and number, and the
  next number of each stream to each peer (R370, R375). -/
  seen   : NatMap (List (Nat × Nat))
  sendNo : NatMap (NatMap Nat)
deriving DecidableEq, Repr

/-! ### Stacks (R151 to R179, R505 to R508) -/

inductive StkState where
  | off | training | service | selfRefresh | down
deriving DecidableEq, Repr

/-- What a request asks of a stack controller (R155, R462). -/
inductive ReqKind where
  | read
  | write (bytes : List Byte)
  /-- A host access through BAR4, which reads, or writes, bytes from the request's address on. -/
  | hostRead (len : Nat)
  | hostWrite (bytes : List Byte)
deriving DecidableEq, Repr

/-- A request accepted by a stack controller (R155, R159): its source, the edge link or block port that it came by
(R164), its first byte and its lines. -/
structure StkReq where
  src     : Src
  input   : Nat
  kind    : ReqKind
  addr    : Nat
  lines   : Nat
  dst     : Nat
  ctr     : Nat
  tag     : Nat
deriving DecidableEq, Repr

/-- What waits to be copied to the partner stack (R162): a line, or the writes of a snapshot. -/
inductive CopyW where
  | line (l : Nat) (bytes : List Byte)
  | snap (key : Nat)
deriving DecidableEq, Repr

/-- A stop of function 3 (R171, R476). -/
structure StkStop where
  /-- 0 after cold training, 1 before a retraining. -/
  kind   : Nat
  ch     : Nat
  why    : RetrainWhy
  failed : BitVec 32
deriving DecidableEq, Repr

structure Stk where
  mem      : Mem
  /-- Indexes of uncorrectable lines. -/
  bad      : List Nat
  /-- Lines with an error that the controller code corrects, and that on-die ECC corrects (R166). -/
  corr     : List Nat
  odie     : List Nat
  st       : StkState
  /-- Down channels, kept in the always-on domain (R508). -/
  chDown   : BitVec 32
  /-- Those of them that the host declared down (R170). -/
  chHost   : BitVec 32
  temp     : Nat
  /-- The temperature at the last training of all channels, and at the last of one channel since (R169). -/
  trainTemp : Nat
  chTemp   : NatMap Nat
  /-- Device times, in ns, of the last controller corrections of each channel (R169). -/
  corrAt   : NatMap (List Nat)
  /-- Worst eye margin of the last training in 1/64 UI (R476). -/
  margin   : Nat
  retrainQ : List (Nat × RetrainWhy)
  retraining : Option Nat
  lastCh   : Nat
  reqs     : List StkReq
  /-- The row that each bank holds open, and how many requests it has served since it was opened (R164). -/
  openRows : NatMap Nat
  hits     : NatMap Nat
  /-- The edge link or block port that was served last (R164). -/
  served   : Option Nat
  /-- Writes to mirrored regions whose copy has not landed (R162, R163). -/
  copies   : List CopyW
  scrubPos : Nat
  /-- The refresh interval in force is halved (R152). -/
  hot      : Bool
  /-- Refreshes and refresh-management commands served (R152). -/
  refreshes : Nat
  stops    : List StkStop
  /-- Channels whose retraining the host deferred, oldest first (R476). -/
  deferred : List (Nat × RetrainWhy)
  /-- Poisoned reads kept to be served again on RELEASE (R507). -/
  poisoned : List StkReq
deriving DecidableEq, Repr

/-- A region of a partition map (R157), base and size in units of 64 MiB. -/
structure Region where
  typ    : Nat
  mirror : Bool
  shared : Bool
  copyOf : Nat
  base   : Nat
  size   : Nat
deriving DecidableEq, Repr

/-- A partition map (R157): home stack of each herd, regions of each stack. -/
structure PMap where
  home    : List Nat
  regions : List (List Region)
deriving DecidableEq, Repr

/-! ### The image loader (R180 to R207) -/

inductive Phase where
  | idle | verify | commit | broadcast | herdLoad | done
deriving DecidableEq, Repr

/-- A section of an image (R182). -/
structure Sect where
  typ     : Nat
  scope   : Nat
  inst    : Nat
  payload : List Byte
  crc     : BitVec 32
deriving DecidableEq, Repr

/-- An image that VERIFY has accepted (R193). -/
structure Image where
  whole   : Bool
  svn     : Nat
  slot    : Nat
  advance : Bool
  autoRelease : Bool
  digest  : BitVec 512
  /-- Target herds of a partial image. -/
  targets : List Nat
  sects   : List Sect
  /-- The header, the section table and the signature block, as staged. -/
  head    : List Byte
  table   : List Byte
  sig     : List Byte
deriving DecidableEq, Repr

/-- A section of a resident copy, at an offset from the copy's start. -/
structure ResSect where
  typ   : Nat
  scope : Nat
  inst  : Nat
  off   : Nat
  size  : Nat
  crc   : BitVec 32
deriving DecidableEq, Repr

/-- A herd's resident entry in its home stack's copy: the offset of its validity word, its length and its sections (R201).
-/
structure ResEntry where
  off   : Nat
  len   : Nat
  sects : List ResSect
deriving DecidableEq, Repr

/-- The committed whole image (R197, R207). -/
structure Committed where
  digest : BitVec 512
  svn    : Nat
  slot   : Nat
  role   : Nat
  index  : Nat
deriving DecidableEq, Repr

/-- DESIGN CHOICE (log entry 66). -/
structure Img where
  phase     : Phase
  loading   : Option Image
  committed : Option Committed
  /-- Where the wafer and port sections lie in every stack's resident copy, and where its herd entries begin. -/
  resident  : List ResSect
  fixed     : Nat
  /-- The resident entries, by herd. -/
  herdRes   : NatMap ResEntry
  /-- The partial load has put its targets in RESHAPING (R204). -/
  shaped    : Bool
  /-- The ports whose MAC_CONFIG is in effect (R210). -/
  ports     : BitVec 16
  /-- An image has been committed since the last cold reset (R192). -/
  everCommitted : Bool
deriving DecidableEq, Repr

/-- The one-time fuses (R192). -/
structure Fuses where
  slot0   : Option (BitVec 512)
  slot1   : Option (BitVec 512)
  slot2   : Option (BitVec 512)
  slot3   : Option (BitVec 512)
  revoked : BitVec 4
  /-- Thermometer field: the count of its set bits is MIN_SVN. -/
  thermo  : BitVec 64
deriving DecidableEq, Repr

/-- Entries of no herd. -/
def ResEntry.none : ResEntry := { off := 0, len := 0, sects := [] }

/-! ### The management island (R186, R387) -/

/-- A management core, as it starts: its program counter and register a0. What its program does after that comes as operands.
DESIGN CHOICE (log entry 47). -/
structure MgmtCore where
  pc : Word
  a0 : Word
deriving DecidableEq, Repr

/-- The management island's memory, from address 0, and its cores, none before they start. -/
structure Mgmt where
  mem   : Mem
  cores : List MgmtCore
deriving DecidableEq, Repr

def Mgmt.reset : Mgmt := { mem := [], cores := [] }

/-- The four cores at address 0 with their core numbers in a0 (R186). -/
def Mgmt.start (m : Mem) : Mgmt :=
  { mem := m, cores := (List.range 4).map (fun n => { pc := 0, a0 := BitVec.ofNat 64 n }) }

/-! ### Frame MACs (R208 to R240) -/

/-- A received frame with what the MAC has learnt of it (R212 to R218, R231, R248, R324). -/
structure Frame where
  id       : Nat
  /-- Stored bytes, at most MAX_LEN. -/
  bytes    : List Byte
  len      : Nat
  /-- Length as stored (R231). -/
  slen     : Nat
  queue    : Nat
  prio     : Nat
  tags     : Nat
  vid0     : Nat
  vid1     : Nat
  etype    : Nat
  ts       : BitVec 80
  fcsErr   : Bool
  oversize : Bool
  pcsErr   : Bool
  trunc    : Bool
  /-- The queue whose cells it holds, how many in all and how many of its reserve (R222). -/
  cellQ    : Nat
  cells    : Nat
  /-- REASON of R231 when it came through a DEST 1 queue. -/
  reason   : Nat
deriving DecidableEq, Repr

/-- What becomes of the frame being received. -/
inductive RxWay where
  | dropDa | control | ht | ptp | queued | overflow | disabled
deriving DecidableEq, Repr

/-- How a DEST 1 frame fares in its engine until its verdict (R47, R242 to R245, R281, R286). -/
inductive Score where
  /-- Still in a parse context. -/
  | parsing
  /-- Its vector was handed to evaluation. -/
  | handed
  /-- A reply was built. -/
  | replied
  /-- Goes to the fallback queue with this REASON. -/
  | fallback (reason : Nat)
  /-- Not a DEST 1 frame, or interrupted. -/
  | none
deriving DecidableEq, Repr

structure RxNow where
  frame : Frame
  way   : RxWay
  dest1 : Bool
deriving DecidableEq, Repr

/-- A received pause or PFC frame: which priorities, their quanta (R227). -/
structure PauseIn where
  mask   : BitVec 8
  quanta : List Nat
deriving DecidableEq, Repr

/-- A frame waiting to be sent (R228, R229). -/
structure TxFrame where
  bytes  : List Byte
  /-- 0 none, 1 two-step, 2 one-step (R326). -/
  tsMode : Nat
  tsId   : BitVec 16
  ref    : Word
deriving DecidableEq, Repr

/-- What waits in the herd transport class of a MAC: a reply frame of a stream (R364), or a message (R229). -/
inductive HtTx where
  | frame (f : TxFrame)
  | msg (m : HtMsg)
deriving DecidableEq, Repr

/-- DEDUCED (log entry 76). -/
structure MacSt where
  up       : Bool
  training : Bool
  /-- Declared down by the host (R417). -/
  down     : Bool
  /-- The link was up and was lost: LINK_RETRAIN follows its retraining (R230). -/
  lost     : Bool
  /-- Training failed; the retry of R405 is due after 1 s. -/
  retry    : Bool
  rx       : Option RxNow
  queues   : NatMap (List Frame)
  /-- Cells held against each queue (R222). -/
  used     : NatMap Nat
  ctl      : List PauseIn
  /-- Paused priorities and their quanta (R227). -/
  paused   : NatMap Nat
  /-- Priorities this MAC asserts (R225). -/
  xoff     : BitVec 8
  /-- Flow-control frames to send: mask and quanta (R226). -/
  fcOut    : List (BitVec 8 × Nat)
  ht       : List HtTx
  /-- A frame is being sent (R229, R230). -/
  sending  : Bool
  nextRing : Nat
  nextId   : Nat
  /-- Frames past their tail that wait for their engine's decision. -/
  held     : List Frame
deriving DecidableEq, Repr

/-! ### Pronghorn engines (R241 to R293) -/

/-- A 32-bit value with its ABSENT flag (R247). -/
structure PVal where
  v      : BitVec 32
  absent : Bool
deriving DecidableEq, Repr

/-- A parse context (R242, R247). -/
structure Ctx where
  frame : Frame
  /-- The tail has arrived. -/
  tail  : Bool
  ens   : Nat
  pc    : Nat
  cur   : BitVec 32
  regs  : NatMap PVal
  slots : NatMap PVal
deriving DecidableEq, Repr

/-- A feature vector handed to evaluation (R254). -/
structure Vec where
  frame : Frame
  ens   : Nat
  bins  : List Nat
deriving DecidableEq, Repr

/-- A tree of an ensemble (R271, R272). -/
structure Tree where
  depth  : Nat
  nodes  : List Nat
  leaves : List (BitVec 32)
deriving DecidableEq, Repr

/-- A resident ensemble (R273, R292). -/
structure Ens where
  nout     : Nat
  fixed    : Bool
  frac     : Nat
  trees    : List Tree
  base     : List (BitVec 32)
  template : List Byte
deriving DecidableEq, Repr

/-- A built reply (R283, R285, R286). -/
structure Reply where
  bytes  : List Byte
  seq    : BitVec 32
  frameId : Nat
  slot   : Nat
  tags   : Nat
  /-- It must not start before a good verdict (R220, R288). -/
  hold   : Bool
  /-- The verdict, once known. -/
  good   : Option Bool
  /-- Counted in TX_PAUSED_REPLY. -/
  paused : Bool
  /-- Built by the Ibex streamer (R297). -/
  ibex   : Bool
deriving DecidableEq, Repr

structure Prh where
  ctxs    : NatMap Ctx
  handed  : List Vec
  ens     : NatMap Ens
  seq     : BitVec 32
  replies : List Reply
  /-- Replies whose first byte entered the datapath before the verdict. -/
  started : List Reply
  /-- Retract frames waiting, and whether they were counted in TX_PAUSED_REPLY (R229, R287, R288). -/
  retracts : List (List Byte × Bool)
  /-- Where each DEST 1 frame stands. -/
  scores  : List (Nat × Score)
deriving DecidableEq, Repr

/-! ### The Ibex streamer (R294 to R313) -/

inductive MState where
  | none | ready | absent | validating
deriving DecidableEq, Repr

structure Shard where
  stack : Nat
  addr  : Nat
  size  : Nat
  crc   : BitVec 32
deriving DecidableEq, Repr

structure Model where
  st       : MState
  ntree    : Nat
  nout     : Nat
  fixed    : Bool
  frac     : Nat
  ring     : Nat
  shards   : List Shard
  base     : List (BitVec 32)
  template : List Byte
deriving DecidableEq, Repr

/-- A request in the request buffer (R294): its vector, or none when it cannot be scored. -/
structure IbxReq where
  mac    : Nat
  frame  : Frame
  bins   : Option (List Nat)
deriving DecidableEq, Repr

structure Batch where
  model : Nat
  vecs  : List IbxReq
deriving DecidableEq, Repr

structure Ibx where
  opened    : List Batch
  closed    : List Batch
  streaming : Option Batch
  /-- The batch in progress lost its tree store (R300). -/
  lost      : Bool
  models    : NatMap Model
  /-- Stops of R298 that no RUN and no timeout has answered. -/
  stops     : Nat
  /-- The model whose closed batch a RUN or the timeout has named next. -/
  chosen    : Option Nat
  lastModel : Nat
  seq       : BitVec 32
deriving DecidableEq, Repr

/-! ### The time unit (R314 to R350) -/

/-- A command of R319 that has not landed. -/
inductive TimeCmd where
  | step (adj : Word)
  | slew (adj : Word)
  | load (hi : BitVec 16) (adj : Word)
  | cancel
  | ack
deriving DecidableEq, Repr

/-- An event of the time unit's event FIFO (R334): a frame of the management time path, by its MAC, or a PPS_IN capture,
16. -/
structure TimeEvent where
  time : BitVec 80
  src  : Nat
deriving DecidableEq, Repr

structure TimeU where
  t        : BitVec 112
  rem      : Int
  cmds     : List TimeCmd
  nowHi    : BitVec 16
  /-- NEXT of PPS_OUT (R332, R344). -/
  next     : BitVec 80
  nextHi   : BitVec 16
  pulse    : Bool
  /-- Ticks since the pulse began (R332). -/
  pulseAge : Nat
  tsq      : NatMap (List (BitVec 16 × BitVec 80))
  refGood  : Bool
  stuck    : Bool
  /-- Servo correction kept while stopped under R321. -/
  stop     : Option ServoFix
  trimDefault : Bool
  /-- Ticks since the last accepted PPS_IN edge (R330); none before the first. -/
  sincePps : Option Nat
  /-- An accepted PPS_IN edge whose update point is still to come (R321). -/
  edge     : Bool
  /-- The management time path: the frames of every MAC with PTP_MGMT (R217, R334). -/
  path     : List (Nat × Frame)
  events   : List TimeEvent
  servo    : Nat
  servoMac : Nat
  stepLimit : Word
deriving DecidableEq, Repr

/-! ### Journal and epochs (R351 to R375, R384 to R395) -/

structure Stream where
  kind     : Nat
  target   : Nat
  arg      : Nat
  maxItem  : Nat
  replyMac : Nat
deriving DecidableEq, Repr

structure StreamSt where
  nextSeq : Nat
  retired : Nat
  /-- RETIRED before the last commit of its group. -/
  before  : Nat
  /-- Stops delivering at this sequence number (R388). -/
  lostAt  : Option Nat
deriving DecidableEq, Repr

/-- A log record (R366) at log line `pos` of its pair, `lines` lines long. -/
structure Rec where
  typ     : Nat
  flags   : Nat
  stream  : Nat
  herd    : Nat
  seq     : Nat
  time    : Word
  src     : Nat
  tag     : Word
  epoch   : Nat
  payload : List Byte
  pos     : Nat
  lines   : Nat
deriving DecidableEq, Repr

/-- An item on its way to acceptance (R356). -/
structure Item where
  stream  : Nat
  src     : Nat
  tag     : Word
  payload : List Byte
  reinject : Option Nat
  /-- Submit ring of a HOST item. -/
  ring    : Option Nat
  /-- Sending herd and OUTSEQ of a HERD or WAFER item. -/
  out     : Option (Nat × Nat)
  /-- Peer and transport sequence of a WAFER item. -/
  peer    : Option (Nat × Nat)
deriving DecidableEq, Repr

/-- The state of a stream in a control block (R365). -/
structure CtlStream where
  nextSeq : Nat
  retired : Nat
  /-- Log line of the oldest unretired record. -/
  oldest  : Option Nat
deriving DecidableEq, Repr

/-- A control block (R365): it holds SENT and the highest OUTSEQ accepted for each herd, and what R373 records of its
last release. -/
structure Ctl where
  /-- It has been written whole and not been lost since. -/
  valid   : Bool
  epoch   : Nat
  head    : Nat
  tail    : Nat
  /-- CRC-32C of the header. -/
  crc     : BitVec 32
  streams : NatMap CtlStream
  herds   : NatMap (Nat × Nat)
  release : NatMap (NatMap Nat × Nat)
deriving DecidableEq, Repr

/-- A journal write that waits to go to both stacks of a pair (R161, R365): a log line, or the lines of a control block
that are still to be written. -/
inductive JLine where
  | log (line : Nat) (bytes : List Byte)
  | ctl (blockA : Bool) (c : Ctl) (left : Nat)
deriving DecidableEq, Repr

/-- A mirror pair's log (R360, R365). Line numbers count on from 0 without wrapping. -/
structure Pair where
  head     : Nat
  tail     : Nat
  /-- Items that reached the controller and have no record yet. -/
  arriving : List Item
  /-- Lines to be written to both stacks. -/
  lineQ    : List JLine
  /-- Records written or being written, and not yet accepted; a mark of the controller's own has no item. -/
  writing  : List (Rec × Option Item)
  /-- Accepted records and marks still in the log. -/
  recs     : List Rec
  full     : Bool
  ctlA     : Ctl
  ctlB     : Ctl
  lastA    : Bool
deriving DecidableEq, Repr

/-- An output waiting in the journal controller (R363). -/
structure OutW where
  herd   : Nat
  outseq : Nat
  out    : HerdOut
  /-- It has left, and SENT is still to be raised. -/
  left   : Bool
deriving DecidableEq, Repr

/-- Herd transport state towards a peer wafer (R45, R46, R355). DEDUCED (log entry 77). -/
structure Peer where
  /-- The next number of each stream of the transport (R45); 1 where none is listed. -/
  txSeq   : NatMap Nat
  /-- Unacknowledged messages and the MAC each was sent on. -/
  unacked : List (Nat × HtMsg)
  /-- Messages that the receiver holds: stream of the transport and number. -/
  seen    : List (Nat × Nat)
  credits : Nat
  /-- Epoch whose commit the peer has reported (R375). -/
  reported : Nat
deriving DecidableEq, Repr

structure Jrn where
  streams   : NatMap Stream
  sst       : NatMap StreamSt
  pairs     : NatMap Pair
  sent      : NatMap Nat
  accepted  : NatMap Nat
  /-- SRC detail of each accepted item of a RIM stream, by stream * 2^64 + sequence number (R364). -/
  srcs      : NatMap Nat
  outs      : List OutW
  epoch     : Nat
  /-- Newest committed epoch of each recovery group, and the one before it. -/
  committed : NatMap Nat
  before    : NatMap Nat
  /-- Persistent granules per tile and recovery group of each herd that differ from G = 20, GROUP 0. -/
  granules  : NatMap Nat
  group     : NatMap Nat
  /-- Retention area of each herd: its base and size in 64 MiB units (R353). -/
  retain    : NatMap (Nat × Nat)
  htAddr    : BitVec 128
  htPort    : Nat
  peers     : NatMap Peer
  /-- Members of the rack, and workers that wait to join or to leave (R384). -/
  members   : List Nat
  joining   : List Nat
  leaving   : List Nat
  rackEpoch : Nat
  /-- The manager has been silent for 2 s (R386). -/
  silent    : Bool
  /-- Retained collective messages, each with the epoch in which its receiver took it, once that is known (R375). -/
  retained  : List (Option Nat × HtMsg)
  /-- No new item is accepted (R445). -/
  closed    : Bool
  /-- A replay stop of R382 waits for this group. -/
  stop      : Option Nat
  /-- Records for the export ring that wait for room (R389, R470). -/
  exportQ   : List (List Byte)
deriving DecidableEq, Repr

/-! ### Recovery (R376 to R383, R396 to R398) -/

inductive RecSt where
  | idle | detect | isolate | decide | remap | move | reload | restore | replay | resume | exhausted
deriving DecidableEq, Repr

/-- The spare choice of R378. -/
inductive Choice where
  | rowSkip | herdRow | move
deriving DecidableEq, Repr

/-- DEDUCED (log entry 88). -/
structure Flt where
  st       : RecSt
  herd     : Nat
  group    : Nat
  /-- Failed elements that DECIDE has still to spare. -/
  failed   : List Failed
  /-- Herds of the group to reload. -/
  reload   : List Nat
  choice   : Option Choice
  /-- A DECIDE stop waits (R382). -/
  stop     : Bool
  /-- Groups that HOLD has left as ISOLATE left them (R382). -/
  held     : List Nat
  /-- Faults of other groups that wait in DETECT. -/
  queue    : List (Nat × Option Failed)
  /-- Reserve rows in use or failed. -/
  usedRows : List Nat
  /-- TAKEN and OUTSEQ of the group's herds at the fault (R377). -/
  atFault  : List (Nat × NatMap Nat × Nat)
  /-- A planned move requested by the host (R384). -/
  planned  : Option Nat
  /-- The reserve herd's row that a move has made ready, until ROUTE_PATCH has been applied (R136, R379). -/
  moveTo   : Option Nat
  /-- What tiles of reserve herds that this recovery has brought into service miss of the firmware, until RELOAD (R416). -/
  missed   : List (Nat × Nat)
  /-- A herd reset began or joined the recovery in progress (R480). -/
  byReset  : Bool
deriving DecidableEq, Repr

/-! ### Bring-up (R399 to R427) -/

/-- The start-up map of one physical herd (R408). -/
structure HMap where
  skipRow  : Nat
  /-- Rows that skip a tile other than the spare. -/
  skipTile : NatMap Nat
  retired  : Bool
deriving DecidableEq, Repr

/-- The map store of the always-on domain (R411). -/
structure MapStore where
  maps   : NatMap HMap
  /-- Physical herd of each logical herd that has moved. -/
  moved  : NatMap Nat
  absent : List Nat
deriving DecidableEq, Repr

inductive BruStop where
  | remap
  | repair (round missing : Nat)
  | serdes (m : Nat) (trained : Bool)
  | holdRelease
  | stopAt (stage : Nat)
deriving DecidableEq, Repr

/-- DEDUCED (log entry 92). -/
structure Bru where
  /-- STAGE of R399; 7 once DONE. -/
  stage     : Nat
  warm      : Bool
  waitImage : Bool
  frozen    : Bool
  map       : MapStore
  stops     : List BruStop
  /-- Elements failed in BIST, marks of the script or the host, retired tiles. -/
  failed    : List Failed
  failedHerds : List Nat
  /-- The map of R408, R409 computed and not yet frozen. -/
  draft     : Option MapStore
  /-- The number of the last broadcast; the first has number 0. -/
  bcastNo   : Nat
  bcastOn   : Bool
  /-- The firmware of the last broadcast: every powered tile holds it in program SRAM but for its missing
  segments (R412, R416). -/
  fw        : List Byte
  /-- Segments of a herd controller's copy of it that differ from what was sent (R413). -/
  copies    : List FwSeg
  /-- The management island, once its cores have started (R186, R399). -/
  mgmt      : Mgmt
  /-- Tiles that miss segments: key of the physical position, bitmap. -/
  missing   : List (Nat × Nat)
  round     : Nat
  /-- Device time at the release of the reset, and ELAPSED_MS once DONE has held it. -/
  since     : Nat
  elapsed   : Nat
  /-- Bring-up has reached DONE since the last cold reset (R419). -/
  everDone  : Bool
  /-- Requests of BRU_CTRL and the script for the start in progress. -/
  wantBist  : Bool
  wantTrain : BitVec 16
  hold      : Bool
  stopAt    : List Nat
  bistRecords : Nat
  /-- A whole load at run time has left its herds LOADED, and their release is due (R197). -/
  release   : Bool
  /-- TRAIN has trained what it trains; it ends when no stack waits at a stop (R171, R404). -/
  trained   : Bool
deriving DecidableEq, Repr

/-! ### Power, cooling, calibration (R428 to R459) -/

/-- DEDUCED (log entry 95). -/
structure Dom where
  on     : Bool
  floor  : Nat
  ceil   : Nat
  prio   : Nat
  weight : Nat
  vmax   : Nat
  /-- The request latched last (R434). -/
  req    : Nat
  /-- The grant in force, and the one that the next boundary puts in force (R434). -/
  grant  : Nat
  next   : Nat
  /-- The thermal ceiling (R440). -/
  capd   : Nat
  volt   : Nat
  temp   : Nat
  throttle : Bool
deriving DecidableEq, Repr

structure Pwr where
  doms     : List Dom
  ptr      : Nat
  budgetW  : Nat
  deratedW : Nat
  railA    : Nat
  tTarget  : Nat
  tAlert   : Nat
  tHyst    : Nat
  stkAlert : Nat
  thermStep : Nat
  ramp     : Nat
  flowK    : Nat
  tempF0   : Nat
  tempSlope : Nat
  /-- Epochs in a row in which requests exceeded, or stayed within, the budget (R446). -/
  overReq  : Nat
  underReq : Nat
  /-- Epochs in a row in which the measured power exceeded CAP_W (R436). -/
  overCap  : Nat
  armed    : Bool
  stop     : Bool
  vdistLow : Bool
  alertLow : Bool
  alertOut : Bool
  alertSecs : Nat
  derated  : Bool
  goodGates : Nat
  gates    : Nat
  lost     : BitVec 3
  tripped  : Bool
  coolLow  : Bool
  quiesce  : Bool
  waitCool : Bool
  calState : Nat
  /-- Temperature readings have 10 degrees added (R448). -/
  calDefault : Bool
  /-- TEMP_OFF of the block read last, in quarters of a degree; nothing on the defaults (R447). -/
  offsets  : List Byte
  flash    : Mem
  /-- An overwrite that did not finish has left a corrupt block (R449), whose bytes are open: the draw number
  they are drawn with. -/
  flashBad : Option Nat
  wbuf     : Mem
  calBusy  : Bool
deriving DecidableEq, Repr

/-! ### Host interface (R460 to R493) -/

/-- A directory record (R464). -/
structure Ring where
  base  : Nat
  log2  : Nat
  en    : Bool
  irq   : Bool
  vec   : Nat
  esize : Nat
  mac   : Nat
  prod  : BitVec 32
  cons  : BitVec 32
deriving DecidableEq, Repr

structure HostIf where
  /-- PD91 is powered and the PCIe link is up (R400). -/
  linkUp  : Bool
  bar2    : Mem
  /-- Key: kind * 4096 + number (submit 0, receive 1, completion 2, transmit 3, event 4). -/
  rings   : NatMap Ring
  /-- Advances and records that ask for a message (R472). -/
  msixQ   : List MsixSrc
  /-- Sources within 1 us of their last message, and whether a message is held back. -/
  limited : List (MsixSrc × Bool)
  /-- Reply discarded by a watchdog restart or expiry: mailboxes with a request the firmware holds. -/
  mailLen : NatMap Nat
  sideAddr : BitVec 32
  /-- The latest error or fatal record (R481). -/
  severe  : List Byte
  /-- Watchdog restarts since cold reset (R474). -/
  restarts : Nat
  lastCause : Nat
  /-- A harvest stop waits (R478). -/
  harvestStop : Bool
deriving DecidableEq, Repr

/-- The test port (R482). DEDUCED (log entry 53). -/
structure Jtag where
  ir    : Byte
  chain : List Bool
  /-- The pins are driven from the chain (EXTEST), held (CLAMP) or floated (HIGHZ). -/
  pins  : Nat
deriving DecidableEq, Repr

/-! ### Events and outputs -/

/-- A raised event (R473), waiting for its record to be written. -/
structure Event where
  code   : Nat
  stop   : Bool
  source : Nat
  loc    : Nat
  stream : Option (Nat × Nat)
  time   : Word
  detail : Word
deriving DecidableEq, Repr

/-- What leaves the wafer. -/
inductive Out where
  | frame (mac : Nat) (bytes : List Byte)
  | msix (vec : Nat)
  | read (bytes : List Byte)
  /-- A completion with the EP bit set (R506). -/
  | poisoned (bytes : List Byte)
  | side (bytes : List Byte)
  | hostWrite (addr : Nat) (bytes : List Byte)
  /-- A read of no bytes, which orders the writes before it (R389). -/
  | hostProbe (addr : Nat)
  | ht (mac : Nat) (msg : HtMsg)
  | pps (high : Bool)
  | alertPin (low : Bool)
  | jtag (bits : List Bool)
deriving DecidableEq, Repr

/-- A rate limiter of R257: a record was posted within the last second, what has happened since, and the
detail of the latest. DEDUCED (log entry 80). -/
structure Lim where
  src    : ReportSrc
  count  : Nat
  detail : Nat
deriving DecidableEq, Repr

/-- DESIGN CHOICE (log entry 7). -/
structure Io where
  events : List Event
  out    : List Out
  lims   : List Lim
  /-- The model's own draw counter for free values. -/
  draws  : Nat
deriving DecidableEq, Repr

/-! ### The state -/

structure State where
  regs    : RegFile
  /-- The RWL lock (R199). -/
  locked  : Bool
  tiles   : NatMap Tile
  herds   : NatMap Herd
  mesh    : Mesh
  stks    : NatMap Stk
  snaps   : NatMap Snap
  pmap    : Option PMap
  img     : Img
  fuses   : Fuses
  macs    : NatMap MacSt
  prhs    : NatMap Prh
  ibx     : Ibx
  time    : TimeU
  jrn     : Jrn
  flt     : Flt
  bru     : Bru
  pwr     : Pwr
  host    : HostIf
  jtag    : Jtag
  io      : Io
  /-- The commands that wait, first in first out. -/
  pending : List Instr
deriving DecidableEq, Repr

/-! ### Reset values -/

def Acc.zero : Acc := { a := 0, nan := false, pinf := false, ninf := false, win := false }

/-- A tile after RESET_TILES of an unloaded herd: data SRAM 0, registers at their reset values
(R57, R114 to R116, R142). DESIGN CHOICE (log entry 2). -/
def Tile.reset : Tile :=
  { sram := [], prog := [], hasProg := false, bad := [], accs := [], sregs := [], pc := 0
    run := .fresh, wait := .none, ctrs := [], arith := 0, seed := 0, step := 0, status := 0
    ecc := 0, sparse := 0x8A0, sparseStat := 0, sparseFault := 0, reads := [], checked := none
    lanes := [], sparseRun := none, dirty0 := 0, dirty1 := 0 }

def Router.reset : Router :=
  { bypass := false, herdTab := [], localTab := [], edgeTab := [], bcast := [], bad := [], served := []
    discards := 0, timedOut := false }

def RouteGen.none : RouteGen := { all := [], herd := [] }

def Mesh.reset : Mesh :=
  { genAll := RouteGen.none, gens := [], routers := [], flights := [], edgeDiscards := 0, groups := [], nodes := []
    gathers := [], parts := [], early := [], owed := [] }

def Herd.reset : Herd :=
  { st := .dark, fault := 0, stackFault := false, queue := [], lastFw := false, seq := []
    seqPos := none, timer := false, seqEpoch := false, epoch := 0, barrier := none, atEpoch := none
    drained := false, drainOpen := [], taken := [], outseq := 0, hasProg := false, init := [], reshaped := false, snapAll := 3, relTaken := []
    relOutseq := 0, committed := false, missing := 0 }

def Snap.empty : Snap :=
  { epoch := 0, valid := false, copied := false, tiles := [], seqPos := none, taken := [], outseq := 0
    seen := [], sendNo := [] }

/-- DESIGN CHOICE (log entry 2). -/
def Stk.reset : Stk :=
  { mem := [], bad := [], corr := [], odie := [], st := .off, chDown := 0, chHost := 0, temp := 0, trainTemp := 0
    chTemp := [], corrAt := [], margin := 0, retrainQ := [], retraining := none
    lastCh := 0, reqs := [], openRows := [], hits := [], served := none, copies := [], scrubPos := 0, hot := false
    refreshes := 0, stops := [], deferred := [], poisoned := [] }

def Img.reset : Img :=
  { phase := .idle, loading := none, committed := none, resident := [], fixed := 0, herdRes := []
    shaped := false, ports := 0, everCommitted := false }

/-- The fuses of a blank part (R192, caution). DESIGN CHOICE (log entry 2). -/
def Fuses.blank : Fuses :=
  { slot0 := none, slot1 := none, slot2 := none, slot3 := none, revoked := 0, thermo := 0 }

def MacSt.reset : MacSt :=
  { up := false, training := false, down := false, lost := false, retry := false, rx := none, queues := []
    used := [], ctl := [], paused := [], xoff := 0, fcOut := [], ht := [], sending := false, nextRing := 0
    nextId := 0, held := [] }

def Prh.reset : Prh :=
  { ctxs := [], handed := [], ens := [], seq := 0, replies := [], started := [], retracts := []
    scores := [] }

def Ibx.reset : Ibx :=
  { opened := [], closed := [], streaming := none, lost := false, models := [], stops := 0
    chosen := none, lastModel := 0, seq := 0 }

/-- Cold reset sets T to 0 (R314). -/
def TimeU.reset : TimeU :=
  { t := 0, rem := 0, cmds := [], nowHi := 0, next := 0, nextHi := 0, pulse := false, pulseAge := 0, tsq := []
    refGood := false, stuck := false, stop := none, trimDefault := false
    sincePps := none, edge := false, path := [], events := [], servo := 0, servoMac := 0, stepLimit := 0 }

/-- NEXT_SEQ starts at 1 after a cold reset (R359). -/
def StreamSt.reset : StreamSt := { nextSeq := 1, retired := 0, before := 0, lostAt := none }

def Ctl.empty : Ctl :=
  { valid := false, epoch := 0, head := 0, tail := 0, crc := 0, streams := [], herds := [], release := [] }

def Pair.reset : Pair :=
  { head := 0, tail := 0, arriving := [], lineQ := [], writing := [], recs := [], full := false
    ctlA := Ctl.empty, ctlB := Ctl.empty, lastA := false }

def Peer.reset : Peer := { txSeq := [], unacked := [], seen := [], credits := 0, reported := 0 }

def Jrn.reset : Jrn :=
  { streams := [], sst := [], pairs := [], sent := [], accepted := [], srcs := [], outs := [], epoch := 0
    committed := [], before := [], granules := [], group := [], retain := [], htAddr := 0, htPort := 0, peers := [], members := []
    joining := [], leaving := [], rackEpoch := 0, silent := false, retained := [], closed := false
    stop := none, exportQ := [] }

def Flt.reset : Flt :=
  { st := .idle, herd := 0, group := 0, failed := [], reload := [], choice := none, stop := false
    held := [], queue := [], usedRows := [], atFault := [], planned := none, moveTo := none, missed := []
    byReset := false }

def HMap.plain : HMap := { skipRow := 32, skipTile := [], retired := false }

def MapStore.empty : MapStore := { maps := [], moved := [], absent := [] }

/-- DEDUCED (log entry 69). -/
def Bru.reset : Bru :=
  { stage := 0, warm := false, waitImage := false, frozen := false
    map := MapStore.empty, stops := [], failed := [], failedHerds := [], draft := none, bcastNo := 255
    fw := [], copies := [], mgmt := Mgmt.reset, bcastOn := false, missing := [], round := 0, since := 0, elapsed := 0, everDone := false, wantBist := false, wantTrain := 0
    hold := false, stopAt := [], bistRecords := 0, release := false, trained := false }

/-- Default policy of a domain by its class (R431). -/
def Dom.default (d : Nat) : Dom :=
  let mk (floor ceil prio : Nat) : Dom :=
    { on := false, floor := floor, ceil := ceil, prio := prio, weight := 1, vmax := 9, req := 0
      grant := 0, next := 0, capd := ceil, volt := 0, temp := 0, throttle := false }
  if d < 66 then mk 160 1600 3
  else if d < 82 then mk 40 40 0
  else if d < 90 then mk 360 480 1
  else if d = 90 then mk 80 160 2
  else if d = 91 then mk 140 140 0
  else if d = 92 then mk 20 20 0
  else if d = 93 then mk 120 240 2
  else if d = 94 then mk 480 480 0
  else mk 40 80 2

/-- The arbiter with the defaults of R431 and R437, every switched domain off. DESIGN CHOICE (log entry 2). -/
def Pwr.reset : Pwr :=
  { doms := (List.range 96).map Dom.default, ptr := 0, budgetW := 0, deratedW := 12000
    railA := 25000, tTarget := 95, tAlert := 100, tHyst := 5, stkAlert := 95, thermStep := 16
    ramp := 400, flowK := 100, tempF0 := 1000, tempSlope := 10, overReq := 0, underReq := 0
    overCap := 0, armed := true, stop := false, vdistLow := false, alertLow := false
    alertOut := false, alertSecs := 0, derated := false, goodGates := 0
    gates := 0, lost := 0, tripped := false, coolLow := false, quiesce := false, waitCool := false
    calState := 0, calDefault := false, offsets := [], flash := [], flashBad := none, wbuf := [], calBusy := false }

/-- A cleared directory record (R464). -/
def Ring.reset : Ring :=
  { base := 0, log2 := 0, en := false, irq := false, vec := 0, esize := 0, mac := 0, prod := 0, cons := 0 }

def HostIf.reset : HostIf :=
  { linkUp := false, bar2 := [], rings := [], msixQ := [], limited := [], mailLen := []
    sideAddr := 0, severe := List.replicate 32 0, restarts := 0, lastCause := 0
    harvestStop := false }

/-- IDCODE is the instruction after a test-logic reset (R482). DESIGN CHOICE (log entry 2). -/
def Jtag.reset : Jtag := { ir := 0x01, chain := [], pins := 0 }

def Io.reset : Io := { events := [], out := [], lims := [], draws := 0 }

/-- The W1056 right after a cold reset by POR_N: nothing powered but the always-on domain, every register
at its reset value (R21, R479), a blank part's fuses and calibration flash, no command waiting.
DESIGN CHOICE (log entry 2). -/
def State.reset : State :=
  { regs := [], locked := false, tiles := [], herds := [], mesh := Mesh.reset, stks := [], snaps := []
    pmap := none, img := Img.reset, fuses := Fuses.blank, macs := [], prhs := [], ibx := Ibx.reset
    time := TimeU.reset, jrn := Jrn.reset, flt := Flt.reset, bru := Bru.reset, pwr := Pwr.reset
    host := HostIf.reset, jtag := Jtag.reset, io := Io.reset, pending := [] }

end Sys2Proof.Machine
end

