-- ==== Sys2Proof/Machine/Map.lean ====
section
/-! DEFINITION. Operations of the sparse tables and byte memories, and of lists of bytes. Every write
keeps the canonical form: keys strictly rising, no entry equal to what an unlisted key reads as. -/

namespace Sys2Proof.Machine

/-- The entry at a key, if listed. -/
def NatMap.find {α : Type} : NatMap α → Nat → Option α
  | [], _ => none
  | (k', v) :: r, k => if k' = k then some v else NatMap.find r k

/-- The entry at a key, or the table's default. -/
def NatMap.get {α : Type} (m : NatMap α) (d : α) (k : Nat) : α := (NatMap.find m k).getD d

/-- Lists a key in its place. -/
def NatMap.ins {α : Type} : NatMap α → Nat → α → NatMap α
  | [], k, v => [(k, v)]
  | (k', v') :: r, k, v =>
    if k < k' then (k, v) :: (k', v') :: r
    else if k = k' then (k, v) :: r
    else (k', v') :: NatMap.ins r k v

/-- Takes a key out. -/
def NatMap.del {α : Type} : NatMap α → Nat → NatMap α
  | [], _ => []
  | (k', v') :: r, k => if k' = k then NatMap.del r k else (k', v') :: NatMap.del r k

/-- Writes a key, leaving it unlisted when the value is the default. -/
def NatMap.put {α : Type} [DecidableEq α] (m : NatMap α) (d : α) (k : Nat) (v : α) : NatMap α :=
  if v = d then NatMap.del m k else NatMap.ins m k v

/-- Applies a function to the entry at a key. -/
def NatMap.upd {α : Type} [DecidableEq α] (m : NatMap α) (d : α) (k : Nat) (f : α → α) : NatMap α :=
  NatMap.put m d k (f (NatMap.get m d k))

/-- Applies a function to the listed entries whose key a test selects. -/
def NatMap.mapIf {α : Type} [DecidableEq α] (d : α) (sel : Nat → Bool) (f : α → α) : NatMap α → NatMap α
  | [] => []
  | (k, v) :: r => NatMap.put (NatMap.mapIf d sel f r) d k (if sel k then f v else v)

def NatMap.keys {α : Type} (m : NatMap α) : List Nat := m.map Prod.fst

def NatMap.vals {α : Type} (m : NatMap α) : List α := m.map Prod.snd

/-- Every key below a bound `k` of the rest is above `lo`, rising, and no value is the default. -/
def NatMap.okFrom {α : Type} [DecidableEq α] (d : α) : Nat → NatMap α → Bool
  | _, [] => true
  | lo, (k, v) :: r => decide (lo ≤ k) && decide (v ≠ d) && NatMap.okFrom d (k + 1) r

/-- The canonical form. -/
def NatMap.ok {α : Type} [DecidableEq α] (d : α) (m : NatMap α) : Bool := NatMap.okFrom d 0 m

/-! ### Byte memories -/

/-- The canonical form of a memory: addresses strictly rising, no listed byte 0. -/
def Memory.wf (m : Mem) : Bool := NatMap.ok (0 : Byte) m

/-- DESIGN CHOICE (log entry 4). -/
def Mem.byte (m : Mem) (a : Nat) : Byte := NatMap.get (α := Byte) m 0 a

/-- DESIGN CHOICE (log entry 4). -/
def Mem.store (m : Mem) (a : Nat) (b : Byte) : Mem := NatMap.put (α := Byte) m 0 a b

/-- Writes bytes from an address upward. -/
def Mem.write (m : Mem) : Nat → List Byte → Mem
  | _, [] => m
  | a, b :: bs => Mem.write (Mem.store m a b) (a + 1) bs

/-- Reads `n` bytes from an address. -/
def Mem.read (m : Mem) (a : Nat) : Nat → List Byte
  | 0 => []
  | n + 1 => Mem.byte m a :: Mem.read m (a + 1) n

/-- Writes `n` zero bytes. -/
def Mem.clear (m : Mem) (a n : Nat) : Mem := Mem.write m a (List.replicate n 0)

/-- The part of a memory below an address. -/
def Mem.below (m : Mem) (a : Nat) : Mem := m.filter (fun c => decide (c.1 < a))

/-- The part of a memory outside [a, b). -/
def Mem.outside (m : Mem) (a b : Nat) : Mem := m.filter (fun c => decide (c.1 < a ∨ b ≤ c.1))

/-! ### Bytes and numbers -/

/-- Little-endian value of bytes (R14). -/
def leNat : List Byte → Nat
  | [] => 0
  | b :: bs => b.toNat + 256 * leNat bs

/-- Big-endian value of bytes, network order (R14). -/
def beNat (bs : List Byte) : Nat := leNat bs.reverse

/-- `n` little-endian bytes of a number. -/
def leBytes : Nat → Nat → List Byte
  | 0, _ => []
  | n + 1, v => BitVec.ofNat 8 v :: leBytes n (v / 256)

/-- `n` bytes in network order. -/
def beBytes (n v : Nat) : List Byte := (leBytes n v).reverse

/-- Bytes [a, a + n) of a list; bytes beyond its end read as 0. -/
def slice (bs : List Byte) (a n : Nat) : List Byte :=
  let r := (bs.drop a).take n
  r ++ List.replicate (n - r.length) 0

/-- A little-endian field of `n` bytes at offset `a`. -/
def fld (bs : List Byte) (a n : Nat) : Nat := leNat (slice bs a n)

/-- Bits [hi:lo] of a number (R11). -/
def bits (v hi lo : Nat) : Nat := (v >>> lo) % 2 ^ (hi + 1 - lo)

/-- A number with bits [hi:lo] replaced. -/
def setBits (v hi lo x : Nat) : Nat :=
  v - (bits v hi lo) * 2 ^ lo + (x % 2 ^ (hi + 1 - lo)) * 2 ^ lo

def bit (v i : Nat) : Bool := v.testBit i

/-- The mask of a write of all 64 bits. -/
def fullMask : Nat := 2 ^ 64 - 1

/-- Bits of a written value merged into the present one (R19). -/
def merge (old v mask : Nat) : Nat := (old &&& (fullMask - mask)) ||| (v &&& mask)

def b2n (b : Bool) : Nat := if b then 1 else 0

/-- The least multiple of `k` at or above `n`. -/
def roundUp (n k : Nat) : Nat := (n + k - 1) / k * k

/-- ceil(n / k). -/
def ceilDiv (n k : Nat) : Nat := (n + k - 1) / k

/-- Pads with zero bytes to a multiple of `k`. -/
def padTo (k : Nat) (bs : List Byte) : List Byte :=
  bs ++ List.replicate (roundUp bs.length k - bs.length) 0

/-- Replaces the bytes from offset `a`; what would lie beyond the end is dropped. -/
def patch (bs : List Byte) (a : Nat) (new : List Byte) : List Byte :=
  let r := bs.take a ++ new ++ bs.drop (a + new.length)
  if a ≤ bs.length then r.take bs.length else bs

def nthD {α : Type} (l : List α) (i : Nat) (d : α) : α := (l[i]?).getD d

/-- Cuts bytes into records of `n` bytes, at most `k` of them. -/
def cutRecs (n : Nat) : Nat → List Byte → List (List Byte)
  | 0, _ => []
  | k + 1, bs => if n = 0 ∨ bs.length < n then [] else bs.take n :: cutRecs n k (bs.drop n)

def recsOf (n : Nat) (bs : List Byte) : List (List Byte) := cutRecs n bs.length bs

/-- Replaces element `i`. -/
def setAt {α : Type} (l : List α) (i : Nat) (x : α) : List α := l.set i x

/-- Removes element `i`. -/
def dropAt {α : Type} (l : List α) (i : Nat) : List α := l.take i ++ l.drop (i + 1)

end Sys2Proof.Machine
end

