-- ==== Sys2Proof/Machine/Sha512.lean ====
section
/-! DEFINITION. SHA-512 (FIPS 180-4), which R192, R193 and R207 name: its constants as fractions of roots of primes, and a
block as 80 steps over a window of 16 schedule words. -/

namespace Sys2Proof.Machine

/-! ### Constants -/

/-- The largest number below 2^n whose power `e` is at most `m`, found from its highest bit down. -/
def rootBelow (e m : Nat) : Nat → Nat → Nat
  | 0, r => r
  | n + 1, r => rootBelow e m n (if (r + 2 ^ n) ^ e ≤ m then r + 2 ^ n else r)

/-- The first 64 bits after the point of the root of degree `e` of a small number. -/
def rootFraction (e p : Nat) : Word := BitVec.ofNat 64 (rootBelow e (p * 2 ^ (64 * e)) 70 0)

/-- The primes below 410, of which there are 80. -/
def primesTo410 : List Nat :=
  (List.range 410).filter (fun p => decide (2 ≤ p) && (List.range p).all (fun d => decide (d < 2 ∨ p % d ≠ 0)))

/-- The constant of each step: cube roots. -/
def shaSteps : List Word := primesTo410.map (rootFraction 3)

/-- The value before the first block: square roots of the first eight primes. -/
def shaStart : List Word := (primesTo410.take 8).map (rootFraction 2)

/-! ### One block -/

/-- The exclusive or of a word rotated right by each amount of a list. -/
def rotations (l : List Nat) (x : Word) : Word := l.foldl (fun v n => v ^^^ x.rotateRight n) 0

/-- Bits of `y` where `x` has a 1, of `z` where it has a 0. -/
def bitChoice (x y z : Word) : Word := z ^^^ (x &&& (y ^^^ z))

/-- The bit that two or more of three words have. -/
def bitMajority (x y z : Word) : Word := (x &&& y) ||| (z &&& (x ||| y))

/-- A block under way: the next 16 schedule words, oldest first, and the two histories of four words, newest first. -/
structure ShaRun where
  window : List Word
  upper  : List Word
  lower  : List Word

/-- The schedule word that enters behind a window. -/
def nextWord (w : List Word) : Word :=
  let old := nthD w 1 0
  let late := nthD w 14 0
  nthD w 0 0 + nthD w 9 0 + (rotations [1, 8] old ^^^ old >>> 7) + (rotations [19, 61] late ^^^ late >>> 6)

/-- One step with its constant. -/
def ShaRun.step (r : ShaRun) (k : Word) : ShaRun :=
  let u (i : Nat) : Word := nthD r.upper i 0
  let l (i : Nat) : Word := nthD r.lower i 0
  let mixed := k + nthD r.window 0 0 + l 3 + rotations [14, 18, 41] (l 0) + bitChoice (l 0) (l 1) (l 2)
  { window := r.window.drop 1 ++ [nextWord r.window]
    upper := (mixed + rotations [28, 34, 39] (u 0) + bitMajority (u 0) (u 1) (u 2)) :: r.upper.take 3
    lower := (mixed + u 3) :: r.lower.take 3 }

/-- The value after one block of 128 bytes. -/
def shaBlock (v : List Word) (blk : List Byte) : List Word :=
  let start : ShaRun :=
    { window := (recsOf 8 blk).map (fun b => BitVec.ofNat 64 (beNat b)), upper := v.take 4, lower := v.drop 4 }
  let r := shaSteps.foldl ShaRun.step start
  List.zipWith (· + ·) v (r.upper ++ r.lower)

/-! ### A message -/

/-- A message with its padding: a 1 bit, zeros up to 16 bytes before the end of a block, and the length in bits. -/
def shaPad (bs : List Byte) : List Byte :=
  bs ++ 0x80 :: (List.replicate (127 - (bs.length + 16) % 128) 0 ++ beBytes 16 (8 * bs.length))

/-- The digest of a message: 64 bytes. PRESUMED (log entry 60). -/
def sha512 (bs : List Byte) : List Byte :=
  ((recsOf 128 (shaPad bs)).foldl shaBlock shaStart).flatMap (fun v => beBytes 8 v.toNat)

/-- A digest as a number: byte i of the digest in bits [8i + 7:8i], as IMG_DIGESTi and IMG_FUSE_DATAi hold it. -/
def digestBits (d : List Byte) : BitVec 512 := BitVec.ofNat 512 (leNat d)

end Sys2Proof.Machine
end

