-- ==== Sys2Proof/Machine/Ed25519.lean ====
section
/-! DEFINITION. Verification of a pure Ed25519 signature (RFC 8032), which R183 and R193 name. -/

namespace Sys2Proof.Machine.Ed

/-- The field's prime. -/
def p : Nat := 2 ^ 255 - 19

/-- The order of the group. -/
def order : Nat := 2 ^ 252 + 27742317777372353535851937790883648493

/-- b ^ e modulo p for an exponent of at most n bits. -/
def pow (b : Nat) : Nat → Nat → Nat
  | 0, _ => 1
  | n + 1, e =>
    let h := pow (b * b % p) n (e / 2)
    if e % 2 = 1 then h * b % p else h

def inv (x : Nat) : Nat := pow x 256 (p - 2)

def sub (a b : Nat) : Nat := (a + p - b % p) % p

/-- The curve's constant: -121665 / 121666. -/
def d : Nat := sub 0 (121665 * inv 121666 % p)

/-- A point in extended coordinates. -/
structure Pt where
  x : Nat
  y : Nat
  z : Nat
  t : Nat

def zero : Pt := ⟨0, 1, 1, 0⟩

def add (a b : Pt) : Pt :=
  let m := sub a.y a.x * sub b.y b.x % p
  let n := (a.y + a.x) * (b.y + b.x) % p
  let c := 2 * a.t * b.t * d % p
  let e := 2 * a.z * b.z % p
  let f := sub n m
  let g := sub e c
  let h := (e + c) % p
  let i := (n + m) % p
  ⟨f * g % p, h * i % p, g * h % p, f * i % p⟩

/-- k times a point, for a factor of at most n bits. -/
def mul (a : Pt) : Nat → Nat → Pt
  | 0, _ => zero
  | n + 1, k => let r := mul (add a a) n (k / 2); if k % 2 = 1 then add r a else r

def same (a b : Pt) : Bool := decide (a.x * b.z % p = b.x * a.z % p ∧ a.y * b.z % p = b.y * a.z % p)

/-- The x coordinate of a point from y and the sign bit. -/
def recover (y sign : Nat) : Option Nat :=
  if p ≤ y then none
  else
    let x2 := sub (y * y % p) 1 * inv ((d * (y * y % p) + 1) % p) % p
    if x2 = 0 then (if sign = 1 then none else some 0)
    else
      let x := pow x2 256 ((p + 3) / 8)
      let x := if x * x % p = x2 then x else x * pow 2 256 ((p - 1) / 4) % p
      if x * x % p ≠ x2 then none else some (if x % 2 = sign then x else p - x)

/-- Decodes a point from its 32 bytes. -/
def decode (bs : List Byte) : Option Pt :=
  let v := leNat bs
  let y := v % 2 ^ 255
  (recover y (v / 2 ^ 255 % 2)).map (fun x => ⟨x, y, 1, x * y % p⟩)

/-- The base point: y = 4/5, x even. -/
def base : Option Pt :=
  let y := 4 * inv 5 % p
  (recover y 0).map (fun x => ⟨x, y, 1, x * y % p⟩)

/-- The signature of a message verifies under a public key; S at or above the group order fails.
PRESUMED (log entry 60). -/
def verify (key msg sig : List Byte) : Bool :=
  match decode key, decode (sig.take 32), base with
  | some a, some r, some b =>
    let s := leNat (slice sig 32 32)
    let k := leNat (sha512 (sig.take 32 ++ key ++ msg)) % order
    decide (s < order) && same (mul (mul b 256 s) 4 8) (mul (add r (mul a 256 k)) 4 8)
  | _, _, _ => false

end Sys2Proof.Machine.Ed
end

