-- ==== Sys2Proof/Config.lean ====
section
/-! DEFINITION. What the manual leaves open: free values. Each is a constant with no body, so no proof
can rest on a value of it. Each is named by a row of the assumption log. -/

namespace Sys2Proof.Config

/-- The outcome of an SRAM word with three or more wrong bits (R53): 0 detected as a double-bit error,
1 corrected to a wrong value and counted, anything else undetected. Applied to the draw counter.
DESIGN CHOICE (log entry 14). -/
opaque multiBitOutcome : Nat → Nat

/-- The wrong value that a miscorrected or undetected word of three or more wrong bits reads as (R53).
DESIGN CHOICE (log entry 14). -/
opaque multiBitWord : Nat → Word

/-- Which of the FP32 values within 2 units in the last place of the exact result a function of R71 gives
("one fixed algorithm each"). Applied to the function's number and the operand. DESIGN CHOICE (log entry 15). -/
opaque transUlp : Nat → BitVec 32 → Nat

/-- The result of a function of R71 on an operand for which it has no finite exact result (the logarithm
of 0 or of a negative number, the exponential of +infinity): the FP32 code, with its OVERFLOW_OUT and INEXACT_OUT in
bits 32 and 33; a NaN among them is written as the canonical one (R61). DESIGN CHOICE (log entry 15). -/
opaque transOpen : Nat → BitVec 32 → BitVec 34

/-- How a compare instruction writes its truth value (R71 names the operation and no result code). DESIGN CHOICE
(log entry 16). -/
opaque compareCode : Bool → BitVec 32

/-- The 64-bit result of a scalar instruction whose operation the manual does not encode (R39, R52):
applied to the instruction word and the two operand registers. DESIGN CHOICE (log entry 20). -/
opaque scalarResult : BitVec 32 → Word → Word → Word

/-- The bytes of a snapshot (R370) and of a control block (R365), of which the manual says what they hold and not
where: applied to the stack address and the draw counter. DESIGN CHOICE (log entry 38). -/
opaque storedByte : Nat → Nat → Byte

/-- Whether POWER_BUDGET_EXCEEDED with cause 3 gives the FLOOR sum as its demand rather than the measured power
(R436 names both and does not say which). DESIGN CHOICE (log entry 96). -/
opaque vdistDemandFloors : Bool

/-- A coolant temperature below 0 degrees as PWR_COOL and COOL_FAULT show it (R444, R453 give no form for one):
applied to the frequency, TEMP_F0 and TEMP_SLOPE. DESIGN CHOICE (log entry 97). -/
opaque coldTemp : Nat → Nat → Nat → BitVec 12

/-- A byte of a calibration block that an overwrite cut short has left (R449 says only that it is corrupt): applied to the
draw number of the overwrite and the byte's offset. DESIGN CHOICE (log entry 99). -/
opaque flashByte : Nat → Nat → Byte

/-- SOURCE of a MGMT_WATCHDOG record (R474 names the code and no source). DESIGN CHOICE (log entry 56). -/
opaque watchdogSource : Byte

/-- A byte that an instruction reads beyond the end of data SRAM, where the manual has none (R50): applied to the
address. DESIGN CHOICE (log entry 12). -/
opaque beyondSram : Nat → Byte

/-- The detail of a host-assisted stop whose rule gives it no layout or does not state it (R298, R382, R478): applied to
the function's number and what the rule says that the detail holds, or the device time. DESIGN CHOICE (log entry 101). -/
opaque stopDetail : Nat → List Nat → Word

/-- CODE of a SNAPSHOT or RESTORE that cannot reach its memory (R145 gives the field and no rule the code): applied to the
opcode. DESIGN CHOICE (log entry 34). -/
opaque herdFailCode : Nat → BitVec 16

/-- MAX_ITEM of a WAFER stream at its receiver, as its sender knows it (R356 gives no way): applied to the receiving wafer
and the stream. DESIGN CHOICE (log entry 130). -/
opaque peerMaxItem : Nat → Nat → Nat

/-- A byte of an Ibex request from offset 256 on, of which the request buffer keeps no copy (R283, R294): applied to the
request's timestamp and the offset. DEDUCED (log entry 137). -/
opaque ibexCopyByte : BitVec 80 → Nat → Byte

/-- Whether the retries of a start have used more than the allowance of R402 (LATE; no retry has a stated length): applied
to the device time at which the start began and the device time now. DESIGN CHOICE (log entry 93). -/
opaque retriesLate : Nat → Nat → Bool

end Sys2Proof.Config
end

