-- ==== Sys2Proof/Machine/Regs.lean ====
section
/-! DEFINITION. The register map of BAR0 (R17): one row per register table of the manual with the bits,
access type, reset value and accepted range of every field, and a name for each register's offset and
each field. Written out from the register tables of spec/. -/

namespace Sys2Proof.Machine

/-- The access types of R18. -/
inductive Access where
  | rw | ro | wo | w1c | rc | rwl
deriving DecidableEq, Repr

/-- Which values a write of a field is accepted with; any other leaves the field unchanged. -/
inductive Check where
  | any
  | range (lo hi : Nat)
  /-- 0 or within the range (R489). -/
  | zeroOr (lo hi : Nat)
  /-- CAP_W: from ceil(FLOOR sum / 4) + 1,000 to 24,000 (R450). -/
  | cap
deriving DecidableEq, Repr

/-- A field of a register table. -/
structure FieldRow where
  hi    : Nat
  lo    : Nat
  acc   : Access
  reset : Nat
  chk   : Check
deriving DecidableEq, Repr

/-- A register table: local offset, number of registers and distance between them. -/
structure RegRow where
  off    : Nat
  cnt    : Nat
  stride : Nat
  fields : List FieldRow
deriving DecidableEq, Repr

/-- A place of a field: register offset in BAR0 and bits. -/
structure Fld where
  off : Nat
  hi  : Nat
  lo  : Nat
deriving DecidableEq, Repr

/-- The register blocks of R17. -/
inductive Blk where
  | glb | pwr | time | mac | prh | ibx | stk | jrn | img | bru | flt | hrd | mbx
deriving DecidableEq, Repr

/-- The block, its number and the offset in it of a BAR0 offset (R17); none outside every range. -/
def blockOf (off : Nat) : Option (Blk × Nat × Nat) :=
  if off < 0x10_0000 then some (.glb, 0, off)
  else if off < 0x20_0000 then some (.pwr, 0, off - 0x10_0000)
  else if off < 0x30_0000 then some (.time, 0, off - 0x20_0000)
  else if off < 0x40_0000 then none
  else if off < 0x50_0000 then some (.mac, (off - 0x40_0000) / 0x1_0000, off % 0x1_0000)
  else if off < 0x60_0000 then none
  else if off < 0x70_0000 then some (.prh, (off - 0x60_0000) / 0x1_0000, off % 0x1_0000)
  else if off < 0x80_0000 then none
  else if off < 0x90_0000 then some (.ibx, 0, off - 0x80_0000)
  else if off < 0x100_0000 then none
  else if off < 0x200_0000 then some (.stk, (off - 0x100_0000) / 0x10_0000, off % 0x10_0000)
  else if off < 0x210_0000 then some (.jrn, 0, off - 0x200_0000)
  else if off < 0x220_0000 then some (.img, 0, off - 0x210_0000)
  else if off < 0x230_0000 then some (.bru, 0, off - 0x220_0000)
  else if off < 0x240_0000 then some (.flt, 0, off - 0x230_0000)
  else if off < 0x250_0000 then some (.hrd, 0, off - 0x240_0000)
  else if off < 0x300_0000 then none
  else if off < 0x310_0000 then some (.mbx, 0, off - 0x300_0000)
  else none

/-- The register tables of block GLB. -/
def rowsGLB : List RegRow :=
  [
    ⟨0x0, 1, 8,
      [⟨15, 0, .ro, 0x1056, .any⟩,
       ⟨23, 16, .ro, 0x10, .any⟩,
       ⟨39, 32, .ro, 0, .any⟩,
       ⟨47, 40, .ro, 0, .any⟩]⟩,
    ⟨0x10, 1, 8,
      [⟨0, 0, .wo, 0, .any⟩,
       ⟨1, 1, .wo, 0, .any⟩,
       ⟨2, 2, .wo, 0, .any⟩,
       ⟨3, 3, .wo, 0, .any⟩,
       ⟨13, 4, .wo, 0, .any⟩,
       ⟨17, 14, .wo, 0, .any⟩,
       ⟨22, 20, .ro, 0, .any⟩,
       ⟨24, 24, .ro, 0, .any⟩,
       ⟨63, 48, .wo, 0, .any⟩]⟩,
    ⟨0x20, 1, 8,
      [⟨8, 0, .rw, 0, .any⟩,
       ⟨24, 16, .ro, 0, .any⟩]⟩,
    ⟨0x30, 1, 8,
      [⟨3, 0, .wo, 0, .any⟩,
       ⟨6, 4, .wo, 0, .any⟩,
       ⟨11, 8, .wo, 0, .any⟩,
       ⟨16, 12, .wo, 0, .any⟩,
       ⟨26, 17, .wo, 0, .any⟩]⟩,
    ⟨0x38, 1, 8,
      [⟨31, 0, .rc, 0, .any⟩,
       ⟨47, 32, .ro, 0, .any⟩,
       ⟨48, 48, .w1c, 0, .any⟩]⟩,
    ⟨0x40, 1, 8,
      [⟨15, 0, .rw, 0x3E8, .range 10 10000⟩,
       ⟨47, 16, .ro, 0, .any⟩]⟩,
    ⟨0x48, 1, 8,
      [⟨5, 0, .rw, 0, .zeroOr 20 36⟩,
       ⟨63, 12, .rw, 0, .any⟩]⟩,
    ⟨0x50, 1, 8,
      [⟨31, 0, .ro, 0, .any⟩,
       ⟨63, 32, .rw, 0, .any⟩]⟩,
    ⟨0x100, 16, 8,
      [⟨3, 0, .rw, 0, .any⟩,
       ⟨4, 4, .rw, 1, .any⟩,
       ⟨18, 8, .rw, 0, .range 0 1088⟩]⟩ ]

/-- The register tables of block PWR. -/
def rowsPWR : List RegRow :=
  [
    ⟨0x0, 1, 8,
      [⟨15, 0, .rw, 0x5DC0, .cap⟩,
       ⟨16, 16, .rw, 0, .any⟩,
       ⟨17, 17, .wo, 0, .any⟩]⟩,
    ⟨0x8, 1, 8,
      [⟨0, 0, .ro, 0, .any⟩,
       ⟨1, 1, .ro, 0, .any⟩,
       ⟨2, 2, .ro, 0, .any⟩,
       ⟨3, 3, .w1c, 0, .any⟩,
       ⟨4, 4, .w1c, 0, .any⟩,
       ⟨6, 5, .ro, 0, .any⟩,
       ⟨7, 7, .ro, 0, .any⟩,
       ⟨8, 8, .ro, 0, .any⟩,
       ⟨11, 9, .ro, 0, .any⟩,
       ⟨47, 32, .ro, 0, .any⟩]⟩,
    ⟨0x10, 1, 8,
      [⟨15, 0, .ro, 0, .any⟩,
       ⟨27, 16, .ro, 0, .any⟩,
       ⟨37, 28, .ro, 0, .any⟩,
       ⟨45, 38, .ro, 0, .any⟩,
       ⟨52, 46, .ro, 0, .any⟩]⟩,
    ⟨0x18, 1, 8,
      [⟨15, 0, .ro, 0, .any⟩,
       ⟨27, 16, .ro, 0, .any⟩,
       ⟨39, 28, .ro, 0, .any⟩]⟩,
    ⟨0x20, 1, 8,
      [⟨6, 0, .rw, 0, .range 0 95⟩]⟩,
    ⟨0x28, 1, 8,
      [⟨12, 0, .ro, 0, .any⟩,
       ⟨25, 13, .ro, 0, .any⟩,
       ⟨38, 26, .ro, 0, .any⟩,
       ⟨43, 39, .ro, 0, .any⟩,
       ⟨51, 44, .ro, 0, .any⟩,
       ⟨52, 52, .ro, 0, .any⟩,
       ⟨53, 53, .ro, 0, .any⟩]⟩,
    ⟨0x30, 1, 8,
      [⟨12, 0, .rw, 0, .any⟩,
       ⟨14, 13, .rw, 0, .any⟩,
       ⟨22, 15, .rw, 1, .any⟩,
       ⟨27, 23, .rw, 9, .any⟩]⟩,
    ⟨0x38, 1, 8,
      [⟨15, 0, .rc, 0, .any⟩,
       ⟨31, 16, .rc, 0, .any⟩,
       ⟨47, 32, .rc, 0, .any⟩]⟩,
    ⟨0x100, 1, 8,
      [⟨10, 0, .rw, 0, .any⟩,
       ⟨11, 11, .rw, 0, .any⟩,
       ⟨12, 12, .rw, 0, .any⟩]⟩,
    ⟨0x108, 1, 8,
      [⟨63, 0, .rw, 0, .any⟩]⟩,
    ⟨0x110, 1, 8,
      [⟨1, 0, .wo, 0, .any⟩,
       ⟨2, 2, .ro, 0, .any⟩,
       ⟨3, 3, .w1c, 0, .any⟩,
       ⟨4, 4, .w1c, 0, .any⟩,
       ⟨7, 5, .ro, 0, .any⟩,
       ⟨63, 48, .wo, 0, .any⟩]⟩ ]

/-- The register tables of block TIME. -/
def rowsTIME : List RegRow :=
  [
    ⟨0x0, 1, 8,
      [⟨0, 0, .rw, 0, .any⟩,
       ⟨1, 1, .rw, 0, .any⟩,
       ⟨2, 2, .rw, 0, .any⟩,
       ⟨3, 3, .rw, 0, .any⟩,
       ⟨4, 4, .rw, 0, .any⟩]⟩,
    ⟨0x8, 1, 8,
      [⟨0, 0, .ro, 0, .any⟩,
       ⟨1, 1, .ro, 0, .any⟩,
       ⟨2, 2, .ro, 0, .any⟩,
       ⟨3, 3, .ro, 0, .any⟩,
       ⟨4, 4, .ro, 0, .any⟩,
       ⟨5, 5, .ro, 0, .any⟩,
       ⟨63, 48, .ro, 0, .any⟩]⟩,
    ⟨0x10, 1, 8,
      [⟨47, 0, .rw, 0xA3D70A3D70A4, .range 1 0xFFFF_FFFF_FFFF⟩]⟩,
    ⟨0x18, 1, 8,
      [⟨31, 0, .rw, 0, .any⟩,
       ⟨63, 32, .rw, 0x6B5FCA, .any⟩]⟩,
    ⟨0x20, 1, 8,
      [⟨63, 0, .rw, 0, .any⟩]⟩,
    ⟨0x28, 1, 8,
      [⟨2, 0, .wo, 0, .any⟩,
       ⟨31, 16, .wo, 0, .any⟩]⟩,
    ⟨0x40, 1, 8,
      [⟨63, 0, .ro, 0, .any⟩]⟩,
    ⟨0x60, 1, 8,
      [⟨63, 0, .ro, 0, .any⟩]⟩,
    ⟨0x68, 1, 8,
      [⟨15, 0, .rc, 0, .any⟩,
       ⟨31, 16, .rc, 0, .any⟩,
       ⟨47, 32, .ro, 0, .any⟩,
       ⟨48, 48, .w1c, 0, .any⟩]⟩,
    ⟨0x70, 1, 8,
      [⟨63, 0, .rw, 0, .any⟩]⟩,
    ⟨0x78, 1, 8,
      [⟨31, 0, .rw, 0x3B9ACA00, .range 1000 4000000000⟩,
       ⟨41, 32, .rw, 0x64, .range 1 999⟩,
       ⟨63, 48, .rw, 0, .any⟩]⟩,
    ⟨0x80, 1, 8,
      [⟨31, 0, .rc, 0, .any⟩,
       ⟨63, 32, .rc, 0, .any⟩]⟩,
    ⟨0x100, 16, 8,
      [⟨31, 0, .rw, 0, .any⟩,
       ⟨63, 32, .rw, 0, .any⟩]⟩,
    ⟨0x200, 16, 32,
      [⟨15, 0, .ro, 0, .any⟩,
       ⟨31, 16, .ro, 0, .any⟩,
       ⟨38, 32, .ro, 0, .any⟩,
       ⟨39, 39, .ro, 0, .any⟩,
       ⟨40, 40, .wo, 0, .any⟩]⟩,
    ⟨0x208, 16, 32,
      [⟨63, 0, .ro, 0, .any⟩]⟩,
    ⟨0x210, 16, 32,
      [⟨31, 0, .rc, 0, .any⟩,
       ⟨47, 32, .ro, 0, .any⟩,
       ⟨48, 48, .w1c, 0, .any⟩]⟩ ]

/-- The register tables of block MAC. -/
def rowsMAC : List RegRow :=
  [
    ⟨0x800, 24, 8,
      [⟨47, 0, .rc, 0, .any⟩]⟩,
    ⟨0xC00, 16, 8,
      [⟨31, 0, .rc, 0, .any⟩,
       ⟨63, 32, .rc, 0, .any⟩]⟩,
    ⟨0x0, 1, 8,
      [⟨2, 0, .rwl, 0, .range 0 4⟩,
       ⟨3, 3, .rwl, 1, .any⟩,
       ⟨5, 4, .rwl, 0, .range 0 2⟩,
       ⟨19, 6, .rwl, 0x5EE, .range 64 9216⟩,
       ⟨20, 20, .rwl, 0, .any⟩,
       ⟨21, 21, .rwl, 0, .any⟩,
       ⟨22, 22, .rwl, 1, .any⟩,
       ⟨23, 23, .rwl, 0, .any⟩,
       ⟨26, 24, .rwl, 0, .any⟩,
       ⟨30, 27, .rwl, 0, .any⟩,
       ⟨33, 31, .rwl, 0, .any⟩]⟩,
    ⟨0x8, 1, 8,
      [⟨0, 0, .ro, 0, .any⟩,
       ⟨1, 1, .ro, 0, .any⟩,
       ⟨11, 4, .ro, 0, .any⟩,
       ⟨19, 12, .ro, 0, .any⟩,
       ⟨44, 32, .ro, 0x400, .any⟩]⟩,
    ⟨0x10, 1, 8,
      [⟨1, 0, .rwl, 0, .range 0 2⟩,
       ⟨17, 2, .rwl, 0xFFFF, .any⟩,
       ⟨30, 18, .rwl, 0x300, .any⟩,
       ⟨43, 31, .rwl, 0x200, .any⟩,
       ⟨51, 44, .rwl, 0xFF, .any⟩]⟩,
    ⟨0x18, 4, 8,
      [⟨47, 0, .rwl, 0, .any⟩,
       ⟨48, 48, .rwl, 0, .any⟩]⟩,
    ⟨0x100, 32, 8,
      [⟨0, 0, .rwl, 0, .any⟩,
       ⟨2, 1, .rwl, 0, .any⟩,
       ⟨4, 3, .rwl, 0, .any⟩,
       ⟨5, 5, .rwl, 0, .any⟩,
       ⟨17, 6, .rwl, 0, .any⟩,
       ⟨18, 18, .rwl, 0, .any⟩,
       ⟨26, 19, .rwl, 0xFF, .any⟩,
       ⟨27, 27, .rwl, 0, .any⟩,
       ⟨43, 28, .rwl, 0, .any⟩,
       ⟨47, 44, .rwl, 0, .any⟩]⟩,
    ⟨0x200, 16, 8,
      [⟨2, 0, .rwl, 0, .range 0 4⟩,
       ⟨15, 3, .rwl, 0, .any⟩,
       ⟨19, 16, .rwl, 0, .any⟩,
       ⟨20, 20, .rwl, 0, .any⟩,
       ⟨21, 21, .rwl, 0, .any⟩,
       ⟨24, 22, .rwl, 0, .any⟩,
       ⟨37, 25, .rwl, 0, .any⟩,
       ⟨50, 38, .rwl, 0x400, .any⟩]⟩ ]

/-- The register tables of block PRH. -/
def rowsPRH : List RegRow :=
  [
    ⟨0x0, 1, 8,
      [⟨8, 0, .rwl, 0x80, .any⟩,
       ⟨15, 9, .rwl, 0, .any⟩,
       ⟨22, 16, .rwl, 0, .any⟩,
       ⟨34, 23, .rwl, 0, .any⟩]⟩,
    ⟨0x8, 1, 8,
      [⟨15, 0, .ro, 0, .any⟩,
       ⟨21, 16, .ro, 0, .any⟩,
       ⟨24, 22, .ro, 0, .any⟩,
       ⟨28, 25, .ro, 0, .any⟩,
       ⟨29, 29, .w1c, 0, .any⟩]⟩,
    ⟨0x1000, 64, 8,
      [⟨63, 0, .rwl, 0, .any⟩]⟩,
    ⟨0x1200, 128, 8,
      [⟨63, 0, .rwl, 0, .any⟩]⟩,
    ⟨0x2000, 3072, 8,
      [⟨31, 0, .rwl, 0, .any⟩]⟩,
    ⟨0x10, 1, 8,
      [⟨4, 0, .ro, 0, .any⟩,
       ⟨25, 5, .ro, 0, .any⟩,
       ⟨30, 26, .ro, 0, .any⟩,
       ⟨35, 31, .ro, 0, .any⟩]⟩,
    ⟨0x18, 1, 8,
      [⟨15, 0, .rwl, 0x88B5, .any⟩]⟩,
    ⟨0x20, 1, 8,
      [⟨31, 0, .ro, 0, .any⟩]⟩,
    ⟨0x300, 16, 8,
      [⟨12, 0, .rwl, 0, .any⟩,
       ⟨16, 13, .rwl, 0, .any⟩,
       ⟨17, 17, .rwl, 0, .any⟩,
       ⟨22, 18, .rwl, 0, .any⟩,
       ⟨26, 23, .rwl, 0, .any⟩,
       ⟨31, 27, .rwl, 0, .any⟩,
       ⟨51, 32, .rwl, 0, .any⟩]⟩,
    ⟨0x400, 16, 8,
      [⟨31, 0, .rwl, 0x7F800000, .any⟩,
       ⟨63, 32, .rwl, 0xFF800000, .any⟩]⟩,
    ⟨0x100, 6, 8,
      [⟨47, 0, .rc, 0, .any⟩]⟩,
    ⟨0x200, 7, 8,
      [⟨47, 0, .rc, 0, .any⟩]⟩ ]

/-- The register tables of block IBX. -/
def rowsIBX : List RegRow :=
  [
    ⟨0x0, 1, 8,
      [⟨9, 0, .rw, 0x14, .range 0 1000⟩,
       ⟨16, 10, .rw, 0x40, .range 1 64⟩]⟩,
    ⟨0x8, 1, 8,
      [⟨12, 0, .ro, 0, .any⟩,
       ⟨13, 13, .ro, 0, .any⟩,
       ⟨14, 14, .ro, 0, .any⟩,
       ⟨27, 16, .ro, 0, .any⟩,
       ⟨43, 32, .ro, 0, .any⟩]⟩,
    ⟨0x10, 1, 8,
      [⟨2, 0, .wo, 0, .any⟩,
       ⟨27, 16, .wo, 0, .any⟩]⟩,
    ⟨0x18, 1, 8,
      [⟨11, 0, .rw, 0, .any⟩]⟩,
    ⟨0x20, 1, 8,
      [⟨1, 0, .ro, 0, .any⟩,
       ⟨6, 2, .ro, 0, .any⟩,
       ⟨27, 7, .ro, 0, .any⟩,
       ⟨31, 28, .ro, 0, .any⟩]⟩,
    ⟨0x100, 4, 8,
      [⟨47, 0, .rc, 0, .any⟩]⟩ ]

/-- The register tables of block STK. -/
def rowsSTK : List RegRow :=
  [
    ⟨0x0, 1, 8,
      [⟨7, 0, .rw, 0x18, .range 1 168⟩,
       ⟨8, 8, .rw, 1, .any⟩,
       ⟨9, 9, .rw, 1, .any⟩,
       ⟨23, 16, .rw, 0xA, .range 2 40⟩]⟩,
    ⟨0x8, 1, 8,
      [⟨2, 0, .ro, 0, .any⟩,
       ⟨3, 3, .ro, 0, .any⟩,
       ⟨8, 4, .ro, 0, .any⟩,
       ⟨23, 16, .ro, 0, .any⟩,
       ⟨63, 32, .ro, 0, .any⟩]⟩,
    ⟨0x10, 1, 8,
      [⟨23, 0, .rc, 0, .any⟩,
       ⟨47, 24, .rc, 0, .any⟩,
       ⟨63, 48, .rc, 0, .any⟩]⟩,
    ⟨0x18, 1, 8,
      [⟨36, 0, .ro, 0, .any⟩,
       ⟨40, 37, .ro, 0, .any⟩,
       ⟨41, 41, .ro, 0, .any⟩,
       ⟨42, 42, .w1c, 0, .any⟩]⟩,
    ⟨0x20, 1, 8,
      [⟨4, 0, .wo, 0, .any⟩]⟩,
    ⟨0x28, 1, 8,
      [⟨31, 0, .rc, 0, .any⟩,
       ⟨51, 32, .ro, 0, .any⟩,
       ⟨53, 52, .ro, 0, .any⟩]⟩ ]

/-- The register tables of block JRN. -/
def rowsJRN : List RegRow :=
  [
    ⟨0x0, 1, 8,
      [⟨9, 0, .rw, 0xFA, .range 50 500⟩,
       ⟨10, 10, .rw, 0, .any⟩,
       ⟨11, 11, .rw, 0, .any⟩]⟩,
    ⟨0x8, 1, 8,
      [⟨7, 0, .ro, 0, .any⟩,
       ⟨15, 8, .ro, 0, .any⟩,
       ⟨16, 16, .ro, 0, .any⟩]⟩,
    ⟨0x10, 2, 8,
      [⟨63, 0, .ro, 0, .any⟩]⟩,
    ⟨0x20, 1, 8,
      [⟨11, 0, .rw, 0, .any⟩]⟩,
    ⟨0x28, 3, 8,
      [⟨63, 0, .ro, 0, .any⟩]⟩,
    ⟨0x40, 1, 8,
      [⟨3, 0, .wo, 0, .any⟩,
       ⟨11, 4, .wo, 0, .any⟩]⟩ ]

/-- The register tables of block IMG. -/
def rowsIMG : List RegRow :=
  [
    ⟨0x0, 1, 8,
      [⟨0, 0, .wo, 0, .any⟩,
       ⟨1, 1, .wo, 0, .any⟩]⟩,
    ⟨0x8, 1, 8,
      [⟨2, 0, .ro, 0, .any⟩,
       ⟨3, 3, .w1c, 0, .any⟩,
       ⟨4, 4, .w1c, 0, .any⟩,
       ⟨5, 5, .w1c, 0, .any⟩,
       ⟨6, 6, .ro, 0, .any⟩,
       ⟨7, 7, .ro, 0, .any⟩,
       ⟨15, 8, .ro, 0, .any⟩,
       ⟨31, 16, .ro, 0, .any⟩,
       ⟨47, 32, .ro, 0xFFFF, .any⟩]⟩,
    ⟨0x10, 1, 8,
      [⟨5, 0, .ro, 0, .any⟩,
       ⟨13, 8, .ro, 0, .any⟩]⟩,
    ⟨0x18, 1, 8,
      [⟨3, 0, .ro, 0, .any⟩,
       ⟨7, 4, .ro, 0, .any⟩,
       ⟨9, 8, .ro, 0, .any⟩,
       ⟨16, 16, .w1c, 0, .any⟩,
       ⟨17, 17, .w1c, 0, .any⟩]⟩,
    ⟨0x20, 1, 8,
      [⟨1, 0, .wo, 0, .any⟩,
       ⟨3, 2, .wo, 0, .any⟩,
       ⟨63, 48, .wo, 0, .any⟩]⟩,
    ⟨0x28, 8, 8,
      [⟨63, 0, .rw, 0, .any⟩]⟩,
    ⟨0x80, 8, 8,
      [⟨63, 0, .ro, 0, .any⟩]⟩,
    ⟨0xC0, 1, 8,
      [⟨31, 0, .rc, 0, .any⟩]⟩ ]

/-- The register tables of block BRU. -/
def rowsBRU : List RegRow :=
  [
    ⟨0x0, 1, 8,
      [⟨0, 0, .rw, 0, .any⟩,
       ⟨1, 1, .rw, 0, .any⟩,
       ⟨2, 2, .rw, 0, .any⟩]⟩,
    ⟨0x8, 1, 8,
      [⟨2, 0, .ro, 0, .any⟩,
       ⟨3, 3, .ro, 0, .any⟩,
       ⟨4, 4, .ro, 0, .any⟩,
       ⟨5, 5, .ro, 0, .any⟩,
       ⟨6, 6, .ro, 0, .any⟩,
       ⟨7, 7, .ro, 0, .any⟩,
       ⟨8, 8, .w1c, 0, .any⟩,
       ⟨9, 9, .w1c, 0, .any⟩,
       ⟨63, 32, .ro, 0, .any⟩]⟩,
    ⟨0x10, 1, 8,
      [⟨2, 0, .wo, 0, .any⟩,
       ⟨14, 4, .wo, 0, .any⟩,
       ⟨25, 15, .wo, 0, .any⟩,
       ⟨29, 26, .wo, 0, .any⟩]⟩,
    ⟨0x18, 1, 8,
      [⟨20, 0, .ro, 0, .any⟩,
       ⟨32, 21, .ro, 0, .any⟩,
       ⟨38, 33, .ro, 0, .any⟩,
       ⟨44, 39, .ro, 0, .any⟩]⟩,
    ⟨0x20, 1, 8,
      [⟨1, 0, .ro, 0, .any⟩,
       ⟨22, 2, .ro, 0, .any⟩,
       ⟨43, 23, .ro, 0, .any⟩,
       ⟨51, 44, .ro, 0, .any⟩]⟩,
    ⟨0x28, 1, 8,
      [⟨5, 0, .rw, 0, .any⟩,
       ⟨10, 6, .rw, 0, .any⟩,
       ⟨16, 11, .rw, 0, .any⟩]⟩,
    ⟨0x30, 1, 8,
      [⟨9, 0, .ro, 0, .any⟩,
       ⟨10, 10, .ro, 0, .any⟩,
       ⟨11, 11, .ro, 0, .any⟩,
       ⟨17, 12, .ro, 0, .any⟩,
       ⟨23, 18, .ro, 0, .any⟩]⟩ ]

/-- The register tables of block FLT. -/
def rowsFLT : List RegRow :=
  [
    ⟨0x0, 1, 8,
      [⟨3, 0, .ro, 0, .any⟩,
       ⟨4, 4, .ro, 0, .any⟩,
       ⟨5, 5, .w1c, 0, .any⟩,
       ⟨15, 6, .ro, 0, .any⟩,
       ⟨21, 16, .ro, 0x20, .any⟩]⟩,
    ⟨0x8, 1, 8,
      [⟨2, 0, .wo, 0, .any⟩,
       ⟨12, 3, .wo, 0, .any⟩]⟩,
    ⟨0x10, 1, 8,
      [⟨9, 0, .ro, 0, .any⟩,
       ⟨11, 10, .ro, 0, .any⟩,
       ⟨17, 12, .ro, 0, .any⟩,
       ⟨23, 18, .ro, 0, .any⟩,
       ⟨24, 24, .w1c, 0, .any⟩]⟩,
    ⟨0x18, 1, 8,
      [⟨15, 0, .rc, 0, .any⟩,
       ⟨31, 16, .rc, 0, .any⟩,
       ⟨47, 32, .rc, 0, .any⟩,
       ⟨63, 48, .rc, 0, .any⟩]⟩ ]

/-- The register tables of block HRD. -/
def rowsHRD : List RegRow :=
  [
    ⟨0x0, 1, 8,
      [⟨4, 0, .rw, 0, .any⟩,
       ⟨9, 5, .rw, 0, .any⟩,
       ⟨10, 10, .rw, 0, .any⟩,
       ⟨15, 11, .rw, 0, .any⟩,
       ⟨20, 16, .rw, 0, .any⟩,
       ⟨47, 32, .rw, 0, .any⟩]⟩,
    ⟨0x8, 1, 8,
      [⟨63, 0, .rw, 0, .any⟩]⟩,
    ⟨0x10, 1, 8,
      [⟨4, 0, .wo, 0, .any⟩,
       ⟨9, 5, .wo, 0, .any⟩,
       ⟨10, 10, .wo, 0, .any⟩,
       ⟨23, 16, .wo, 0, .any⟩,
       ⟨63, 24, .wo, 0, .any⟩]⟩,
    ⟨0x18, 1, 8,
      [⟨0, 0, .ro, 0, .any⟩,
       ⟨1, 1, .w1c, 0, .any⟩,
       ⟨2, 2, .w1c, 0, .any⟩,
       ⟨3, 3, .w1c, 0, .any⟩,
       ⟨4, 4, .w1c, 0, .any⟩,
       ⟨15, 8, .ro, 0, .any⟩,
       ⟨31, 16, .ro, 0, .any⟩,
       ⟨36, 32, .ro, 0, .any⟩,
       ⟨41, 37, .ro, 0, .any⟩]⟩ ]

/-- The register tables of block MBX. -/
def rowsMBX : List RegRow :=
  [
    ⟨0x0, 16, 16,
      [⟨0, 0, .wo, 0, .any⟩,
       ⟨32, 16, .wo, 0, .any⟩]⟩,
    ⟨0x8, 16, 16,
      [⟨0, 0, .ro, 0, .any⟩,
       ⟨1, 1, .w1c, 0, .any⟩,
       ⟨2, 2, .w1c, 0, .any⟩,
       ⟨3, 3, .w1c, 0, .any⟩,
       ⟨32, 16, .ro, 0, .any⟩]⟩ ]

def rowsOf : Blk → List RegRow
  | .glb => rowsGLB | .pwr => rowsPWR | .time => rowsTIME | .mac => rowsMAC | .prh => rowsPRH
  | .ibx => rowsIBX | .stk => rowsSTK | .jrn => rowsJRN | .img => rowsIMG | .bru => rowsBRU
  | .flt => rowsFLT | .hrd => rowsHRD | .mbx => rowsMBX

/-- A register table covers a local offset. -/
def RegRow.covers (r : RegRow) (loc : Nat) : Bool :=
  decide (r.off ≤ loc) && decide ((loc - r.off) % r.stride = 0) && decide ((loc - r.off) / r.stride < r.cnt)

/-- The register table of an 8-byte aligned BAR0 offset, with the number of the register in it. -/
def rowAt (off : Nat) : Option (RegRow × Nat) :=
  match blockOf off with
  | none => none
  | some (b, _, loc) =>
    ((rowsOf b).find? (fun r => r.covers loc)).map (fun r => (r, (loc - r.off) / r.stride))

/-! ### Names of registers and fields -/

namespace Reg

/-- R144 -/
def HRD_WIN_ADDR : Nat := 0x2400000
def HRD_WIN_ADDR_HX : Fld := ⟨HRD_WIN_ADDR, 4, 0⟩
def HRD_WIN_ADDR_HY : Fld := ⟨HRD_WIN_ADDR, 9, 5⟩
def HRD_WIN_ADDR_CTRL : Fld := ⟨HRD_WIN_ADDR, 10, 10⟩
def HRD_WIN_ADDR_TX : Fld := ⟨HRD_WIN_ADDR, 15, 11⟩
def HRD_WIN_ADDR_TY : Fld := ⟨HRD_WIN_ADDR, 20, 16⟩
def HRD_WIN_ADDR_OFFSET : Fld := ⟨HRD_WIN_ADDR, 47, 32⟩
/-- R144 -/
def HRD_WIN_DATA : Nat := 0x2400008
def HRD_WIN_DATA_DATA : Fld := ⟨HRD_WIN_DATA, 63, 0⟩
/-- R144 -/
def HRD_CMD : Nat := 0x2400010
def HRD_CMD_HX : Fld := ⟨HRD_CMD, 4, 0⟩
def HRD_CMD_HY : Fld := ⟨HRD_CMD, 9, 5⟩
def HRD_CMD_ALL : Fld := ⟨HRD_CMD, 10, 10⟩
def HRD_CMD_OPCODE : Fld := ⟨HRD_CMD, 23, 16⟩
def HRD_CMD_ARG : Fld := ⟨HRD_CMD, 63, 24⟩
/-- R145 -/
def HRD_CMD_STATUS : Nat := 0x2400018
def HRD_CMD_STATUS_PENDING : Fld := ⟨HRD_CMD_STATUS, 0, 0⟩
def HRD_CMD_STATUS_DONE : Fld := ⟨HRD_CMD_STATUS, 1, 1⟩
def HRD_CMD_STATUS_FAIL : Fld := ⟨HRD_CMD_STATUS, 2, 2⟩
def HRD_CMD_STATUS_REJECTED : Fld := ⟨HRD_CMD_STATUS, 3, 3⟩
def HRD_CMD_STATUS_WIN_ERR : Fld := ⟨HRD_CMD_STATUS, 4, 4⟩
def HRD_CMD_STATUS_OPCODE : Fld := ⟨HRD_CMD_STATUS, 15, 8⟩
def HRD_CMD_STATUS_CODE : Fld := ⟨HRD_CMD_STATUS, 31, 16⟩
def HRD_CMD_STATUS_HX : Fld := ⟨HRD_CMD_STATUS, 36, 32⟩
def HRD_CMD_STATUS_HY : Fld := ⟨HRD_CMD_STATUS, 41, 37⟩
/-- R174 -/
def STK_CTRL (n : Nat) : Nat := 0x1000000 + n * 0x100000
def STK_CTRL_SCRUB_HOURS (n : Nat) : Fld := ⟨STK_CTRL n, 7, 0⟩
def STK_CTRL_SCRUB_EN (n : Nat) : Fld := ⟨STK_CTRL n, 8, 8⟩
def STK_CTRL_RETRAIN_AUTO (n : Nat) : Fld := ⟨STK_CTRL n, 9, 9⟩
def STK_CTRL_RETRAIN_DT (n : Nat) : Fld := ⟨STK_CTRL n, 23, 16⟩
/-- R175 -/
def STK_STATUS (n : Nat) : Nat := 0x1000008 + n * 0x100000
def STK_STATUS_STATE (n : Nat) : Fld := ⟨STK_STATUS n, 2, 0⟩
def STK_STATUS_RETRAINING (n : Nat) : Fld := ⟨STK_STATUS n, 3, 3⟩
def STK_STATUS_RETRAIN_CH (n : Nat) : Fld := ⟨STK_STATUS n, 8, 4⟩
def STK_STATUS_TEMP (n : Nat) : Fld := ⟨STK_STATUS n, 23, 16⟩
def STK_STATUS_CH_DOWN (n : Nat) : Fld := ⟨STK_STATUS n, 63, 32⟩
/-- R176 -/
def STK_ECC_COUNT (n : Nat) : Nat := 0x1000010 + n * 0x100000
def STK_ECC_COUNT_CTRL_CORR (n : Nat) : Fld := ⟨STK_ECC_COUNT n, 23, 0⟩
def STK_ECC_COUNT_ODIE_CORR (n : Nat) : Fld := ⟨STK_ECC_COUNT n, 47, 24⟩
def STK_ECC_COUNT_CTRL_UNCORR (n : Nat) : Fld := ⟨STK_ECC_COUNT n, 63, 48⟩
/-- R177 -/
def STK_ECC_ADDR (n : Nat) : Nat := 0x1000018 + n * 0x100000
def STK_ECC_ADDR_ADDR (n : Nat) : Fld := ⟨STK_ECC_ADDR n, 36, 0⟩
def STK_ECC_ADDR_TYPE (n : Nat) : Fld := ⟨STK_ECC_ADDR n, 40, 37⟩
def STK_ECC_ADDR_COPY_OK (n : Nat) : Fld := ⟨STK_ECC_ADDR n, 41, 41⟩
def STK_ECC_ADDR_VALID (n : Nat) : Fld := ⟨STK_ECC_ADDR n, 42, 42⟩
/-- R178 -/
def STK_RETRAIN (n : Nat) : Nat := 0x1000020 + n * 0x100000
def STK_RETRAIN_CH (n : Nat) : Fld := ⟨STK_RETRAIN n, 4, 0⟩
/-- R179 -/
def STK_REFUSED (n : Nat) : Nat := 0x1000028 + n * 0x100000
def STK_REFUSED_COUNT (n : Nat) : Fld := ⟨STK_REFUSED n, 31, 0⟩
def STK_REFUSED_SOURCE (n : Nat) : Fld := ⟨STK_REFUSED n, 51, 32⟩
def STK_REFUSED_SRC_KIND (n : Nat) : Fld := ⟨STK_REFUSED n, 53, 52⟩
/-- R207 -/
def IMG_LOAD_CMD : Nat := 0x2100000
def IMG_LOAD_CMD_START : Fld := ⟨IMG_LOAD_CMD, 0, 0⟩
def IMG_LOAD_CMD_ABORT : Fld := ⟨IMG_LOAD_CMD, 1, 1⟩
/-- R207 -/
def IMG_LOAD_STATUS : Nat := 0x2100008
def IMG_LOAD_STATUS_PHASE : Fld := ⟨IMG_LOAD_STATUS, 2, 0⟩
def IMG_LOAD_STATUS_DONE : Fld := ⟨IMG_LOAD_STATUS, 3, 3⟩
def IMG_LOAD_STATUS_FAIL : Fld := ⟨IMG_LOAD_STATUS, 4, 4⟩
def IMG_LOAD_STATUS_REJECTED : Fld := ⟨IMG_LOAD_STATUS, 5, 5⟩
def IMG_LOAD_STATUS_LOCKED : Fld := ⟨IMG_LOAD_STATUS, 6, 6⟩
def IMG_LOAD_STATUS_WHOLE_VALID : Fld := ⟨IMG_LOAD_STATUS, 7, 7⟩
def IMG_LOAD_STATUS_SUB : Fld := ⟨IMG_LOAD_STATUS, 15, 8⟩
def IMG_LOAD_STATUS_CODE : Fld := ⟨IMG_LOAD_STATUS, 31, 16⟩
def IMG_LOAD_STATUS_SECTION : Fld := ⟨IMG_LOAD_STATUS, 47, 32⟩
/-- R207 -/
def IMG_SVN : Nat := 0x2100010
def IMG_SVN_MIN_SVN : Fld := ⟨IMG_SVN, 5, 0⟩
def IMG_SVN_CUR_SVN : Fld := ⟨IMG_SVN, 13, 8⟩
/-- R207 -/
def IMG_KEY_STATUS : Nat := 0x2100018
def IMG_KEY_STATUS_PROGRAMMED : Fld := ⟨IMG_KEY_STATUS, 3, 0⟩
def IMG_KEY_STATUS_REVOKED : Fld := ⟨IMG_KEY_STATUS, 7, 4⟩
def IMG_KEY_STATUS_LAST_SLOT : Fld := ⟨IMG_KEY_STATUS, 9, 8⟩
def IMG_KEY_STATUS_FUSE_DONE : Fld := ⟨IMG_KEY_STATUS, 16, 16⟩
def IMG_KEY_STATUS_FUSE_FAIL : Fld := ⟨IMG_KEY_STATUS, 17, 17⟩
/-- R207 -/
def IMG_FUSE_CMD : Nat := 0x2100020
def IMG_FUSE_CMD_SLOT : Fld := ⟨IMG_FUSE_CMD, 1, 0⟩
def IMG_FUSE_CMD_OP : Fld := ⟨IMG_FUSE_CMD, 3, 2⟩
def IMG_FUSE_CMD_CONFIRM : Fld := ⟨IMG_FUSE_CMD, 63, 48⟩
/-- R207 -/
def IMG_FUSE_DATA (i : Nat) : Nat := 0x2100028 + i * 8
def IMG_FUSE_DATA_DATA (i : Nat) : Fld := ⟨IMG_FUSE_DATA i, 63, 0⟩
/-- R207 -/
def IMG_DIGEST (i : Nat) : Nat := 0x2100080 + i * 8
def IMG_DIGEST_DIGEST (i : Nat) : Fld := ⟨IMG_DIGEST i, 63, 0⟩
/-- R207 -/
def IMG_DISCARD : Nat := 0x21000C0
def IMG_DISCARD_COUNT : Fld := ⟨IMG_DISCARD, 31, 0⟩
/-- R233 -/
def MAC_STAT (n i : Nat) : Nat := 0x400800 + n * 0x10000 + i * 8
def MAC_STAT_COUNT (n i : Nat) : Fld := ⟨MAC_STAT n i, 47, 0⟩
/-- R234 -/
def MAC_QUEUE_STAT (n i : Nat) : Nat := 0x400C00 + n * 0x10000 + i * 8
def MAC_QUEUE_STAT_FRAMES (n i : Nat) : Fld := ⟨MAC_QUEUE_STAT n i, 31, 0⟩
def MAC_QUEUE_STAT_DROPS (n i : Nat) : Fld := ⟨MAC_QUEUE_STAT n i, 63, 32⟩
/-- R235 -/
def MAC_CTRL (n : Nat) : Nat := 0x400000 + n * 0x10000
def MAC_CTRL_MODE (n : Nat) : Fld := ⟨MAC_CTRL n, 2, 0⟩
def MAC_CTRL_AN_EN (n : Nat) : Fld := ⟨MAC_CTRL n, 3, 3⟩
def MAC_CTRL_MEDIA (n : Nat) : Fld := ⟨MAC_CTRL n, 5, 4⟩
def MAC_CTRL_MAX_LEN (n : Nat) : Fld := ⟨MAC_CTRL n, 19, 6⟩
def MAC_CTRL_PROMISC (n : Nat) : Fld := ⟨MAC_CTRL n, 20, 20⟩
def MAC_CTRL_MCAST_EN (n : Nat) : Fld := ⟨MAC_CTRL n, 21, 21⟩
def MAC_CTRL_BCAST_EN (n : Nat) : Fld := ⟨MAC_CTRL n, 22, 22⟩
def MAC_CTRL_PTP_MGMT (n : Nat) : Fld := ⟨MAC_CTRL n, 23, 23⟩
def MAC_CTRL_DEF_PRIO (n : Nat) : Fld := ⟨MAC_CTRL n, 26, 24⟩
def MAC_CTRL_DEF_QUEUE (n : Nat) : Fld := ⟨MAC_CTRL n, 30, 27⟩
def MAC_CTRL_TX_DEF_PRIO (n : Nat) : Fld := ⟨MAC_CTRL n, 33, 31⟩
/-- R236 -/
def MAC_STATUS (n : Nat) : Nat := 0x400008 + n * 0x10000
def MAC_STATUS_LINK_UP (n : Nat) : Fld := ⟨MAC_STATUS n, 0, 0⟩
def MAC_STATUS_TRAINING (n : Nat) : Fld := ⟨MAC_STATUS n, 1, 1⟩
def MAC_STATUS_RX_PAUSED (n : Nat) : Fld := ⟨MAC_STATUS n, 11, 4⟩
def MAC_STATUS_TX_XOFF (n : Nat) : Fld := ⟨MAC_STATUS n, 19, 12⟩
def MAC_STATUS_CELLS_FREE (n : Nat) : Fld := ⟨MAC_STATUS n, 44, 32⟩
/-- R237 -/
def MAC_PFC_CFG (n : Nat) : Nat := 0x400010 + n * 0x10000
def MAC_PFC_CFG_FC_MODE (n : Nat) : Fld := ⟨MAC_PFC_CFG n, 1, 0⟩
def MAC_PFC_CFG_PAUSE_QUANTA (n : Nat) : Fld := ⟨MAC_PFC_CFG n, 17, 2⟩
def MAC_PFC_CFG_XOFF_CELLS (n : Nat) : Fld := ⟨MAC_PFC_CFG n, 30, 18⟩
def MAC_PFC_CFG_XON_CELLS (n : Nat) : Fld := ⟨MAC_PFC_CFG n, 43, 31⟩
def MAC_PFC_CFG_RX_HONOR (n : Nat) : Fld := ⟨MAC_PFC_CFG n, 51, 44⟩
/-- R238 -/
def MAC_STATION_ADDR (n i : Nat) : Nat := 0x400018 + n * 0x10000 + i * 8
def MAC_STATION_ADDR_ADDR (n i : Nat) : Fld := ⟨MAC_STATION_ADDR n i, 47, 0⟩
def MAC_STATION_ADDR_VALID (n i : Nat) : Fld := ⟨MAC_STATION_ADDR n i, 48, 48⟩
/-- R239 -/
def MAC_FILTER_RULE (n i : Nat) : Nat := 0x400100 + n * 0x10000 + i * 8
def MAC_FILTER_RULE_EN (n i : Nat) : Fld := ⟨MAC_FILTER_RULE n i, 0, 0⟩
def MAC_FILTER_RULE_DA (n i : Nat) : Fld := ⟨MAC_FILTER_RULE n i, 2, 1⟩
def MAC_FILTER_RULE_TAGS (n i : Nat) : Fld := ⟨MAC_FILTER_RULE n i, 4, 3⟩
def MAC_FILTER_RULE_VID_EN (n i : Nat) : Fld := ⟨MAC_FILTER_RULE n i, 5, 5⟩
def MAC_FILTER_RULE_VID (n i : Nat) : Fld := ⟨MAC_FILTER_RULE n i, 17, 6⟩
def MAC_FILTER_RULE_VID_SEL (n i : Nat) : Fld := ⟨MAC_FILTER_RULE n i, 18, 18⟩
def MAC_FILTER_RULE_PCP_MASK (n i : Nat) : Fld := ⟨MAC_FILTER_RULE n i, 26, 19⟩
def MAC_FILTER_RULE_ETYPE_EN (n i : Nat) : Fld := ⟨MAC_FILTER_RULE n i, 27, 27⟩
def MAC_FILTER_RULE_ETYPE (n i : Nat) : Fld := ⟨MAC_FILTER_RULE n i, 43, 28⟩
def MAC_FILTER_RULE_QUEUE (n i : Nat) : Fld := ⟨MAC_FILTER_RULE n i, 47, 44⟩
/-- R240 -/
def MAC_QUEUE_CFG (n i : Nat) : Nat := 0x400200 + n * 0x10000 + i * 8
def MAC_QUEUE_CFG_DEST (n i : Nat) : Fld := ⟨MAC_QUEUE_CFG n i, 2, 0⟩
def MAC_QUEUE_CFG_ARG (n i : Nat) : Fld := ⟨MAC_QUEUE_CFG n i, 15, 3⟩
def MAC_QUEUE_CFG_FALLBACK (n i : Nat) : Fld := ⟨MAC_QUEUE_CFG n i, 19, 16⟩
def MAC_QUEUE_CFG_BAD_DELIVER (n i : Nat) : Fld := ⟨MAC_QUEUE_CFG n i, 20, 20⟩
def MAC_QUEUE_CFG_HOLD_FCS (n i : Nat) : Fld := ⟨MAC_QUEUE_CFG n i, 21, 21⟩
def MAC_QUEUE_CFG_PRIO (n i : Nat) : Fld := ⟨MAC_QUEUE_CFG n i, 24, 22⟩
def MAC_QUEUE_CFG_MIN_CELLS (n i : Nat) : Fld := ⟨MAC_QUEUE_CFG n i, 37, 25⟩
def MAC_QUEUE_CFG_MAX_CELLS (n i : Nat) : Fld := ⟨MAC_QUEUE_CFG n i, 50, 38⟩
/-- R264 -/
def PRH_FRONT_CTRL (n : Nat) : Nat := 0x600000 + n * 0x10000
def PRH_FRONT_CTRL_HORIZON (n : Nat) : Fld := ⟨PRH_FRONT_CTRL n, 8, 0⟩
def PRH_FRONT_CTRL_NINSTR (n : Nat) : Fld := ⟨PRH_FRONT_CTRL n, 15, 9⟩
def PRH_FRONT_CTRL_NFEAT (n : Nat) : Fld := ⟨PRH_FRONT_CTRL n, 22, 16⟩
def PRH_FRONT_CTRL_NBOUND (n : Nat) : Fld := ⟨PRH_FRONT_CTRL n, 34, 23⟩
/-- R265 -/
def PRH_FRONT_STATUS (n : Nat) : Nat := 0x600008 + n * 0x10000
def PRH_FRONT_STATUS_CTX_BUSY (n : Nat) : Fld := ⟨PRH_FRONT_STATUS n, 15, 0⟩
def PRH_FRONT_STATUS_LAST_FEAT (n : Nat) : Fld := ⟨PRH_FRONT_STATUS n, 21, 16⟩
def PRH_FRONT_STATUS_LAST_CAUSE (n : Nat) : Fld := ⟨PRH_FRONT_STATUS n, 24, 22⟩
def PRH_FRONT_STATUS_LAST_QUEUE (n : Nat) : Fld := ⟨PRH_FRONT_STATUS n, 28, 25⟩
def PRH_FRONT_STATUS_LAST_VALID (n : Nat) : Fld := ⟨PRH_FRONT_STATUS n, 29, 29⟩
/-- R266 -/
def PRH_FRONT_PROG (n i : Nat) : Nat := 0x601000 + n * 0x10000 + i * 8
def PRH_FRONT_PROG_INSTR (n i : Nat) : Fld := ⟨PRH_FRONT_PROG n i, 63, 0⟩
/-- R267 -/
def PRH_FRONT_DESC (n i : Nat) : Nat := 0x601200 + n * 0x10000 + i * 8
def PRH_FRONT_DESC_WORD (n i : Nat) : Fld := ⟨PRH_FRONT_DESC n i, 63, 0⟩
/-- R268 -/
def PRH_FRONT_BOUND (n i : Nat) : Nat := 0x602000 + n * 0x10000 + i * 8
def PRH_FRONT_BOUND_BOUND (n i : Nat) : Fld := ⟨PRH_FRONT_BOUND n i, 31, 0⟩
/-- R302 -/
def PRH_EVAL_STATUS (n : Nat) : Nat := 0x600010 + n * 0x10000
def PRH_EVAL_STATUS_WAVES_USED (n : Nat) : Fld := ⟨PRH_EVAL_STATUS n, 4, 0⟩
def PRH_EVAL_STATUS_LEAVES_USED (n : Nat) : Fld := ⟨PRH_EVAL_STATUS n, 25, 5⟩
def PRH_EVAL_STATUS_REPLY_Q (n : Nat) : Fld := ⟨PRH_EVAL_STATUS n, 30, 26⟩
def PRH_EVAL_STATUS_RETRACT_Q (n : Nat) : Fld := ⟨PRH_EVAL_STATUS n, 35, 31⟩
/-- R303 -/
def PRH_REPLY_CFG (n : Nat) : Nat := 0x600018 + n * 0x10000
def PRH_REPLY_CFG_RETRACT_ETYPE (n : Nat) : Fld := ⟨PRH_REPLY_CFG n, 15, 0⟩
/-- R304 -/
def PRH_REPLY_SEQ (n : Nat) : Nat := 0x600020 + n * 0x10000
def PRH_REPLY_SEQ_NEXT (n : Nat) : Fld := ⟨PRH_REPLY_SEQ n, 31, 0⟩
/-- R305 -/
def PRH_ENS_INFO (n i : Nat) : Nat := 0x600300 + n * 0x10000 + i * 8
def PRH_ENS_INFO_NTREE (n i : Nat) : Fld := ⟨PRH_ENS_INFO n i, 12, 0⟩
def PRH_ENS_INFO_NOUT (n i : Nat) : Fld := ⟨PRH_ENS_INFO n i, 16, 13⟩
def PRH_ENS_INFO_LEAF_TYPE (n i : Nat) : Fld := ⟨PRH_ENS_INFO n i, 17, 17⟩
def PRH_ENS_INFO_FRAC (n i : Nat) : Fld := ⟨PRH_ENS_INFO n i, 22, 18⟩
def PRH_ENS_INFO_WAVE0 (n i : Nat) : Fld := ⟨PRH_ENS_INFO n i, 26, 23⟩
def PRH_ENS_INFO_NWAVE (n i : Nat) : Fld := ⟨PRH_ENS_INFO n i, 31, 27⟩
def PRH_ENS_INFO_LEAF_BASE (n i : Nat) : Fld := ⟨PRH_ENS_INFO n i, 51, 32⟩
/-- R306 -/
def PRH_ESC (n i : Nat) : Nat := 0x600400 + n * 0x10000 + i * 8
def PRH_ESC_LO (n i : Nat) : Fld := ⟨PRH_ESC n i, 31, 0⟩
def PRH_ESC_HI (n i : Nat) : Fld := ⟨PRH_ESC n i, 63, 32⟩
/-- R308 -/
def IBX_CTRL : Nat := 0x800000
def IBX_CTRL_BATCH_WAIT : Fld := ⟨IBX_CTRL, 9, 0⟩
def IBX_CTRL_BATCH_MAX : Fld := ⟨IBX_CTRL, 16, 10⟩
/-- R309 -/
def IBX_STATUS : Nat := 0x800008
def IBX_STATUS_PENDING : Fld := ⟨IBX_STATUS, 12, 0⟩
def IBX_STATUS_BUSY : Fld := ⟨IBX_STATUS, 13, 13⟩
def IBX_STATUS_WAIT_HOST : Fld := ⟨IBX_STATUS, 14, 14⟩
def IBX_STATUS_MODEL : Fld := ⟨IBX_STATUS, 27, 16⟩
def IBX_STATUS_CLOSED : Fld := ⟨IBX_STATUS, 43, 32⟩
/-- R310 -/
def IBX_CMD : Nat := 0x800010
def IBX_CMD_OP : Fld := ⟨IBX_CMD, 2, 0⟩
def IBX_CMD_MODEL : Fld := ⟨IBX_CMD, 27, 16⟩
/-- R311 -/
def IBX_MODEL_SEL : Nat := 0x800018
def IBX_MODEL_SEL_MODEL : Fld := ⟨IBX_MODEL_SEL, 11, 0⟩
/-- R312 -/
def IBX_MODEL_INFO : Nat := 0x800020
def IBX_MODEL_INFO_STATE : Fld := ⟨IBX_MODEL_INFO, 1, 0⟩
def IBX_MODEL_INFO_NSHARD : Fld := ⟨IBX_MODEL_INFO, 6, 2⟩
def IBX_MODEL_INFO_NTREE : Fld := ⟨IBX_MODEL_INFO, 27, 7⟩
def IBX_MODEL_INFO_NOUT : Fld := ⟨IBX_MODEL_INFO, 31, 28⟩
/-- R335 -/
def TIME_CTRL : Nat := 0x200000
def TIME_CTRL_MODE : Fld := ⟨TIME_CTRL, 0, 0⟩
def TIME_CTRL_CLK_SRC : Fld := ⟨TIME_CTRL, 1, 1⟩
def TIME_CTRL_PPS_IN_POL : Fld := ⟨TIME_CTRL, 2, 2⟩
def TIME_CTRL_PPS_OUT_EN : Fld := ⟨TIME_CTRL, 3, 3⟩
def TIME_CTRL_PPS_OUT_POL : Fld := ⟨TIME_CTRL, 4, 4⟩
/-- R336 -/
def TIME_STATUS : Nat := 0x200008
def TIME_STATUS_REF_LOCKED : Fld := ⟨TIME_STATUS, 0, 0⟩
def TIME_STATUS_HOLDOVER : Fld := ⟨TIME_STATUS, 1, 1⟩
def TIME_STATUS_PPS_STUCK : Fld := ⟨TIME_STATUS, 2, 2⟩
def TIME_STATUS_SLEWING : Fld := ⟨TIME_STATUS, 3, 3⟩
def TIME_STATUS_WAIT_HOST : Fld := ⟨TIME_STATUS, 4, 4⟩
def TIME_STATUS_TRIM_DEFAULT : Fld := ⟨TIME_STATUS, 5, 5⟩
def TIME_STATUS_NOW_HI : Fld := ⟨TIME_STATUS, 63, 48⟩
/-- R337 -/
def TIME_INC : Nat := 0x200010
def TIME_INC_INC : Fld := ⟨TIME_INC, 47, 0⟩
/-- R338 -/
def TIME_RATE_SLEW : Nat := 0x200018
def TIME_RATE_SLEW_RATE : Fld := ⟨TIME_RATE_SLEW, 31, 0⟩
def TIME_RATE_SLEW_SLEW : Fld := ⟨TIME_RATE_SLEW, 63, 32⟩
/-- R339 -/
def TIME_ADJ : Nat := 0x200020
def TIME_ADJ_ADJ : Fld := ⟨TIME_ADJ, 63, 0⟩
/-- R340 -/
def TIME_CMD : Nat := 0x200028
def TIME_CMD_OP : Fld := ⟨TIME_CMD, 2, 0⟩
def TIME_CMD_LOAD_HI : Fld := ⟨TIME_CMD, 31, 16⟩
/-- R341 -/
def TIME_NOW : Nat := 0x200040
def TIME_NOW_NOW : Fld := ⟨TIME_NOW, 63, 0⟩
/-- R342 -/
def TIME_PPS_IN : Nat := 0x200060
def TIME_PPS_IN_CAP : Fld := ⟨TIME_PPS_IN, 63, 0⟩
/-- R343 -/
def TIME_PPS_STAT : Nat := 0x200068
def TIME_PPS_STAT_IGNORED : Fld := ⟨TIME_PPS_STAT, 15, 0⟩
def TIME_PPS_STAT_GLITCH : Fld := ⟨TIME_PPS_STAT, 31, 16⟩
def TIME_PPS_STAT_CAP_HI : Fld := ⟨TIME_PPS_STAT, 47, 32⟩
def TIME_PPS_STAT_NEW : Fld := ⟨TIME_PPS_STAT, 48, 48⟩
/-- R344 -/
def TIME_PPS_OUT_NEXT : Nat := 0x200070
def TIME_PPS_OUT_NEXT_NEXT : Fld := ⟨TIME_PPS_OUT_NEXT, 63, 0⟩
/-- R345 -/
def TIME_PPS_OUT_CFG : Nat := 0x200078
def TIME_PPS_OUT_CFG_PERIOD_NS : Fld := ⟨TIME_PPS_OUT_CFG, 31, 0⟩
def TIME_PPS_OUT_CFG_WIDTH_MS : Fld := ⟨TIME_PPS_OUT_CFG, 41, 32⟩
def TIME_PPS_OUT_CFG_NEXT_HI : Fld := ⟨TIME_PPS_OUT_CFG, 63, 48⟩
/-- R346 -/
def TIME_REF_STAT : Nat := 0x200080
def TIME_REF_STAT_LOSS : Fld := ⟨TIME_REF_STAT, 31, 0⟩
def TIME_REF_STAT_GLITCH : Fld := ⟨TIME_REF_STAT, 63, 32⟩
/-- R347 -/
def TIME_ASYM (i : Nat) : Nat := 0x200100 + i * 8
def TIME_ASYM_TX_ASYM (i : Nat) : Fld := ⟨TIME_ASYM i, 31, 0⟩
def TIME_ASYM_RX_ASYM (i : Nat) : Fld := ⟨TIME_ASYM i, 63, 32⟩
/-- R348 -/
def TIME_TSQ_HEAD (i : Nat) : Nat := 0x200200 + i * 32
def TIME_TSQ_HEAD_TS_ID (i : Nat) : Fld := ⟨TIME_TSQ_HEAD i, 15, 0⟩
def TIME_TSQ_HEAD_TIME_HI (i : Nat) : Fld := ⟨TIME_TSQ_HEAD i, 31, 16⟩
def TIME_TSQ_HEAD_COUNT (i : Nat) : Fld := ⟨TIME_TSQ_HEAD i, 38, 32⟩
def TIME_TSQ_HEAD_VALID (i : Nat) : Fld := ⟨TIME_TSQ_HEAD i, 39, 39⟩
def TIME_TSQ_HEAD_POP (i : Nat) : Fld := ⟨TIME_TSQ_HEAD i, 40, 40⟩
/-- R349 -/
def TIME_TSQ_TIME (i : Nat) : Nat := 0x200208 + i * 32
def TIME_TSQ_TIME_TIME (i : Nat) : Fld := ⟨TIME_TSQ_TIME i, 63, 0⟩
/-- R350 -/
def TIME_TSQ_LOST (i : Nat) : Nat := 0x200210 + i * 32
def TIME_TSQ_LOST_OVERFLOW (i : Nat) : Fld := ⟨TIME_TSQ_LOST i, 31, 0⟩
def TIME_TSQ_LOST_LAST_ID (i : Nat) : Fld := ⟨TIME_TSQ_LOST i, 47, 32⟩
def TIME_TSQ_LOST_VALID (i : Nat) : Fld := ⟨TIME_TSQ_LOST i, 48, 48⟩
/-- R390 -/
def JRN_CTRL : Nat := 0x2000000
def JRN_CTRL_EPOCH_MS : Fld := ⟨JRN_CTRL, 9, 0⟩
def JRN_CTRL_STOP_ON_SINGLE : Fld := ⟨JRN_CTRL, 10, 10⟩
def JRN_CTRL_EXPORT : Fld := ⟨JRN_CTRL, 11, 11⟩
/-- R391 -/
def JRN_STATUS : Nat := 0x2000008
def JRN_STATUS_FULL : Fld := ⟨JRN_STATUS, 7, 0⟩
def JRN_STATUS_SINGLE : Fld := ⟨JRN_STATUS, 15, 8⟩
def JRN_STATUS_WAIT_HOST : Fld := ⟨JRN_STATUS, 16, 16⟩
/-- R392 -/
def JRN_EPOCH (i : Nat) : Nat := 0x2000010 + i * 8
def JRN_EPOCH_EPOCH (i : Nat) : Fld := ⟨JRN_EPOCH i, 63, 0⟩
/-- R393 -/
def JRN_STREAM_SEL : Nat := 0x2000020
def JRN_STREAM_SEL_STREAM : Fld := ⟨JRN_STREAM_SEL, 11, 0⟩
/-- R394 -/
def JRN_STREAM_SEQ (i : Nat) : Nat := 0x2000028 + i * 8
def JRN_STREAM_SEQ_SEQ (i : Nat) : Fld := ⟨JRN_STREAM_SEQ i, 63, 0⟩
/-- R395 -/
def JRN_CMD : Nat := 0x2000040
def JRN_CMD_OP : Fld := ⟨JRN_CMD, 3, 0⟩
def JRN_CMD_GROUP : Fld := ⟨JRN_CMD, 11, 4⟩
/-- R396 -/
def FLT_STATUS : Nat := 0x2300000
def FLT_STATUS_STATE : Fld := ⟨FLT_STATUS, 3, 0⟩
def FLT_STATUS_WAIT_HOST : Fld := ⟨FLT_STATUS, 4, 4⟩
def FLT_STATUS_EXHAUSTED : Fld := ⟨FLT_STATUS, 5, 5⟩
def FLT_STATUS_HERD : Fld := ⟨FLT_STATUS, 15, 6⟩
def FLT_STATUS_RESERVE_FREE : Fld := ⟨FLT_STATUS, 21, 16⟩
/-- R397 -/
def FLT_CMD : Nat := 0x2300008
def FLT_CMD_OP : Fld := ⟨FLT_CMD, 2, 0⟩
def FLT_CMD_HERD : Fld := ⟨FLT_CMD, 12, 3⟩
/-- R398 -/
def FLT_REMAP : Nat := 0x2300010
def FLT_REMAP_HERD : Fld := ⟨FLT_REMAP, 9, 0⟩
def FLT_REMAP_KIND : Fld := ⟨FLT_REMAP, 11, 10⟩
def FLT_REMAP_PX : Fld := ⟨FLT_REMAP, 17, 12⟩
def FLT_REMAP_PY : Fld := ⟨FLT_REMAP, 23, 18⟩
def FLT_REMAP_VALID : Fld := ⟨FLT_REMAP, 24, 24⟩
/-- R398 -/
def FLT_COUNT : Nat := 0x2300018
def FLT_COUNT_REMAPS : Fld := ⟨FLT_COUNT, 15, 0⟩
def FLT_COUNT_MOVES : Fld := ⟨FLT_COUNT, 31, 16⟩
def FLT_COUNT_RECOVERIES : Fld := ⟨FLT_COUNT, 47, 32⟩
def FLT_COUNT_MISSED : Fld := ⟨FLT_COUNT, 63, 48⟩
/-- R421 -/
def BRU_CTRL : Nat := 0x2200000
def BRU_CTRL_WARM_BIST : Fld := ⟨BRU_CTRL, 0, 0⟩
def BRU_CTRL_WARM_TRAIN : Fld := ⟨BRU_CTRL, 1, 1⟩
def BRU_CTRL_HOLD_RELEASE : Fld := ⟨BRU_CTRL, 2, 2⟩
/-- R422 -/
def BRU_STATUS : Nat := 0x2200008
def BRU_STATUS_STAGE : Fld := ⟨BRU_STATUS, 2, 0⟩
def BRU_STATUS_WARM : Fld := ⟨BRU_STATUS, 3, 3⟩
def BRU_STATUS_WAIT_HOST : Fld := ⟨BRU_STATUS, 4, 4⟩
def BRU_STATUS_WAIT_IMAGE : Fld := ⟨BRU_STATUS, 5, 5⟩
def BRU_STATUS_LATE : Fld := ⟨BRU_STATUS, 6, 6⟩
def BRU_STATUS_FROZEN : Fld := ⟨BRU_STATUS, 7, 7⟩
def BRU_STATUS_EXHAUSTED : Fld := ⟨BRU_STATUS, 8, 8⟩
def BRU_STATUS_DONE : Fld := ⟨BRU_STATUS, 9, 9⟩
def BRU_STATUS_ELAPSED_MS : Fld := ⟨BRU_STATUS, 63, 32⟩
/-- R423 -/
def BRU_CMD : Nat := 0x2200010
def BRU_CMD_OP : Fld := ⟨BRU_CMD, 2, 0⟩
def BRU_CMD_PX : Fld := ⟨BRU_CMD, 14, 4⟩
def BRU_CMD_PY : Fld := ⟨BRU_CMD, 25, 15⟩
def BRU_CMD_MAC : Fld := ⟨BRU_CMD, 29, 26⟩
/-- R424 -/
def BRU_BIST_SUM : Nat := 0x2200018
def BRU_BIST_SUM_TILES_FAILED : Fld := ⟨BRU_BIST_SUM, 20, 0⟩
def BRU_BIST_SUM_ROUTERS_BYPASSED : Fld := ⟨BRU_BIST_SUM, 32, 21⟩
def BRU_BIST_SUM_HERDS_MOVED : Fld := ⟨BRU_BIST_SUM, 38, 33⟩
def BRU_BIST_SUM_RESERVE_PASS : Fld := ⟨BRU_BIST_SUM, 44, 39⟩
/-- R425 -/
def BRU_BCAST_STAT : Nat := 0x2200020
def BRU_BCAST_STAT_ROUNDS : Fld := ⟨BRU_BCAST_STAT, 1, 0⟩
def BRU_BCAST_STAT_MISSING : Fld := ⟨BRU_BCAST_STAT, 22, 2⟩
def BRU_BCAST_STAT_RETIRED : Fld := ⟨BRU_BCAST_STAT, 43, 23⟩
def BRU_BCAST_STAT_NUMBER : Fld := ⟨BRU_BCAST_STAT, 51, 44⟩
/-- R426 -/
def BRU_MAP_SEL : Nat := 0x2200028
def BRU_MAP_SEL_PHX : Fld := ⟨BRU_MAP_SEL, 5, 0⟩
def BRU_MAP_SEL_PHY : Fld := ⟨BRU_MAP_SEL, 10, 6⟩
def BRU_MAP_SEL_ROW : Fld := ⟨BRU_MAP_SEL, 16, 11⟩
/-- R427 -/
def BRU_MAP : Nat := 0x2200030
def BRU_MAP_LOGICAL : Fld := ⟨BRU_MAP, 9, 0⟩
def BRU_MAP_HOLDS : Fld := ⟨BRU_MAP, 10, 10⟩
def BRU_MAP_RETIRED : Fld := ⟨BRU_MAP, 11, 11⟩
def BRU_MAP_SKIP_ROW : Fld := ⟨BRU_MAP, 17, 12⟩
def BRU_MAP_SKIP_TILE : Fld := ⟨BRU_MAP, 23, 18⟩
/-- R450 -/
def PWR_CTRL : Nat := 0x100000
def PWR_CTRL_CAP_W : Fld := ⟨PWR_CTRL, 15, 0⟩
def PWR_CTRL_FORCE_MIN : Fld := ⟨PWR_CTRL, 16, 16⟩
def PWR_CTRL_ACK : Fld := ⟨PWR_CTRL, 17, 17⟩
/-- R451 -/
def PWR_STATUS : Nat := 0x100008
def PWR_STATUS_ALERT_IN : Fld := ⟨PWR_STATUS, 0, 0⟩
def PWR_STATUS_ALERT_OUT : Fld := ⟨PWR_STATUS, 1, 1⟩
def PWR_STATUS_COOL_DERATE : Fld := ⟨PWR_STATUS, 2, 2⟩
def PWR_STATUS_COOL_FAULT : Fld := ⟨PWR_STATUS, 3, 3⟩
def PWR_STATUS_OVER : Fld := ⟨PWR_STATUS, 4, 4⟩
def PWR_STATUS_CAL_STATE : Fld := ⟨PWR_STATUS, 6, 5⟩
def PWR_STATUS_WAIT_HOST : Fld := ⟨PWR_STATUS, 7, 7⟩
def PWR_STATUS_WAIT_COOL : Fld := ⟨PWR_STATUS, 8, 8⟩
def PWR_STATUS_SENSOR_LOST : Fld := ⟨PWR_STATUS, 11, 9⟩
def PWR_STATUS_BUDGET_W : Fld := ⟨PWR_STATUS, 47, 32⟩
/-- R452 -/
def PWR_MEAS : Nat := 0x100010
def PWR_MEAS_P_DIST_W : Fld := ⟨PWR_MEAS, 15, 0⟩
def PWR_MEAS_P_STK_W : Fld := ⟨PWR_MEAS, 27, 16⟩
def PWR_MEAS_P_FIX_W : Fld := ⟨PWR_MEAS, 37, 28⟩
def PWR_MEAS_JMAX : Fld := ⟨PWR_MEAS, 45, 38⟩
def PWR_MEAS_JMAX_DOM : Fld := ⟨PWR_MEAS, 52, 46⟩
/-- R453 -/
def PWR_COOL : Nat := 0x100018
def PWR_COOL_FLOW : Fld := ⟨PWR_COOL, 15, 0⟩
def PWR_COOL_TIN : Fld := ⟨PWR_COOL, 27, 16⟩
def PWR_COOL_TOUT : Fld := ⟨PWR_COOL, 39, 28⟩
/-- R454 -/
def PWR_DOM_SEL : Nat := 0x100020
def PWR_DOM_SEL_DOMAIN : Fld := ⟨PWR_DOM_SEL, 6, 0⟩
/-- R455 -/
def PWR_DOM : Nat := 0x100028
def PWR_DOM_REQ : Fld := ⟨PWR_DOM, 12, 0⟩
def PWR_DOM_GRANT : Fld := ⟨PWR_DOM, 25, 13⟩
def PWR_DOM_FLOOR : Fld := ⟨PWR_DOM, 38, 26⟩
def PWR_DOM_VOLT : Fld := ⟨PWR_DOM, 43, 39⟩
def PWR_DOM_TEMP : Fld := ⟨PWR_DOM, 51, 44⟩
def PWR_DOM_ON : Fld := ⟨PWR_DOM, 52, 52⟩
def PWR_DOM_THROTTLE : Fld := ⟨PWR_DOM, 53, 53⟩
/-- R456 -/
def PWR_DOM_CFG : Nat := 0x100030
def PWR_DOM_CFG_CEIL : Fld := ⟨PWR_DOM_CFG, 12, 0⟩
def PWR_DOM_CFG_PRIO : Fld := ⟨PWR_DOM_CFG, 14, 13⟩
def PWR_DOM_CFG_WEIGHT : Fld := ⟨PWR_DOM_CFG, 22, 15⟩
def PWR_DOM_CFG_VMAX : Fld := ⟨PWR_DOM_CFG, 27, 23⟩
/-- R457 -/
def PWR_ALERT_STAT : Nat := 0x100038
def PWR_ALERT_STAT_ALERT_GLITCH : Fld := ⟨PWR_ALERT_STAT, 15, 0⟩
def PWR_ALERT_STAT_COOL_GLITCH : Fld := ⟨PWR_ALERT_STAT, 31, 16⟩
def PWR_ALERT_STAT_ALERTS : Fld := ⟨PWR_ALERT_STAT, 47, 32⟩
/-- R458 -/
def PWR_CAL_ADDR : Nat := 0x100100
def PWR_CAL_ADDR_WORD : Fld := ⟨PWR_CAL_ADDR, 10, 0⟩
def PWR_CAL_ADDR_BUF : Fld := ⟨PWR_CAL_ADDR, 11, 11⟩
def PWR_CAL_ADDR_AUTOINC : Fld := ⟨PWR_CAL_ADDR, 12, 12⟩
/-- R458 -/
def PWR_CAL_DATA : Nat := 0x100108
def PWR_CAL_DATA_DATA : Fld := ⟨PWR_CAL_DATA, 63, 0⟩
/-- R459 -/
def PWR_CAL_CTL : Nat := 0x100110
def PWR_CAL_CTL_OP : Fld := ⟨PWR_CAL_CTL, 1, 0⟩
def PWR_CAL_CTL_BUSY : Fld := ⟨PWR_CAL_CTL, 2, 2⟩
def PWR_CAL_CTL_DONE : Fld := ⟨PWR_CAL_CTL, 3, 3⟩
def PWR_CAL_CTL_FAIL : Fld := ⟨PWR_CAL_CTL, 4, 4⟩
def PWR_CAL_CTL_FAIL_WHY : Fld := ⟨PWR_CAL_CTL, 7, 5⟩
def PWR_CAL_CTL_CONFIRM : Fld := ⟨PWR_CAL_CTL, 63, 48⟩
/-- R483 -/
def GLB_ID : Nat := 0x0
def GLB_ID_DEVICE : Fld := ⟨GLB_ID, 15, 0⟩
def GLB_ID_REV : Fld := ⟨GLB_ID, 23, 16⟩
def GLB_ID_ROLE : Fld := ⟨GLB_ID, 39, 32⟩
def GLB_ID_INDEX : Fld := ⟨GLB_ID, 47, 40⟩
/-- R484 -/
def GLB_RESET_CTL : Nat := 0x10
def GLB_RESET_CTL_WARM : Fld := ⟨GLB_RESET_CTL, 0, 0⟩
def GLB_RESET_CTL_HERD : Fld := ⟨GLB_RESET_CTL, 1, 1⟩
def GLB_RESET_CTL_PORT : Fld := ⟨GLB_RESET_CTL, 2, 2⟩
def GLB_RESET_CTL_FUNC : Fld := ⟨GLB_RESET_CTL, 3, 3⟩
def GLB_RESET_CTL_HERD_IDX : Fld := ⟨GLB_RESET_CTL, 13, 4⟩
def GLB_RESET_CTL_MAC : Fld := ⟨GLB_RESET_CTL, 17, 14⟩
def GLB_RESET_CTL_LAST_CAUSE : Fld := ⟨GLB_RESET_CTL, 22, 20⟩
def GLB_RESET_CTL_BUSY : Fld := ⟨GLB_RESET_CTL, 24, 24⟩
def GLB_RESET_CTL_CONFIRM : Fld := ⟨GLB_RESET_CTL, 63, 48⟩
/-- R485 -/
def GLB_MODE : Nat := 0x20
def GLB_MODE_MODE : Fld := ⟨GLB_MODE, 8, 0⟩
def GLB_MODE_WAIT : Fld := ⟨GLB_MODE, 24, 16⟩
/-- R486 -/
def GLB_ASSIST_CMD : Nat := 0x30
def GLB_ASSIST_CMD_FUNCTION : Fld := ⟨GLB_ASSIST_CMD, 3, 0⟩
def GLB_ASSIST_CMD_OP : Fld := ⟨GLB_ASSIST_CMD, 6, 4⟩
def GLB_ASSIST_CMD_STACK : Fld := ⟨GLB_ASSIST_CMD, 11, 8⟩
def GLB_ASSIST_CMD_CH : Fld := ⟨GLB_ASSIST_CMD, 16, 12⟩
def GLB_ASSIST_CMD_DEFER_MS : Fld := ⟨GLB_ASSIST_CMD, 26, 17⟩
/-- R487 -/
def GLB_EVENT_LOST : Nat := 0x38
def GLB_EVENT_LOST_COUNT : Fld := ⟨GLB_EVENT_LOST, 31, 0⟩
def GLB_EVENT_LOST_LAST_CODE : Fld := ⟨GLB_EVENT_LOST, 47, 32⟩
def GLB_EVENT_LOST_VALID : Fld := ⟨GLB_EVENT_LOST, 48, 48⟩
/-- R488 -/
def GLB_HARVEST : Nat := 0x40
def GLB_HARVEST_PERIOD_MS : Fld := ⟨GLB_HARVEST, 15, 0⟩
def GLB_HARVEST_PASSES : Fld := ⟨GLB_HARVEST, 47, 16⟩
/-- R489 -/
def GLB_EXPORT_BASE : Nat := 0x48
def GLB_EXPORT_BASE_LOG2_SIZE : Fld := ⟨GLB_EXPORT_BASE, 5, 0⟩
def GLB_EXPORT_BASE_ADDR : Fld := ⟨GLB_EXPORT_BASE, 63, 12⟩
/-- R490 -/
def GLB_EXPORT_PTR : Nat := 0x50
def GLB_EXPORT_PTR_PROD : Fld := ⟨GLB_EXPORT_PTR, 31, 0⟩
def GLB_EXPORT_PTR_CONS : Fld := ⟨GLB_EXPORT_PTR, 63, 32⟩
/-- R491 -/
def GLB_BAR4_AP (i : Nat) : Nat := 0x100 + i * 8
def GLB_BAR4_AP_STACK (i : Nat) : Fld := ⟨GLB_BAR4_AP i, 3, 0⟩
def GLB_BAR4_AP_EN (i : Nat) : Fld := ⟨GLB_BAR4_AP i, 4, 4⟩
def GLB_BAR4_AP_BASE (i : Nat) : Fld := ⟨GLB_BAR4_AP i, 18, 8⟩
/-- R492 -/
def MBX_DOOR (i : Nat) : Nat := 0x3000000 + i * 16
def MBX_DOOR_POST (i : Nat) : Fld := ⟨MBX_DOOR i, 0, 0⟩
def MBX_DOOR_LEN (i : Nat) : Fld := ⟨MBX_DOOR i, 32, 16⟩
/-- R493 -/
def MBX_STAT (i : Nat) : Nat := 0x3000008 + i * 16
def MBX_STAT_BUSY (i : Nat) : Fld := ⟨MBX_STAT i, 0, 0⟩
def MBX_STAT_REPLY (i : Nat) : Fld := ⟨MBX_STAT i, 1, 1⟩
def MBX_STAT_EXPIRED (i : Nat) : Fld := ⟨MBX_STAT i, 2, 2⟩
def MBX_STAT_REJECTED (i : Nat) : Fld := ⟨MBX_STAT i, 3, 3⟩
def MBX_STAT_RLEN (i : Nat) : Fld := ⟨MBX_STAT i, 32, 16⟩
/-- R269 -/
def PRH_STAT_FRONT (n i : Nat) : Nat := 0x600100 + n * 0x10000 + i * 8
def PRH_STAT_FRONT_COUNT (n i : Nat) : Fld := ⟨PRH_STAT_FRONT n i, 47, 0⟩
/-- R307 -/
def PRH_STAT_EVAL (n i : Nat) : Nat := 0x600200 + n * 0x10000 + i * 8
def PRH_STAT_EVAL_COUNT (n i : Nat) : Fld := ⟨PRH_STAT_EVAL n i, 47, 0⟩
/-- R313 -/
def IBX_STAT (i : Nat) : Nat := 0x800100 + i * 8
def IBX_STAT_COUNT (i : Nat) : Fld := ⟨IBX_STAT i, 47, 0⟩

/-! Indexes of the frame counters MACn_STAT (R233). -/
def RX_FRAMES_OK : Nat := 0
def RX_BYTES_OK : Nat := 1
def RX_FCS_ERR : Nat := 2
def RX_RUNT : Nat := 3
def RX_OVERSIZE : Nat := 4
def RX_PCS_ERR : Nat := 5
def RX_TRUNC : Nat := 6
def RX_DA_DROP : Nat := 7
def RX_OVERFLOW_DROP : Nat := 8
def RX_BAD_DELIVERED : Nat := 9
def RX_PAUSE : Nat := 10
def RX_PFC : Nat := 11
def RX_HT : Nat := 12
def RX_PTP_MGMT : Nat := 13
def TX_FRAMES : Nat := 14
def TX_BYTES : Nat := 15
def TX_PAUSE : Nat := 16
def TX_OVERSIZE_DROP : Nat := 17
def TX_ABORT : Nat := 18
def TX_PAUSED_REPLY : Nat := 19
def FEC_CORR_CW : Nat := 20
def FEC_UNCORR_CW : Nat := 21
def FEC_SYMBOLS : Nat := 22
def TX_BAD_DESC : Nat := 23

/-! Indexes of PRHn_STAT_FRONT (R269) and PRHn_STAT_EVAL (R307), and of IBX_STAT (R313). -/
def FRAMES_IN : Nat := 0
def VECTORS_OUT : Nat := 1
def NS_NO_CONTEXT : Nat := 2
def NS_PASS : Nat := 3
def INVALID_REJECT : Nat := 4
def MAPPED : Nat := 5
def REPLIES : Nat := 0
def REPLY_CANCELLED : Nat := 1
def RETRACTS : Nat := 2
def ESCALATED : Nat := 3
def NS_BUSY : Nat := 4
def NS_TXFULL : Nat := 5
def HELD_RETRACT_FULL : Nat := 6
def IBX_BATCHES : Nat := 0
def IBX_VECTORS : Nat := 1
def IBX_UNSCORED : Nat := 2
def IBX_REPLIES : Nat := 3

end Reg

/-- The stored reset value of a register (R21): its fields' reset values; STACK of GLB_BAR4_APa is a. -/
def resetVal (off : Nat) : Word :=
  match rowAt off with
  | none => 0
  | some (r, i) =>
    BitVec.ofNat 64 (r.fields.foldl (fun a f => a + f.reset * 2 ^ f.lo) 0
      + (if 0x100 ≤ off ∧ off < 0x180 then i else 0))

end Sys2Proof.Machine
end

