-- ==== Sys2Proof/Machine/Ops.lean ====
section
/-! DEFINITION. Shared operations on the state: registers and counters (R17 to R21), device time, event
records and outputs (R473, R474), power, and the parts that sparse tables hold. -/

namespace Sys2Proof

/-- The key of a logical tile: (x << 10) | y, as event records name it (R473). -/
def tileKey (x y : Nat) : Nat := x * 1024 + y

def Coord.key (c : Coord) : Nat := tileKey c.x.val c.y.val

end Sys2Proof

namespace Sys2Proof.Machine

abbrev Result := Host.Outcome State Fault Refusal

/-- A meaning as a change of the state. No command but those that say so touches the fuses, and none
touches the waiting commands. -/
def act (f : State → State) (s : State) : Result :=
  .next { f s with fuses := s.fuses, pending := s.pending }

/-- A meaning that may change the fuses as well. -/
def actFuses (f : State → State) (s : State) : Result :=
  .next { f s with pending := s.pending }

/-- Applies a change when a condition holds, else nothing. -/
def State.when (s : State) (c : Bool) (f : State → State) : State := if c then f s else s

/-- Applies a change for each element of a list, in its order. -/
def State.forEach {α : Type} (s : State) (l : List α) (f : State → α → State) : State := l.foldl f s

/-! ### Registers -/

/-- The stored bits of a register. -/
def State.reg (s : State) (off : Nat) : Word := NatMap.get s.regs (resetVal off) off

def State.setReg (s : State) (off : Nat) (w : Word) : State :=
  { s with regs := NatMap.put s.regs (resetVal off) off w }

/-- The stored value of a field. -/
def State.rd (s : State) (f : Fld) : Nat := bits (s.reg f.off).toNat f.hi f.lo

def State.rdb (s : State) (f : Fld) : Bool := s.rd f != 0

def State.wr (s : State) (f : Fld) (v : Nat) : State :=
  s.setReg f.off (BitVec.ofNat 64 (setBits (s.reg f.off).toNat f.hi f.lo v))

/-- The largest value of a field. -/
def Fld.max (f : Fld) : Nat := 2 ^ (f.hi + 1 - f.lo) - 1

/-- Adds to a counter that holds at its largest value (R44, R128, R176, R179, R207, R233). -/
def State.count (s : State) (f : Fld) (n : Nat) : State := s.wr f (min (s.rd f + n) f.max)

/-- Adds to a counter that wraps (R488). -/
def State.countWrap (s : State) (f : Fld) (n : Nat) : State := s.wr f ((s.rd f + n) % (f.max + 1))

/-- Puts every register of a BAR0 range back to its reset value. -/
def State.resetRegs (s : State) (lo hi : Nat) : State :=
  { s with regs := s.regs.filter (fun e => decide (e.1 < lo ∨ hi ≤ e.1)) }

/-- MACn: one of its counters of R233. -/
def State.macCount (s : State) (n i k : Nat) : State := s.count (Reg.MAC_STAT_COUNT n i) k

/-- DROPS of a receive queue (R234). -/
def State.queueDrop (s : State) (n q : Nat) : State := s.count (Reg.MAC_QUEUE_STAT_DROPS n q) 1

def State.prhFrontCount (s : State) (n i : Nat) : State := s.count (Reg.PRH_STAT_FRONT_COUNT n i) 1

def State.prhEvalCount (s : State) (n i : Nat) : State := s.count (Reg.PRH_STAT_EVAL_COUNT n i) 1

def State.ibxCount (s : State) (i k : Nat) : State := s.count (Reg.IBX_STAT_COUNT i) k

/-! ### Device time (R15, R314, R315) -/

/-- Device time: T >> 32, in 2^-16 ns. -/
def State.devTime (s : State) : BitVec 80 := BitVec.ofNat 80 (s.time.t.toNat / 2 ^ 32)

/-- Bits [63:0] of device time. -/
def State.now64 (s : State) : Word := BitVec.ofNat 64 s.devTime.toNat

/-! ### Parts held in sparse tables -/

def State.tile (s : State) (k : Nat) : Tile := NatMap.get s.tiles Tile.reset k
def State.setTile (s : State) (k : Nat) (t : Tile) : State :=
  { s with tiles := NatMap.put s.tiles Tile.reset k t }
def State.updTile (s : State) (k : Nat) (f : Tile → Tile) : State := s.setTile k (f (s.tile k))

def State.herd (s : State) (h : Nat) : Herd := NatMap.get s.herds Herd.reset h
def State.setHerd (s : State) (h : Nat) (x : Herd) : State :=
  { s with herds := NatMap.put s.herds Herd.reset h x }
def State.updHerd (s : State) (h : Nat) (f : Herd → Herd) : State := s.setHerd h (f (s.herd h))

def State.stk (s : State) (k : Nat) : Stk := NatMap.get s.stks Stk.reset k
def State.setStk (s : State) (k : Nat) (x : Stk) : State :=
  { s with stks := NatMap.put s.stks Stk.reset k x }
def State.updStk (s : State) (k : Nat) (f : Stk → Stk) : State := s.setStk k (f (s.stk k))

def State.mac (s : State) (n : Nat) : MacSt := NatMap.get s.macs MacSt.reset n
def State.setMac (s : State) (n : Nat) (x : MacSt) : State :=
  { s with macs := NatMap.put s.macs MacSt.reset n x }
def State.updMac (s : State) (n : Nat) (f : MacSt → MacSt) : State := s.setMac n (f (s.mac n))

def State.prh (s : State) (n : Nat) : Prh := NatMap.get s.prhs Prh.reset n
def State.setPrh (s : State) (n : Nat) (x : Prh) : State :=
  { s with prhs := NatMap.put s.prhs Prh.reset n x }
def State.updPrh (s : State) (n : Nat) (f : Prh → Prh) : State := s.setPrh n (f (s.prh n))

def State.snap (s : State) (k : Nat) : Snap := NatMap.get s.snaps Snap.empty k
def State.setSnap (s : State) (k : Nat) (x : Snap) : State :=
  { s with snaps := NatMap.put s.snaps Snap.empty k x }


def keyX (k : Nat) : Nat := k / 1024
def keyY (k : Nat) : Nat := k % 1024

/-- The logical herd of a tile, hy * 32 + hx with (hx, hy) = (x >> 5, y >> 5) (R4). -/
def herdOfKey (k : Nat) : Nat := (keyY k / 32) * 32 + keyX k / 32

/-- The tile keys of a herd, row after row. -/
def herdTiles (h : Nat) : List Nat :=
  (List.range 1024).map (fun i => tileKey (h % 32 * 32 + i % 32) (h / 32 * 32 + i / 32))

/-! ### Power (R26, R27, R428) -/

/-- A switched domain is on. -/
def State.pdOn (s : State) (d : Nat) : Bool :=
  match s.pwr.doms[d]? with
  | some x => x.on
  | none => false

/-- A domain switches: a powered one holds at least its FLOOR, a dark one holds nothing (R432). -/
def Dom.switch (x : Dom) (on : Bool) : Dom :=
  if on then { x with on := true, grant := max x.grant x.floor, next := max x.next x.floor }
  else { x with on := false, grant := 0, next := 0, req := 0, volt := 0, throttle := false }

def State.setPd (s : State) (d : Nat) (on : Bool) : State :=
  { s with pwr := { s.pwr with doms := s.pwr.doms.modify d (fun x => x.switch on) } }

/-- The domain that powers the registers of a block (R27, R428); none: always on while the host link is.
DEDUCED (log entry 50). -/
def blkDomain : Blk → Nat → Option Nat
  | .mac, n => some (82 + n / 2)
  | .prh, n => some (82 + n / 2)
  | .stk, n => some (66 + n)
  | .time, _ => some 92
  | .jrn, _ => some 93
  | .bru, _ => some 95
  | _, _ => none

/-- DEDUCED (log entry 50). -/
def State.blkOn (s : State) (off : Nat) : Bool :=
  match blockOf off with
  | some (b, n, _) => match blkDomain b n with
    | some d => s.pdOn d
    | none => true
  | none => true

/-! ### Events (R473, R474) -/

namespace Code
def sparseMetaCount : Nat := 0x0101
def sparseMetaTranspose : Nat := 0x0102
def sparseMetaIndex : Nat := 0x0103
def tileHandshakeTimeout : Nat := 0x0201
def tileEccUncorr : Nat := 0x0202
def tileBistFail : Nat := 0x0203
def tileFwMissing : Nat := 0x0204
def tileIllegalInstr : Nat := 0x0205
def stackEccUncorr : Nat := 0x0301
def stackChannelDown : Nat := 0x0302
def linkDown : Nat := 0x0401
def linkRetrain : Nat := 0x0402
def imageAuth : Nat := 0x0501
def imageCrc : Nat := 0x0502
def imageTarget : Nat := 0x0503
def featureInvalid : Nat := 0x0601
def modelAbsent : Nat := 0x0602
def notScored : Nat := 0x0603
def tsOverflow : Nat := 0x0701
def ppsStuck : Nat := 0x0702
def remapExhausted : Nat := 0x0801
def herdMoved : Nat := 0x0802
def powerBudget : Nat := 0x0901
def thermAlert : Nat := 0x0902
def coolFault : Nat := 0x0903
def journalFull : Nat := 0x0A01
def journalMirrorLost : Nat := 0x0A02
def hostStop : Nat := 0x0B01
def bringupStop : Nat := 0x0B0A
def mgmtWatchdog : Nat := 0x0C01
end Code

-- SOURCE values of an event record.
namespace Source
def glb : Nat := 0x00
def pwr : Nat := 0x01
def time : Nat := 0x02
def mac : Nat := 0x03
def prh : Nat := 0x04
def ibx : Nat := 0x05
def stk : Nat := 0x06
def jrn : Nat := 0x07
def img : Nat := 0x08
def bru : Nat := 0x09
def flt : Nat := 0x0A
def herd : Nat := 0x0B
def tile : Nat := 0x0C
def firmware : Nat := 0x0D
end Source

/-- SEVERITY of a code (R474): 0 info, 1 warning, 2 error, 3 fatal. THERM_ALERT is fatal with the trip
bit, COOL_FAULT for cause 1 (R441, R442, R444), JOURNAL_MIRROR_LOST with detail bit [3]. DEDUCED (log entry 57). -/
def severity (code detail : Nat) : Nat :=
  if code = Code.remapExhausted then 3
  else if code = Code.thermAlert then (if bit detail 2 then 3 else 1)
  else if code = Code.coolFault then (if detail % 4 = 1 then 3 else 2)
  else if code = Code.journalMirrorLost then (if bit detail 3 then 3 else 2)
  else if code = Code.linkRetrain ∨ code = Code.featureInvalid ∨ code = Code.notScored then 0
  else if 0x0B01 ≤ code ∧ code ≤ 0x0B0A then 0
  else if code ∈ [Code.tileBistFail, Code.tileFwMissing, Code.linkDown, Code.modelAbsent, Code.tsOverflow,
      Code.ppsStuck, Code.herdMoved, Code.powerBudget, Code.journalFull, Code.mgmtWatchdog] then 1
  else 2

/-- DESIGN CHOICE (log entry 7). DEDUCED (log entry 57). -/
def State.postEvent (s : State) (e : Event) : State :=
  { s with io := { s.io with events := s.io.events ++ [e] } }

/-- Raises an event that names no stream. -/
def State.post (s : State) (code source loc detail : Nat) : State :=
  s.postEvent { code := code, stop := false, source := source, loc := loc, stream := none
                time := s.now64, detail := BitVec.ofNat 64 detail }

/-- Raises an event about an item of a stream. -/
def State.postStream (s : State) (code source stream seq detail : Nat) : State :=
  s.postEvent { code := code, stop := false, source := source, loc := 0, stream := some (stream, seq)
                time := s.now64, detail := BitVec.ofNat 64 detail }

/-- Raises a record with STOP set. -/
def State.postStop (s : State) (code source loc detail : Nat) : State :=
  s.postEvent { code := code, stop := true, source := source, loc := loc, stream := none
                time := s.now64, detail := BitVec.ofNat 64 detail }

/-- A stop of function f whose detail has no stated layout. DESIGN CHOICE (log entry 101). -/
def State.postOpenStop (s : State) (f source : Nat) (holds : List Nat) : State :=
  s.postEvent { code := Code.hostStop + f, stop := true, source := source, loc := 0, stream := none
                time := s.now64, detail := Config.stopDetail f holds }

/-- What leaves the wafer. DESIGN CHOICE (log entry 7). DESIGN CHOICE (log entry 48). -/
def State.emit (s : State) (o : Out) : State := { s with io := { s.io with out := s.io.out ++ [o] } }

/-- The next draw number for a free value. -/
def State.draw (s : State) : State := { s with io := { s.io with draws := s.io.draws + 1 } }

/-- A source asks for an MSI-X message (R472). -/
def State.askMsix (s : State) (m : MsixSrc) : State :=
  if m ∈ s.host.msixQ then s else { s with host := { s.host with msixQ := s.host.msixQ ++ [m] } }

/-! ### Rate-limited reports (R257) -/

/-- The detail of an occurrence replaces the waiting one's. -/
def bumpLim : List Lim → ReportSrc → Nat → List Lim
  | [], _, _ => []
  | l :: r, src, d =>
    if l.src = src then { l with count := l.count + 1, detail := d } :: r else l :: bumpLim r src d

/-- The record of a rate-limited report of `n` occurrences since the last one; `d` holds the other fields of
the latest occurrence (R257, R281, R300, R328, R436). DEDUCED (log entry 80). -/
def State.postReport (s : State) (src : ReportSrc) (n d : Nat) : State :=
  match src with
  | .featureInvalid m => s.post Code.featureInvalid Source.prh m.val (min n 0xFFFF + d)
  | .notScored m => s.post Code.notScored Source.prh m.val (min n 0xFFFF + d)
  | .modelAbsent => s.post Code.modelAbsent Source.ibx 0 d
  | .tsOverflow m => s.post Code.tsOverflow Source.mac m.val (min n 0xFFFF + d)
  | .powerCause _ => s.post Code.powerBudget Source.pwr 0 d

/-- An occurrence of a rate-limited event: the first after a second with no record posts one at once, a
later one is counted for the record that RATE_LIMITED_REPORT posts (R257). DEDUCED (log entry 80). -/
def State.report (s : State) (src : ReportSrc) (d : Nat) : State :=
  if s.io.lims.any (fun l => decide (l.src = src)) then
    { s with io := { s.io with lims := bumpLim s.io.lims src d } }
  else
    let s := s.postReport src 1 d
    { s with io := { s.io with lims := s.io.lims ++ [⟨src, 0, d⟩] } }

/-! ### Modes (R42, R475) -/

/-- Function f is in host-assisted mode. DEDUCED (log entry 107). -/
def State.assisted (s : State) (f : Nat) : Bool := bit (s.rd Reg.GLB_MODE_MODE) f

end Sys2Proof.Machine
end

