-- ==== Sys2Proof/Machine/PMap.lean ====
section
/-! DEFINITION. The partition map (R36, R37, R157, R160): home stacks, regions and mirrors. -/

namespace Sys2Proof.Machine

/-- Lines of a stack: 72 GiB in 64-byte lines (R154). -/
def stackLines : Nat := 0x12_0000_0000 / 64

def mib64 : Nat := 0x400_0000

/-! ### Where a line lies (R153, R154) -/

/-- Banks of a pseudo-channel, rows of a bank, lines of a row. One further row of every bank holds training patterns
alone, and no line lies in it (R153). -/
def stackBanks : Nat := 48
def bankRows : Nat := 24576
def rowLines : Nat := 16

/-- The pseudo-channel of a line, and its channel. -/
def linePseudo (l : Nat) : Nat := l % 64
def lineChannel (l : Nat) : Nat := linePseudo l / 2

def lineColumn (l : Nat) : Nat := l / 64 % rowLines

/-- The bank of a line within its pseudo-channel, and its row. -/
def lineBankOf (l : Nat) : Nat := l / 64 / rowLines % stackBanks
def lineRow (l : Nat) : Nat := l / 64 / rowLines / stackBanks

/-- The bank of a line among all of its stack. -/
def lineBank (l : Nat) : Nat := linePseudo l * stackBanks + lineBankOf l

/-- The default home stack of a herd (R37), by region (hx >> 3, hy >> 3). -/
def defaultHome (h : Nat) : Nat :=
  nthD [0, 1, 2, 3, 13, 12, 4, 5, 14, 15, 7, 6, 8, 9, 10, 11] (h / 32 / 8 * 4 + h % 32 / 8) 0

def plainRegion (typ base size copyOf : Nat) : Region :=
  { typ := typ, mirror := false, shared := false, copyOf := copyOf, base := base, size := size }

/-- The default regions (R160), in units of 64 MiB. DEDUCED (log entry 40). -/
def defaultRegions : List Region :=
  [plainRegion 1 0x000 576 0, plainRegion 2 0x240 352 0, plainRegion 3 0x3A0 64 0, plainRegion 4 0x3E0 32 0,
   plainRegion 5 0x400 48 0, plainRegion 6 0x430 48 5, plainRegion 7 0x460 32 0]

def State.homeStack (s : State) (h : Nat) : Nat :=
  match s.pmap with
  | some p => nthD p.home h 0
  | none => defaultHome h

def State.regions (s : State) (k : Nat) : List Region :=
  match s.pmap with
  | some p => nthD p.regions k []
  | none => defaultRegions

def Region.lo (r : Region) : Nat := r.base * mib64
def Region.hi (r : Region) : Nat := (r.base + r.size) * mib64

/-- The region that holds all of [addr, addr + n). DEDUCED (log entry 39). -/
def State.regionAt (s : State) (k addr n : Nat) : Option Region :=
  (s.regions k).find? (fun r => decide (r.typ ≠ 0 ∧ r.lo ≤ addr ∧ addr + n ≤ r.hi))

/-- The first region of a type in a stack. -/
def State.regionOf (s : State) (k typ : Nat) : Option Region :=
  (s.regions k).find? (fun r => decide (r.typ = typ))

/-- The other stack of a pair (R36). -/
def partner (k : Nat) : Nat := (k + 8) % 16

/-- The pair of a stack. -/
def pairOf (k : Nat) : Nat := k % 8

/-- Writes to the region are copied to the partner stack (R157, R162). -/
def Region.mirrored (r : Region) : Bool := decide (r.typ = 5) || (r.mirror && decide (1 ≤ r.typ ∧ r.typ ≤ 4))

/-- Regions of a stack whose copies have the TYPE and the size of r, and copy regions for them, in the map's order. -/
def State.twins (s : State) (k : Nat) (r : Region) : List Region :=
  (s.regions k).filter (fun q => q.mirrored && decide (q.typ = r.typ ∧ q.size = r.size))
def State.copyTwins (s : State) (k : Nat) (r : Region) : List Region :=
  (s.regions k).filter (fun q => decide (q.typ = 6 ∧ q.copyOf = r.copyOf ∧ q.size = r.size))

/-- A region whose lines have a second copy, and where: the journal at the same address, the snapshot region
and mirrored regions in the partner's copy region, and a copy region in its home. The n-th region of a TYPE and size
goes with the n-th copy region of them (R158, R161, R162). DEDUCED (log entry 40). -/
def State.mirrorAddr (s : State) (k : Nat) (r : Region) (addr : Nat) : Option Nat :=
  if r.typ = 7 then some addr
  else if r.mirrored then
    ((s.copyTwins (partner k) { r with typ := 6, copyOf := r.typ })[(s.twins k r).idxOf r]?).map (fun q => q.lo + (addr - r.lo))
  else if r.typ = 6 then
    ((s.twins (partner k) { r with typ := r.copyOf })[(s.copyTwins k r).idxOf r]?).map (fun q => q.lo + (addr - r.lo))
  else none

/-- The home stack of a herd is down and holds weights or spill of which no copy exists (R173). -/
def State.homeLost (s : State) (h : Nat) : Bool :=
  let k := s.homeStack h
  decide ((s.stk k).st = .down) &&
    (s.regions k).any (fun r => decide (r.typ = 1 ∨ r.typ = 2) && !r.mirror)

end Sys2Proof.Machine
end

