-- ==== Sys2Proof/Machine/MeshOps.lean ====
section
/-! DEFINITION. Positions of logical tiles and herds (R4, R25, R408, R411), the power of fabric herds
(R26), the generated route tables (R135, R136, R187) and their lookup (R129 to R133). -/

namespace Sys2Proof.Machine

/-! ### Positions -/

/-- The physical herd of a logical herd: row * 33 + column. -/
def State.pherd (s : State) (h : Nat) : Nat :=
  match NatMap.find s.bru.map.moved h with
  | some p => p
  | none => h / 32 * 33 + h % 32

/-- The start-up map of a physical herd, with what recovery has added. -/
def State.hmap (s : State) (ph : Nat) : HMap := NatMap.get s.bru.map.maps HMap.plain ph

/-- The tile a physical row skips; 32 is the spare. -/
def HMap.skipOf (m : HMap) (py : Nat) : Nat := NatMap.get m.skipTile 32 py

/-- The position in its physical herd of logical column `c` and row `r` (R408). -/
def HMap.place (m : HMap) (c r : Nat) : Nat × Nat :=
  let py := if m.skipRow ≤ r then r + 1 else r
  let px := if m.skipOf py ≤ c then c + 1 else c
  (px, py)

/-- The logical column and row at a position, if it holds a logical tile. -/
def HMap.logical (m : HMap) (px py : Nat) : Option (Nat × Nat) :=
  if py = m.skipRow ∨ px = m.skipOf py then none
  else
    let r := if m.skipRow < py then py - 1 else py
    let c := if m.skipOf py < px then px - 1 else px
    if r < 32 ∧ c < 32 then some (c, r) else none

/-- The physical position of a logical tile. -/
def State.physOf (s : State) (key : Nat) : Nat × Nat :=
  let ph := s.pherd (herdOfKey key)
  let p := (s.hmap ph).place (keyX key % 32) (keyY key % 32)
  (ph % 33 * 33 + p.1, ph / 33 * 33 + p.2)

/-- The logical herd that a physical herd holds, if any. -/
def State.lherd (s : State) (ph : Nat) : Option Nat :=
  if ph % 33 = 32 then (s.bru.map.moved.find? (fun e => decide (e.2 = ph))).map Prod.fst
  else
    let h := ph / 33 * 32 + ph % 33
    if (NatMap.find s.bru.map.moved h).isSome ∨ h ∈ s.bru.map.absent then none else some h

/-- The physical herd of a position. -/
def pherdAt (px py : Nat) : Nat := py / 33 * 33 + px / 33

/-- The logical tile at a position, if any. -/
def State.tileAt (s : State) (px py : Nat) : Option Nat :=
  match s.lherd (pherdAt px py) with
  | none => none
  | some h =>
    match (s.hmap (pherdAt px py)).logical (px % 33) (py % 33) with
    | none => none
    | some (c, r) => some (tileKey (h % 32 * 32 + c) (h / 32 * 32 + r))

/-- LOC of an event that names the tile of a router (R119, R130). DEDUCED (log entry 26). -/
def State.locOf (s : State) (px py : Nat) : Nat := (s.tileAt px py).getD 0

/-! ### Power of the fabric -/

/-- The domain of a physical herd (R26). -/
def pdOfPherd (ph : Nat) : Nat := 2 * (ph % 33) + (if ph / 33 < 16 then 0 else 1)

def State.pherdOn (s : State) (ph : Nat) : Bool := s.pdOn (pdOfPherd ph)

/-- A herd that is there: it has a place and its domain is on. -/
def State.herdPresent (s : State) (h : Nat) : Bool :=
  decide (h ∉ s.bru.map.absent) && s.pherdOn (s.pherd h)

/-! ### Routers -/

def routerKey (px py : Nat) : Nat := py * 1089 + px

def State.router (s : State) (px py : Nat) : Router := NatMap.get s.mesh.routers Router.reset (routerKey px py)

def State.setRouter (s : State) (px py : Nat) (r : Router) : State :=
  { s with mesh := { s.mesh with routers := NatMap.put s.mesh.routers Router.reset (routerKey px py) r } }

def State.bypassed (s : State) (px py : Nat) : Bool := (s.router px py).bypass

/-- The four directions as outputs of R129. -/
def north : Nat := 0
def east : Nat := 1
def south : Nat := 2
def west : Nat := 3

/-- Toward rows [lo, hi] from row `y` outside them. -/
def vert (y lo : Nat) : Nat := if y < lo then south else north

/-- The routers that are set to bypass. -/
def State.bypassList (s : State) : List Nat := (s.mesh.routers.filter (fun e => e.2.bypass)).map Prod.fst

/-- What the tables of a router were generated around: for the entry of a herd, or for its other entries (R131). -/
def State.genAround (s : State) (px py : Nat) (h : Option Nat) : List Nat :=
  let g := (NatMap.find s.mesh.gens (pherdAt px py)).getD s.mesh.genAll
  match h with
  | some h => (NatMap.find g.herd h).getD g.all
  | none => g.all

/-- A router of column `x`, between row `y` inclusive and the rows [lo, hi], going away from them, is
bypassed: the packet has turned one column west of it (R135). DEDUCED (log entry 25). -/
def bypassBeyond (around : List Nat) (x y lo hi : Nat) : Bool :=
  around.any (fun k => decide (k % 1089 = x) &&
    (if y < lo then decide (k / 1089 ≤ y) else decide (hi < y ∧ y ≤ k / 1089)))

/-- A row of [lo, hi] below `y` whose router in column `x` is not bypassed. -/
def openBelow (around : List Nat) (x y hi : Nat) : Bool :=
  (List.range (hi - y)).any (fun i => decide (routerKey x (y + 1 + i) ∉ around))

/-- Runs along the row to column `x` and then to the rows [lo, hi]; the turn is made one column west where
the turn router is bypassed; `here` is the output at the end (R135, R137, R187). DEDUCED (log entry 25). -/
def toward (around : List Nat) (px py x lo hi here : Nat) : Nat :=
  let inRows := decide (lo ≤ py ∧ py ≤ hi)
  if px = x then (if inRows then here else vert py lo)
  else if x < px then west
  else if px + 1 = x ∧ inRows = false ∧ bypassBeyond around x py lo hi = true then vert py lo
  else if px + 1 = x ∧ inRows = true ∧ lo < hi ∧ routerKey x py ∈ around then
    (if openBelow around x py hi then south else north)
  else east

/-- Generated herd-table entry: to the first column of the herd's column, then to its rows. A moved herd is
entered from the last column of physical column 31 (R136). DEDUCED (log entry 25). -/
def State.genHerd (s : State) (px py h : Nat) : Nat :=
  let ph := s.pherd h
  let lo := ph / 33 * 33
  let around := s.genAround px py (some h)
  if h ∈ s.bru.map.absent then 7
  else if 1056 ≤ px then west
  else if ph % 33 = 32 then toward around px py 1055 lo (lo + 32) east
  else toward around px py (ph % 33 * 33) lo (lo + 32) east

/-- Generated local-table entry for a position of the own herd (R135). DEDUCED (log entry 25). -/
def State.genLocal (s : State) (px py pos : Nat) : Nat :=
  let ph := pherdAt px py
  let p := (s.hmap ph).place (pos % 32) (pos / 32)
  let y := ph / 33 * 33 + p.2
  toward (s.genAround px py none) px py (ph % 33 * 33 + p.1) y y 4

/-- The face of a stack (R36, R37): 0 top, 1 right, 2 bottom, 3 left, and its place on that face. -/
def stackFace (k : Nat) : Nat × Nat := (k / 4, k % 4)

/-- The column in which a packet meets the boundary row `by_` of a face segment [lo, hi]: its own where it is one of the
segment's, the nearest otherwise, and beside a column whose boundary router is bypassed (R137). DEDUCED (log entry 25). -/
def faceColumn (around : List Nat) (px lo hi by_ : Nat) : Nat :=
  let c := if px < lo then lo else if hi < px then hi else px
  if routerKey c by_ ∈ around then (if c = lo then lo + 1 else c - 1) else c

/-- Generated edge-table entry: to the nearest boundary router of the stack's face segment; the other blocks
are reached over the rim ring from the west face (R128). DEDUCED (log entry 25). -/
def State.genEdge (s : State) (px py port : Nat) : Nat :=
  let around := s.genAround px py none
  if 1056 ≤ px then west
  else if port < 16 then
    let f := stackFace port
    let lo := f.2 * 264
    let hi := lo + 263
    match f.1 with
    | 0 => toward around px py (faceColumn around px lo hi 0) 0 0 6
    | 1 => toward around px py 1055 lo hi 6
    | 2 => toward around px py (faceColumn around px lo hi 1055) 1055 1055 6
    | _ => toward around px py 0 lo hi 6
  else if px = 0 then 6 else west

/-- The place in a router's route memory of the entry that a packet is looked up in (R129, R130). -/
def State.routeEntry (s : State) (px py : Nat) (p : Packet) : Nat :=
  if p.edge then 2048 + min p.dx 63
  else
    let h := herdOfKey (tileKey p.dx p.dy)
    if s.lherd (pherdAt px py) = some h then 1024 + (p.dy % 32 * 32 + p.dx % 32) else h

/-- Table lookup: an entry that was written, else the generated one; bit [3] is reserved (R129). -/
def State.lookup (s : State) (px py : Nat) (p : Packet) : Nat :=
  let r := s.router px py
  if p.edge then
    match NatMap.find r.edgeTab (p.dx % 64) with
    | some e => if p.dx < 64 then e % 8 else s.genEdge px py 0x3F
    | none => s.genEdge px py p.dx
  else
    let key := tileKey p.dx p.dy
    let h := herdOfKey key
    if s.lherd (pherdAt px py) = some h then
      let pos := p.dy % 32 * 32 + p.dx % 32
      match NatMap.find r.localTab pos with
      | some e => e % 8
      | none => s.genLocal px py pos
    else
      match NatMap.find r.herdTab h with
      | some e => e % 8
      | none => s.genHerd px py h

/-- The tables of every router are generated around what is bypassed now, as a whole load does (R131, R187). -/
def State.generateAll (s : State) : State :=
  { s with mesh := { s.mesh with genAll := { all := s.bypassList, herd := [] }, gens := [] } }

/-- Those of one physical herd's routers, as ROUTE_REPAIR does (R135). -/
def State.generateHerd (s : State) (ph : Nat) : State :=
  { s with mesh := { s.mesh with gens := NatMap.ins s.mesh.gens ph { all := s.bypassList, herd := [] } } }

/-- The entries of one herd on every router, as a ROUTE_PATCH does (R136). -/
def State.generateFor (s : State) (h : Nat) : State :=
  let now := s.bypassList
  let put (g : RouteGen) : RouteGen := { g with herd := NatMap.ins g.herd h now }
  { s with mesh := { s.mesh with genAll := put s.mesh.genAll, gens := s.mesh.gens.map (fun (e : Nat × RouteGen) => (e.1, put e.2)) } }

/-- The neighbour on a side, on the wafer. -/
def neighbour (px py out : Nat) : Option (Nat × Nat) :=
  if out = north then (if py = 0 then none else some (px, py - 1))
  else if out = east then (if px + 1 < 1089 then some (px + 1, py) else none)
  else if out = south then (if py + 1 < 1056 then some (px, py + 1) else none)
  else if out = west then (if px = 0 then none else some (px - 1, py))
  else none

/-- The side by which the neighbour on `out` takes a packet in. -/
def enters (out : Nat) : Port :=
  if out = north then .south else if out = east then .west else if out = south then .north else .east

/-- The output straight through from an input (R132). -/
def straight : Port → Option Nat
  | .north => some south
  | .east => some west
  | .south => some north
  | .west => some east
  | _ => none

/-- A side as the tables number it: 0 north, 1 east, 2 south, 3 west, 4 local, 5 the herd controller, 6 the edge port
(R129). -/
def Port.code : Port → Nat
  | .north => 0
  | .east => 1
  | .south => 2
  | .west => 3
  | .local_ => 4
  | .controller => 5
  | .edge => 6

/-- A router on the outer boundary of a face segment has an edge port (R128); `face` is the stack's, if it has one. -/
def boundaryStack (px py : Nat) : Option Nat :=
  if py = 0 ∧ px < 1056 then some (px / 264)
  else if px = 1055 then some (4 + py / 264)
  else if py = 1055 ∧ px < 1056 then some (8 + px / 264)
  else if px = 0 then some (12 + py / 264)
  else none

/-- The edge links of the east face pass over the reserve column and are powered by the domain of their stack (R128). -/
def State.edgeLinkOn (s : State) (px py : Nat) : Bool :=
  match boundaryStack px py with
  | some k => if k / 4 = 1 then s.pdOn (66 + k) else true
  | none => false

/-- The virtual channel of a kind (R121); none for a reserved kind. -/
def vcOf (kind : Nat) : Option Nat :=
  if kind ≤ 2 then some 2 else if kind = 3 ∨ kind = 0xA then some 1
  else if kind ≤ 7 then some 3 else if kind ≤ 9 then some 0 else none

/-- Payload words as bytes. -/
def wordBytes (ws : List Word) : List Byte := ws.flatMap (fun w => leBytes 8 w.toNat)

/-- Words of a packet, with its head. -/
def Packet.words (p : Packet) : Nat := 1 + p.payload.length

/-- A broadcast entry: child mask [4:0] and parent input [7:5]. Tree 0 runs from the north-west corner down
the first column and east along each row, over what is powered (R139). -/
def State.bcastEntry (s : State) (px py tree : Nat) : Nat :=
  if tree = 0 then
    let on (q : Option (Nat × Nat)) : Bool :=
      match q with
      | some (x, y) => s.pherdOn (pherdAt x y)
      | none => false
    let e := if on (neighbour px py east) then 2 else 0
    let d := if px = 0 ∧ on (neighbour px py south) = true then 4 else 0
    16 + e + d + 32 * (if px = 0 then (if py = 0 then 6 else north) else west)
  else NatMap.get (s.router px py).bcast 0 tree

/-- Puts a packet into the mesh. -/
def State.inject (s : State) (f : Flight) : State :=
  { s with mesh := { s.mesh with flights := s.mesh.flights ++ [f] } }

/-- A packet that a logical tile sends enters its router by the local port. -/
def State.sendFromTile (s : State) (key : Nat) (p : Packet) : State :=
  let q := s.physOf key
  s.inject { pkt := p, loc := .router q.1 q.2 .local_, poisoned := false }

/-- The router at a herd's controller position (R24). -/
def State.ctlRouter (s : State) (h : Nat) : Nat × Nat :=
  let ph := s.pherd h
  (ph % 33 * 33 + 16, ph / 33 * 33 + 16)

/-- A herd controller's packet enters the router of the centre position (R24). -/
def State.sendFromHerd (s : State) (h : Nat) (p : Packet) : State :=
  let q := s.ctlRouter h
  s.inject { pkt := p, loc := .router q.1 q.2 .controller, poisoned := false }

/-- A stack's packet enters the mesh at a boundary router of its face, in the column or row of the
destination where the face reaches it. -/
def State.sendFromStack (s : State) (k : Nat) (p : Packet) (poisoned : Bool) : State :=
  let d := if p.edge then (0, 0) else s.physOf (tileKey p.dx p.dy)
  let f := stackFace k
  let lo := f.2 * 264
  let cl (v : Nat) : Nat := if v < lo then lo else if lo + 263 < v then lo + 263 else v
  let at_ : Nat × Nat := match f.1 with
    | 0 => (cl d.1, 0)
    | 1 => (1055, cl d.2)
    | 2 => (cl d.1, 1055)
    | _ => (0, cl d.2)
  s.inject { pkt := p, loc := .router at_.1 at_.2 .edge, poisoned := poisoned }

def State.dropFlight (s : State) (i : Nat) : State :=
  { s with mesh := { s.mesh with flights := dropAt s.mesh.flights i } }

/-- Packet i moves on to where `f` has it, behind what is there already (R125). -/
def State.moveFlight (s : State) (i : Nat) (f : Flight) : State :=
  { s with mesh := { s.mesh with flights := dropAt s.mesh.flights i ++ [f] } }

end Sys2Proof.Machine
end

