-- ==== Sys2Proof/Machine/Spare.lean ====
section
/-! DEFINITION. Sparing: the start-up map of a herd (R408), when a herd must move (R134, R409), the choice of
a spare for a failed element (R378), herd moves (R379) and what happens when no spare is left (R381, R410). -/

namespace Sys2Proof.Machine

/-! ### The start-up map (R408, R409) -/

/-- The physical herd of a failed element. -/
def failHerd (f : Failed) : Nat := pherdAt f.at_.x f.at_.y

/-- A position of a physical herd holds a failed or marked tile, or a failed router. -/
def State.badAt (s : State) (ph px py : Nat) : Bool :=
  s.bru.failed.any (fun f =>
    decide (failHerd f = ph ∧ f.at_.x % 33 = px ∧ f.at_.y % 33 = py) && decide (f.elem ≠ .controller))

/-- A physical herd has a failed element. -/
def State.anyFailed (s : State) (ph : Nat) : Bool := s.bru.failed.any (fun f => decide (failHerd f = ph))

/-- The failed positions of each physical row. -/
def State.badRows (s : State) (ph : Nat) : List (Nat × List Nat) :=
  (List.range 33).map (fun py => (py, (List.range 33).filter (fun px => s.badAt ph px py)))

/-- The physical rows of a herd that hold two failures or more (R408). -/
def State.fullRows (s : State) (ph : Nat) : List (Nat × List Nat) :=
  (s.badRows ph).filter (fun r => decide (2 ≤ r.2.length))

/-- What `herd_map` of R408 leaves in *skip_row and skip_tile, whether it answers true or false.
DEDUCED (log entry 103). -/
def State.skips (s : State) (ph : Nat) : HMap :=
  if s.anyFailed ph then
    { skipRow := ((s.fullRows ph).getLast?.map Prod.fst).getD 32
      skipTile := ((s.badRows ph).filterMap (fun r => r.2.getLast?.map (fun px => (r.1, px)))).filter
        (fun (e : Nat × Nat) => decide (e.2 ≠ 32))
      retired := false }
  else HMap.plain

/-- `herd_map` of R408: the map, or none when more than one row holds two failures. DEDUCED (log entry 103). -/
def State.herdMap (s : State) (ph : Nat) : Option HMap :=
  if s.anyFailed ph = true ∧ 1 < (s.fullRows ph).length then none else some (s.skips ph)

/-- A failed router of the herd has another beside it in its physical row of the wafer, in this herd or the next.
DEDUCED (log entry 103). -/
def State.sideBySide (s : State) (ph : Nat) : Bool :=
  s.bru.failed.any (fun f => decide (f.elem = .router ∧ failHerd f = ph) &&
    s.bru.failed.any (fun g => decide (g.elem = .router ∧ g.at_.y = f.at_.y ∧ (g.at_.x = f.at_.x + 1 ∨ f.at_.x = g.at_.x + 1))))

/-- A router at the controller's position or in the westmost tile column of the wafer (R134). -/
def herdBreaking (px py : Nat) : Bool := decide (px % 33 = 16 ∧ py % 33 = 16) || decide (px = 0)

/-- The physical herd cannot hold a logical herd (R409). -/
def State.unfit (s : State) (ph : Nat) : Bool :=
  decide (ph ∈ s.bru.failedHerds) || (s.herdMap ph).isNone || s.sideBySide ph ||
    s.bru.failed.any (fun f => decide (failHerd f = ph) &&
      (decide (f.elem = .controller) || (decide (f.elem = .router) && herdBreaking f.at_.x f.at_.y)))

/-! ### Reserve herds (R25, R379, R396) -/

/-- The physical herd of reserve row r. -/
def reserveHerd (r : Nat) : Nat := r * 33 + 32

/-- A reserve row holds a logical herd. -/
def State.reserveHolds (s : State) (r : Nat) : Bool := s.bru.map.moved.any (fun e => decide (e.2 = reserveHerd r))

/-- A reserve herd that is free: not in use, not marked used, and it passed its test. -/
def State.reserveOk (s : State) (r : Nat) : Bool :=
  decide (r ∉ s.flt.usedRows) && !s.reserveHolds r && !s.unfit (reserveHerd r)

/-- The lowest-numbered free reserve herd. -/
def State.reserveNext (s : State) : Option Nat := (List.range 32).find? (fun r => s.reserveOk r)

/-- RESERVE_FREE of FLT_STATUS (R396). -/
def State.reserveFree (s : State) : Nat := ((List.range 32).filter (fun r => s.reserveOk r)).length

/-! ### The choice of a spare (R378) -/

/-- A failed router that would sit beside a bypassed one of its physical row (R378, R409). DEDUCED (log entry 103). -/
def State.besideBypass (s : State) (px py : Nat) : Bool :=
  (decide (0 < px) && s.bypassed (px - 1) py) || s.bypassed (px + 1) py

/-- The spare row has at most one failed position, and its map skips that one. -/
def State.spareRowFit (s : State) (ph : Nat) : Bool :=
  match (List.range 33).filter (fun px => s.badAt ph px 32) with
  | [] => true
  | [px] => decide ((s.hmap ph).skipOf 32 = px)
  | _ => false

/-- The choice for a failed element; none: its position holds no logical tile and nothing moves. -/
def State.spareChoice (s : State) (f : Failed) : Option Choice :=
  let ph := failHerd f
  let px := f.at_.x % 33
  let py := f.at_.y % 33
  let m := s.hmap ph
  if f.elem = .controller then some .move
  else if f.elem = .router ∧ (herdBreaking f.at_.x f.at_.y = true ∨ s.besideBypass f.at_.x f.at_.y = true) then some .move
  else if py = m.skipRow ∨ px = m.skipOf py then none
  else if m.skipOf py = 32 ∧ s.badAt ph 32 py = false then some .rowSkip
  else if m.skipRow = 32 ∧ s.spareRowFit ph = true then some .herdRow
  else some .move

/-- Sets the map of a physical herd. -/
def State.setHmap (s : State) (ph : Nat) (m : HMap) : State :=
  { s with bru := { s.bru with map := { s.bru.map with maps := NatMap.put s.bru.map.maps HMap.plain ph m } } }

/-- The row skips the failed tile, or the herd its row. -/
def State.skip (s : State) (f : Failed) (c : Choice) : State :=
  let m := s.hmap (failHerd f)
  match c with
  | .rowSkip => s.setHmap (failHerd f) { m with skipTile := NatMap.ins m.skipTile (f.at_.y % 33) (f.at_.x % 33) }
  | .herdRow => s.setHmap (failHerd f) { m with skipRow := f.at_.y % 33 }
  | .move => s

/-- FLT_REMAP records the decision (R398). -/
def State.noteRemap (s : State) (h kind px py : Nat) : State :=
  let s := (s.wr Reg.FLT_REMAP_HERD h).wr Reg.FLT_REMAP_KIND kind
  ((s.wr Reg.FLT_REMAP_PX px).wr Reg.FLT_REMAP_PY py).wr Reg.FLT_REMAP_VALID 1

def Choice.kind : Choice → Nat
  | .rowSkip => 0
  | .herdRow => 1
  | .move => 2

/-- The source of a moved herd is retired. -/
def State.retireHerd (s : State) (ph : Nat) : State := s.setHmap ph { s.hmap ph with retired := true }

/-- A logical herd takes its place in a reserve herd, whose own start-up map applies. -/
def State.placeIn (s : State) (h row : Nat) : State :=
  let s := s.retireHerd (s.pherd h)
  let s := s.setHmap (reserveHerd row) ((s.herdMap (reserveHerd row)).getD HMap.plain)
  { s with bru := { s.bru with map := { s.bru.map with moved := NatMap.ins s.bru.map.moved h (reserveHerd row) } }
           flt := { s.flt with usedRows := s.flt.usedRows ++ [row] } }

/-- REMAP_EXHAUSTED with the detail of R381. -/
def State.exhausted (s : State) (h px py : Nat) : State :=
  (s.wr Reg.FLT_STATUS_EXHAUSTED 1).post Code.remapExhausted Source.flt 0 (h + px * 2 ^ 10 + py * 2 ^ 21)

/-- A failed position of a spare row that is not in use is skipped should the row come into use. -/
def State.noteSpare (s : State) (f : Failed) : State :=
  let m := s.hmap (failHerd f)
  if f.at_.y % 33 = 32 ∧ m.skipRow = 32 ∧ m.skipOf 32 = 32 ∧ f.at_.x % 33 ≠ 32 then
    s.setHmap (failHerd f) { m with skipTile := NatMap.ins m.skipTile 32 (f.at_.x % 33) }
  else s

/-- Spares a tile that a broadcast has left without its firmware (R415), as if it had failed its test; with no
reserve herd left its herd is absent (R410). DEDUCED (log entry 104). -/
def State.spareMissing (s : State) (f : Failed) : State :=
  match s.lherd (failHerd f) with
  | none => s
  | some h =>
    match s.spareChoice f with
    | none => s.noteSpare f
    | some .move =>
      match s.reserveNext with
      | some row =>
        let s := (s.placeIn h row).count Reg.FLT_COUNT_MOVES 1
        (s.noteRemap h 2 (f.at_.x % 33) (f.at_.y % 33)).post Code.herdMoved Source.flt 0 (h + row * 2 ^ 10)
      | none =>
        let s := s.exhausted h f.at_.x f.at_.y
        let s := if s.bru.stage < 7 then s.wr Reg.BRU_STATUS_EXHAUSTED 1 else s
        { s with bru := { s.bru with map := { s.bru.map with absent := s.bru.map.absent ++ [h] } } }
    | some c =>
      let s := (s.skip f c).count Reg.FLT_COUNT_REMAPS 1
      s.noteRemap h c.kind (f.at_.x % 33) (f.at_.y % 33)

end Sys2Proof.Machine
end

