-- ==== Sys2Proof/Machine/TileRegs.lean ====
section
/-! DEFINITION. What is written into a tile from outside an instruction: bytes of its data SRAM, its registers (R57, R114 to
R116) and the initial values of TILE_INIT (R189). -/

namespace Sys2Proof.Machine

/-- Bytes of data SRAM (R50). -/
def sramSize : Nat := 40960

/-- The granules of 1 KiB that [addr, addr + n) meets (R371). -/
def granules (addr n : Nat) : BitVec 40 :=
  BitVec.ofNat 40 ((List.range 40).foldl
    (fun a g => if addr < (g + 1) * 1024 ∧ g * 1024 < addr + n then a + 2 ^ g else a) 0)

/-- The data SRAM words that [addr, addr + n) meets. -/
def wordsOf (addr n : Nat) : List Nat :=
  let stop := min (addr + n) sramSize
  if n = 0 ∨ sramSize ≤ addr then []
  else (List.range ((stop - 1) / 8 + 1 - addr / 8)).map (fun i => addr / 8 + i)

/-- Writes bytes into data SRAM: bytes beyond it are dropped, the granules written become dirty (R371),
and a word written whole holds no error. DESIGN CHOICE (log entry 12). -/
def Tile.put (t : Tile) (addr : Nat) (bytes : List Byte) : Tile :=
  let bs := bytes.take (sramSize - addr)
  if bs.isEmpty then t
  else
    { t with
      sram := Mem.write t.sram addr bs
      bad := t.bad.filter (fun e => !(decide (addr ≤ e.1 * 8) && decide (e.1 * 8 + 8 ≤ addr + bs.length)))
      dirty0 := t.dirty0 ||| granules addr bs.length
      dirty1 := t.dirty1 ||| granules addr bs.length }

/-! ### Tile registers -/

def tArith : Nat := 0x100
def tSeed : Nat := 0x108
def tStep : Nat := 0x110
def tStatus : Nat := 0x118
def tEcc : Nat := 0x120
def tSparse : Nat := 0x128
def tSparseStat : Nat := 0x130
def tSparseFault : Nat := 0x138

/-- Reads a tile register: RC fields are cleared (R18). -/
def Tile.readReg (t : Tile) (off : Nat) : Tile × Word :=
  if off = tArith then (t, t.arith)
  else if off = tSeed then (t, t.seed)
  else if off = tStep then (t, t.step)
  else if off = tStatus then (t, t.status)
  else if off = tEcc then ({ t with ecc := 0 }, t.ecc)
  else if off = tSparse then (t, t.sparse)
  else if off = tSparseStat then ({ t with sparseStat := 0 }, t.sparseStat)
  else if off = tSparseFault then (t, t.sparseFault)
  else (t, 0)

/-- Writes the bits of `mask` of a tile register, under each field's access type and accepted values; `v` is 0 outside
them (R19). -/
def Tile.writeReg (t : Tile) (off : Nat) (v : Word) (mask : Nat) : Tile :=
  if off = tArith then
    let n := merge t.arith.toNat v.toNat mask
    let a := if n % 4 = 3 then t.arith.toNat % 4 else n % 4
    { t with arith := BitVec.ofNat 64 (a + 4 * b2n (bit n 2)) }
  else if off = tSeed then { t with seed := BitVec.ofNat 64 (merge t.seed.toNat v.toNat mask) }
  else if off = tStep then (if bit mask 0 then { t with step := BitVec.ofNat 64 (v.toNat % 2 ^ 32) } else t)
  else if off = tStatus then { t with status := t.status &&& ~~~v }
  else if off = tSparse then
    let n := merge t.sparse.toNat v.toNat mask
    let th := if n % 512 ≤ 256 then n % 512 else t.sparse.toNat % 512
    let p := if bits n 10 9 = 3 then bits t.sparse.toNat 10 9 else bits n 10 9
    { t with sparse := BitVec.ofNat 64 (th + p * 2 ^ 9 + b2n (bit n 11) * 2 ^ 11) }
  else if off = tSparseFault then (if bit v.toNat 24 then { t with sparseFault := 0 } else t)
  else t

/-! ### Initial values (R189) -/

/-- A record of TILE_INIT. -/
structure InitRec where
  pos  : Nat
  kind : Nat
  off  : Nat
  data : List Byte
  /-- The 16-byte head keeps its must-be-0 bytes, and the record is whole. -/
  ok   : Bool

/-- The records of TILE_INIT, at most n. -/
def initRecs : Nat → List Byte → List InitRec
  | 0, _ => []
  | n + 1, bs =>
    if bs.isEmpty then []
    else
      let len := fld bs 8 4
      let total := 16 + roundUp len 8
      { pos := fld bs 0 2, kind := fld bs 2 2, off := fld bs 4 4, data := slice bs 16 len
        ok := decide (total ≤ bs.length ∧ fld bs 12 4 = 0) } :: initRecs n (bs.drop total)

/-- One record on one tile. -/
def InitRec.apply (r : InitRec) (t : Tile) : Tile :=
  if r.kind = 0 then t.writeReg r.off (BitVec.ofNat 64 (leNat r.data)) fullMask else t.put r.off r.data

def State.applyInit (s : State) (h : Nat) (payload : List Byte) : State :=
  s.forEach (initRecs payload.length payload) (fun s r =>
    let at_ (pos : Nat) : Nat := tileKey (h % 32 * 32 + pos % 32) (h / 32 * 32 + pos / 32)
    if r.pos = 0xFFFF then s.forEach (List.range 1024) (fun s pos => s.updTile (at_ pos) r.apply)
    else s.updTile (at_ r.pos) r.apply)

end Sys2Proof.Machine
end

