-- ==== Sys2Proof/Machine/HerdOps.lean ====
section
/-! DEFINITION. The herd controller (R140 to R150, R507): its queues, its commands, how a BARRIER or DRAIN is
reached, snapshots (R369 to R373), broadcast rollcall and repair (R413 to R415), and how a fault puts a herd
in FAULTED (R100, R502). -/

namespace Sys2Proof.Machine

/-- The recovery group of a herd (R353, R374). -/
def State.groupOf (s : State) (h : Nat) : Nat := NatMap.get s.jrn.group 0 h

/-! ### How a command ends (R142, R145) -/

/-- A host command still waits or runs at some herd. -/
def State.hostCmdOpen (s : State) : Bool :=
  s.herds.any (fun e => e.2.queue.any (fun c => decide (c.src = .host)) ||
    (match e.2.barrier with
     | some b => decide (b.src = .host)
     | none => false))

/-- A command of herd h ended; `fail` holds the code of a failure. A host command reports in HRD_CMD_STATUS:
the first failure is kept, and DONE is set when every herd has finished (R145). A failure of the epoch
commands that the controller runs itself ends the rest of them. DEDUCED (log entry 35). -/
def State.cmdEnd (s : State) (h : Nat) (src : CmdSrc) (fail : Option Nat) : State :=
  if src = .host then
    let s := match fail with
      | some c =>
        if s.rdb Reg.HRD_CMD_STATUS_FAIL then s
        else
          let s := s.wr Reg.HRD_CMD_STATUS_FAIL 1
          let s := s.wr Reg.HRD_CMD_STATUS_CODE c
          let s := s.wr Reg.HRD_CMD_STATUS_HX (h % 32)
          s.wr Reg.HRD_CMD_STATUS_HY (h / 32)
      | none => s
    if s.hostCmdOpen then s
    else (s.wr Reg.HRD_CMD_STATUS_PENDING 0).wr Reg.HRD_CMD_STATUS_DONE 1
  else if src = .sequence ∧ fail.isSome = true then
    s.updHerd h (fun x => { x with queue := x.queue.filter (fun c => decide (c.src ≠ .sequence)) })
  else s

/-- The fault puts the herd in FAULTED with its code, and one that meets a FAULTED herd leaves the herd's fault as it is;
a BARRIER or DRAIN in progress ends with FAIL and that code (R100, R502, R507). DEDUCED (log entry 120). -/
def State.faultState (s : State) (h code : Nat) (stackFault : Bool) : State :=
  let b := (s.herd h).barrier
  let s := s.updHerd h (fun x =>
    if x.st = .faulted then { x with barrier := none }
    else { x with st := .faulted, fault := code, stackFault := stackFault, barrier := none })
  match b with
  | some b => s.cmdEnd h b.src (some code)
  | none => s

/-! ### Barriers (R142, R150, R507) -/

/-- A tile counts as being at every epoch barrier: it has halted at one, has run its halt instruction, or
holds no program (R507). -/
def Tile.atBarrier (t : Tile) : Bool :=
  !t.hasProg || decide (t.run = .atBarrier) || decide (t.run = .finished)

/-- Every tile of the herd counts as being at the barrier. -/
def State.allAtBarrier (s : State) (h : Nat) : Bool :=
  s.tiles.all (fun e => decide (herdOfKey e.1 ≠ h) || e.2.atBarrier)

/-- The herd that sent a packet. -/
def Packet.herd (p : Packet) : Nat :=
  match p.src with
  | .tile k => herdOfKey k
  | .herd h => h
  | .block _ => 0

/-- A collective's packet of a herd: a partial, a subtree result or a piece. -/
def Flight.contributes (f : Flight) (h : Nat) : Bool :=
  decide (4 ≤ f.pkt.kind ∧ f.pkt.kind ≤ 6) && decide (f.pkt.herd = h) &&
    (match f.pkt.src with
     | .block _ => false
     | _ => true)

/-- The wafer's own index. -/
def State.waferIndex (s : State) : Nat :=
  match s.img.committed with
  | some c => c.index
  | none => 0

/-- Herds of a group on a wafer. -/
def Group.herdsHere (g : Group) (wafer : Nat) : List Nat :=
  (g.members.filter (fun m => decide (m / 1024 = wafer))).map (fun m => m % 1024)

/-- A herd of this wafer is a member of a group. -/
def State.inGroup (s : State) (g h : Nat) : Bool :=
  match NatMap.find s.mesh.groups g with
  | some q => decide (h ∈ q.herdsHere s.waferIndex)
  | none => false

/-- The collectives that a herd has open: a packet of its is under way, its engine holds a result or a piece, or the
wafer's combined partial of a group it belongs to waits (R142, R150). -/
def State.openColls (s : State) (h : Nat) : List Nat :=
  (s.mesh.flights.filterMap (fun f => if f.contributes h then some (f.pkt.tag / 4) else none) ++
    s.mesh.nodes.filterMap (fun n => if n.herd = h then some n.coll else none) ++
    s.mesh.gathers.filterMap (fun g => if g.herd = h then some g.coll else none) ++
    s.mesh.parts.filterMap (fun p => if s.inGroup p.group h then some p.group else none)).eraseDups

/-- A collective that was open when the DRAIN was requested has not finished (R142, R150). -/
def State.collectiveOpen (s : State) (h : Nat) : Bool :=
  (s.openColls h).any (fun c => decide (c ∈ (s.herd h).drainOpen))

/-- A herd that drains, or has reached HALTED through DRAIN, holds its contribution to a collective opened since until
RELEASE (R142, R150). DEDUCED (log entry 122). -/
def State.contributionWaits (s : State) (h coll : Nat) : Bool :=
  let x := s.herd h
  (match x.barrier with
   | some b => b.drain && decide (coll ∉ x.drainOpen)
   | none => false) || (x.drained && decide (x.st ≠ .running))

/-- A stream that delivers to the herd's group has stopped at a lost item: the group halts at its next barrier
(R388). -/
def State.streamStopped (s : State) (h : Nat) : Bool :=
  s.jrn.streams.any (fun e => decide (s.groupOf e.2.target = s.groupOf h) &&
    ((NatMap.get s.jrn.sst StreamSt.reset e.1).lostAt).isSome)

/-- The herd stays HALTED at its next barrier (R381, R388). -/
def State.staysHalted (s : State) (h : Nat) : Bool := s.streamStopped h || decide (s.flt.st = .exhausted)

/-- Ends a BARRIER or DRAIN whose tiles have all arrived: HALTED at the barrier; a DRAIN also waits for the
herd's open collectives (R142, R150). A herd whose home stack has lost its memory goes to FAULTED there
(R173). -/
def State.tryBarrier (s : State) (h : Nat) : State :=
  let x := s.herd h
  match x.barrier with
  | none => s
  | some b =>
    if x.st = .running ∧ s.allAtBarrier h = true ∧ (b.drain = false ∨ s.collectiveOpen h = false) then
      if s.homeLost h then s.faultState h Code.stackChannelDown false
      else
      let s := s.setHerd h { x with st := .halted, barrier := none, atEpoch := some b.epoch, drained := b.drain }
      s.cmdEnd h b.src none
    else s

/-! ### Tiles of a herd -/

/-- Applies a change to every tile of a herd. -/
def State.mapTiles (s : State) (h : Nat) (f : Tile → Tile) : State :=
  { s with tiles := NatMap.mapIf Tile.reset (fun k => decide (herdOfKey k = h)) f s.tiles }

/-- RESET_TILES on a tile: everything at its reset value but program SRAM (R142). -/
def Tile.clear (t : Tile) : Tile :=
  { Tile.reset with prog := t.prog, hasProg := t.hasProg, bad := t.bad.filter (fun e => decide (5120 ≤ e.1)) }

/-- RESET_TILES on a herd. -/
def State.clearTiles (s : State) (h : Nat) : State :=
  (s.mapTiles h Tile.clear).updHerd h (fun x =>
    { x with st := .loaded, fault := 0, stackFault := false, atEpoch := none, drained := false, snapAll := 3 })

/-- The sequencer of a released tile: from instruction 0, or on from where it stopped (R52, R507). -/
def Tile.go (t : Tile) : Tile :=
  let t := { t with reads := t.reads.map (fun r => { r with poisoned := false }) }
  if t.hasProg = true ∧ (t.run = .fresh ∨ t.run = .halted ∨ t.run = .atBarrier ∨ t.run = .stackFault)
  then { t with run := .running } else t

/-- Requests of a herd's tiles. -/
def StkReq.ofHerd (h : Nat) (q : StkReq) : Bool :=
  match q.src with
  | .tile k => decide (herdOfKey k = h)
  | _ => false

/-- Every stack serves again the reads of the herd that it answered poisoned (R507). -/
def Stk.serveAgain (h : Nat) (x : Stk) : Stk :=
  { x with reqs := x.reqs ++ x.poisoned.filter (StkReq.ofHerd h), poisoned := x.poisoned.filter (fun q => !(q.ofHerd h)) }

def State.serveAgain (s : State) (h : Nat) : State :=
  { s with stks := NatMap.mapIf Stk.reset (fun _ => true) (Stk.serveAgain h) s.stks }

/-! ### Snapshots (R369 to R373) -/

/-- The full epoch number that bits [23:0] name, nearest the current one (R368). DEDUCED (log entry 31). -/
def fullEpoch (cur arg : Nat) : Nat :=
  let c := cur / 2 ^ 24 * 2 ^ 24 + arg % 2 ^ 24
  if cur + 2 ^ 23 < c ∧ 2 ^ 24 ≤ c then c - 2 ^ 24 else c

/-- Persistent granules of a herd's tiles: 20 unless JOURNAL_STREAMS sets them (R353, R354). -/
def State.persistent (s : State) (h : Nat) : Nat := NatMap.get s.jrn.granules 20 h

/-- The key of slot E mod 2 of a herd. -/
def snapKey (h e : Nat) : Nat := h * 2 + e % 2

/-- Cells of `new` where `f` holds of the address, over those of `old` elsewhere. -/
def mergeMem (f : Nat → Bool) (new old : Mem) : Mem :=
  (new.filter (fun c => f c.1)).foldl (fun m c => NatMap.ins m c.1 c.2) (old.filter (fun c => !(f c.1)))

/-- The snapshot of a tile into slot `slot`: the fixed part, and each granule below `g` whose bit for the slot
is set or, with `whole`, every one; the other granules stay as the slot holds them (R370, R371).
DEDUCED (log entry 33). -/
def Tile.snapOf (t : Tile) (key slot g : Nat) (whole : Bool) (old : Mem) : TileSnap :=
  let dirty := if slot = 0 then t.dirty0 else t.dirty1
  { key := key
    data := mergeMem (fun a => whole || dirty.getLsbD (a / 1024)) (t.sram.below (g * 1024)) old
    accs := t.accs, arith := t.arith, seed := t.seed, step := t.step, status := t.status, sparse := t.sparse
    ctrs := t.ctrs, sregs := t.sregs, pc := t.pc }

def Tile.snapClean (t : Tile) (slot : Nat) : Tile :=
  if slot = 0 then { t with dirty0 := 0 } else { t with dirty1 := 0 }

/-- A stack serves: it is in service. -/
def State.stkServes (s : State) (k : Nat) : Bool := decide ((s.stk k).st = .service)

/-- The snapshot region of the herd's home stack, or its copy, can be written. -/
def State.snapReach (s : State) (h : Nat) : Bool :=
  s.stkServes (s.homeStack h) || s.stkServes (partner (s.homeStack h))

/-- SNAPSHOT of epoch E: the slot is written whole, its header last, and the copy with it (R162, R371).
DEDUCED (log entry 33). -/
def State.takeSnapshot (s : State) (h e : Nat) : State :=
  let x := s.herd h
  let slot := e % 2
  let old := s.snap (snapKey h e)
  let part (key : Nat) : Mem := ((old.tiles.find? (fun t => decide (t.key = key))).map TileSnap.data).getD []
  let tiles := (s.tiles.filter (fun e => decide (herdOfKey e.1 = h))).map (fun (q : Nat × Tile) =>
    q.2.snapOf q.1 slot (s.persistent h) (x.snapAll.getLsbD slot) (part q.1))
  let k := s.homeStack h
  let alone := decide ((s.stk k).st = .down ∨ (s.stk (partner k)).st = .down)
  let s := s.setSnap (snapKey h e)
    { epoch := e, valid := true, copied := alone, tiles := tiles, seqPos := x.seqPos, taken := x.taken
      outseq := x.outseq, seen := s.jrn.peers.map (fun (p : Nat × Peer) => (p.1, p.2.seen))
      sendNo := s.jrn.peers.map (fun (p : Nat × Peer) => (p.1, p.2.txSeq)) }
  let s := if alone then s else s.updStk k (fun y =>
    { y with copies := y.copies.filter (fun c => decide (c ≠ .snap (snapKey h e))) ++ [.snap (snapKey h e)] })
  (s.mapTiles h (fun t => t.snapClean slot)).setHerd h
    { x with reshaped := false, snapAll := if slot = 0 then x.snapAll &&& 2 else x.snapAll &&& 1 }

/-- A tile as its snapshot has it; program SRAM stays, data SRAM beyond the persistent granules is zero
(R370). DEDUCED (log entry 37). -/
def Tile.restored (t : Tile) (p : TileSnap) : Tile :=
  { t with
    sram := p.data, bad := t.bad.filter (fun e => decide (5120 ≤ e.1)), accs := p.accs, sregs := p.sregs, pc := p.pc
    run := if t.hasProg then .atBarrier else .fresh
    wait := .none, ctrs := p.ctrs, arith := p.arith, seed := p.seed, step := p.step, status := p.status
    sparse := p.sparse, reads := [], checked := none, lanes := [], sparseRun := none }

/-- The stream of the herd transport that a group's messages have; those below are the work streams', those above the
wafers' own. DEDUCED (log entry 106). -/
def groupChan (g : Nat) : Nat := 4096 + g

/-- A stream of the transport belongs to a group that the herd is a member of. -/
def State.herdChan (s : State) (h c : Nat) : Bool :=
  match NatMap.find s.mesh.groups (c - 4096) with
  | some q => decide (4096 ≤ c ∧ c < 4160) && q.members.any (fun m => decide (m % 1024 = h))
  | none => false

/-- The herd transport's sequence state as the snapshot has it for the groups that the herd belongs to: what it has
received, and the numbers that it sends next (R370, R375). -/
def State.restoreSeen (s : State) (h : Nat) (p : Snap) : State :=
  let back (w : Nat) (x : Peer) : Peer :=
    { x with
      seen := x.seen.filter (fun q => !(s.herdChan h q.1) || decide (q ∈ NatMap.get p.seen [] w))
      txSeq := x.txSeq.map (fun (e : Nat × Nat) =>
        if s.herdChan h e.1 then (e.1, NatMap.get (NatMap.get p.sendNo [] w) 1 e.1) else e) }
  { s with jrn := { s.jrn with peers := s.jrn.peers.map (fun (e : Nat × Peer) => (e.1, back e.1 e.2)) } }

/-- RESTORE from a slot: HALTED at its barrier (R142, R370). -/
def State.restoreFrom (s : State) (h : Nat) (p : Snap) : State :=
  let s := s.mapTiles h (fun t => t.restored
    { key := 0, data := [], accs := [], arith := 0, seed := 0, step := 0, status := 0, sparse := 0x8A0
      ctrs := [], sregs := [], pc := 0 })
  let s := s.forEach p.tiles (fun s q => s.updTile q.key (fun t => t.restored q))
  let s := s.updHerd h (fun x =>
    { x with st := .halted, fault := 0, stackFault := false, atEpoch := some p.epoch, drained := false
             seqPos := p.seqPos, taken := p.taken, outseq := p.outseq, snapAll := 3, epoch := p.epoch
             timer := false, seqEpoch := false })
  let s : State := { s with flt := { s.flt with held := s.flt.held.filter (fun g => decide (g ≠ s.groupOf h)) } }
  s.restoreSeen h p

/-- The slot of an epoch holds its snapshot, in a stack that serves. -/
def State.snapReadable (s : State) (h e : Nat) : Bool :=
  let p := s.snap (snapKey h e)
  p.valid && decide (p.epoch = e) &&
    (s.stkServes (s.homeStack h) || (p.copied && s.stkServes (partner (s.homeStack h))))

/-! ### Broadcast rollcall and repair (R413 to R415, R425) -/

/-- The physical herd of a position key. -/
def herdOfPos (k : Nat) : Nat := pherdAt (k % 1089) (k / 1089)

/-- A powered tile that passed its test takes the broadcast. -/
def State.takesBcast (s : State) (k : Nat) : Bool :=
  s.pherdOn (herdOfPos k) && !(s.bru.failed.any (fun f => decide (f.elem ≠ .controller ∧ f.at_.x = k % 1089 ∧ f.at_.y = k / 1089)))

/-- The segments of a firmware, as a bitmap. -/
def fwSegs (fw : List Byte) : Nat := 2 ^ ceilDiv fw.length 4096 - 1

/-- What the tiles that take a firmware miss of it. -/
def State.missIn (s : State) (fw : List Byte) (missed : List (Nat × Nat)) : NatMap Nat :=
  (missed.filter (fun e => decide (e.1 < 1089 * 1056) && s.takesBcast e.1)).foldl
    (fun m e => NatMap.put m 0 e.1 (NatMap.get m 0 e.1 ||| e.2 &&& fwSegs fw)) []

/-- OR of the missing bitmaps of a physical herd; a number that is not the last broadcast's finds every segment
missing. -/
def State.missingOf (s : State) (ph number : Nat) : BitVec 16 :=
  if number % 256 = s.bru.bcastNo then
    s.bru.missing.foldl (fun a e => if herdOfPos e.1 = ph then a ||| BitVec.ofNat 16 e.2 else a) 0
  else BitVec.allOnes 16

/-- The segments that a physical herd's controller does not hold as they were sent: one of them reaches no tile, whose CRC
check refuses it (R412, R413). -/
def badSegs (copies : List FwSeg) (ph : Nat) : Nat :=
  copies.foldl (fun a x => if x.ph = ph then a ||| 2 ^ x.seg else a) 0

/-- Every segment that still misses after a repair: it missed before, and the repair did not land or the controller's copy of
it is bad. DEDUCED (log entry 36). -/
def repairLeft (sel : Nat → Bool) (still : List (Nat × Nat)) (copies : List FwSeg) (m : List (Nat × Nat)) : List (Nat × Nat) :=
  (m.map (fun e => if sel e.1 then
      (e.1, (((still.find? (fun q => decide (q.1 = e.1))).map Prod.snd).getD 0 ||| badSegs copies (herdOfPos e.1)) &&& e.2) else e)).filter
    (fun e => decide (e.2 ≠ 0))

/-- BRU_BCAST_STAT (R425). -/
def State.noteBcast (s : State) : State :=
  let s := s.wr Reg.BRU_BCAST_STAT_NUMBER s.bru.bcastNo
  (s.wr Reg.BRU_BCAST_STAT_ROUNDS (min s.bru.round 3)).wr Reg.BRU_BCAST_STAT_MISSING s.bru.missing.length

/-- The tiles at positions, as failed elements. -/
def missFails (gone : List (Nat × Nat)) : List Failed :=
  gone.map (fun e => { at_ := ⟨e.1 % 1089, e.1 / 1089⟩, elem := .tile })

/-- Tiles that still miss segments are retired (R415). -/
def State.retire (s : State) (gone : List (Nat × Nat)) : State :=
  let s := s.forEach gone (fun s e =>
    s.post Code.tileFwMissing Source.herd ((s.lherd (herdOfPos e.1)).getD 0)
      (e.1 % 1089 + e.1 / 1089 * 2 ^ 11 + e.2 * 2 ^ 22))
  let s : State := { s with bru := { s.bru with failed := s.bru.failed ++ missFails gone } }
  s.count Reg.BRU_BCAST_STAT_RETIRED gone.length

/-- R415: every tile that still misses a segment is retired and spared. DEDUCED (log entry 104). -/
def State.retireMissing (s : State) : State :=
  let gone := s.bru.missing
  let s := s.retire gone
  let s : State := { s with bru := { s.bru with missing := [] } }
  let s := s.forEach (missFails gone) (fun s f => s.spareMissing f)
  s.wr Reg.BRU_BCAST_STAT_MISSING 0

/-- A broadcast repair stop. -/
def BruStop.ofRepair : BruStop → Bool
  | .repair _ _ => true
  | _ => false

/-- A repair round of the bring-up engine over every herd; at most three run. A round that leaves a tile
missing stops in host-assisted mode, and the third retires it otherwise (R414, R415, R417). DEDUCED (log entry 36). -/
def State.repairRound (s : State) (still : List (Nat × Nat)) : State :=
  if s.bru.missing.isEmpty = true ∨ 3 ≤ s.bru.round ∨ s.bru.stops.any BruStop.ofRepair = true then s
  else
    let s : State := { s with bru := { s.bru with
        missing := repairLeft (fun _ => true) still s.bru.copies s.bru.missing, round := s.bru.round + 1 } }
    let s := s.noteBcast
    if s.bru.missing.isEmpty then s
    else if s.assisted 1 then
      let n := s.bru.missing.length
      let s : State := { s with bru := { s.bru with stops := s.bru.stops ++ [.repair s.bru.round n] } }
      s.postStop (Code.hostStop + 1) Source.bru 0 (s.bru.round + n * 4)
    else if 3 ≤ s.bru.round then s.retireMissing
    else s

/-- The fault that has halted a tile of a herd, of the first such tile. -/
def State.tileFault (s : State) (h : Nat) : Option Nat :=
  s.tiles.findSome? (fun e => if herdOfKey e.1 = h then
    (match e.2.run with
     | .faulted code => some code
     | _ => none) else none)

/-! ### The commands (R142) -/

/-- What a command does: the state after it, and whether it has ended and how; none of the second: it goes on. -/
structure CmdAns where
  state : State
  done  : Bool
  fail  : Option Nat

def cmdOk (s : State) : CmdAns := ⟨s, true, none⟩
def cmdRefused (s : State) : CmdAns := ⟨s, true, some 0⟩

/-- RELEASE (R52, R142, R150, R373, R507). A tile that a fault of its own has halted stays halted, and the herd is FAULTED
again by that fault. DEDUCED (log entry 120). -/
def State.cmdRelease (s : State) (h : Nat) : CmdAns :=
  let x := s.herd h
  if x.st = .loaded ∨ x.st = .halted ∨ (x.st = .faulted ∧ x.stackFault = true) then
    let y := if x.st = .loaded then { x with relTaken := x.taken, relOutseq := x.outseq, committed := false } else x
    let s := if x.st = .faulted then s.serveAgain h else s
    let s := s.setHerd h { y with st := .running, fault := 0, stackFault := false, atEpoch := none, drained := false }
    let s := s.mapTiles h Tile.go
    match s.tileFault h with
    | some code => cmdOk (s.faultState h code false)
    | none => cmdOk s
  else cmdRefused s

/-- HALT: every tile stops at an instruction boundary. -/
def State.cmdHalt (s : State) (h : Nat) : CmdAns :=
  if (s.herd h).st = .running then
    let s := s.updHerd h (fun x => { x with st := .halted, atEpoch := none, drained := false })
    cmdOk (s.mapTiles h (fun t => if t.run = .running then { t with run := .halted } else t))
  else cmdRefused s

/-- BARRIER and DRAIN: requested now, reached when every tile has arrived. -/
def State.cmdBarrier (s : State) (h arg : Nat) (drain : Bool) (src : CmdSrc) : CmdAns :=
  if (s.herd h).st = .running then
    let e := fullEpoch s.jrn.epoch arg
    let opened := if drain then s.openColls h else []
    let s := s.updHerd h (fun x => { x with barrier := some { epoch := e, drain := drain, src := src }, drainOpen := opened })
    ⟨s.tryBarrier h, false, none⟩
  else cmdRefused s

/-- SNAPSHOT: only HALTED at a barrier (R142, R372). DESIGN CHOICE (log entry 34). -/
def State.cmdSnapshot (s : State) (h arg : Nat) : CmdAns :=
  let x := s.herd h
  match x.atEpoch with
  | some b =>
    if x.st = .halted then
      if s.snapReach h then cmdOk (s.takeSnapshot h (fullEpoch b arg))
      else ⟨s, true, some (Config.herdFailCode 4).toNat⟩
    else cmdRefused s
  | none => cmdRefused s

/-- RESTORE of an epoch whose snapshot can be read; until a new snapshot exists, a re-shaped herd ends in LOADED with the
values of TILE_INIT (R142, R204). DESIGN CHOICE (log entry 34). -/
def State.cmdRestore (s : State) (h arg : Nat) : CmdAns :=
  let x := s.herd h
  let e := fullEpoch s.jrn.epoch arg
  if x.st = .halted ∨ x.st = .faulted then
    if s.snapReadable h e then cmdOk (s.restoreFrom h (s.snap (snapKey h e)))
    else if x.reshaped then cmdOk ((s.clearTiles h).applyInit h x.init)
    else ⟨s, true, some (Config.herdFailCode 5).toNat⟩
  else cmdRefused s

def State.cmdResetTiles (s : State) (h : Nat) (src : CmdSrc) : CmdAns :=
  let st := (s.herd h).st
  if st = .loaded ∨ st = .halted ∨ st = .faulted ∨ (src = .loader ∧ st ≠ .running) then cmdOk (s.clearTiles h)
  else cmdRefused s

/-- ROUTE_REPAIR: the route memory of the herd's routers is as generated again; broadcast entries are kept. -/
def State.repairRoutes (s : State) (h : Nat) : State :=
  let ph := s.pherd h
  let rs : NatMap Router := NatMap.mapIf Router.reset (fun k => decide (herdOfPos k = ph))
    (fun r => { r with herdTab := [], localTab := [], edgeTab := [], bad := r.bad.filter (fun e => decide (2112 ≤ e.1)) })
    s.mesh.routers
  State.generateHerd { s with mesh := { s.mesh with routers := rs } } ph

def State.cmdRouteRepair (s : State) (h : Nat) : CmdAns :=
  let st := (s.herd h).st
  if st = .loaded ∨ st = .halted ∨ st = .faulted then cmdOk (s.repairRoutes h) else cmdRefused s

/-- ROLLCALL: the controller holds the OR of its tiles' missing segments (R414). -/
def State.cmdRollcall (s : State) (h arg : Nat) (src : CmdSrc) : CmdAns :=
  let st := (s.herd h).st
  if st = .loaded ∨ (src = .loader ∧ st ≠ .running) then
    cmdOk (s.updHerd h (fun x => { x with missing := s.missingOf (s.pherd h) arg }))
  else cmdRefused s

/-- REPAIR: the controller unicasts each missing segment; the bring-up engine runs a round over every herd.
DEDUCED (log entry 36). -/
def State.cmdRepair (s : State) (h : Nat) (still : List (Nat × Nat)) (src : CmdSrc) : CmdAns :=
  let st := (s.herd h).st
  if src = .loader ∧ st ≠ .running then cmdOk (s.repairRound still)
  else if st = .loaded then
    let left := repairLeft (fun k => decide (herdOfPos k = s.pherd h)) still s.bru.copies s.bru.missing
    cmdOk { s with bru := { s.bru with missing := left } }
  else cmdRefused s

/-- Carries out a command of R142. -/
def State.herdDo (s : State) (h : Nat) (c : QCmd) : CmdAns :=
  match c.op with
  | 1 => s.cmdRelease h
  | 2 => s.cmdHalt h
  | 3 => s.cmdBarrier h c.arg false c.src
  | 4 => s.cmdSnapshot h c.arg
  | 5 => s.cmdRestore h c.arg
  | 6 => s.cmdResetTiles h c.src
  | 7 => s.cmdRouteRepair h
  | 8 => s.cmdBarrier h c.arg true c.src
  | 9 => s.cmdRollcall h c.arg c.src
  | 10 => s.cmdRepair h c.still c.src
  | _ => cmdRefused s

/-- Carries out a command and reports its end. -/
def State.herdRun (s : State) (h : Nat) (c : QCmd) : State :=
  let a := s.herdDo h c
  if a.done then a.state.cmdEnd h c.src a.fail else a.state

/-- A HALT of the fault controller does not wait for a barrier: it ends it. DEDUCED (log entry 30). -/
def State.dropBarrier (s : State) (h : Nat) : State :=
  match (s.herd h).barrier with
  | none => s
  | some b => (s.updHerd h (fun x => { x with barrier := none })).cmdEnd h b.src (some 0)

/-! ### The queues (R140) -/

/-- Takes the first command of a source out of a queue. -/
def takeSrc (src : CmdSrc) : List QCmd → Option (QCmd × List QCmd)
  | [] => none
  | c :: cs => if c.src = src then some (c, cs) else (takeSrc src cs).map (fun r => (r.1, c :: r.2))

/-- The command to serve next: the fault controller's first; none while a barrier is in progress; what the
controller runs itself; then firmware and host in turn. DEDUCED (log entry 30). -/
def Herd.nextCmd (x : Herd) : Option (QCmd × Herd) :=
  match takeSrc .fault x.queue with
  | some r => some (r.1, { x with queue := r.2 })
  | none =>
    if x.barrier.isSome then none
    else
      match takeSrc .sequence x.queue with
      | some r => some (r.1, { x with queue := r.2 })
      | none =>
        let a := if x.lastFw then CmdSrc.host else CmdSrc.firmware
        let b := if x.lastFw then CmdSrc.firmware else CmdSrc.host
        match takeSrc a x.queue with
        | some r => some (r.1, { x with queue := r.2, lastFw := decide (a = .firmware) })
        | none => (takeSrc b x.queue).map (fun r => (r.1, { x with queue := r.2, lastFw := decide (b = .firmware) }))

/-- Serves the queues of a herd controller, at most `n` commands. DEDUCED (log entry 30). -/
def State.serveHerd : Nat → State → Nat → State
  | 0, s, _ => s
  | n + 1, s, h =>
    match (s.herd h).nextCmd with
    | none => s
    | some (c, x) =>
      let s := s.setHerd h x
      let s := if c.src = .fault then s.dropBarrier h else s
      State.serveHerd n (s.herdRun h c) h

/-- Serves what waits. -/
def State.serve (s : State) (h : Nat) : State := State.serveHerd (s.herd h).queue.length s h

/-- The barrier of a herd may have been reached: then its queues go on. -/
def State.checkBarrier (s : State) (h : Nat) : State := (s.tryBarrier h).serve h

/-- A fault puts the herd in FAULTED; its queues go on (R100, R142). -/
def State.faultHerd (s : State) (h code : Nat) (stackFault : Bool) : State :=
  (s.faultState h code stackFault).serve h

/-- A command enters the queue of its source. -/
def State.enqueue (s : State) (h : Nat) (c : QCmd) : State :=
  s.updHerd h (fun x => { x with queue := x.queue ++ [c] })

/-- A command reaches a herd controller. The loader's steps are carried out at once. -/
def State.herdCmd (s : State) (h : Nat) (c : QCmd) : State :=
  if c.src = .loader then s.herdRun h c else (s.enqueue h c).serve h

/-! ### What herd and tile steps may change -/

/-- A step of a tile, a herd controller or the mesh may change tiles, herds, the mesh, what herd commands reach
(snapshots, poisoned reads of the stacks, received transport messages, the map and the recovery), registers
and the events; nothing else. -/
def actHerd (f : State → State) (s : State) : Result :=
  let t := f s
  .next { s with regs := t.regs, tiles := t.tiles, herds := t.herds, mesh := t.mesh, stks := t.stks
                 snaps := t.snaps, jrn := t.jrn, bru := t.bru, flt := t.flt, io := t.io }

end Sys2Proof.Machine
end

