-- ==== Sys2Proof/Machine/Flags.lean ====
section
/-! DEFINITION. The sticky arithmetic flags of a tile (HRD_TILE_STATUS) and of an accumulator (R77). -/

namespace Sys2Proof.Machine

/-- What an operation did: window change, NaN result, overflow, inexact result. -/
structure Flags where
  win  : Bool
  nan  : Bool
  ovf  : Bool
  inex : Bool
deriving DecidableEq, Repr

def Flags.none : Flags := ⟨false, false, false, false⟩

def Flags.join (a b : Flags) : Flags :=
  ⟨a.win || b.win, a.nan || b.nan, a.ovf || b.ovf, a.inex || b.inex⟩

def Flags.all (l : List Flags) : Flags := l.foldl Flags.join Flags.none

/-- The flags as bits [3:0] of HRD_TILE_STATUS. -/
def Flags.word (f : Flags) : Word :=
  BitVec.ofNat 64 (b2n f.win + 2 * b2n f.nan + 4 * b2n f.ovf + 8 * b2n f.inex)

/-- Sets sticky flags. -/
def Tile.setFlags (t : Tile) (f : Flags) : Tile := { t with status := t.status ||| f.word }

/-- The accumulator flags of one term (R77): NaN, and an infinity of a sign. -/
structure AccFlags where
  nan  : Bool
  pinf : Bool
  ninf : Bool
deriving DecidableEq, Repr

/-- Combines flags by OR; both infinities together set NAN (R77). -/
def AccFlags.join (a b : AccFlags) : AccFlags :=
  let p := a.pinf || b.pinf
  let n := a.ninf || b.ninf
  ⟨a.nan || b.nan || (p && n), p, n⟩

end Sys2Proof.Machine
end

