-- ==== Sys2Proof/Machine/Operands.lean ====
section
/-! DEFINITION. Number formats, rounding and operands in data SRAM (R59 to R71, R81). A number is exact:
a sign, a magnitude and a power of two. -/

namespace Sys2Proof

/-- Exponent width, mantissa width and bias of a format (R59); of the element for a Tine format. -/
structure FltFmt where
  eb   : Nat
  mb   : Nat
  bias : Nat
deriving DecidableEq, Repr

def Fmt.flt : Fmt → FltFmt
  | .fp32 => ⟨8, 23, 127⟩
  | .bf16 => ⟨8, 7, 127⟩
  | .fp16 => ⟨5, 10, 15⟩
  | .e4m3 => ⟨4, 3, 7⟩
  | .e5m2 => ⟨5, 2, 15⟩
  | .tine6 => ⟨3, 2, 3⟩
  | .tine4 => ⟨2, 1, 1⟩

def Fmt.isTine : Fmt → Bool
  | .tine6 => true
  | .tine4 => true
  | _ => false

/-- Formats whose exponent of all ones is infinity or NaN. -/
def Fmt.hasInf : Fmt → Bool
  | .fp32 => true
  | .bf16 => true
  | .fp16 => true
  | .e5m2 => true
  | _ => false

/-- Bytes of an element of a format other than a Tine format. -/
def Fmt.bytes : Fmt → Nat
  | .fp32 => 4
  | .bf16 => 2
  | .fp16 => 2
  | _ => 1

/-- Bits of an element (R59, R91). -/
def Fmt.bits (f : Fmt) : Nat := 1 + f.flt.eb + f.flt.mb

/-- The position of a format's sign bit. -/
def Fmt.signBit (f : Fmt) : Nat := f.flt.eb + f.flt.mb

/-- The canonical NaN (R61). -/
def Fmt.nanCode : Fmt → Nat
  | .fp32 => 0x7FC00000
  | .bf16 => 0x7FC0
  | .fp16 => 0x7E00
  | .e4m3 => 0x7F
  | .e5m2 => 0x7E
  | _ => 0

def Fmt.signOf (f : Fmt) (neg : Bool) : Nat := if neg then 2 ^ f.signBit else 0

def Fmt.infCode (f : Fmt) (neg : Bool) : Nat := f.signOf neg + (2 ^ f.flt.eb - 1) * 2 ^ f.flt.mb

/-- Exponent field and mantissa of the largest finite value. -/
def Fmt.maxParts (f : Fmt) : Nat × Nat :=
  match f with
  | .e4m3 => (15, 6)
  | .tine6 => (7, 3)
  | .tine4 => (3, 1)
  | g => (2 ^ g.flt.eb - 2, 2 ^ g.flt.mb - 1)

/-- The code of the largest finite value with a sign. -/
def Fmt.maxCode (f : Fmt) (neg : Bool) : Nat :=
  f.signOf neg + f.maxParts.1 * 2 ^ f.flt.mb + f.maxParts.2

/-- The exponent of the lowest bit of a subnormal. -/
def Fmt.emin (f : Fmt) : Int := 1 - (f.flt.bias : Int) - (f.flt.mb : Int)

end Sys2Proof

namespace Sys2Proof.Machine

/-- An exact number, or a special value. The value of `fin neg m e` is m * 2^e with the sign. -/
inductive Num where
  | nan
  | inf (neg : Bool)
  | fin (neg : Bool) (m : Nat) (e : Int)
deriving DecidableEq, Repr

/-- The value of an element code (R59, R60). -/
def decodeFlt (f : Fmt) (c : Nat) : Num :=
  let mant := c % 2 ^ f.flt.mb
  let ef := (c / 2 ^ f.flt.mb) % 2 ^ f.flt.eb
  let neg := c.testBit f.signBit
  if f.hasInf ∧ ef = 2 ^ f.flt.eb - 1 then (if mant = 0 then .inf neg else .nan)
  else if f = .e4m3 ∧ ef = 15 ∧ mant = 7 then .nan
  else if ef = 0 then .fin neg mant f.emin
  else .fin neg (2 ^ f.flt.mb + mant) (f.emin + (ef : Int) - 1)

/-- A Tine element under its block's scale byte (R62, R63). -/
def decodeTine (f : Fmt) (scale c : Nat) : Num :=
  if scale % 128 = 127 then .nan
  else match decodeFlt f c with
    | .fin neg m e =>
      let k := if 128 ≤ scale then 3 else 2
      .fin (neg && m != 0) (m * k) (e - 1 + (scale % 128 : Nat) - 63)
    | x => x

/-- The rounding step of R67. -/
def roundMag (mag drop : Nat) (mode : RMode) (rnd : Nat) : Nat :=
  if drop = 0 then mag
  else
    let keep := mag / 2 ^ drop
    let rest := mag % 2 ^ drop
    match mode with
    | .rtz => keep
    | .rne =>
      let half := 2 ^ (drop - 1)
      if rest > half ∨ (rest = half ∧ keep % 2 = 1) then keep + 1 else keep
    | .sr =>
      let top := if 32 ≤ drop then rest / 2 ^ (drop - 32) else rest * 2 ^ (32 - drop)
      if 2 ^ 32 ≤ top + rnd then keep + 1 else keep

/-- Rounds m * 2^e to a grid of `mb + 1` significant bits whose lowest exponent is `emin`: the kept
magnitude, its exponent, and whether nothing changed. -/
def roundTo (mb : Nat) (emin : Int) (m : Nat) (e : Int) (mode : RMode) (rnd : Nat) : Nat × Int × Bool :=
  let q := max (e + (m.log2 : Int) - (mb : Int)) emin
  if q ≤ e then (m * 2 ^ (e - q).toNat, q, true)
  else
    let drop := (q - e).toNat
    let keep := roundMag m drop mode rnd
    (keep, q, decide (keep * 2 ^ drop = m))

/-- The exponent field and mantissa of a kept magnitude; a carry out of the top is renormalised. -/
def packParts (f : Fmt) (keep : Nat) (q : Int) : Nat × Nat :=
  let top := 2 ^ (f.flt.mb + 1)
  let k := if keep = top then keep / 2 else keep
  let q := if keep = top then q + 1 else q
  if k < 2 ^ f.flt.mb then (0, k) else ((q - f.emin + 1).toNat, k - 2 ^ f.flt.mb)

/-- A zero of a format: E4M3 and the Tine formats have +0 alone (R61, R70). -/
def zeroCode (f : Fmt) (neg : Bool) : Nat := if f.hasInf then f.signOf neg else 0

/-- Rounds a number into a format that is no Tine format (R66 to R70, R78). -/
def toFlt (f : Fmt) (mode : RMode) (sat : Bool) (rnd : Nat) (x : Num) : Nat × Flags :=
  match x with
  | .nan => (f.nanCode, ⟨false, true, false, false⟩)
  | .inf neg => if f.hasInf then (f.infCode neg, Flags.none) else (f.nanCode, ⟨false, true, false, false⟩)
  | .fin neg m e =>
    if m = 0 then (zeroCode f neg, Flags.none)
    else
      let r := roundTo f.flt.mb f.emin m e mode rnd
      let p := packParts f r.1 r.2.1
      if f.maxParts.1 < p.1 ∨ (p.1 = f.maxParts.1 ∧ f.maxParts.2 < p.2) then
        let big := if f.hasInf = true ∧ sat = false ∧ mode ≠ .rtz then f.infCode neg else f.maxCode neg
        (big, ⟨false, false, true, true⟩)
      else if r.1 = 0 then (zeroCode f neg, ⟨false, false, false, true⟩)
      else (f.signOf neg + p.1 * 2 ^ f.flt.mb + p.2, ⟨false, false, false, !r.2.2⟩)

/-- RNE into FP32, the node of R81. -/
def rne32 (x : Num) : BitVec 32 := BitVec.ofNat 32 (toFlt .fp32 .rne false 0 x).1

def of32 (c : BitVec 32) : Num := decodeFlt .fp32 c.toNat

/-! ### Exact arithmetic -/

/-- A magnitude brought down to a lower exponent. -/
def alignTo (m : Nat) (e low : Int) : Nat := m * 2 ^ (e - low).toNat

def Num.neg : Num → Num
  | .nan => .nan
  | .inf n => .inf (!n)
  | .fin n m e => .fin (!n) m e

/-- Signed magnitude of a finite number at an exponent not above its own. -/
def sgn (neg : Bool) (m : Nat) : Int := if neg then -(m : Int) else (m : Int)

/-- Exact sum. An exact zero sum is +0 unless both operands are -0 (R61). -/
def Num.add : Num → Num → Num
  | .nan, _ => .nan
  | _, .nan => .nan
  | .inf a, .inf b => if a = b then .inf a else .nan
  | .inf a, _ => .inf a
  | _, .inf b => .inf b
  | .fin n1 m1 e1, .fin n2 m2 e2 =>
    let low := min e1 e2
    let v := sgn n1 (alignTo m1 e1 low) + sgn n2 (alignTo m2 e2 low)
    if v = 0 then .fin (n1 && n2) 0 low else .fin (decide (v < 0)) v.natAbs low

/-- Exact product. -/
def Num.mul : Num → Num → Num
  | .nan, _ => .nan
  | _, .nan => .nan
  | .inf a, .inf b => .inf (a != b)
  | .inf a, .fin n m _ => if m = 0 then .nan else .inf (a != n)
  | .fin n m _, .inf b => if m = 0 then .nan else .inf (n != b)
  | .fin n1 m1 e1, .fin n2 m2 e2 => .fin (n1 != n2) (m1 * m2) (e1 + e2)

/-- Quotient to 160 bits beyond the divisor, with a lowest bit that is 1 when the rest is not 0. -/
def Num.div : Num → Num → Num
  | .nan, _ => .nan
  | _, .nan => .nan
  | .inf _, .inf _ => .nan
  | .inf a, .fin n _ _ => .inf (a != n)
  | .fin n _ _, .inf b => .fin (n != b) 0 0
  | .fin n1 m1 e1, .fin n2 m2 e2 =>
    if m2 = 0 then (if m1 = 0 then .nan else .inf (n1 != n2))
    else if m1 = 0 then .fin (n1 != n2) 0 0
    else
      let num := m1 * 2 ^ 160
      .fin (n1 != n2) (num / m2 * 2 + (if num % m2 = 0 then 0 else 1)) (e1 - e2 - 161)

/-- Integer square root, bit by bit from bit `k` down. -/
def isqrtFrom (n : Nat) : Nat → Nat → Nat
  | 0, r => r
  | k + 1, r =>
    let r' := r + 2 ^ k
    isqrtFrom n k (if r' * r' ≤ n then r' else r)

def isqrt (n : Nat) : Nat := isqrtFrom n (n.log2 / 2 + 1) 0

/-- Square root with a lowest bit that is 1 when the rest is not 0. -/
def Num.sqrt : Num → Num
  | .nan => .nan
  | .inf neg => if neg then .nan else .inf false
  | .fin neg m e =>
    if m = 0 then .fin neg 0 0
    else if neg then .nan
    else
      let odd := e % 2 = 1
      let n := m * (if odd then 2 else 1) * 2 ^ 320
      let r := isqrt n
      .fin false (r * 2 + (if r * r = n then 0 else 1)) ((e - (if odd then 1 else 0)) / 2 - 161)

def Num.isNan : Num → Bool
  | .nan => true
  | _ => false

/-- Compares two numbers that are no NaN; a negative zero equals +0 (R61). -/
def Num.lt : Num → Num → Bool
  | .nan, _ => false
  | _, .nan => false
  | .inf a, .inf b => a && !b
  | .inf a, .fin _ _ _ => a
  | .fin _ _ _, .inf b => !b
  | .fin n1 m1 e1, .fin n2 m2 e2 =>
    let low := min e1 e2
    decide (sgn n1 (alignTo m1 e1 low) < sgn n2 (alignTo m2 e2 low))

def Num.eqv (a b : Num) : Bool := !(a.isNan || b.isNan) && !(Num.lt a b) && !(Num.lt b a)

def Num.isZero : Num → Bool
  | .fin _ m _ => decide (m = 0)
  | _ => false

/-- Maximum and minimum: NaN with a NaN operand, and +0 of +0 and -0 (R61, R71). DEDUCED (log entry 17). -/
def Num.maxOf (a b : Num) : Num :=
  if a.isNan || b.isNan then .nan
  else if a.isZero && b.isZero then (if a = b then a else .fin false 0 0)
  else if Num.lt a b then b else a

/-- DEDUCED (log entry 17). -/
def Num.minOf (a b : Num) : Num :=
  if a.isNan || b.isNan then .nan
  else if a.isZero && b.isZero then (if a = b then a else .fin false 0 0)
  else if Num.lt b a then b else a

/-! ### Tine blocks (R62 to R65) -/

/-- m1 * 2^e1 ≤ m2 * 2^e2. -/
def magLe (m1 : Nat) (e1 : Int) (m2 : Nat) (e2 : Int) : Bool :=
  let low := min e1 e2
  decide (alignTo m1 e1 low ≤ alignTo m2 e2 low)

/-- The largest element magnitude of a Tine format. -/
def tineQ : Fmt → Nat
  | .tine6 => 28
  | _ => 6

/-- The scale values in rising order: scale byte for 2^s and 1.5 * 2^s, s from -63 to 63. -/
def tineScales : List Nat :=
  (List.range 127).flatMap (fun e => [e, 128 + e])

/-- a ≤ q * scale. -/
def tineFits (f : Fmt) (m : Nat) (e : Int) (scale : Nat) : Bool :=
  magLe m e (tineQ f * (if 128 ≤ scale then 3 else 2)) ((scale % 128 : Nat) - 64)

/-- Value ÷ scale as a rounded element code with its flags (R65 step 4). -/
def tineElem (f : Fmt) (scale : Nat) (mode : RMode) (rnd : Nat) (x : Num) : Nat × Flags :=
  match x with
  | .fin neg m e =>
    if m = 0 then (0, Flags.none)
    else
      let d := Num.div (.fin neg m e) (.fin false (if 128 ≤ scale then 3 else 2) ((scale % 128 : Nat) - 64))
      match d with
      | .fin n dm de =>
        let r := roundTo f.flt.mb f.emin dm de mode rnd
        let p := packParts f r.1 r.2.1
        if f.maxParts.1 < p.1 then (f.maxCode n, ⟨false, false, false, true⟩)
        else if r.1 = 0 then (0, ⟨false, false, false, true⟩)
        else (f.signOf n + p.1 * 2 ^ f.flt.mb + p.2, ⟨false, false, false, !r.2.2⟩)
      | _ => (0, Flags.none)
  | _ => (0, Flags.none)

/-- Whether a number is NaN or infinite. -/
def Num.special : Num → Bool
  | .fin _ _ _ => false
  | _ => true

/-- The larger of two magnitudes. -/
def magMax (a : Nat × Int) (x : Num) : Nat × Int :=
  match x with
  | .fin _ m e => if magLe m e a.1 a.2 then a else (m, e)
  | _ => a

/-- Encodes 16 values into a block (R65): the scale byte, the 16 element codes and the flags. The elements of a NaN
block are zero codes: R61 and R65 fix its scale byte alone. DESIGN CHOICE (log entry 109). -/
def tineEncode (f : Fmt) (mode : RMode) (rnd : Nat → Nat) (xs : List Num) : Nat × List Nat × Flags :=
  if xs.any Num.special then (127, List.replicate 16 0, ⟨false, true, false, false⟩)
  else
    let a := xs.foldl magMax (0, 0)
    if a.1 = 0 then (0, List.replicate 16 0, Flags.none)
    else
      let fit := tineScales.find? (tineFits f a.1 a.2)
      let scale := fit.getD (128 + 126)
      let es := (List.range 16).map (fun i => tineElem f scale mode (rnd i) (nthD xs i (.fin false 0 0)))
      (scale, es.map Prod.fst,
        Flags.join ⟨false, false, fit.isNone, false⟩ (Flags.all (es.map Prod.snd)))

/-- Bytes of a block's payload (R64). -/
def tinePayload : Fmt → Nat
  | .tine6 => 12
  | _ => 8

/-- Bytes of a line of eight blocks (R64). -/
def tineLine : Fmt → Nat
  | .tine6 => 104
  | _ => 72

/-- The payload of 16 element codes, element i from bit i * width (R64). -/
def tinePack (f : Fmt) (es : List Nat) : List Byte :=
  leBytes (tinePayload f) ((es.zipIdx).foldl (fun a e => a + e.1 * 2 ^ (e.2 * f.bits)) 0)

/-- A byte of data SRAM as an instruction reads it; beyond the end of it the manual has no byte, and it is a free value.
DESIGN CHOICE (log entry 12). -/
def sramByte (m : Mem) (a : Nat) : Byte := if a < sramSize then Mem.byte m a else Config.beyondSram a

/-- The bytes that an instruction reads from an address. -/
def sramRead (m : Mem) (a : Nat) : Nat → List Byte
  | 0 => []
  | n + 1 => sramByte m a :: sramRead m (a + 1) n

/-- Element `i` of a Tine tensor whose first line is at `addr`. -/
def tineAt (m : Mem) (f : Fmt) (addr i : Nat) : Num :=
  let line := addr + i / 128 * tineLine f
  let blk := i % 128 / 16
  let payload := leNat (sramRead m (line + 8 + blk * tinePayload f) (tinePayload f))
  decodeTine f (sramByte m (line + blk)).toNat (payload / 2 ^ (i % 16 * f.bits) % 2 ^ f.bits)

/-- The scale exponent E - 63 of the block of element `i` (R74). -/
def tineScaleExp (m : Mem) (f : Fmt) (addr i : Nat) : Int :=
  (((sramByte m (addr + i / 128 * tineLine f + i % 128 / 16)).toNat % 128 : Nat) : Int) - 63

/-- The code of element `i` of a tensor that is no Tine tensor. -/
def codeAt (m : Mem) (f : Fmt) (addr i : Nat) : Nat := leNat (sramRead m (addr + i * f.bytes) f.bytes)

/-- The value of element `i` of a tensor in SRAM. -/
def elemAt (m : Mem) (f : Fmt) (addr i : Nat) : Num :=
  if f.isTine then tineAt m f addr i else decodeFlt f (codeAt m f addr i)

/-- The bytes that `n` elements of a tensor cover (R64: whole lines for a Tine tensor). -/
def tensorBytes (f : Fmt) (n : Nat) : Nat :=
  if f.isTine then ceilDiv n 128 * tineLine f else n * f.bytes

/-! ### Stochastic rounding (R68) -/

def mix64 (z : Word) : Word :=
  let z := (z ^^^ (z >>> 30)) * 0x9F3A61C527D84EB1
  let z := (z ^^^ (z >>> 27)) * 0xE5A70C93BD4162F7
  z ^^^ (z >>> 31)

/-- The random bits of a lane; `stepw` is HRD_TILE_STEP (STEP and SEQ). -/
def srBits (seed : Word) (key : Nat) (stepw : Word) (lane : Nat) : Nat :=
  let step := stepw.toNat % 2 ^ 32
  let seq := bits stepw.toNat 58 32
  let ctr : Word := BitVec.ofNat 64 (step * 2 ^ 32 + (seq * 32) % 2 ^ 64 ||| lane)
  let k := mix64 (seed ^^^ (BitVec.ofNat 64 key * 0x9F3A61C527D84EB1))
  (mix64 (ctr ^^^ k)).toNat / 2 ^ 32

/-- Every value of the first format is a value of the second, so that a conversion rounds nothing (R66).
DEDUCED (log entry 18). -/
def widens (src dst : Fmt) : Bool :=
  match dst with
  | .fp32 => true
  | .bf16 => decide (src ≠ .fp32 ∧ src ≠ .fp16)
  | .fp16 => decide (src = .fp16 ∨ src = .e4m3 ∨ src = .e5m2)
  | .e4m3 => decide (src = .e4m3)
  | .e5m2 => decide (src = .e5m2)
  | _ => false

/-! ### The fixed reduction tree (R81) -/

/-- One level: neighbours pair. -/
def treeLevel : List (BitVec 32) → List (BitVec 32)
  | a :: b :: r => rne32 (Num.add (of32 a) (of32 b)) :: treeLevel r
  | l => l

def treeLevels : Nat → List (BitVec 32) → List (BitVec 32)
  | 0, l => l
  | k + 1, l => treeLevels k (treeLevel l)

/-- The least k with n ≤ 2^k. -/
def log2Up (n : Nat) : Nat := if n ≤ 1 then 0 else (n - 1).log2 + 1

/-- The root over `t`, padded to a power of two with +0. -/
def treeSum (t : List (BitVec 32)) : BitVec 32 :=
  let k := log2Up t.length
  ((treeLevels k (t ++ List.replicate (2 ^ k - t.length) 0)).head?).getD 0

/-- tree_dot of R81. -/
def treeDot (xs ys : List Num) (c : Option (BitVec 32)) : BitVec 32 :=
  let root := treeSum ((xs.zip ys).map (fun p => rne32 (Num.mul p.1 p.2)))
  match c with
  | some a => rne32 (Num.add (of32 a) (of32 root))
  | none => root

/-! ### The long accumulator (R72 to R79) -/

/-- Adds an integer multiple of 2^-112. -/
def Acc.plus (c : Acc) (v : Int) : Acc := { c with a := c.a + BitVec.ofInt 192 v }

def Acc.flag (c : Acc) (f : AccFlags) : Acc :=
  let j := AccFlags.join ⟨c.nan, c.pinf, c.ninf⟩ f
  { c with nan := j.nan, pinf := j.pinf, ninf := j.ninf }

/-- A magnitude cut toward zero to the grid of 2^-112. -/
def toGrid (m : Nat) (e : Int) : Nat :=
  if -112 ≤ e then m * 2 ^ (e + 112).toNat else m / 2 ^ (-112 - e).toNat

/-- The magnitude lies on the grid. -/
def onGrid (m : Nat) (e : Int) : Bool :=
  decide (-112 ≤ e) || decide (m % 2 ^ (-112 - e).toNat = 0)

/-- Adds a number to an accumulator, cut to the grid and clamped below `lim` (R75, R79): what becomes of
it, and whether its value changed. -/
def Acc.term (c : Acc) (x : Num) (lim : Nat) : Acc × Bool :=
  match x with
  | .nan => (c.flag ⟨true, false, false⟩, false)
  | .inf neg => (c.flag ⟨false, !neg, neg⟩, false)
  | .fin neg m e =>
    let g := toGrid m e
    let v := if lim ≤ g then lim - 1 else g
    let changed := !(onGrid m e) || decide (lim ≤ g)
    (({ c with win := c.win || changed }).plus (sgn neg v), changed)

/-- A product of FP16 or FP8 values is exact (R73); a Tine product is cut and clamped below 2^38 (R75). -/
def Acc.product (c : Acc) (x y : Num) : Acc × Bool := c.term (Num.mul x y) (2 ^ 150)

/-- The value A * 2^-112, or the special value of the flags (R78). -/
def Acc.value (c : Acc) : Num :=
  if c.nan then .nan
  else if c.pinf then .inf false
  else if c.ninf then .inf true
  else
    let v := c.a.toInt
    .fin (decide (v < 0)) v.natAbs (-112)

/-- A load (R79): clears the accumulator and writes the value, cut to the grid and clamped below 2^78. -/
def Acc.load (x : Num) : Acc × Bool := Acc.zero.term x (2 ^ 190)

/-- The four words of a partial (R80). -/
def Acc.words (c : Acc) : List Word :=
  [BitVec.ofNat 64 c.a.toNat, BitVec.ofNat 64 (c.a.toNat / 2 ^ 64), BitVec.ofNat 64 (c.a.toNat / 2 ^ 128),
   BitVec.ofNat 64 (b2n c.nan + 2 * b2n c.pinf + 4 * b2n c.ninf + 8 * b2n c.win)]

def Acc.ofWords (ws : List Word) : Acc :=
  let w := fun i => (nthD ws i 0).toNat
  { a := BitVec.ofNat 192 (w 0 + w 1 * 2 ^ 64 + w 2 * 2 ^ 128)
    nan := bit (w 3) 0, pinf := bit (w 3) 1, ninf := bit (w 3) 2, win := bit (w 3) 3 }

/-- Combines two partials (R80). -/
def Acc.combine (x y : Acc) : Acc :=
  let j := AccFlags.join ⟨x.nan, x.pinf, x.ninf⟩ ⟨y.nan, y.pinf, y.ninf⟩
  { a := x.a + y.a, nan := j.nan, pinf := j.pinf, ninf := j.ninf, win := x.win || y.win }

/-! ### The other vector functions (R71) -/

/-- Fixed point with 320 fraction bits. -/
def fixOne : Int := 2 ^ 320

def fixMul (a b : Int) : Int := a * b / fixOne

/-- A dyadic number in fixed point, toward minus infinity. -/
def toFix (neg : Bool) (m : Nat) (e : Int) : Int :=
  let v : Int := if -320 ≤ e then (m * 2 ^ (e + 320).toNat : Nat) else (m / 2 ^ (-320 - e).toNat : Nat)
  if neg then -v else v

/-- sum of z^(2i+1) / (2i+1), i from k. -/
def atanhFrom (z z2 : Int) : Nat → Nat → Int → Int
  | 0, _, _ => 0
  | n + 1, i, p => p / (2 * (i : Int) + 1) + atanhFrom z z2 n (i + 1) (fixMul p z2)

def fixAtanh (z : Int) : Int := atanhFrom z (fixMul z z) 110 0 z

/-- ln 2 = 2 atanh (1/3). -/
def fixLn2 : Int := 2 * fixAtanh (fixOne / 3)

/-- sum of r^i / i!, i from k. -/
def expFrom (r : Int) : Nat → Nat → Int → Int
  | 0, _, _ => 0
  | n + 1, i, p => p + expFrom r n (i + 1) (fixMul p r / ((i : Int) + 1))

/-- e^r - 1 for |r| below 1. -/
def fixExpm1 (r : Int) : Int := expFrom r 80 0 fixOne - fixOne

/-- e^x as a positive magnitude and exponent; x within ±200. -/
def expParts (x : Int) : Nat × Int :=
  let n := x / fixLn2
  let r := x - n * fixLn2
  ((fixExpm1 r + fixOne).toNat, n - 320)

/-- ln of m * 2^e in fixed point, m > 0. -/
def fixLn (m : Nat) (e : Int) : Int :=
  let k := m.log2
  let f : Int := if k ≤ 320 then (m * 2 ^ (320 - k) : Nat) else (m / 2 ^ (k - 320) : Nat)
  let z := (f - fixOne) * fixOne / (f + fixOne)
  2 * fixAtanh z + (e + (k : Int)) * fixLn2

/-- What the exact result of a function is: no finite one, the exact number, or a close approximation of a
number that no format holds. -/
inductive Exact where
  | none
  | exactly (x : Num)
  | near (neg : Bool) (m : Nat) (e : Int)
deriving DecidableEq, Repr

/-- A positive or negative fixed-point approximation. -/
def nearFix (v : Int) : Exact := .near (decide (v < 0)) (v.natAbs * 2 + 1) (-321)

/-- The exact results of the functions: 0 exponential, 1 logarithm, 2 reciprocal square root, 3 hyperbolic
tangent, 4 sigmoid. -/
def transExact (fn : Nat) (x : Num) : Exact :=
  match x with
  | .fin neg m e =>
    let big := !(magLe m e 200 0)
    let tiny := magLe m e 1 (-150)
    match fn with
    | 0 =>
      if m = 0 then .exactly (.fin false 1 0)
      else if big then (if neg then .near false 1 (-400) else .near false 1 400)
      else
        let p := expParts (toFix neg m e)
        .near false (p.1 * 2 + 1) (p.2 - 1)
    | 1 =>
      if m = 0 ∨ neg = true then .none
      else if magLe m e 1 0 && magLe 1 0 m e then .exactly (.fin false 0 0)
      else nearFix (fixLn m e)
    | 2 =>
      if m = 0 ∨ neg = true then .none
      else
        let odd := e % 2 = 1
        let n := m * (if odd then 2 else 1)
        let k : Int := (e - (if odd then 1 else 0)) / 2
        let q := 2 ^ 640 / n
        let r := isqrt q
        if r * r * n = 2 ^ 640 then .exactly (.fin false r (-320 - k))
        else .near false (r * 2 + 1) (-321 - k)
    | 3 =>
      if m = 0 then .exactly (.fin neg 0 0)
      else if big then .near neg (2 ^ 100 - 1) (-100)
      else if tiny || magLe m e 1 (-60) then .near neg (m * 2 ^ 100 - 1) (e - 100)
      else
        let v := toFix false m e
        let t : Int := if magLe m e 1 (-2) then fixExpm1 (2 * v)
          else
            let p := expParts (2 * v)
            (if 0 ≤ p.2 + 320 then (p.1 * 2 ^ (p.2 + 320).toNat : Nat) else (p.1 / 2 ^ (-(p.2 + 320)).toNat : Nat)) - fixOne
        .near neg ((t * fixOne / (t + 2 * fixOne)).toNat * 2 + 1) (-321)
    | _ =>
      if m = 0 then .exactly (.fin false 1 (-1))
      else if big then (if neg then .near false 1 (-400) else .near false (2 ^ 100 - 1) (-100))
      else
        let p := expParts (toFix neg m e)
        let num := p.1 * 2 ^ 400
        let one : Nat := if p.2 ≤ 0 then 2 ^ (-p.2).toNat else 1
        let sc : Nat := if p.2 ≤ 0 then p.1 else p.1 * 2 ^ p.2.toNat
        .near false ((if p.2 ≤ 0 then num else num * 2 ^ p.2.toNat) / (one + sc) * 2 + 1) (-401)
  | .inf neg =>
    match fn with
    | 0 => if neg then .exactly (.fin false 0 0) else .none
    | 2 => if neg then .none else .exactly (.fin false 0 0)
    | 3 => .exactly (.fin neg 1 0)
    | 4 => .exactly (.fin false (if neg then 0 else 1) 0)
    | _ => .none
  | .nan => .none

/-- The FP32 codes in rising order of value, as integers. -/
def ordOf (c : Nat) : Int := if 2 ^ 31 ≤ c then -((c - 2 ^ 31 : Nat) : Int) else (c : Int)

/-- The code at a place of that order; a zero takes the sign of the exact result (R61, R70). -/
def ofOrd (neg : Bool) (i : Int) : Nat :=
  if i < 0 then 2 ^ 31 + i.natAbs else if i = 0 then zeroCode .fp32 neg else i.toNat

/-- An FP32 code as the W1056 writes it: every NaN is the canonical one (R61). -/
def canon32 (code : Nat) : Nat := if (decodeFlt .fp32 code).isNan then Fmt.nanCode .fp32 else code

def Num.negative : Num → Bool
  | .fin neg _ _ => neg
  | .inf neg => neg
  | .nan => false

/-- A result within 2 units in the last place of the exact one (R71): the free choice, among the FP32
values that the bound admits, and its flags. DESIGN CHOICE (log entry 15). -/
def transResult (fn : Nat) (c : BitVec 32) (mode : RMode) : Nat × Flags :=
  match of32 c with
  | .nan => (Fmt.nanCode .fp32, ⟨false, true, false, false⟩)
  | x =>
    match transExact fn x with
    | .none =>
      let o := (Config.transOpen fn c).toNat
      let code := canon32 (o % 2 ^ 32)
      (code, ⟨false, (decodeFlt .fp32 code).isNan, bit o 32, bit o 33⟩)
    | .exactly y =>
      let e := (toFlt .fp32 .rne false 0 y).1
      let d : Int := ((Config.transUlp fn c % 5 : Nat) : Int) - 2
      (ofOrd y.negative (ordOf e + d), ⟨false, false, false, decide (d ≠ 0)⟩)
    | .near neg m e =>
      let lo := toFlt .fp32 .rtz false 0 (.fin neg m e)
      if (toFlt .fp32 mode false 0 (.fin neg m e)).2.ovf then toFlt .fp32 mode false 0 (.fin neg m e)
      else
        let d : Int := ((Config.transUlp fn c % 4 : Nat) : Int) - 1
        let r := ordOf lo.1 + (if neg then -d else d)
        let hi : Int := 0x7F7FFFFF
        let r := if neg then max (min r 0) (-hi) else min (max r 0) hi
        (ofOrd neg r, ⟨false, false, false, true⟩)

/-! ### Vector-unit operations (R71) -/

/-- One lane: the FP32 code it gives and its flags. A compare sets no flag, and with a NaN operand gives the canonical
NaN as every operation does (R71). DESIGN CHOICE (log entry 16). -/
def vecLane (fn : VecFn) (mode : RMode) (rnd : Nat) (a b c : BitVec 32) : Nat × Flags :=
  let x := of32 a
  let y := of32 b
  let z := of32 c
  let out := toFlt .fp32 mode false rnd
  let cmp (r : Bool) : Nat × Flags :=
    (if x.isNan || y.isNan then Fmt.nanCode .fp32 else (Config.compareCode r).toNat, Flags.none)
  match fn with
  | .add => out (Num.add x y)
  | .sub => out (Num.add x (Num.neg y))
  | .mul => out (Num.mul x y)
  | .fma => out (Num.add (Num.mul x y) z)
  | .div => out (Num.div x y)
  | .sqrt => out (Num.sqrt x)
  | .neg => out (Num.neg x)
  | .max => out (Num.maxOf x y)
  | .min => out (Num.minOf x y)
  | .lt => cmp (Num.lt x y)
  | .le => cmp (Num.lt x y || Num.eqv x y)
  | .eq => cmp (Num.eqv x y)
  | .exp => transResult 0 a mode
  | .log => transResult 1 a mode
  | .rsqrt => transResult 2 a mode
  | .tanh => transResult 3 a mode
  | .sigmoid => transResult 4 a mode

/-- The operations that R71 lists as correctly rounded in the instruction's mode, the compares among them: the ones that
count as rounding in SR (R68). -/
def vecRounds : VecFn → Bool
  | .add => true
  | .sub => true
  | .mul => true
  | .fma => true
  | .div => true
  | .sqrt => true
  | .lt => true
  | .le => true
  | .eq => true
  | _ => false

end Sys2Proof.Machine
end

