-- ==== Sys2Proof/Machine/TileOps.lean ====
section
/-! DEFINITION. What every tile instruction shares: when it runs, the SRAM error code (R53), commitment on
success (R54), the faults that halt a tile (R53, R100, R502), and the tile registers (R57, R114 to R116). -/

namespace Sys2Proof.Machine

/-- What a tile instruction may change (a fault or a barrier lets the herd controller go on). -/
def actTile (f : State → State) (s : State) : Result := actHerd f s

/-- Words of data SRAM; the error marks of program words follow from here on. -/
def sramWords : Nat := 5120

/-- The sequencer issues the next instruction: it runs and waits for nothing. DEDUCED (log entry 3). -/
def Tile.active (t : Tile) : Bool := decide (t.run = .running) && decide (t.wait = .none)

/-- The instruction word at the program counter. DEDUCED (log entry 10). -/
def Tile.instrWord (t : Tile) : Nat := leNat (Mem.read t.prog (4 * t.pc) 4)

/-- The next instruction; a program fills at most 2,048 (R51). DEDUCED (log entry 10). -/
def Tile.advance (t : Tile) : Tile := { t with pc := (t.pc + 1) % 2048 }

/-- Writes an accumulator of the file of 32 (R50). -/
def Tile.setAcc (t : Tile) (i : Nat) (a : Acc) : Tile := { t with accs := NatMap.put t.accs Acc.zero (i % 32) a }

def Tile.acc (t : Tile) (i : Nat) : Acc := NatMap.get t.accs Acc.zero (i % 32)

def Tile.sreg (t : Tile) (i : Nat) : Word := NatMap.get t.sregs 0 i

def Tile.setSreg (t : Tile) (i : Nat) (w : Word) : Tile := { t with sregs := NatMap.put t.sregs 0 i w }

/-! ### SRAM errors (R53) -/

/-- Counts a corrected word; holds at 0xFFFF_FFFF. -/
def Tile.countEcc (t : Tile) : Tile := { t with ecc := BitVec.ofNat 64 (min (t.ecc.toNat + 1) 0xFFFFFFFF) }

/-- What reading a word whose error mark is `n` wrong bits does: a corrected or wrong word is no longer
marked; the flag says that the error is uncorrectable. -/
def Tile.readBad (t : Tile) (w n draw : Nat) : Tile × Bool :=
  let clean := { t with bad := NatMap.del t.bad w }
  let wrong (t : Tile) : Tile :=
    if w < sramWords then { t with sram := Mem.write t.sram (w * 8) (leBytes 8 (Config.multiBitWord draw).toNat) }
    else { t with prog := Mem.write t.prog ((w - sramWords) * 8) (leBytes 8 (Config.multiBitWord draw).toNat) }
  if n = 1 then (clean.countEcc, false)
  else if n = 2 then (t, true)
  else if Config.multiBitOutcome draw = 0 then (t, true)
  else if Config.multiBitOutcome draw = 1 then ((wrong clean).countEcc, false)
  else (wrong clean, false)

/-- Reads the words listed, in order, up to the first uncorrectable one. DESIGN CHOICE (log entry 12). -/
def Tile.readWords : Tile → List Nat → Nat → Tile × Bool × Nat
  | t, [], d => (t, false, d)
  | t, w :: ws, d =>
    match NatMap.find t.bad w with
    | none => Tile.readWords t ws d
    | some n =>
      let r := t.readBad w n d
      if r.2 then (r.1, true, d + 1) else Tile.readWords r.1 ws (d + 1)

/-! ### Faults that halt a tile -/

/-- An uncorrectable SRAM error halts the tile and raises TILE_ECC_UNCORR (R53, R507). No rule gives its record a detail;
it is 0. DESIGN CHOICE (log entries 14, 111). -/
def State.tileEcc (s : State) (key : Nat) : State :=
  let s := s.updTile key (fun t => { t with run := .faulted Code.tileEccUncorr })
  let s := s.faultHerd (herdOfKey key) Code.tileEccUncorr false
  s.post Code.tileEccUncorr Source.tile key 0

/-- An illegal instruction (R502): the tile halts there, the herd goes to FAULTED, and the detail holds the
instruction index and word. -/
def State.tileIllegal (s : State) (key : Nat) : State :=
  let t := s.tile key
  let s := s.updTile key (fun t => { t with run := .faulted Code.tileIllegalInstr })
  let s := s.faultHerd (herdOfKey key) Code.tileIllegalInstr false
  s.post Code.tileIllegalInstr Source.tile key (t.pc % 2048 + t.instrWord * 2 ^ 32)

/-- What a sparse fault reports (R99). -/
structure SFault where
  code : Nat
  sub  : Nat
  brow : Nat
  bcol : Nat
  kind : Nat
  seg  : Nat
deriving DecidableEq, Repr

/-- A sparse fault (R99, R100, R116). -/
def State.tileSparseFault (s : State) (key : Nat) (f : SFault) : State :=
  let s := s.updTile key (fun t =>
    { t with
      run := .faulted f.code
      sparseFault := if bit t.sparseFault.toNat 24 then t.sparseFault
        else BitVec.ofNat 64 (f.code + f.sub * 2 ^ 16 + 2 ^ 24 + f.brow * 2 ^ 32 + f.bcol * 2 ^ 48) })
  let s := s.faultHerd (herdOfKey key) f.code false
  s.post f.code Source.tile key
    (f.brow + f.bcol * 2 ^ 16 + f.sub * 2 ^ 32 + f.kind * 2 ^ 40 + f.seg * 2 ^ 48)

/-- A tile reads the words listed and goes on with `next`; an uncorrectable one halts it instead (R53). -/
def State.readStage (s : State) (key : Nat) (words : List Nat) (next : State → State) : State :=
  let r := (s.tile key).readWords words s.io.draws
  let s := { s with io := { s.io with draws := r.2.2 } }
  let s := s.setTile key r.1
  if r.2.1 then s.tileEcc key else next s

/-- One instruction of a tile. Nothing happens unless the sequencer issues it; an illegal one faults before
it reads anything; it reads its words; then it takes effect. DEDUCED (log entry 3). -/
def State.tileInstr (s : State) (key : Nat) (legal : Bool) (reads : Tile → List Nat)
    (effect : State → State) : State :=
  if (s.tile key).active then
    s.readStage key [sramWords + (s.tile key).pc / 2] (fun s =>
      if legal = false then s.tileIllegal key else s.readStage key (reads (s.tile key)) effect)
  else s

/-! ### Rounding modes -/

/-- Default rounding mode of HRD_TILE_ARITH. -/
def Tile.rmode (t : Tile) : RMode :=
  if t.arith.toNat % 4 = 1 then .rtz else if t.arith.toNat % 4 = 2 then .sr else .rne

def Tile.sat (t : Tile) : Bool := bit t.arith.toNat 2

/-- The mode an instruction rounds in (R66). -/
def Tile.mode (t : Tile) (m : Option RMode) : RMode := m.getD t.rmode

/-- The random bits of a lane (R68). -/
def Tile.rnd (t : Tile) (key lane : Nat) : Nat := srBits t.seed key t.step lane

/-- SEQ rises by one after an instruction that rounds in SR, and wraps (R68). -/
def Tile.bumpSeq (t : Tile) (sr : Bool) : Tile :=
  if sr then
    let seq := bits t.step.toNat 58 32
    { t with step := BitVec.ofNat 64 (setBits t.step.toNat 58 32 ((seq + 1) % 2 ^ 27)) }
  else t

end Sys2Proof.Machine
end

