-- ==== Sys2Proof/Machine/Herd.lean ====
section
/-! DEFINITION. The herd controller's commands, sequences and window (R140 to R145). -/

namespace Sys2Proof.Machine

/-! ### Commands (R142, R145) -/

/-- The herds a command goes to. -/
def cmdHerds (h : Nat) (all : Bool) : List Nat := if all then List.range 1024 else [h]

/-- A command from the host: dropped with REJECTED while one is in progress; else PENDING is set and the
outcome of the command before is cleared (R145). DEDUCED (log entry 35). -/
def State.hostCommand (s : State) (op h : Nat) (all : Bool) (arg : Nat) (still : List (Nat × Nat)) : State :=
  if s.rdb Reg.HRD_CMD_STATUS_PENDING = true ∨ op = 0 ∨ 10 < op then s.wr Reg.HRD_CMD_STATUS_REJECTED 1
  else
    let s := (s.wr Reg.HRD_CMD_STATUS_PENDING 1).wr Reg.HRD_CMD_STATUS_OPCODE op
    let s := ((s.wr Reg.HRD_CMD_STATUS_DONE 0).wr Reg.HRD_CMD_STATUS_FAIL 0).wr Reg.HRD_CMD_STATUS_CODE 0
    let s := (s.wr Reg.HRD_CMD_STATUS_HX 0).wr Reg.HRD_CMD_STATUS_HY 0
    let hs := cmdHerds h all
    let s : State := s.forEach hs (fun s h => s.enqueue h { src := .host, op := op, arg := arg, still := still })
    s.forEach hs State.serve

/-- A write of HRD_CMD. -/
def State.hrdCmdWrite (s : State) (v : Nat) : State :=
  s.hostCommand (bits v 23 16) (bits v 9 0) (bit v 10) (bits v 63 24) []

/-- The next word of a herd's sequence when it has opcode `op`, with its argument; the sequence waits while a
barrier it has asked for is in progress (R143). -/
def Herd.seqArg (x : Herd) (op : Nat) : Option Nat :=
  match x.seqPos with
  | none => none
  | some p =>
    match x.seq[p]? with
    | none => none
    | some w => if w.toNat % 256 = op ∧ x.barrier.isNone = true then some (w.toNat / 256) else none

/-- The sequence goes on to its next word. -/
def State.seqNext (s : State) (h : Nat) : State :=
  s.updHerd h (fun x => { x with seqPos := x.seqPos.map (· + 1) })

/-- A command of R142 by whoever gives it. A sequence passes its word's argument zero-extended (R143), and the boundary's
epoch in the BARRIER and SNAPSHOT that it runs for the epoch timer (R369). DEDUCED (log entry 123). -/
def State.command (s : State) (op : Nat) (c : HerdCmd) (still : List (Nat × Nat)) : State :=
  let q : QCmd := { src := c.src, op := op, arg := c.arg.toNat, still := still }
  match c.src with
  | .host => if s.host.linkUp then s.hostCommand op c.herd.val c.all c.arg.toNat still else s
  | .sequence =>
    match (s.herd c.herd.val).seqArg op with
    | none => s
    | some a =>
      let x := s.herd c.herd.val
      let arg := if x.seqEpoch = true ∧ (op = 3 ∨ op = 4) then x.epoch % 2 ^ 24 else a
      if op = 1 ∧ s.staysHalted c.herd.val = true then s
      else
        let s := if op = 1 then s.updHerd c.herd.val (fun x => { x with seqEpoch := false }) else s
        (s.seqNext c.herd.val).herdRun c.herd.val { q with arg := arg }
  | _ => s.forEach (cmdHerds c.herd.val c.all) (fun s h => s.herdCmd h q)

def execRelease (c : HerdCmd) (s : State) : Result := actHerd (fun s => s.command 1 c []) s
def execHalt (c : HerdCmd) (s : State) : Result := actHerd (fun s => s.command 2 c []) s
def execBarrier (c : HerdCmd) (s : State) : Result := actHerd (fun s => s.command 3 c []) s
def execSnapshot (c : HerdCmd) (s : State) : Result := actHerd (fun s => s.command 4 c []) s
def execRestore (c : HerdCmd) (s : State) : Result := actHerd (fun s => s.command 5 c []) s
def execResetTiles (c : HerdCmd) (s : State) : Result := actHerd (fun s => s.command 6 c []) s
def execRouteRepair (c : HerdCmd) (s : State) : Result := actHerd (fun s => s.command 7 c []) s
def execDrain (c : HerdCmd) (s : State) : Result := actHerd (fun s => s.command 8 c []) s
def execRollcall (c : HerdCmd) (s : State) : Result := actHerd (fun s => s.command 9 c []) s
def execRepair (c : HerdCmd) (still : List (Nat × Nat)) (s : State) : Result :=
  actHerd (fun s => s.command 10 c still) s

/-! ### Sequences (R143) -/

/-- Opcode 0x80: the wait ends once the epoch timer has fired. -/
def execWaitEpochTimer (h : HerdNo) (s : State) : Result :=
  actHerd (fun s =>
    match (s.herd h.val).seqArg 0x80 with
    | none => s
    | some _ =>
      if (s.herd h.val).timer then (s.updHerd h.val (fun x => { x with timer := false, seqEpoch := true })).seqNext h.val else s) s

/-- Opcode 0x81: the event that the sequence waits for arrives. DEDUCED (log entry 32). -/
def execWaitEvent (h : HerdNo) (s : State) : Result :=
  actHerd (fun s =>
    match (s.herd h.val).seqArg 0x81 with
    | none => s
    | some _ => s.seqNext h.val) s

/-- Opcode 0x82: the sequence jumps to the word that the argument names. -/
def execSequenceJump (h : HerdNo) (s : State) : Result :=
  actHerd (fun s =>
    match (s.herd h.val).seqArg 0x82 with
    | none => s
    | some a => s.updHerd h.val (fun x => { x with seqPos := some a })) s

/-- Opcode 0x83 stops the sequence; so does any opcode that R143 does not name. -/
def execSequenceStop (h : HerdNo) (s : State) : Result :=
  actHerd (fun s =>
    match (s.herd h.val).seqArg 0x83 with
    | none => s
    | some _ => s.updHerd h.val (fun x => { x with seqPos := none })) s

/-! ### The window (R144) -/

/-- The tile that HRD_WIN_ADDR selects. -/
def State.winTile (s : State) : Nat :=
  tileKey (s.rd Reg.HRD_WIN_ADDR_HX * 32 + s.rd Reg.HRD_WIN_ADDR_TX)
    (s.rd Reg.HRD_WIN_ADDR_HY * 32 + s.rd Reg.HRD_WIN_ADDR_TY)

/-- The register offset it selects; its low three bits are ignored. -/
def State.winOff (s : State) : Nat := s.rd Reg.HRD_WIN_ADDR_OFFSET / 8 * 8

/-- The selected herd is DARK or absent. -/
def State.winDark (s : State) : Bool :=
  let h := s.rd Reg.HRD_WIN_ADDR_HY * 32 + s.rd Reg.HRD_WIN_ADDR_HX
  decide ((s.herd h).st = .dark) || !s.herdPresent h

/-- A window read: the value, and an RC register is cleared at the target. -/
def State.windowRead (s : State) : State × Word :=
  if s.winDark then (s.wr Reg.HRD_CMD_STATUS_WIN_ERR 1, BitVec.allOnes 64)
  else if s.rdb Reg.HRD_WIN_ADDR_CTRL then (s, 0)
  else
    let r := (s.tile s.winTile).readReg s.winOff
    (s.setTile s.winTile r.1, r.2)

/-- A window write of the bits of `mask`. -/
def State.windowWrite (s : State) (v : Word) (mask : Nat) : State :=
  if s.winDark then s.wr Reg.HRD_CMD_STATUS_WIN_ERR 1
  else if s.rdb Reg.HRD_WIN_ADDR_CTRL then s
  else s.updTile s.winTile (fun t => t.writeReg s.winOff v mask)

/-- A read of HRD_WIN_DATA. -/
def execWindowRead (s : State) : Result :=
  actHerd (fun s =>
    if s.host.linkUp then
      let r := s.windowRead
      r.1.emit (.read (leBytes 8 r.2.toNat))
    else s) s

/-- A write of HRD_WIN_DATA. -/
def execWindowWrite (v : Word) (s : State) : Result :=
  actHerd (fun s => if s.host.linkUp then s.windowWrite v fullMask else s) s

/-- A window access that does not complete within 10 us: a read returns all ones, a write is dropped. -/
def execWindowTimeout (write : Bool) (s : State) : Result :=
  actHerd (fun s =>
    if s.host.linkUp then
      let s := s.wr Reg.HRD_CMD_STATUS_WIN_ERR 1
      if write then s else s.emit (.read (leBytes 8 (2 ^ 64 - 1)))
    else s) s

end Sys2Proof.Machine
end

