-- ==== Sys2Proof/Machine/Crc.lean ====
section
/-! DEFINITION. Cyclic redundancy checks: CRC-32C of R182 and the IEEE 802.3 frame check sequence (R212). -/

namespace Sys2Proof.Machine

/-- One bit of a reflected 32-bit CRC. -/
def crcBit (poly c : BitVec 32) : BitVec 32 := if c.getLsbD 0 then (c >>> 1) ^^^ poly else c >>> 1

/-- One byte of a reflected 32-bit CRC. -/
def crcByte (poly c : BitVec 32) (b : Byte) : BitVec 32 :=
  let c := c ^^^ BitVec.ofNat 32 b.toNat
  let c := crcBit poly (crcBit poly (crcBit poly (crcBit poly c)))
  crcBit poly (crcBit poly (crcBit poly (crcBit poly c)))

/-- A reflected CRC with initial value 0xFFFF_FFFF and final complement. -/
def crc32 (poly : BitVec 32) (bs : List Byte) : BitVec 32 := ~~~(bs.foldl (crcByte poly) (BitVec.allOnes 32))

/-- CRC-32C (Castagnoli): reflected polynomial 0x82F63B78. PRESUMED (log entry 60). -/
def crc32c (bs : List Byte) : BitVec 32 := crc32 0x82F63B78 bs

/-- The IEEE 802.3 FCS: reflected polynomial 0xEDB88320, low byte first on the wire. PRESUMED (log entry 60). -/
def fcs (bs : List Byte) : List Byte := leBytes 4 (crc32 0xEDB88320 bs).toNat

/-- Ones' complement sum of 16-bit words in network order, an odd last byte padded by 0 (R283). -/
def onesAdd (a b : Nat) : Nat := (a + b) % 2 ^ 16 + (a + b) / 2 ^ 16

def onesSum : List Byte → Nat → Nat
  | [], acc => acc
  | [a], acc => onesAdd acc (a.toNat * 256)
  | a :: b :: r, acc => onesSum r (onesAdd acc (a.toNat * 256 + b.toNat))

end Sys2Proof.Machine
end

