-- ==== Sys2Proof/Machine/RingOps.lean ====
section
/-! DEFINITION. The rings of BAR2 (R463 to R467): directory records, entries, and what the W1056 writes to the
rings it produces. -/

namespace Sys2Proof.Machine

def ringKind : RingKind → Nat
  | .submit => 0
  | .receive => 1
  | .completion => 2
  | .transmit => 3
  | .event => 4

def ringKey (k : RingKind) (i : Nat) : Nat := ringKind k * 4096 + i

def State.ring (s : State) (k : RingKind) (i : Nat) : Ring := NatMap.get s.host.rings Ring.reset (ringKey k i)

def State.setRing (s : State) (k : RingKind) (i : Nat) (r : Ring) : State :=
  { s with host := { s.host with rings := NatMap.put s.host.rings Ring.reset (ringKey k i) r } }

/-- Entries held: PROD - CONS modulo 2^32. -/
def Ring.held (r : Ring) : Nat := (r.prod - r.cons).toNat

def Ring.size (r : Ring) : Nat := 2 ^ r.log2

/-- A disabled ring that the W1056 produces counts as full (R466). -/
def Ring.full (r : Ring) : Bool := !r.en || decide (r.size ≤ r.held)

/-- Entry size in bytes: 32 for the event ring (R464). -/
def Ring.bytes (k : RingKind) (r : Ring) : Nat := if k = .event then 32 else r.esize * 64

/-- The BAR2 offset of entry i (R465). -/
def Ring.entry (k : RingKind) (r : Ring) (i : BitVec 32) : Nat := r.base + i.toNat % r.size * r.bytes k

def State.bar2Write (s : State) (a : Nat) (bs : List Byte) : State :=
  { s with host := { s.host with bar2 := Mem.write s.host.bar2 a bs } }

/-- An advance of an index asks for a message where the record's IRQ_EN is set; event records always do
(R472). -/
def State.ringMsix (s : State) (k : RingKind) (i : Nat) : State :=
  if k = .event then s.askMsix .event
  else if (s.ring k i).irq then s.askMsix (.ring { kind := k, idx := i }) else s

/-- Writes the next entry of a ring that the W1056 produces and advances PROD; the ring must not be full. -/
def State.ringPut (s : State) (k : RingKind) (i : Nat) (bs : List Byte) : State :=
  let r := s.ring k i
  let s := s.bar2Write (r.entry k r.prod) bs
  (s.setRing k i { r with prod := r.prod + 1 }).ringMsix k i

/-- Advances CONS of a ring that the W1056 consumes. -/
def State.ringTake (s : State) (k : RingKind) (i : Nat) : State :=
  let r := s.ring k i
  (s.setRing k i { r with cons := r.cons + 1 }).ringMsix k i

/-- The entry at CONS, if the producer has covered it. -/
def State.ringFront (s : State) (k : RingKind) (i : Nat) : Option (List Byte) :=
  let r := s.ring k i
  if r.en = true ∧ r.prod ≠ r.cons then some (Mem.read s.host.bar2 (r.entry k r.cons) (r.bytes k)) else none

/-! ### Entries (R467) -/

/-- The receive status word (R231). -/
def Frame.status (f : Frame) : Nat :=
  f.slen + b2n f.fcsErr * 2 ^ 14 + b2n f.oversize * 2 ^ 15 + b2n f.pcsErr * 2 ^ 16 + b2n f.trunc * 2 ^ 17 +
    f.tags * 2 ^ 18 + f.prio * 2 ^ 20 + f.queue * 2 ^ 24 + (if f.reason = 0 then 0 else 2 ^ 28) + f.reason * 2 ^ 29

/-- A receive entry: header and frame. -/
def rxEntry (mac : Nat) (f : Frame) : List Byte :=
  leBytes 4 f.status ++ leBytes 1 mac ++ leBytes 1 0 ++ leBytes 10 f.ts.toNat ++ leBytes 16 0 ++ f.bytes

/-- What became of a frame offered to a receive ring. -/
inductive RxOffer where
  | waits | unfit | put
deriving DecidableEq, Repr

/-- Offers a frame to a receive ring: it waits while the ring is full, and does not fit an entry too small for
it (R466, R469). -/
def State.offerRx (s : State) (ring mac : Nat) (f : Frame) : State × RxOffer :=
  let r := s.ring .receive ring
  if r.full then (s, .waits)
  else if r.bytes .receive < 32 + f.bytes.length then (s, .unfit)
  else (s.ringPut .receive ring (rxEntry mac f), .put)

end Sys2Proof.Machine
end

