-- ==== Sys2Proof/Machine/MacOps.lean ====
section
/-! DEFINITION. What the frame MACs share: gangs (R208, R209), what a frame's bytes say (R215 to R218), cells
(R222), flow control (R225, R226), and how a frame of a DEST 1 queue ends (R47, R220, R286, R287). -/

namespace Sys2Proof.Machine

/-! ### Gangs (R208, R209) -/

/-- MODE of MACn; a port whose MAC_CONFIG is not in effect is off (R210). -/
def State.macMode (s : State) (n : Nat) : Nat := if s.img.ports.getLsbD n then s.rd (Reg.MAC_CTRL_MODE n) else 0

/-- The leader of a MAC: itself unless it follows. -/
def State.macLeader (s : State) (n : Nat) : Nat :=
  if s.macMode n = 4 then (if s.macMode (n / 4 * 4) = 3 then n / 4 * 4 else n / 2 * 2) else n

/-- MACs of the gang that n leads. -/
def State.gangSize (s : State) (n : Nat) : Nat :=
  if s.macMode n = 3 then 4 else if s.macMode n = 2 then 2 else 1

/-- n is a 200GbE port or a gang leader. -/
def State.leads (s : State) (n : Nat) : Bool := decide (1 ≤ s.macMode n ∧ s.macMode n ≤ 3)

def State.macPowered (s : State) (n : Nat) : Bool := s.pdOn (82 + n / 2)

/-- The MACs of the port or gang that n belongs to. -/
def State.gangOf (s : State) (n : Nat) : List Nat :=
  let l := s.macLeader n
  (List.range (s.gangSize l)).map (fun i => l + i)

/-- The port trains with its partner: Clause 73 and link training under AN_EN for CR and KR, receiver adaptation for C2M
(R235, R404). DEDUCED (log entry 134). -/
def State.linkTrains (s : State) (n : Nat) : Bool := s.rdb (Reg.MAC_CTRL_AN_EN n) || decide (s.rd (Reg.MAC_CTRL_MEDIA n) = 2)

/-- The port sends and receives. -/
def State.macUp (s : State) (n : Nat) : Bool := s.leads n && s.macPowered n && (s.mac n).up

/-! ### What a frame says -/

/-- Big-endian 16 bits at an offset; bytes beyond the end read as 0. -/
def be16 (bs : List Byte) (a : Nat) : Nat := beNat (slice bs a 2)

/-- Tags recognised (R216). -/
def frameTags (bs : List Byte) : Nat :=
  if be16 bs 12 = 0x88A8 ∨ be16 bs 12 = 0x8100 then (if be16 bs 16 = 0x8100 then 2 else 1) else 0

def frameEtype (bs : List Byte) : Nat := be16 bs (12 + 4 * frameTags bs)

/-- Priority of a frame: PCP of the outer tag, or a default (R216, R228). -/
def framePrio (bs : List Byte) (dflt : Nat) : Nat := if frameTags bs = 0 then dflt else be16 bs 14 / 2 ^ 13

def frameVid0 (bs : List Byte) : Nat := if frameTags bs = 0 then 0 else be16 bs 14 % 2 ^ 12
def frameVid1 (bs : List Byte) : Nat := if frameTags bs = 2 then be16 bs 18 % 2 ^ 12 else 0

def isBroadcast (bs : List Byte) : Bool := decide (slice bs 0 6 = List.replicate 6 0xFF)
def isMulticast (bs : List Byte) : Bool := (nthD bs 0 0).getLsbD 0

/-- A unicast address equal to a valid station address. -/
def State.isStation (s : State) (n : Nat) (bs : List Byte) : Bool :=
  !(isMulticast bs) && (List.range 4).any (fun i =>
    s.rdb (Reg.MAC_STATION_ADDR_VALID n i) && decide (s.rd (Reg.MAC_STATION_ADDR_ADDR n i) = fld bs 0 6))

/-- The destination address is accepted (R215). -/
def State.daOk (s : State) (n : Nat) (bs : List Byte) : Bool :=
  s.rdb (Reg.MAC_CTRL_PROMISC n) || s.isStation n bs ||
    (isBroadcast bs && s.rdb (Reg.MAC_CTRL_BCAST_EN n)) ||
    (isMulticast bs && !(isBroadcast bs) && s.rdb (Reg.MAC_CTRL_MCAST_EN n))

/-- IPv6 with next header UDP: the offset of the IPv6 header. -/
def ipv6Udp (bs : List Byte) : Option Nat :=
  let o := 14 + 4 * frameTags bs
  if frameEtype bs = 0x86DD ∧ nthD bs (o + 6) 0 = 17 then some o else none

/-- The herd transport's fixed match (R217, R355); an address of zeros turns it off. -/
def State.isHt (s : State) (bs : List Byte) : Bool :=
  match ipv6Udp bs with
  | some o => decide (s.jrn.htAddr ≠ 0) && decide (beNat (slice bs (o + 24) 16) = s.jrn.htAddr.toNat) &&
      decide (be16 bs (o + 42) = s.jrn.htPort)
  | none => false

/-- An IEEE 1588 frame (R217). DEDUCED (log entry 76). -/
def isPtp (bs : List Byte) : Bool :=
  decide (frameEtype bs = 0x88F7) ||
    (match ipv6Udp bs with
     | some o => decide (be16 bs (o + 42) = 319 ∨ be16 bs (o + 42) = 320)
     | none => false)

/-- A filter rule matches (R218, R239). -/
def State.ruleHit (s : State) (n r : Nat) (bs : List Byte) (prio : Nat) : Bool :=
  let da := s.rd (Reg.MAC_FILTER_RULE_DA n r)
  let tg := s.rd (Reg.MAC_FILTER_RULE_TAGS n r)
  let tags := frameTags bs
  let daHit := da == 0 || (da == 1 && s.isStation n bs) || (da == 2 && isMulticast bs && !(isBroadcast bs)) ||
    (da == 3 && isBroadcast bs)
  let vidHit := !(s.rdb (Reg.MAC_FILTER_RULE_VID_EN n r)) ||
    (if s.rdb (Reg.MAC_FILTER_RULE_VID_SEL n r) then tags == 2 && frameVid1 bs == s.rd (Reg.MAC_FILTER_RULE_VID n r)
     else tags != 0 && frameVid0 bs == s.rd (Reg.MAC_FILTER_RULE_VID n r))
  s.rdb (Reg.MAC_FILTER_RULE_EN n r) && daHit && (tg == 0 || tags + 1 == tg) && vidHit &&
    bit (s.rd (Reg.MAC_FILTER_RULE_PCP_MASK n r)) prio &&
    (!(s.rdb (Reg.MAC_FILTER_RULE_ETYPE_EN n r)) || frameEtype bs == s.rd (Reg.MAC_FILTER_RULE_ETYPE n r))

/-- The queue of a frame: the first rule that matches, or DEF_QUEUE (R218). -/
def State.chooseQueue (s : State) (n : Nat) (bs : List Byte) (prio : Nat) : Nat :=
  match (List.range 32).find? (fun r => s.ruleHit n r bs prio) with
  | some r => s.rd (Reg.MAC_FILTER_RULE_QUEUE n r)
  | none => s.rd (Reg.MAC_CTRL_DEF_QUEUE n)

/-! ### Flow control (R225, R226) -/

def State.queueUsed (s : State) (n q : Nat) : Nat := NatMap.get (s.mac n).used 0 q

/-- What is asserted after queues `qs` are judged. -/
def State.xoffOf (s : State) (n : Nat) (qs : List Nat) (was : Bool) : Bool :=
  if qs.any (fun q => decide (s.rd (Reg.MAC_PFC_CFG_XOFF_CELLS n) ≤ s.queueUsed n q)) then true
  else if qs.all (fun q => decide (s.queueUsed n q ≤ s.rd (Reg.MAC_PFC_CFG_XON_CELLS n))) then false
  else was

/-- Judges priority p and sends a frame when its assertion changes: PAUSE_QUANTA or 0. -/
def State.flowEval1 (s : State) (n p : Nat) (qs : List Nat) : State :=
  let m := s.mac n
  let was := m.xoff.getLsbD p
  let now := s.xoffOf n qs was
  if now = was then s
  else
    let b : BitVec 8 := BitVec.ofNat 8 (2 ^ p)
    s.setMac n { m with
      xoff := if now then m.xoff ||| b else m.xoff &&& ~~~b
      fcOut := m.fcOut ++ [(b, if now then s.rd (Reg.MAC_PFC_CFG_PAUSE_QUANTA n) else 0)] }

/-- The MAC judges every priority after a cell is taken or freed. -/
def State.flowEval (s : State) (n : Nat) : State :=
  match s.rd (Reg.MAC_PFC_CFG_FC_MODE n) with
  | 1 => s.flowEval1 n 0 (List.range 16)
  | 2 => s.forEach (List.range 8) (fun s p =>
      s.flowEval1 n p ((List.range 16).filter (fun q => decide (s.rd (Reg.MAC_QUEUE_CFG_PRIO n q) = p))))
  | _ => s

/-! ### Cells (R222, R223) -/

def State.pool (s : State) (n : Nat) : Nat := 1024 * s.gangSize n

def State.minCells (s : State) (n q : Nat) : Nat := s.rd (Reg.MAC_QUEUE_CFG_MIN_CELLS n q)

/-- Free cells of the shared part of the pool. -/
def State.sharedFree (s : State) (n : Nat) : Nat :=
  s.pool n - (List.range 16).foldl (fun a q => a + max (s.minCells n q) (s.queueUsed n q)) 0

/-- CELLS_FREE of MACn_STATUS. -/
def State.cellsFree (s : State) (n : Nat) : Nat :=
  if s.macMode n = 4 then 0 else s.pool n - (List.range 16).foldl (fun a q => a + s.queueUsed n q) 0

def State.setUsed (s : State) (n q k : Nat) : State :=
  (s.updMac n (fun m => { m with used := NatMap.put m.used 0 q k })).flowEval n

/-- A cell can be taken for a queue: from its reserve, then from the shared pool below MAX_CELLS. -/
def State.canTake (s : State) (n q : Nat) : Bool :=
  decide (s.queueUsed n q < s.minCells n q) ||
    (decide (s.queueUsed n q < s.rd (Reg.MAC_QUEUE_CFG_MAX_CELLS n q)) && decide (0 < s.sharedFree n))

/-- Frees cells one by one. -/
def State.freeCells : State → Nat → Nat → Nat → State
  | s, _, _, 0 => s
  | s, n, q, k + 1 => State.freeCells (s.setUsed n q (s.queueUsed n q - 1)) n q k

/-- Takes `k` cells one by one; `got` have been taken. When none can be taken, all are freed. -/
def State.takeCells : State → Nat → Nat → Nat → Nat → State × Bool
  | s, _, _, _, 0 => (s, true)
  | s, n, q, got, k + 1 =>
    if s.canTake n q then State.takeCells (s.setUsed n q (s.queueUsed n q + 1)) n q (got + 1) k
    else (s.freeCells n q got, false)

/-! ### Frames of DEST 1 queues (R47, R220, R224, R286, R287) -/

/-- Puts a frame into a queue in the order in which tails arrived (R221). -/
def insertFrame : List Frame → Frame → List Frame
  | [], f => [f]
  | g :: gs, f => if f.id < g.id then f :: g :: gs else g :: insertFrame gs f

def State.joinQueue (s : State) (n : Nat) (f : Frame) : State :=
  s.updMac n (fun m => { m with queues := NatMap.upd m.queues [] f.queue (fun l => insertFrame l f) })

/-- The kind of a bad frame, in the order of R213: 2 truncated, 3 PCS error, 4 oversize, 1 FCS error. -/
def Frame.cause (f : Frame) : Nat := if f.trunc then 2 else if f.pcsErr then 3 else if f.oversize then 4 else 1

def Frame.good (f : Frame) : Bool :=
  !f.trunc && !f.pcsErr && !f.oversize && !f.fcsErr && decide (64 ≤ f.len)

def Frame.runt (f : Frame) : Bool := decide (f.len < 64)

/-- A bad frame of the queue is delivered; a DEST 2 queue hands frames over after a good verdict only (R213, R294). DEDUCED
(log entry 135). -/
def State.deliversBad (s : State) (n q : Nat) : Bool :=
  s.rdb (Reg.MAC_QUEUE_CFG_BAD_DELIVER n q) && decide (s.rd (Reg.MAC_QUEUE_CFG_DEST n q) ≠ 2)

/-- A frame that is not scored: it joins its fallback queue when it is good, or bad and delivered there, and
when it could be stored; else its cells are freed. -/
def State.toFallback (s : State) (n : Nat) (f : Frame) (reason : Nat) : State :=
  if f.cells = 0 then s
  else if f.good || (!f.runt && s.deliversBad n f.cellQ) then
    s.joinQueue n { f with queue := f.cellQ, reason := reason }
  else s.freeCells n f.cellQ f.cells

def State.setScore (s : State) (n id : Nat) (x : Score) : State :=
  s.updPrh n (fun p => { p with scores := (p.scores.filter (fun e => decide (e.1 ≠ id))) ++
    (if x = .none then [] else [(id, x)]) })

def State.scoreOf (s : State) (n id : Nat) : Score :=
  match (s.prh n).scores.find? (fun e => decide (e.1 = id)) with
  | some e => e.2
  | none => .none

/-- A frame past its tail whose engine has not decided, if it waits. -/
def State.heldFrame (s : State) (n id : Nat) : Option Frame := (s.mac n).held.find? (fun f => decide (f.id = id))

def State.dropHeld (s : State) (n id : Nat) : State :=
  s.updMac n (fun m => { m with held := m.held.filter (fun f => decide (f.id ≠ id)) })

/-- The engine has decided on a frame without a reply, with REASON; the frame may be past its tail. -/
def State.unscored (s : State) (n id reason : Nat) : State :=
  match s.heldFrame n id with
  | some f => ((s.dropHeld n id).setScore n id .none).toFallback n f reason
  | none => s.setScore n id (.fallback reason)

/-- The verdict on a frame that is still with its engine: none before the tail. -/
def State.verdictOf (s : State) (n id : Nat) : Option Bool := (s.heldFrame n id).map Frame.good

/-- The retract of a reply (R287). -/
def retractFrame (etype mac : Nat) (r : Reply) (cause : Nat) : List Byte :=
  let b := slice r.bytes 0 (12 + 4 * r.tags) ++ beBytes 2 etype ++ beBytes 2 1 ++ leBytes 1 mac ++ leBytes 1 r.slot ++
    beBytes 4 r.seq.toNat ++ leBytes 1 cause
  slice b 0 60

/-- The verdict reaches the engine for a reply that is built (R286): a bad one cancels a reply that has not
started, and retracts one that has. -/
def State.judgeReply (s : State) (n : Nat) (f : Frame) : State :=
  let p := s.prh n
  let mine (r : Reply) : Bool := decide (r.frameId = f.id)
  if f.good then
    s.setPrh n { p with
      replies := p.replies.map (fun r => if mine r then { r with good := some true } else r)
      started := p.started.filter (fun r => !(mine r)) }
  else if p.replies.any mine then
    (s.setPrh n { p with replies := p.replies.filter (fun r => !(mine r)) }).prhEvalCount n Reg.REPLY_CANCELLED
  else
    match p.started.find? mine with
    | some r =>
      s.setPrh n { p with
        started := p.started.filter (fun r => !(mine r))
        retracts := p.retracts ++ [(retractFrame (s.rd (Reg.PRH_REPLY_CFG_RETRACT_ETYPE n)) n r f.cause, false)] }
    | none => s

/-- A report of NOT_SCORED with its reason and queue (R281). -/
def State.reportNotScored (s : State) (n reason q : Nat) : State :=
  if h : n < 16 then s.report (.notScored ⟨n, h⟩) (reason * 2 ^ 16 + q * 2 ^ 19) else s

end Sys2Proof.Machine
end

