-- ==== Sys2Proof/Machine/Tile.lean ====
section
/-! DEFINITION. The instructions of a tile program other than the sparse ones: dot products, conversions,
accumulator traffic, vector operations, scalar instructions, packets and waits (R50 to R81, R120 to R124). -/

namespace Sys2Proof.Machine

/-! ### Dot products (R73 to R77, R81) -/

/-- Format pairs that R73 allows. -/
def legalPair (a b : Fmt) : Bool :=
  decide (a = b) || decide (a = .e4m3 ∧ b = .e5m2) || decide (a = .e5m2 ∧ b = .e4m3)

/-- Formats summed by the fixed tree (R81). -/
def treeFmt (f : Fmt) : Bool := decide (f = .fp32) || decide (f = .bf16)

/-- Accumulates the k products of row r of A (row-major) and column c of B (column after column).
DESIGN CHOICE (log entry 11). -/
def dotAcc (m : Mem) (op : DotOp) (r c : Nat) (a : Acc) : Acc × Bool :=
  (List.range op.k).foldl (fun st j =>
    let p := st.1.product (elemAt m op.fmtA op.addrA (r * op.k + j)) (elemAt m op.fmtB op.addrB (c * op.k + j))
    (p.1, st.2 || p.2)) (a, false)

/-- The FP32 result of row r and column c through the tree. DESIGN CHOICE (log entry 11). -/
def dotTree (m : Mem) (op : DotOp) (r c : Nat) : BitVec 32 :=
  treeDot ((List.range op.k).map (fun j => elemAt m op.fmtA op.addrA (r * op.k + j)))
    ((List.range op.k).map (fun j => elemAt m op.fmtB op.addrB (c * op.k + j)))
    (op.addend.map (fun a => BitVec.ofNat 32 (codeAt m .fp32 a (r * op.n + c))))

/-- The tile after a dense dot product: outputs row after row, into accumulators from `acc` or as FP32
values at `dst`. DESIGN CHOICE (log entry 11). -/
def dotTile (op : DotOp) (t : Tile) : Tile :=
  let outs := (List.range (op.rows * op.n)).map (fun i => (i / op.n, i % op.n))
  if treeFmt op.fmtA then
    t.put op.dst (outs.flatMap (fun o => leBytes 4 (dotTree t.sram op o.1 o.2).toNat))
  else
    outs.foldl (fun t' o =>
      let i := op.acc + o.1 * op.n + o.2
      let r := dotAcc t.sram op o.1 o.2 (t'.acc i)
      (t'.setAcc i r.1).setFlags ⟨r.2, false, false, false⟩) t

/-- The words a dense dot product reads. -/
def dotReads (op : DotOp) (_ : Tile) : List Nat :=
  wordsOf op.addrA (tensorBytes op.fmtA (op.rows * op.k)) ++ wordsOf op.addrB (tensorBytes op.fmtB (op.n * op.k)) ++
    (match op.addend with
     | some a => if treeFmt op.fmtA then wordsOf a (4 * op.rows * op.n) else []
     | none => [])

def execDotProduct (t : Coord) (op : DotOp) (s : State) : Result :=
  actTile (fun s => s.tileInstr t.key (legalPair op.fmtA op.fmtB) (dotReads op)
    (fun s => s.updTile t.key (fun x => (dotTile op x).advance))) s

/-! ### Conversions (R65 to R70, R78) -/

/-- Writes values as Tine blocks 0, 1, ... of the line at `addr`, 16 to a block; lane 16 b + i rounds with
its own bits. Where the count is no multiple of 16 the rest of the last block is +0, as R64 pads a line.
DEDUCED (log entry 110). -/
def putTine (t : Tile) (f : Fmt) (mode : RMode) (rnd : Nat → Nat) (addr : Nat) (xs : List Num) : Tile :=
  (List.range (ceilDiv xs.length 16)).foldl (fun t b =>
    let r := tineEncode f mode (fun i => rnd (16 * b + i)) ((xs.drop (16 * b)).take 16)
    ((t.put (addr + b) [BitVec.ofNat 8 r.1]).put (addr + 8 + b * tinePayload f) (tinePack f r.2.1)).setFlags r.2.2) t

/-- Writes values in a format, each lane rounded with its own bits. -/
def putElems (t : Tile) (f : Fmt) (mode : RMode) (rnd : Nat → Nat) (addr : Nat) (xs : List Num) : Tile :=
  if f.isTine then putTine t f mode rnd addr xs
  else
    let rs := xs.zipIdx.map (fun e => toFlt f mode t.sat (rnd e.2) e.1)
    (t.put addr (rs.flatMap (fun r => leBytes f.bytes r.1))).setFlags (Flags.all (rs.map Prod.snd))

/-- DEDUCED (log entry 18). -/
def convTile (key : Nat) (op : ConvOp) (t : Tile) : Tile :=
  let mode := t.mode op.mode
  let xs := (List.range op.n).map (fun i => elemAt t.sram op.src op.addrSrc i)
  (putElems t op.dst mode (t.rnd key) op.addrDst xs).bumpSeq (!(widens op.src op.dst) && decide (mode = .sr))

def execOutputConversion (t : Coord) (op : ConvOp) (s : State) : Result :=
  actTile (fun s => s.tileInstr t.key true (fun _ => wordsOf op.addrSrc (tensorBytes op.src op.n))
    (fun s => s.updTile t.key (fun x => (convTile t.key op x).advance))) s

def accOutTile (key : Nat) (op : AccOutOp) (t : Tile) : Tile :=
  let mode := t.mode op.mode
  let xs := (List.range op.n).map (fun i => (t.acc (op.acc + i)).value)
  let t' := (putElems t op.dst mode (t.rnd key) op.addr xs).bumpSeq (decide (mode = .sr))
  if op.clear then (List.range op.n).foldl (fun t i => t.setAcc (op.acc + i) Acc.zero) t' else t'

def execAccumulatorOutput (t : Coord) (op : AccOutOp) (s : State) : Result :=
  actTile (fun s => s.tileInstr t.key true (fun _ => [])
    (fun s => s.updTile t.key (fun x => (accOutTile t.key op x).advance))) s

def accLoadTile (op : AccLoadOp) (t : Tile) : Tile :=
  let r := Acc.load (elemAt t.sram op.src op.addr op.elem)
  (t.setAcc op.acc r.1).setFlags ⟨r.2, false, false, false⟩

/-- The words that a load of element `i` of a tensor reads: of a Tine tensor the element's line. DESIGN CHOICE
(log entry 112). -/
def elemWords (f : Fmt) (addr i : Nat) : List Nat :=
  if f.isTine then wordsOf (addr + i / 128 * tineLine f) (tineLine f) else wordsOf (addr + i * f.bytes) f.bytes

def execAccumulatorLoad (t : Coord) (op : AccLoadOp) (s : State) : Result :=
  actTile (fun s => s.tileInstr t.key true (fun _ => elemWords op.src op.addr op.elem)
    (fun s => s.updTile t.key (fun x => (accLoadTile op x).advance))) s

/-! ### The vector unit (R65, R71) -/

def vecTile (key : Nat) (op : VecOp) (t : Tile) : Tile :=
  let mode := t.mode op.mode
  let at_ (a i : Nat) : BitVec 32 := BitVec.ofNat 32 (codeAt t.sram .fp32 a i)
  let rs := (List.range op.n).map (fun i =>
    vecLane op.fn mode (t.rnd key i) (at_ op.a i) (at_ op.b i) (at_ op.c i))
  ((t.put op.dst (rs.flatMap (fun r => leBytes 4 r.1))).setFlags (Flags.all (rs.map Prod.snd))).bumpSeq
    (vecRounds op.fn && decide (mode = .sr))

/-- How many operands a function reads. -/
def vecArity : VecFn → Nat
  | .fma => 3
  | .sqrt => 1
  | .neg => 1
  | .exp => 1
  | .log => 1
  | .rsqrt => 1
  | .tanh => 1
  | .sigmoid => 1
  | _ => 2

def vecReads (op : VecOp) (_ : Tile) : List Nat :=
  wordsOf op.a (4 * op.n) ++ (if 2 ≤ vecArity op.fn then wordsOf op.b (4 * op.n) else []) ++
    (if 3 ≤ vecArity op.fn then wordsOf op.c (4 * op.n) else [])

def execVectorOperation (t : Coord) (op : VecOp) (s : State) : Result :=
  actTile (fun s => s.tileInstr t.key true (vecReads op)
    (fun s => s.updTile t.key (fun x => (vecTile t.key op x).advance))) s

def tineTile (key : Nat) (op : TineOp) (t : Tile) : Tile :=
  let mode := t.mode op.mode
  let xs := (List.range 16).map (fun i => elemAt t.sram .fp32 op.src i)
  let r := tineEncode op.fmt mode (t.rnd key) xs
  let t' := t.put (op.line + op.blk) [BitVec.ofNat 8 r.1]
  ((t'.put (op.line + 8 + op.blk * tinePayload op.fmt) (tinePack op.fmt r.2.1)).setFlags r.2.2).bumpSeq
    (decide (mode = .sr))

def execTineEncode (t : Coord) (op : TineOp) (s : State) : Result :=
  actTile (fun s => s.tileInstr t.key true (fun _ => wordsOf op.src 64)
    (fun s => s.updTile t.key (fun x => (tineTile t.key op x).advance))) s

/-! ### The sequencer (R51, R52, R56, R122) -/

/-- The halt instruction: the tile counts as being at every epoch barrier (R507). -/
def execHaltInstruction (t : Coord) (s : State) : Result :=
  actTile (fun s => s.tileInstr t.key true (fun _ => [])
    (fun s => (s.updTile t.key (fun x => { x with run := .finished })).checkBarrier (herdOfKey t.key))) s

/-- An epoch barrier point: the tile halts there once the barrier has been requested, to go on after it
(R369); in a FAULTED herd it stops there and stays (R100). -/
def execEpochBarrierPoint (t : Coord) (s : State) : Result :=
  actTile (fun s => s.tileInstr t.key true (fun _ => [])
    (fun s =>
      if (s.herd (herdOfKey t.key)).barrier.isSome || decide ((s.herd (herdOfKey t.key)).st = .faulted) then
        (s.updTile t.key (fun x => { x.advance with run := .atBarrier })).checkBarrier (herdOfKey t.key)
      else s.updTile t.key Tile.advance)) s

/-- A wait for an arrival counter to reach a count (R56, R122). DEDUCED (log entry 13). -/
def execArrivalWait (t : Coord) (ctr : Fin 16) (count : BitVec 32) (s : State) : Result :=
  actTile (fun s => s.tileInstr t.key true (fun _ => [])
    (fun s => s.updTile t.key (fun x =>
      if count ≤ NatMap.get x.ctrs 0 ctr.val then x.advance else { x with wait := .arrival ctr.val count }))) s

/-- Sets an arrival counter, or reads it into a scalar register (R122). -/
def execCounterSet (t : Coord) (ctr : Fin 16) (reg : Fin 16) (value : Option (BitVec 32)) (s : State) : Result :=
  actTile (fun s => s.tileInstr t.key true (fun _ => [])
    (fun s => s.updTile t.key (fun x =>
      match value with
      | some v => { x with ctrs := NatMap.put x.ctrs 0 ctr.val v }.advance
      | none => (x.setSreg reg.val (BitVec.ofNat 64 (NatMap.get x.ctrs 0 ctr.val).toNat)).advance))) s

/-- A take of the next item of a stream: waits until the herd controller delivers it (R361). -/
def execJournalTake (t : Coord) (stream : StreamNo) (dst : BitVec 16) (s : State) : Result :=
  actTile (fun s => s.tileInstr t.key true (fun _ => [])
    (fun s => s.updTile t.key (fun x => { x with wait := .take stream.val dst.toNat }))) s

/-- A scalar instruction (R50, R51, R57, R502). The manual encodes no operation of two registers, so its
result is a free value. DESIGN CHOICE (log entry 20). -/
def scalarTile (op : ScalarOp) (t : Tile) : Tile :=
  match op with
  | .alu dst a b =>
    (t.setSreg dst.val (Config.scalarResult (BitVec.ofNat 32 t.instrWord) (t.sreg a.val) (t.sreg b.val))).advance
  | .load dst addr => (t.setSreg dst.val (BitVec.ofNat 64 (leNat (sramRead t.sram addr 8)))).advance
  | .store src addr => (t.put addr (leBytes 8 (t.sreg src.val).toNat)).advance
  | .storeProgram _ _ => t.advance
  | .jump target => { t with pc := target % 2048 }
  | .readReg dst off =>
    let r := t.readReg off.toNat
    (r.1.setSreg dst.val r.2).advance
  | .writeReg src off => (t.writeReg off.toNat (t.sreg src.val) fullMask).advance
  | .reserved => t

def scalarReads (op : ScalarOp) (_ : Tile) : List Nat :=
  match op with
  | .load _ addr => wordsOf addr 8
  | _ => []

def execScalarInstruction (t : Coord) (op : ScalarOp) (s : State) : Result :=
  actTile (fun s => s.tileInstr t.key (decide (op ≠ .reserved)) (scalarReads op)
    (fun s => s.updTile t.key (scalarTile op))) s

/-! ### Packets (R120 to R124, R155) -/

/-- The kinds a tile program may send (R124). -/
def tileKind (kind : Nat) : Bool := decide (kind ∈ [0x0, 0x1, 0x4, 0x5, 0x6])

/-- The READ_REQ packet of a request (R155). -/
def readPacket (key : Nat) (op : ReadOp) : Packet :=
  { dx := op.stack.val, dy := 0, edge := true, kind := 0x1, addr := op.dst.toNat, ctr := op.ctr.toNat
    tag := op.tag.toNat, payload := [BitVec.ofNat 64 (op.addr.toNat + op.lines.toNat * 2 ^ 40)], src := .tile key }

/-- Sends a READ_REQ packet and notes it as outstanding, or waits while eight are (R123). -/
def State.sendRead (s : State) (key : Nat) (p : Packet) : State :=
  let t := s.tile key
  if t.reads.length < 8 then
    let s := s.setTile key { t.advance with reads := t.reads ++ [⟨p.tag, false⟩], wait := .none }
    s.sendFromTile key p
  else s.setTile key { t with wait := .readSlot p }

/-- The payload words of a send: words of data SRAM, or accumulators as they leave the tile for a collective, four
words each (R80). -/
def sendWords (op : SendOp) (x : Tile) : List Word :=
  match op.src with
  | .sram a => (List.range op.len.toNat).map (fun i => BitVec.ofNat 64 (leNat (sramRead x.sram (a + 8 * i) 8)))
  | .accs first => (List.range op.len.toNat).map (fun i => nthD (x.acc (first.val + i / 4)).words (i % 4) 0)

/-- The words of data SRAM that a send reads. -/
def sendReads (op : SendOp) (_ : Tile) : List Nat :=
  match op.src with
  | .sram a => wordsOf a (8 * op.len.toNat)
  | .accs _ => []

/-- The packet that a send builds. -/
def sendPacketOf (op : SendOp) (key : Nat) (x : Tile) : Packet :=
  { dx := op.dx.toNat, dy := op.dy.toNat, edge := op.edge, kind := op.kind.toNat, addr := op.addr.toNat
    ctr := op.ctr.toNat, tag := op.tag.toNat, payload := sendWords op x, src := .tile key }

/-- A READ_REQ counts as outstanding, whichever instruction sends it (R123). -/
def execSendPacket (t : Coord) (op : SendOp) (s : State) : Result :=
  actTile (fun s => s.tileInstr t.key (tileKind op.kind.toNat) (sendReads op)
    (fun s =>
      let p := sendPacketOf op t.key (s.tile t.key)
      if op.kind = 1 then s.sendRead t.key p else (s.updTile t.key Tile.advance).sendFromTile t.key p)) s

def execReadReq (t : Coord) (op : ReadOp) (s : State) : Result :=
  actTile (fun s => s.tileInstr t.key true (fun _ => []) (fun s => s.sendRead t.key (readPacket t.key op))) s

/-! ### Tile registers written from outside the program (R57, R116) -/

/-- A window write of a tile register by the host; a herd that is DARK or absent drops it (R144).
DEDUCED (log entry 22). -/
def State.tileRegWrite (s : State) (key off : Nat) (v : Word) : State :=
  let h := herdOfKey key
  if decide ((s.herd h).st = .dark) || !s.herdPresent h then s.wr Reg.HRD_CMD_STATUS_WIN_ERR 1
  else s.updTile key (fun x => x.writeReg off v fullMask)

/-- A write of STEP clears SEQ (R57). -/
def execHrdTileStepWrite (t : Coord) (step : BitVec 32) (s : State) : Result :=
  actTile (fun s => s.tileRegWrite t.key tStep (BitVec.ofNat 64 step.toNat)) s

/-- Writing 1 to VALID clears HRD_TILE_SPARSE_FAULT (R116). -/
def execHrdTileSparseFaultClear (t : Coord) (s : State) : Result :=
  actTile (fun s => s.tileRegWrite t.key tSparseFault (BitVec.ofNat 64 (2 ^ 24))) s

end Sys2Proof.Machine
end

