-- ==== Sys2Proof/Machine/Mesh.lean ====
section
/-! DEFINITION. Routers, delivery of packets, broadcast and in-wafer collectives (R117 to R139, R146 to
R150, R206). -/

namespace Sys2Proof.Machine

/-- What a step of the mesh may change. -/
def actMesh (f : State → State) (s : State) : Result := actHerd f s

/-! ### Discards of local ports (R206, R377) -/

/-- The recovery is in a state in which local ports of its group discard: from ISOLATE until RESTORE. -/
def RecSt.discards : RecSt → Bool
  | .isolate => true
  | .decide => true
  | .remap => true
  | .move => true
  | .reload => true
  | _ => false

def State.localDiscards (s : State) (h : Nat) : Bool :=
  decide ((s.herd h).st = .reshaping) || (s.flt.st.discards && decide (s.groupOf h = s.flt.group)) ||
    decide (s.groupOf h ∈ s.flt.held)

/-! ### ROUTE_PACKET (R117, R125 to R130) -/

/-- The edge ports of R128 that name a block. -/
def edgeBlock (port : Nat) : Bool := decide (port ≤ 0x25)

/-- The channel of a packet; a kind that a corrupted head names goes as data. DEDUCED (log entry 124). -/
def Packet.vc (p : Packet) : Nat := (vcOf p.kind).getD 2

/-- The order in which an output serves the channels: VC0, VC1, VC3, VC2 (R126). -/
def vcRank (vc : Nat) : Nat := if vc = 0 then 0 else if vc = 1 then 1 else if vc = 3 then 2 else 3

/-- Broadcast and combining packets follow trees, not the tables (R139, R147). -/
def treeKind (kind : Nat) : Bool := decide (kind = 0x3 ∨ kind = 0xA ∨ kind = 0x4)

/-- Words of packets of a channel in a router's input buffer. A packet longer than the 8 words of the buffer has the rest
of its words behind it. DEDUCED (log entry 124). -/
def State.bufWords (s : State) (px py : Nat) (inp : Port) (vc : Nat) : Nat :=
  s.mesh.flights.foldl (fun a f =>
    if f.loc = .router px py inp ∧ f.pkt.vc = vc then a + (if vc = 1 then f.pkt.words else min f.pkt.words 8) else a) 0

/-- The powered router on a side. -/
def State.childAt (s : State) (px py out : Nat) : Option (Nat × Nat) :=
  match neighbour px py out with
  | some (x, y) => if s.pherdOn (pherdAt x y) then some (x, y) else none
  | none => none

/-- The output holds a credit for the packet's first word: the buffer behind it has room, the whole packet's for VC1
(R125, R139); ports into a tile, a controller and an edge block sink what comes (R123, R127), and an edge link has to be
powered (R128). -/
def State.hasCredit (s : State) (px py out : Nat) (p : Packet) : Bool :=
  if out < 4 then
    match s.childAt px py out with
    | some (x, y) =>
      let held := s.bufWords x y (enters out) p.vc
      if p.vc = 1 then decide (held + p.words ≤ 65) else decide (held < 8)
    | none => false
  else if out = 6 then (boundaryStack px py).isNone || s.edgeLinkOn px py
  else true

/-- The tree of a broadcast packet: TAG[1:0]; a ROUTE_PATCH goes on tree 0. -/
def Packet.tree (p : Packet) : Nat := if p.kind = 0xA then 0 else p.tag % 4

/-- The child outputs of a router on a tree, the local one apart. -/
def State.treeOuts (s : State) (px py tree : Nat) : List Nat :=
  (List.range 4).filter (fun o => bit (s.bcastEntry px py tree) o)

/-- The outputs that a packet waiting at a working router takes when its turn comes: a broadcast those of its tree, and
only from its parent input (R139); a partial none, as combining uses buffers of its own (R127). -/
def State.wants (s : State) (f : Flight) : List Nat :=
  match f.loc with
  | .router px py inp =>
    if f.pkt.vc = 1 then
      (if s.bcastEntry px py f.pkt.tree / 32 % 8 = inp.code then s.treeOuts px py f.pkt.tree else [])
    else if treeKind f.pkt.kind then [] else [s.lookup px py f.pkt]
  | _ => []

/-- The packet is the oldest of its channel in its buffer. -/
def State.isHead (s : State) (f : Flight) : Bool :=
  decide (s.mesh.flights.find? (fun g => decide (g.loc = f.loc ∧ g.pkt.vc = f.pkt.vc)) = some f)

/-- The packet is at the head of its buffer and every output it takes holds a credit for it. -/
def State.canLeave (s : State) (f : Flight) : Bool :=
  match f.loc with
  | .router px py _ => s.isHead f && (s.wants f).all (fun o => s.hasCredit px py o f.pkt)
  | _ => false

/-- Where an output keeps the input that it served last on a channel; broadcasts share one turn. DEDUCED (log entry 124). -/
def servedKey (out vc : Nat) : Nat := if vc = 1 then 29 else out * 4 + vc

/-- How long an input waits for its turn at an output in the round of R126, which follows the input served last; two that
come together are settled by it as well (R32). -/
def Router.turn (r : Router) (out vc : Nat) (inp : Port) : Nat :=
  match NatMap.find r.served (servedKey out vc) with
  | some last => (inp.code + 6 - last) % 7
  | none => inp.code

/-- Packet g goes before packet f at an output: a higher channel, or an earlier turn on the same one (R126). -/
def State.goesBefore (s : State) (px py out : Nat) (g f : Flight) : Bool :=
  match g.loc, f.loc with
  | .router gx gy gi, .router _ _ fi =>
    decide (gx = px ∧ gy = py ∧ out ∈ s.wants g) && s.canLeave g &&
      (decide (vcRank g.pkt.vc < vcRank f.pkt.vc) ||
        (decide (g.pkt.vc = f.pkt.vc) &&
          decide ((s.router px py).turn out f.pkt.vc gi < (s.router px py).turn out f.pkt.vc fi)))
  | _, _ => false

/-- It is the packet's turn: it can leave, and at no output it takes does another go before it (R125, R126). -/
def State.hasTurn (s : State) (f : Flight) : Bool :=
  match f.loc with
  | .router px py _ =>
    s.canLeave f && (s.wants f).all (fun o => !(s.mesh.flights.any (fun g => s.goesBefore px py o g f)))
  | _ => false

/-- The outputs note the input they have served. -/
def State.noteServed (s : State) (px py : Nat) (f : Flight) (outs : List Nat) : State :=
  match f.loc with
  | .router _ _ inp =>
    let r := s.router px py
    s.setRouter px py { r with
      timedOut := false
      served := outs.foldl (fun m o => NatMap.ins m (servedKey o f.pkt.vc) inp.code) r.served }
  | _ => s

/-- A head word's fields over a packet (R120). -/
def Packet.withHead (p : Packet) (w : Nat) : Packet :=
  { p with dx := bits w 9 0, dy := bits w 19 10, edge := bit w 20, kind := bits w 27 24, addr := bits w 51 36
           ctr := bits w 55 52, tag := bits w 63 56 }

/-- A word of the packet is wrong. -/
def Packet.wrong (p : Packet) (word : Nat) (w : Word) : Packet :=
  if word = 0 then p.withHead w.toNat else { p with payload := setAt p.payload (word - 1) w }

/-- What an error of a word on a link does to the packet at the receiving router (R53, R117): one bit is corrected, two
poison the packet, and more may do any of the three things that R53 names. DESIGN CHOICE (log entry 14). -/
def Flight.over (f : Flight) (err : LinkErr) (draw : Nat) : Flight :=
  match err with
  | .clean => f
  | .single => f
  | .double => { f with poisoned := true }
  | .multi word =>
    if Config.multiBitOutcome draw = 0 then { f with poisoned := true }
    else { f with pkt := f.pkt.wrong word (Config.multiBitWord draw) }

/-- The router discards a packet whose entry is invalid, counts it and raises TILE_HANDSHAKE_TIMEOUT naming
its own tile (R130). -/
def State.routeInvalid (s : State) (i px py : Nat) : State :=
  let s := s.dropFlight i
  let r := s.router px py
  let s := s.setRouter px py { r with discards := r.discards + 1 }
  s.post Code.tileHandshakeTimeout Source.tile (s.locOf px py) 0

/-- Sends a packet out of a router by an output of R129. An entry that names a port the router does not have is taken as
invalid. DEDUCED (log entry 124). -/
def State.routeOut (s : State) (i : Nat) (f : Flight) (px py out : Nat) (err : LinkErr) : State :=
  let go (l : Loc) (g : Flight) : State := (s.noteServed px py f [out]).moveFlight i { g with loc := l }
  if out < 4 then
    match s.childAt px py out with
    | none => s
    | some (x, y) => (go (.router x y (enters out)) (f.over err s.io.draws)).draw
  else if out = 4 then
    match s.tileAt px py with
    | some k => go (.tile (keyX k) (keyY k)) f
    | none => s.routeInvalid i px py
  else if out = 5 then
    match s.lherd (pherdAt px py) with
    | some h => go (.herd h) f
    | none => s.routeInvalid i px py
  else if out = 6 ∧ (boundaryStack px py).isSome = true then
    if f.pkt.edge = true ∧ edgeBlock f.pkt.dx = true then go (.edge f.pkt.dx (routerKey px py)) f
    else
      let s := (s.noteServed px py f [out]).dropFlight i
      { s with mesh := { s.mesh with edgeDiscards := s.mesh.edgeDiscards + 1 } }
  else s.routeInvalid i px py

/-- Writes an entry of a router's route memory. -/
def Router.setEntry (r : Router) (entry v : Nat) : Router :=
  if entry < 1024 then { r with herdTab := NatMap.ins r.herdTab entry v }
  else if entry < 2048 then { r with localTab := NatMap.ins r.localTab (entry - 1024) v }
  else if entry < 2112 then { r with edgeTab := NatMap.ins r.edgeTab (entry - 2048) v }
  else { r with bcast := NatMap.ins r.bcast (entry - 2112) v }

/-- An uncorrectable entry of a router's route memory: it raises TILE_ECC_UNCORR once, naming the router's tile, which
halts. DEDUCED (log entry 125). -/
def State.routeEcc (s : State) (px py entry : Nat) : State :=
  let r := s.router px py
  let s := s.setRouter px py { r with bad := NatMap.ins r.bad entry 255 }
  match s.tileAt px py with
  | some key => s.tileEcc key
  | none => s.post Code.tileEccUncorr Source.tile 0 0

/-- The router reads an entry that is checked as in R53: one wrong bit is corrected, two are uncorrectable, more may do
any of three things. The flag says that the entry can be used. DESIGN CHOICE (log entry 14). -/
def State.readEntry (s : State) (px py entry : Nat) : State × Bool :=
  let r := s.router px py
  let clean : Router := { r with bad := NatMap.del r.bad entry }
  match NatMap.find r.bad entry with
  | none => (s, true)
  | some n =>
    if n = 255 then (s, false)
    else if n = 1 then (s.setRouter px py clean, true)
    else if n = 2 ∨ Config.multiBitOutcome s.io.draws = 0 then ((s.routeEcc px py entry).draw, false)
    else ((s.setRouter px py (clean.setEntry entry ((Config.multiBitWord s.io.draws).toNat % 256))).draw, true)

/-- A router takes packet i when its turn has come, and sends it on: a bypassed one passes it straight through (R132), any
other looks it up. DEDUCED (log entries 8, 124). -/
def State.routePacket (s : State) (i : Nat) (err : LinkErr) : State :=
  match s.mesh.flights[i]? with
  | none => s
  | some f =>
    match f.loc with
    | .router px py inp =>
      if s.bypassed px py then
        match straight inp with
        | some out => if s.isHead f && s.hasCredit px py out f.pkt then s.routeOut i f px py out err else s
        | none => s
      else if treeKind f.pkt.kind then s
      else
        let r := s.readEntry px py (s.routeEntry px py f.pkt)
        if r.2 && r.1.hasTurn f then r.1.routeOut i f px py (r.1.lookup px py f.pkt) err else r.1
    | _ => s

def execRoutePacket (p : LinkStep) (s : State) : Result := actMesh (fun s => s.routePacket p.i p.err) s

/-! ### PACKET_DELIVER (R117, R122, R123) -/

/-- Wakes a tile whose wait an arrival counter or a finished read has met. DEDUCED (log entry 13). -/
def State.wakeTile (s : State) (key : Nat) : State :=
  let t := s.tile key
  match t.wait with
  | .arrival c n => if n ≤ NatMap.get t.ctrs 0 c then s.setTile key { t.advance with wait := .none } else s
  | .readSlot p => if t.reads.length < 8 then s.sendRead key p else s
  | _ => s

/-- Removes the first outstanding, unpoisoned read with a tag. -/
def dropRead : List ReadOut → Nat → List ReadOut
  | [], _ => []
  | r :: rs, tag => if r.poisoned = false ∧ r.tag = tag then rs else r :: dropRead rs tag

/-- Marks the first outstanding read with a tag as answered poisoned. DEDUCED (log entry 27). -/
def poisonRead : List ReadOut → Nat → List ReadOut
  | [], _ => []
  | r :: rs, tag =>
    if r.poisoned = false ∧ r.tag = tag then { r with poisoned := true } :: rs else r :: poisonRead rs tag

/-- A packet that a tile sinks: WRITE, READ_RSP, BCAST and GATHER write SRAM and raise the counter by LEN. -/
def State.sinkAtTile (s : State) (key : Nat) (p : Packet) : State :=
  if p.kind = 0x0 ∨ p.kind = 0x2 ∨ p.kind = 0x3 ∨ p.kind = 0x6 then
    let s := s.updTile key (fun t =>
      let t := t.put (p.addr * 8) (wordBytes p.payload)
      { t with
        ctrs := NatMap.put t.ctrs 0 p.ctr (NatMap.get t.ctrs 0 p.ctr + BitVec.ofNat 32 p.payload.length)
        reads := if p.kind = 0x2 then dropRead t.reads p.tag else t.reads })
    s.wakeTile key
  else s

/-- A poisoned packet commits nothing and raises TILE_ECC_UNCORR with the receiving tile as source (R117).
A poisoned READ_RSP halts the tile and puts its herd in FAULTED as part of the stack fault (R173, R507);
`down` says that the stack is down, and then no further record is posted. DEDUCED (log entry 27). -/
def State.poisonAtTile (s : State) (key : Nat) (p : Packet) : State :=
  if p.kind = 0x2 then
    let down := match p.src with
      | .block k => decide ((s.stk k).st = .down)
      | _ => false
    let s := s.updTile key (fun t => { t with run := .stackFault, reads := poisonRead t.reads p.tag })
    let s := s.faultHerd (herdOfKey key) (if down then Code.stackChannelDown else Code.stackEccUncorr) (!down)
    if down then s else s.post Code.tileEccUncorr Source.tile key 0
  else s.post Code.tileEccUncorr Source.tile key 0

/-- The position of a herd of this wafer among the members of a group: its slice index (R146, R148).
DEDUCED (log entry 29). -/
def State.sliceOf (s : State) (coll h : Nat) : Option Nat :=
  match NatMap.find s.mesh.groups coll with
  | some g =>
    let i := g.members.idxOf (s.waferIndex * 1024 + h)
    if i < g.members.length then some i else none
  | none => none

/-- Two FP32 values of a payload word, the lower one first (R14). DESIGN CHOICE (log entry 126). -/
def fp32Of (w : Word) : List (BitVec 32) := [BitVec.ofNat 32 w.toNat, BitVec.ofNat 32 (w.toNat / 2 ^ 32)]

/-- FP32 values as payload words. DESIGN CHOICE (log entry 126). -/
def fp32Words (vs : List (BitVec 32)) : List Word :=
  (List.range (ceilDiv vs.length 2)).map (fun i =>
    BitVec.ofNat 64 ((nthD vs (2 * i) 0).toNat + (nthD vs (2 * i + 1) 0).toNat * 2 ^ 32))

/-- Subtree results enter the engine of a herd controller (R148). -/
def State.takeSlice (s : State) (h : Nat) (p : Packet) : State :=
  match s.sliceOf (p.tag / 4) p.herd with
  | none => s
  | some i =>
    { s with mesh := { s.mesh with nodes := s.mesh.nodes ++
        [{ herd := h, coll := p.tag / 4, slice := i, width := 1, addr := p.addr, ctr := p.ctr, tag := p.tag
           sent := false, values := p.payload.flatMap fp32Of }] } }

/-- A piece of an all-gather or a data broadcast enters the engine of a herd controller; the pieces of one member follow
each other (R146). -/
def State.takePiece (s : State) (h : Nat) (p : Packet) : State :=
  match s.sliceOf (p.tag / 4) p.herd with
  | none => s
  | some i =>
    let mine (g : Gather) : Bool := decide (g.herd = h ∧ g.coll = p.tag / 4 ∧ g.slice = i)
    let l := if s.mesh.gathers.any mine then
        s.mesh.gathers.map (fun g => if mine g then { g with words := g.words ++ p.payload } else g)
      else s.mesh.gathers ++ [{ herd := h, coll := p.tag / 4, slice := i, words := p.payload, addr := p.addr
                                ctr := p.ctr, tag := p.tag, sent := 0 }]
    { s with mesh := { s.mesh with gathers := l } }

/-- A herd controller takes a packet. Partials wait for RED_ACC_COMBINE, and a contribution that its herd has to hold
waits (R150); READ_RSP answers nothing that a controller keeps. -/
def State.deliverHerd (s : State) (i h : Nat) (f : Flight) : State :=
  let held := s.contributionWaits f.pkt.herd (f.pkt.tag / 4)
  if f.pkt.kind = 0x4 then s
  else if f.pkt.kind = 0x5 ∨ f.pkt.kind = 0x6 then
    if held then s
    else if f.poisoned then (s.dropFlight i).post Code.tileEccUncorr Source.herd h 0
    else if f.pkt.kind = 0x5 then (s.dropFlight i).takeSlice h f.pkt
    else (s.dropFlight i).takePiece h f.pkt
  else s.dropFlight i

/-- Delivers packet i at its destination. Packets at a stack are taken by STACK_READ and STACK_WRITE, and
partials at a herd controller by RED_ACC_COMBINE; subtree results and pieces enter the engine (R146, R148). -/
def State.deliver (s : State) (i : Nat) : State :=
  match s.mesh.flights[i]? with
  | none => s
  | some f =>
    match f.loc with
    | .tile x y =>
      let key := tileKey x y
      let s := s.dropFlight i
      if s.localDiscards (herdOfKey key) = true ∧ (vcOf f.pkt.kind = some 2 ∨ vcOf f.pkt.kind = some 3) then
        s.count Reg.IMG_DISCARD_COUNT 1
      else if f.poisoned then s.poisonAtTile key f.pkt
      else s.sinkAtTile key f.pkt
    | .herd h => s.deliverHerd i h f
    | .edge port _ => if port < 16 ∧ (f.pkt.kind = 0x0 ∨ f.pkt.kind = 0x1) then s else s.dropFlight i
    | .router _ _ _ => s

def execPacketDeliver (i : Nat) (s : State) : Result := actMesh (fun s => s.deliver i) s

/-! ### Timeouts and failures (R119, R132, R134) -/

def Flight.atRouter (f : Flight) (px py : Nat) : Bool :=
  match f.loc with
  | .router x y _ => decide (x = px ∧ y = py)
  | _ => false

/-- A router that waits more than 50 ms raises the fault once and keeps waiting (R119). -/
def execTileHandshakeTimeout (r : Phys) (s : State) : Result :=
  actMesh (fun s =>
    let x := s.router r.x r.y
    if s.mesh.flights.any (fun f => f.atRouter r.x r.y) = true ∧ x.timedOut = false then
      (s.setRouter r.x r.y { x with timedOut := true }).post Code.tileHandshakeTimeout Source.tile (s.locOf r.x r.y) 0
    else s) s

/-- A router fails: the packets in it are lost, and it is set to bypass unless its whole herd must move. -/
def execRouterFailure (r : Phys) (s : State) : Result :=
  actMesh (fun s =>
    let s := { s with mesh := { s.mesh with flights := s.mesh.flights.filter (fun f => !(f.atRouter r.x r.y)) } }
    if herdBreaking r.x r.y || s.besideBypass r.x r.y then s
    else s.setRouter r.x r.y { s.router r.x r.y with bypass := true }) s

/-! ### ROUTE_PATCH (R136, R379) -/

/-- The routers with no written entry for a herd. -/
def forgetHerd (rs : NatMap Router) (h : Nat) : NatMap Router :=
  NatMap.mapIf Router.reset (fun _ => true) (fun r => { r with herdTab := NatMap.del r.herdTab h }) rs

/-- Rewrites the entries for the moved herd on every router, and raises HERD_MOVED: logical herd in [9:0],
the reserve herd's physical row in [14:10]. -/
def State.routePatch (s : State) (h : Nat) : State :=
  match s.flt.moveTo with
  | none => s
  | some row =>
    if s.flt.herd = h then
      let failed := s.flt.failed
      let s := { (s.generateFor h) with
        bru := { s.bru with map := { s.bru.map with moved := NatMap.ins s.bru.map.moved h (row * 33 + 32) } }
        mesh := { (s.generateFor h).mesh with routers := forgetHerd s.mesh.routers h }
        flt := { s.flt with moveTo := none, failed := failed.drop 1, st := if (failed.drop 1).isEmpty then .reload else .decide } }
      let f := failed.head?.map Failed.at_
      let s := s.count Reg.FLT_COUNT_MOVES 1
      let s := s.noteRemap h 2 ((f.map (fun p => p.x % 33)).getD 0) ((f.map (fun p => p.y % 33)).getD 0)
      s.post Code.herdMoved Source.flt 0 (h + row * 2 ^ 10)
    else s

def execRoutePatch (h : HerdNo) (s : State) : Result := actMesh (fun s => s.routePatch h.val) s

/-! ### Broadcast (R139) -/

/-- A router forwards a broadcast packet whole from its parent input, when every child output has room for all of it and
its turn has come. DEDUCED (log entry 124). -/
def State.bcastForward (s : State) (i : Nat) (err : LinkErr) : State :=
  match s.mesh.flights[i]? with
  | none => s
  | some f =>
    match f.loc with
    | .router px py inp =>
      if s.bypassed px py = true ∨ f.pkt.vc ≠ 1 then s
      else
        let r := s.readEntry px py (2112 + f.pkt.tree)
        let s := r.1
        let e := s.bcastEntry px py f.pkt.tree
        if r.2 && decide (e / 32 % 8 = inp.code) && s.hasTurn f then
          let outs := s.treeOuts px py f.pkt.tree
          let g := f.over err s.io.draws
          let copies := outs.filterMap (fun o => (s.childAt px py o).map (fun q =>
            { g with loc := .router q.1 q.2 (enters o) }))
          let here := if bit e 4 then
              (match s.tileAt px py with
               | some k => [{ f with loc := .tile (keyX k) (keyY k) }]
               | none => [])
            else []
          let s := ((s.noteServed px py f outs).dropFlight i).draw
          { s with mesh := { s.mesh with flights := s.mesh.flights ++ copies ++ here } }
        else s
    | _ => s

def execBcastForward (p : LinkStep) (s : State) : Result := actMesh (fun s => s.bcastForward p.i p.err) s

/-! ### In-wafer collectives (R146 to R148) -/

/-- Partials of four words each, combined one by one (R80, R147). -/
def combineWords (a b : List Word) : List Word :=
  (List.range (ceilDiv (max a.length b.length) 4)).flatMap (fun i =>
    (Acc.combine (Acc.ofWords ((a.drop (4 * i)).take 4)) (Acc.ofWords ((b.drop (4 * i)).take 4))).words)

def combineAll : List (List Word) → List Word
  | [] => []
  | w :: ws => ws.foldl combineWords w

/-- The input of a router that faces a child output of a tree; the local child is the tile's own port. -/
def childInput (o : Nat) : Port :=
  if o = north then .north else if o = east then .east else if o = south then .south
  else if o = west then .west else .local_

/-- Sent by a herd controller. -/
def Packet.fromHerd (p : Packet) : Bool :=
  match p.src with
  | .herd _ => true
  | _ => false

/-- A whole partial: a RED_ACC packet of whole partials of four words, at most 128 words in all, that is not poisoned
(R117, R147). -/
def Flight.wholePartial (f : Flight) (coll : Nat) : Bool :=
  decide (f.pkt.kind = 0x4 ∧ f.pkt.tag / 4 = coll ∧ f.pkt.payload.length % 4 = 0 ∧ f.pkt.payload.length ≤ 128) && !f.poisoned

/-- A tile's RED_ACC packet of a collective that a router has taken in by a side, or one that routers have combined. -/
def Flight.partialAt (f : Flight) (px py tree coll : Nat) (inp : Port) : Bool :=
  f.wholePartial coll && decide (f.pkt.tag % 4 = tree ∧ f.loc = .router px py inp) && !f.pkt.fromHerd

/-- A herd controller's partial of a collective at a router of the group's tree. -/
def Flight.herdPartialAt (f : Flight) (px py coll : Nat) : Bool :=
  f.wholePartial coll && f.pkt.fromHerd && (match f.loc with
    | .router x y _ => decide (x = px ∧ y = py)
    | _ => false)

/-- The herd's own combined partial at its controller; `none` of another's. -/
def Flight.ownAtHerd (f : Flight) (coll h : Nat) : Bool :=
  f.wholePartial coll && decide (f.loc = .herd h) && !f.pkt.fromHerd

/-- The combined partial of herd k at the controller of herd h. -/
def Flight.fromHerdAt (f : Flight) (coll k h : Nat) : Bool :=
  f.wholePartial coll && decide (f.loc = .herd h ∧ f.pkt.src = .herd k)

/-- The member herd of a group whose controller sits at a router. -/
def State.memberAt (s : State) (hs : List Nat) (q : Nat × Nat) : Option Nat :=
  if q.1 % 33 = 16 ∧ q.2 % 33 = 16 then
    match s.lherd (pherdAt q.1 q.2) with
    | some h => if h ∈ hs then some h else none
    | none => none
  else none

/-- The first member herd that a tree meets on its way from a router to its root. DEDUCED (log entry 127). -/
def State.climb (s : State) (tree : Nat) (hs : List Nat) : Nat → Nat × Nat → Option Nat
  | 0, _ => none
  | n + 1, q =>
    let par := s.bcastEntry q.1 q.2 tree / 32 % 8
    if par < 4 then
      match s.childAt q.1 q.2 par with
      | some r => match s.memberAt hs r with
        | some h => some h
        | none => State.climb s tree hs n r
      | none => none
    else none

/-- The member herd above a member herd on the group's tree; none is the tree's root among them. The bound is the longest
way across the wafer. -/
def State.herdAbove (s : State) (g : Group) (h : Nat) : Option Nat :=
  s.climb g.tree (g.herdsHere s.waferIndex) 2145 (s.ctlRouter h)

/-- Packets of at most 64 payload words that carry a result down a tree. DEDUCED (log entry 29). -/
def resultPackets (h addr ctr tag : Nat) : Nat → List Word → List Packet
  | 0, _ => []
  | n + 1, ws =>
    if ws.isEmpty then []
    else
      { dx := 0, dy := 0, edge := false, kind := 0x3, addr := addr, ctr := ctr, tag := tag, payload := ws.take 64
        src := .herd h } :: resultPackets h (addr + 64) ctr tag n (ws.drop 64)

/-- A reduce-scatter gives member i of n the i-th of n runs of units of `w` words. DESIGN CHOICE (log entry 121). -/
def scatterPart (ws : List Word) (w n i : Nat) : List Word :=
  let u := ceilDiv ws.length w
  (ws.drop (i * u / n * w)).take (((i + 1) * u / n - i * u / n) * w)

/-- What a member receives of a result of units of `w` words; none receives nothing (R146). -/
def Group.share (g : Group) (op : CollOp) (w member : Nat) (ws : List Word) : Option (List Word) :=
  match op with
  | .reduce m => if m = member then some ws else none
  | .reduceScatter => some (scatterPart ws w g.members.length (g.members.idxOf member))
  | _ => some ws

/-- The result of a collective goes to the member herds of the wafer that receive it, down the tree of the partials from
the controllers that are its roots, to the place that the partials name (R146, R147). DEDUCED (log entry 29). -/
def State.sendResult (s : State) (g : Group) (op : CollOp) (addr ctr tree w : Nat) (ws : List Word) : State :=
  s.forEach (g.herdsHere s.waferIndex) (fun s h =>
    let q := s.ctlRouter h
    if 4 ≤ s.bcastEntry q.1 q.2 tree / 32 % 8 then
      match g.share op w (s.waferIndex * 1024 + h) ws with
      | some part => s.forEach (resultPackets h addr ctr tree part.length part) (fun s p => s.sendFromHerd h p)
      | none => s
    else s)

/-- The wafer's combined partial of a group: the result itself on one wafer, and what goes to the others (R149). -/
def State.groupPartial (s : State) (coll : Nat) (g : Group) (op : CollOp) (p : Packet) (words : List Word) : State :=
  if g.sender = 0xFFFF then s.sendResult g op p.addr p.ctr (p.tag % 4) 4 words
  else
    { s with mesh := { s.mesh with parts := s.mesh.parts ++
        [{ group := coll, op := op, words := words, addr := p.addr, ctr := p.ctr, tag := p.tag, sent := 0 }] } }

/-- The herds whose partials the controller of herd h combines with its own: those right below it on the group's tree;
none where the tiles' own tree is the group's and spans it already. DEDUCED (log entry 127). -/
def State.herdsBelow (s : State) (g : Group) (tree h : Nat) : List Nat :=
  if tree = g.tree then [] else (g.herdsHere s.waferIndex).filter (fun k => decide (k ≠ h ∧ s.herdAbove g k = some h))

/-- A herd controller combines the partials of the herds below it on the group's tree with its own and sends one packet
up the tree; at the root the wafer's partial is complete (R147). A herd that drains, or reshapes, holds its contribution
until RELEASE (R142, R150). -/
def State.combineHerds (s : State) (h coll : Nat) (op : CollOp) : State :=
  match NatMap.find s.mesh.groups coll with
  | none => s
  | some g =>
    if h ∉ g.herdsHere s.waferIndex ∨ s.contributionWaits h coll = true then s
    else
      match s.mesh.flights.find? (fun f => f.ownAtHerd coll h) with
      | none => s
      | some own =>
        let tree := own.pkt.tag % 4
        let below := s.herdsBelow g tree h
        let got := below.filterMap (fun k => s.mesh.flights.find? (fun f => f.fromHerdAt coll k h))
        if got.length = below.length then
          let words := combineAll (own.pkt.payload :: got.map (fun f => f.pkt.payload))
          let s : State := { s with mesh := { s.mesh with flights := (own :: got).foldl List.erase s.mesh.flights } }
          match (if tree = g.tree then none else s.herdAbove g h) with
          | some _ => s.sendFromHerd h { own.pkt with payload := words, src := .herd h }
          | none => s.groupPartial coll g op own.pkt words
        else s

/-- A herd controller's partial moves one router up the group's tree, or into the controller of a member herd that it
meets there (R147). -/
def State.liftPartial (s : State) (px py : Nat) (g : Group) (f : Flight) : State :=
  let par := s.bcastEntry px py g.tree / 32 % 8
  let put (l : Loc) : State :=
    { s with mesh := { s.mesh with flights := s.mesh.flights.erase f ++ [{ f with loc := l }] } }
  if par < 4 then
    match s.childAt px py par with
    | some q => match s.memberAt (g.herdsHere s.waferIndex) q with
      | some h => put (.herd h)
      | none => put (.router q.1 q.2 (enters par))
    | none => s
  else s

/-- A router on a tree combines the partials of all its children and sends one packet to its parent; partials of herds
go up the group's tree, and at a controller the herds' partials combine (R147). -/
def State.redAcc (s : State) (px py tree coll : Nat) (op : CollOp) : State :=
  let e := s.bcastEntry px py tree
  let kids := (List.range 5).filter (fun o => bit e o)
  let got := kids.filterMap (fun o => s.mesh.flights.find? (fun f =>
    f.partialAt px py tree coll (childInput o) && !(s.contributionWaits f.pkt.herd coll)))
  if s.bypassed px py = false ∧ kids.isEmpty = false ∧ got.length = kids.length then
    match got with
    | [] => s
    | f :: _ =>
      let p := { f.pkt with payload := combineAll (got.map (fun g => g.pkt.payload)) }
      let rest := got.foldl List.erase s.mesh.flights
      let parent := e / 32 % 8
      let loc : Option Loc :=
        if parent < 4 then (s.childAt px py parent).map (fun q => .router q.1 q.2 (enters parent))
        else (s.lherd (pherdAt px py)).map (fun h => .herd h)
      match loc with
      | some l => { s with mesh := { s.mesh with flights := rest ++ [{ pkt := p, loc := l, poisoned := false }] } }
      | none => s
  else
    match NatMap.find s.mesh.groups coll, s.mesh.flights.find? (fun f => f.herdPartialAt px py coll) with
    | some g, some f => s.liftPartial px py g f
    | _, _ =>
      match s.memberAt (List.range 1024) (px, py) with
      | some h => s.combineHerds h coll op
      | none => s

def execRedAccCombine (r : Phys) (tree : Fin 4) (c : CollRun) (s : State) : Result :=
  actMesh (fun s => s.redAcc r.x r.y tree.val c.coll.val c.op) s

/-- Slices of a tree collective: the group's members in member-index order (R148). -/
def State.slices (s : State) (coll : Nat) : Nat :=
  match NatMap.find s.mesh.groups coll with
  | some g => g.members.length
  | none => 0

/-- The node of two subtree results, element by element; an absent one is +0 (R81, R148). -/
def nodeValues (a b : List (BitVec 32)) : List (BitVec 32) :=
  (List.range (max a.length b.length)).map (fun i => rne32 (Num.add (of32 (nthD a i 0)) (of32 (nthD b i 0))))

/-- The engine of a herd forms the node over slices [slice, slice + 2 w): its left half waits until the pair
partner is there; a partner beyond the last slice is +0 (R82, R148). The root is the group's result. -/
def State.redTree (s : State) (h coll slice : Nat) (op : CollOp) : State :=
  match s.mesh.nodes.find? (fun n => decide (n.herd = h ∧ n.coll = coll ∧ n.slice = slice)) with
  | none => s
  | some a =>
    let total := s.slices coll
    let up (s : State) (gone : List RedNode) (v : List (BitVec 32)) : State :=
      { s with mesh := { s.mesh with nodes := (gone.foldl List.erase s.mesh.nodes) ++
          [{ a with width := 2 * a.width, values := v, sent := false }] } }
    if total ≤ a.width then
      let s : State := { s with mesh := { s.mesh with nodes := s.mesh.nodes.erase a } }
      match NatMap.find s.mesh.groups coll with
      | some g => s.sendResult g op a.addr a.ctr (a.tag % 4) 1 (fp32Words a.values)
      | none => s
    else if slice % (2 * a.width) ≠ 0 then s
    else if total ≤ slice + a.width then up s [a] (nodeValues a.values [])
    else
      match s.mesh.nodes.find? (fun n => decide (n.herd = h ∧ n.coll = coll ∧ n.slice = slice + a.width ∧ n.width = a.width)) with
      | none => s
      | some b => up s [a, b] (nodeValues a.values b.values)

/-- The pieces of the members at the engine of a herd: all of them in member-index order, or the one of a data
broadcast; none while one is missing (R146). -/
def State.pieces (s : State) (h coll : Nat) (op : CollOp) (g : Group) : Option (List Gather) :=
  let at_ (i : Nat) : Option Gather := s.mesh.gathers.find? (fun x => decide (x.herd = h ∧ x.coll = coll ∧ x.slice = i))
  let want := match op with
    | .dataBroadcast m => [g.members.idxOf m]
    | _ => List.range g.members.length
  let got := want.filterMap at_
  if got.length = want.length ∧ want.isEmpty = false then some got else none

/-- An all-gather or a data broadcast whose pieces are there: they are concatenated in member-index order and go to every
member (R146). -/
def State.gather (s : State) (h coll : Nat) (op : CollOp) : State :=
  match NatMap.find s.mesh.groups coll with
  | none => s
  | some g =>
    match s.pieces h coll op g with
    | some (p :: ps) =>
      let s : State := { s with mesh := { s.mesh with gathers := (p :: ps).foldl List.erase s.mesh.gathers } }
      s.sendResult g op p.addr p.ctr (p.tag % 4) 1 ((p :: ps).flatMap Gather.words)
    | _ => s

/-- A step of the collectives engine of a herd. -/
def State.engineStep (s : State) (h coll slice : Nat) (op : CollOp) : State :=
  match op with
  | .allGather => s.gather h coll op
  | .dataBroadcast _ => s.gather h coll op
  | _ => s.redTree h coll slice op

def execRedTreeNode (h : HerdNo) (c : CollRun) (slice : Nat) (s : State) : Result :=
  actMesh (fun s => s.engineStep h.val c.coll.val slice c.op) s

end Sys2Proof.Machine
end

