-- ==== Sys2Proof/Machine/StackOps.lean ====
section
/-! DEFINITION. What every access to a stack shares: the partition map (R37, R157, R160), who may reach which
region (R159), reading and writing a line with its mirror (R162, R166, R173), and a stack that goes down
(R170, R173, R388). -/

namespace Sys2Proof.Machine

/-! ### Errors that arise in stored words (R53, R129, R166) -/

/-- An upset of a stored word of a tile, a router or a stack. DESIGN CHOICE (log entry 108). -/
def State.upset (s : State) (u : Upset) : State :=
  match u with
  | .sram t w n =>
    if s.herdPresent (herdOfKey t.key) then s.updTile t.key (fun x => { x with bad := NatMap.put x.bad 0 w.val (NatMap.get x.bad 0 w.val + n) })
    else s
  | .route r e n =>
    let x := s.router r.x r.y
    if NatMap.get x.bad 0 e.val = 255 then s
    else s.setRouter r.x r.y { x with bad := NatMap.put x.bad 0 e.val (min 254 (NatMap.get x.bad 0 e.val + n)) }
  | .line k l e =>
    if stackLines ≤ l ∨ (s.stk k.val).st = .off then s
    else s.updStk k.val (fun x => match e with
      | .onDie => { x with odie := if l ∈ x.odie then x.odie else l :: x.odie }
      | .ctrl => { x with corr := if l ∈ x.corr then x.corr else l :: x.corr }
      | .uncorr => { x with bad := if l ∈ x.bad then x.bad else l :: x.bad })

/-- Upsets one after another; they change stored words and nothing else. -/
def State.withUpsets (s : State) (l : List Upset) : State :=
  let u := l.foldl State.upset s
  { s with tiles := u.tiles, mesh := u.mesh, stks := u.stks }

/-! ### Who may reach what (R159, R179) -/

/-- Edge ports of the blocks that use stacks. -/
def ibexPort : Nat := 0x20
def journalPort : Nat := 0x21
def imagePort : Nat := 0x23
def hostPort : Nat := 0x25

/-- The staging area of STK0 (R195). -/
def stagingBase : Nat := 0xF_C000_0000
def stagingEnd : Nat := 0x10_0000_0000

/-- A load runs: PHASE is neither IDLE nor DONE (R196). -/
def State.loadBusy (s : State) : Bool := decide (s.img.phase ≠ .idle ∧ s.img.phase ≠ .done)

/-- DEDUCED (log entry 28). -/
def State.allowed (s : State) (k : Nat) (r : Region) (addr : Nat) (write : Bool) : Src → Bool
  | .tile key =>
    if r.typ = 1 ∨ r.typ = 2 then
      decide (s.homeStack (herdOfKey key) = k) || (!write && r.shared)
    else false
  | .herd h =>
    if r.typ = 1 ∨ r.typ = 2 then decide (s.homeStack h = k) || (!write && r.shared)
    else if r.typ = 4 then decide (s.homeStack h = k) && !write
    else if r.typ = 5 then decide (s.homeStack h = k)
    else false
  | .block p =>
    if p = ibexPort then decide (r.typ = 3) && !write
    else if p = imagePort then (if r.typ = 4 then true else write && decide (1 ≤ r.typ ∧ r.typ ≤ 3))
    else if p = journalPort then decide (r.typ = 7)
    else if p = hostPort then
      if r.typ = 6 ∨ r.typ = 7 then !write
      else !(write && decide (k = 0) && s.loadBusy && decide (stagingBase ≤ addr ∧ addr < stagingEnd))
    else false

/-- SRC_KIND and SOURCE of R179. -/
def Src.code : Src → Nat × Nat
  | .tile key => (0, key)
  | .herd h => (1, h)
  | .block p => (2, p)

/-- Counts a refused request with its source; no fault is raised (R159, R179). DEDUCED (log entry 28). -/
def State.refuse (s : State) (k : Nat) (src : Src) : State :=
  let s := s.count (Reg.STK_REFUSED_COUNT k) 1
  (s.wr (Reg.STK_REFUSED_SOURCE k) src.code.2).wr (Reg.STK_REFUSED_SRC_KIND k) src.code.1

/-! ### Lines -/

/-- The 64 bytes of a line as stored. -/
def Stk.line (x : Stk) (l : Nat) : List Byte := Mem.read x.mem (l * 64) 64

/-- A whole-line write gives new check bits: the line is correct from then on. -/
def Stk.writeLine (x : Stk) (l : Nat) (bs : List Byte) : Stk :=
  { x with mem := Mem.write x.mem (l * 64) (slice bs 0 64)
           bad := x.bad.filter (fun b => decide (b ≠ l))
           corr := x.corr.filter (fun b => decide (b ≠ l))
           odie := x.odie.filter (fun b => decide (b ≠ l)) }

/-- Notes when a channel had a controller correction; the last 64 count (R169). -/
def Stk.noteCorr (x : Stk) (ch now : Nat) : Stk :=
  { x with corrAt := NatMap.ins x.corrAt ch ((now :: NatMap.get x.corrAt [] ch).take 64) }

/-- Both ECC codes act on a read: corrections are counted, and a corrected line is written back (R166). -/
def State.correct (s : State) (k l : Nat) : State :=
  let x := s.stk k
  let s := s.when (x.corr.contains l) (fun s => s.updStk k (fun x => x.noteCorr (lineChannel l) s.devTime.toNat))
  let s := s.when (x.odie.contains l) (fun s => s.count (Reg.STK_ECC_COUNT_ODIE_CORR k) 1)
  let s := s.when (x.corr.contains l) (fun s => s.count (Reg.STK_ECC_COUNT_CTRL_CORR k) 1)
  if x.odie.contains l || x.corr.contains l then
    s.updStk k (fun x => { x with corr := x.corr.filter (fun b => decide (b ≠ l))
                                  odie := x.odie.filter (fun b => decide (b ≠ l)) })
  else s

/-- Counts an uncorrectable line and keeps the first in STKn_ECC_ADDR (R176, R177). -/
def State.noteBad (s : State) (k addr typ : Nat) (copyOk : Bool) : State :=
  let s := s.count (Reg.STK_ECC_COUNT_CTRL_UNCORR k) 1
  if s.rdb (Reg.STK_ECC_ADDR_VALID k) then s
  else
    let s := (s.wr (Reg.STK_ECC_ADDR_ADDR k) addr).wr (Reg.STK_ECC_ADDR_TYPE k) typ
    (s.wr (Reg.STK_ECC_ADDR_COPY_OK k) (b2n copyOk)).wr (Reg.STK_ECC_ADDR_VALID k) 1

/-- STACK_ECC_UNCORR with the detail of R505. A line of no region has TYPE 0. DEDUCED (log entry 128). -/
def State.postStackEcc (s : State) (k addr typ : Nat) (copy : Bool) (kind source : Nat) : State :=
  s.post Code.stackEccUncorr Source.stk k
    (addr + typ * 2 ^ 37 + b2n copy * 2 ^ 41 + kind * 2 ^ 42 + source * 2 ^ 44)

/-- The TYPE of the region that a line lies in. -/
def State.lineType (s : State) (k addr : Nat) : Nat :=
  match s.regionAt k addr 64 with
  | some r => r.typ
  | none => 0

/-- An uncorrectable line that no copy serves: it is counted, kept in STKn_ECC_ADDR and posted, with the TYPE of its own
region (R173, R176, R177, R505); `copy` says that it is the partner copy of a line whose home copy failed too. -/
def State.lineFailed (s : State) (k addr : Nat) (copy : Bool) (kind source : Nat) : State :=
  (s.noteBad k addr (s.lineType k addr) false).postStackEcc k addr (s.lineType k addr) copy kind source

/-! ### The journal's lost lines (R388) -/

/-- Log lines of a journal region: what follows the two control blocks (R365). DEDUCED (log entry 44). -/
def logLines : Nat := (0x8000_0000 - 0x10_0000) / 64

/-- A record occupies a line of the log. DEDUCED (log entry 44). -/
def Rec.holds (r : Rec) (line : Nat) : Bool :=
  decide ((line + logLines - r.pos % logLines) % logLines < r.lines)

def Jrn.streamSt (j : Jrn) (n : Nat) : StreamSt := NatMap.get j.sst StreamSt.reset n

def Jrn.pair (j : Jrn) (p : Nat) : Pair := NatMap.get j.pairs Pair.reset p

def State.setPair (s : State) (p : Nat) (x : Pair) : State :=
  { s with jrn := { s.jrn with pairs := NatMap.put s.jrn.pairs Pair.reset p x } }

/-- Unretired items of a pair among records that satisfy a test: stream and sequence number. DEDUCED (log entry 45). -/
def State.lostItems (s : State) (p : Nat) (test : Rec → Bool) : List (Nat × Nat) :=
  ((s.jrn.pair p).recs.filter (fun r =>
    decide (r.typ = 1) && test r && decide ((s.jrn.streamSt r.stream).retired < r.seq))).map (fun r => (r.stream, r.seq))

/-- The lowest lost item of each stream. DEDUCED (log entry 45). -/
def lowest : List (Nat × Nat) → NatMap Nat
  | [] => []
  | (n, q) :: r =>
    let m := lowest r
    match NatMap.find m n with
    | some q' => NatMap.ins m n (min q q')
    | none => NatMap.ins m n q

/-- JOURNAL_MIRROR_LOST with detail bit [3]: one record for each stream that lost an item, which stops at its
lowest lost item; one record with no stream when no item was lost. DEDUCED (log entry 45). -/
def State.journalLost (s : State) (p : Nat) (items : List (Nat × Nat)) : State :=
  match lowest items with
  | [] => s.post Code.journalMirrorLost Source.jrn 0 (8 + p)
  | l => s.forEach l (fun s e =>
      let st := s.jrn.streamSt e.1
      let at_ := match st.lostAt with
        | some q => min q e.2
        | none => e.2
      let s := { s with jrn := { s.jrn with sst := NatMap.put s.jrn.sst StreamSt.reset e.1 { st with lostAt := some at_ } } }
      s.postStream Code.journalMirrorLost Source.jrn e.1 e.2 (8 + p))

/-- A line of the journal region, numbered from the region's first, is lost in both copies. -/
def State.journalLineLost (s : State) (p line : Nat) : State :=
  let x := s.jrn.pair p
  if line < 8192 then (s.setPair p { x with ctlA := { x.ctlA with valid := false } }).journalLost p []
  else if line < 16384 then (s.setPair p { x with ctlB := { x.ctlB with valid := false } }).journalLost p []
  else s.journalLost p (s.lostItems p (fun r => r.holds (line - 16384)))

/-! ### Reading a line (R162, R173, R505) -/

/-- The line can be read where it stands. -/
def State.lineGood (s : State) (k l : Nat) : Bool :=
  s.stkServes k && !((s.stk k).bad.contains l)

/-- What a read of a line gives: the state after it, the bytes, and whether it is poisoned. `src` is the
requester, none for the scrubber. -/
structure LineRead where
  state    : State
  bytes    : List Byte
  poisoned : Bool

/-- SRC_KIND and SOURCE of a reader; the scrubber's is none (R179, R505). -/
def srcCode : Option Src → Nat × Nat
  | some x => x.code
  | none => (3, 0)

/-- Both copies of a line have failed: each stack that can still read its own posts it, and a journal line is lost. -/
def State.bothFailed (s : State) (k addr other : Nat) (src : Option Src) : State :=
  let c := srcCode src
  let r := s.lineType k addr
  let s := if s.stkServes k then s.lineFailed k addr (decide (r = 6)) c.1 c.2 else s
  let s := if s.stkServes (partner k) then s.lineFailed (partner k) other (decide (r ≠ 6)) c.1 c.2 else s
  match s.regionAt k addr 64 with
  | some q => if q.typ = 7 then s.journalLineLost (pairOf k) ((addr - q.lo) / 64) else s
  | none => s

/-- Reads line l of stack k: both codes act; an uncorrectable line, or one of a stack that is down, is served from its
copy, and a line of the stack itself is rewritten from it (R162, R166, R173). A line of no region has no copy.
DEDUCED (log entry 128). -/
def State.readLine (s : State) (k l : Nat) (src : Option Src) : LineRead :=
  let addr := l * 64
  let lost (s : State) : LineRead := ⟨s, List.replicate 64 (0 : Byte), true⟩
  let other := (s.regionAt k addr 64).bind (fun r => s.mirrorAddr k r addr)
  let s := if s.stkServes k then s.correct k l else s
  if s.lineGood k l then ⟨s, (s.stk k).line l, false⟩
  else
    match other with
    | some a =>
      let s := if s.stkServes (partner k) then s.correct (partner k) (a / 64) else s
      if s.lineGood (partner k) (a / 64) then
        let bs := (s.stk (partner k)).line (a / 64)
        if s.stkServes k then
          ⟨(s.noteBad k addr (s.lineType k addr) true).updStk k (fun x => x.writeLine l bs), bs, false⟩
        else ⟨s, bs, false⟩
      else lost (s.bothFailed k addr a src)
    | none =>
      if s.stkServes k then lost (s.lineFailed k addr false (srcCode src).1 (srcCode src).2) else lost s

/-- Reads `n` lines from line l. -/
def State.readLines (s : State) (k : Nat) (src : Option Src) : Nat → Nat → LineRead
  | _, 0 => ⟨s, [], false⟩
  | l, n + 1 =>
    let r := s.readLine k l src
    let q := State.readLines r.state k src (l + 1) n
    ⟨q.state, r.bytes ++ q.bytes, r.poisoned || q.poisoned⟩

/-! ### Writing a line (R161, R162, R173) -/

/-- The copy of a line of a mirrored or snapshot region that its home stack writes (R162). -/
def State.copyAddr (s : State) (k l : Nat) : Option Nat :=
  match s.regionAt k (l * 64) 64 with
  | some r => if r.mirrored then s.mirrorAddr k r (l * 64) else none
  | none => none

/-- A write of a line has somewhere to go: its stack, or the partner's copy. -/
def State.writable (s : State) (k l : Nat) : Bool :=
  s.stkServes k || ((s.copyAddr k l).isSome && s.stkServes (partner k))

/-- Writes a whole line: to the home stack, with a copy that waits to go to the partner where the region is mirrored,
unless the partner is down. With the home stack down a mirrored write goes to the partner alone. -/
def State.writeLine (s : State) (k l : Nat) (bs : List Byte) : State :=
  match s.copyAddr k l with
  | some a =>
    if s.stkServes k then
      s.updStk k (fun x =>
        let x := x.writeLine l bs
        if (s.stk (partner k)).st = .down then x else { x with copies := x.copies ++ [.line l (slice bs 0 64)] })
    else if s.stkServes (partner k) then s.updStk (partner k) (fun x => x.writeLine (a / 64) bs)
    else s
  | none => if s.stkServes k then s.updStk k (fun x => x.writeLine l bs) else s

/-- Writes whole lines from line l; a request that no stack can hold is dropped and counted once (R173, R179). -/
def State.writeLines (s : State) (k l : Nat) (bs : List Byte) (src : Src) : State :=
  if s.writable k l then
    (List.range (ceilDiv bs.length 64)).foldl (fun s i => s.writeLine k (l + i) (slice bs (64 * i) 64)) s
  else s.refuse k src

/-! ### The order of service (R156, R164, R169) -/

/-- The input number of a block port, past those of the edge links, and of the rim ring's mirror copies. -/
def portInput (port : Nat) : Nat := 2 ^ 21 + port
def ringInput : Nat := portInput 64

/-- Two requests have a line in common. -/
def StkReq.meets (q r : StkReq) : Bool :=
  decide (q.addr / 64 < r.addr / 64 + r.lines ∧ r.addr / 64 < q.addr / 64 + q.lines)

def StkReq.lineNos (q : StkReq) : List Nat := (List.range q.lines).map (fun i => q.addr / 64 + i)

/-- The line's channel is not retraining (R169). -/
def Stk.channelFree (x : Stk) (l : Nat) : Bool := decide (x.retraining ≠ some (lineChannel l))

/-- A copy of the line has still to land, and the write that it belongs to is not complete (R162, R163). -/
def Stk.copyWaits (x : Stk) (l : Nat) : Bool :=
  x.copies.any (fun c => match c with
    | .line l' _ => decide (l' = l)
    | .snap _ => false)

/-- Nothing that came before a request keeps it waiting: no earlier request for one of its lines, no copy of them that has
still to land, and no retraining of a channel of theirs. Of two requests for one line the earlier goes first, whatever
their sources. DEDUCED (log entry 129). -/
def Stk.ready (x : Stk) (earlier : List StkReq) (q : StkReq) : Bool :=
  !(earlier.any q.meets) && q.lineNos.all (fun l => x.channelFree l && !(x.copyWaits l))

/-- The requests that are ready, each with its place in the queue. -/
def Stk.readyReqs (x : Stk) : List (Nat × StkReq) :=
  (x.reqs.zipIdx.filter (fun e => x.ready (x.reqs.take e.2) e.1)).map (fun e => (e.2, e.1))

/-- A request finds the row of a line of it open. -/
def Stk.hitsRow (x : Stk) (q : StkReq) (bank row : Nat) : Bool :=
  q.lineNos.any (fun l => decide (lineBank l = bank ∧ lineRow l = row)) && decide (NatMap.find x.openRows bank = some row)

/-- A request may turn the banks of its lines to their rows: a bank serves up to 16 waiting requests to its open row
first (R164). -/
def Stk.mayTurn (x : Stk) (rs : List (Nat × StkReq)) (q : StkReq) : Bool :=
  q.lineNos.all (fun l =>
    match NatMap.find x.openRows (lineBank l) with
    | some row => decide (row = lineRow l ∨ 16 ≤ NatMap.get x.hits 0 (lineBank l)) ||
        !(rs.any (fun e => x.hitsRow e.2 (lineBank l) row))
    | none => true)

/-- How long an input waits in the round of the sources that follows the one served last. -/
def Stk.turn (x : Stk) (input : Nat) : Nat :=
  match x.served with
  | some last => (input + 2 ^ 22 - last - 1) % 2 ^ 22
  | none => input

/-- What a stack serves next in the third class of R164: a request, or the oldest mirror copy from its partner. -/
inductive Pick where
  | req (i : Nat)
  | copy
deriving DecidableEq, Repr

/-- The line of the partner's oldest mirror copy in this stack, if it can land. -/
def State.copyReady (s : State) (k : Nat) : Bool :=
  match (s.stk (partner k)).copies with
  | .line l _ :: _ => match s.copyAddr (partner k) l with
    | some a => (s.stk k).channelFree (a / 64)
    | none => true
  | .snap _ :: _ => true
  | [] => false

/-- The next work of the third class: round by edge link and block port, and of one source its oldest (R164).
DEDUCED (log entry 129). -/
def State.pick (s : State) (k : Nat) : Option Pick :=
  let x := s.stk k
  let rs := x.readyReqs
  let free := rs.filter (fun e => x.mayTurn rs e.2)
  let cands := ((if free.isEmpty then rs else free).map (fun e => (x.turn e.2.input, Pick.req e.1))) ++
    (if s.copyReady k then [(x.turn ringInput, Pick.copy)] else [])
  (cands.foldl (fun b c => match b with
    | some m => if c.1 < m.1 then some c else b
    | none => some c) none).map Prod.snd

/-- The banks of a request's lines hold their rows open. -/
def Stk.opened (x : Stk) (q : StkReq) : Stk :=
  q.lineNos.foldl (fun x l =>
    if NatMap.find x.openRows (lineBank l) = some (lineRow l) then
      { x with hits := NatMap.ins x.hits (lineBank l) (NatMap.get x.hits 0 (lineBank l) + 1) }
    else { x with openRows := NatMap.ins x.openRows (lineBank l) (lineRow l), hits := NatMap.ins x.hits (lineBank l) 1 }) x

/-- A request leaves the queue as it is served. -/
def Stk.taken (x : Stk) (i : Nat) (q : StkReq) : Stk :=
  { (x.opened q) with reqs := dropAt x.reqs i, served := some q.input }

/-! ### Journal lines (R161, R164) -/

/-- A stack can take a journal line now, or is down and takes no part (R173). -/
def State.journalReady (s : State) (p : Nat) : Bool :=
  let up (k : Nat) : Bool := s.stkServes k
  let ready (k : Nat) : Bool := up k || decide ((s.stk k).st = .down)
  ready p && ready (p + 8) && (up p || up (p + 8))

/-- The line of a stack that a log line lies in. -/
def State.logAddr (s : State) (k line : Nat) : Option Nat :=
  (s.regionOf k 7).map (fun r => r.lo / 64 + 16384 + line % logLines)

/-- The channel of a journal line is retraining in a stack of the pair, and the line waits (R169). Which line of a control
block is written next, and so its channel, is open. DESIGN CHOICE (log entry 38). -/
def State.journalHeld (s : State) (p : Nat) (j : JLine) : Bool :=
  match j with
  | .log l _ => [p, p + 8].any (fun k => match s.logAddr k l with
      | some a => s.stkServes k && !((s.stk k).channelFree a)
      | none => false)
  | .ctl _ _ _ => false

/-- A journal line goes to the stack's pair before anything of the third class (R164). -/
def State.journalFirst (s : State) (k : Nat) : Bool :=
  match (NatMap.get s.jrn.pairs Pair.reset (pairOf k)).lineQ with
  | j :: _ => s.journalReady (pairOf k) && !(s.journalHeld (pairOf k) j)
  | [] => false

/-! ### The log as the stacks hold it (R161, R365) -/

/-- Both stacks hold every line of a record. -/
def Pair.holdsRec (x : Pair) (r : Rec) : Bool :=
  x.lineQ.all (fun j => match j with
    | .log l _ => decide (l < r.pos ∨ r.pos + r.lines ≤ l)
    | .ctl _ _ _ => true)

/-- The controller's own marks at the head of what is being written are in the log once both stacks hold them. -/
def settle : Nat → Pair → Pair
  | 0, x => x
  | n + 1, x =>
    match x.writing with
    | (r, none) :: rest =>
      if x.holdsRec r then settle n { x with writing := rest, recs := x.recs ++ [r] } else x
    | _ => x

def Pair.settled (x : Pair) : Pair := settle x.writing.length x

/-- A control block is there: the log's tail is where it says, and freed space ends JOURNAL_FULL (R360, R367). -/
def Pair.withCtl (x : Pair) (a : Bool) (c : Ctl) : Pair :=
  let y := { x with
    tail := c.tail, recs := x.recs.filter (fun r => decide (c.tail ≤ r.pos)), full := x.full && decide (c.tail = x.tail) }
  if a then { y with ctlA := { c with valid := true } } else { y with ctlB := { c with valid := true } }

/-- The pair once both stacks have its next line; a control block is valid when its last line is there (R365). -/
def Pair.lineDone (x : Pair) : Pair :=
  match x.lineQ with
  | [] => x
  | .log _ _ :: rest => { x with lineQ := rest }.settled
  | .ctl a c n :: rest =>
    if n ≤ 1 then
      { x with lineQ := rest }.withCtl a c
    else
      let y := { x with lineQ := .ctl a c (n - 1) :: rest }
      if a then { y with ctlA := { y.ctlA with valid := false } } else { y with ctlB := { y.ctlB with valid := false } }

/-! ### A stack goes down (R170, R173, R300) -/

/-- The models with a shard in the stack become absent (R300). -/
def absentModels (ms : NatMap Model) (k : Nat) : NatMap Model :=
  ms.map (fun (e : Nat × Model) =>
    if e.2.shards.any (fun d => decide (d.stack = k)) && decide (e.2.st = .ready)
    then (e.1, { e.2 with st := .absent }) else e)

/-- A channel goes down, and with it the stack: the journal is carried by the partner alone, or is lost when
the partner is down as well. -/
def State.channelDown (s : State) (k ch : Nat) (byHost : Bool) : State :=
  let first := decide ((s.stk k).st ≠ .down)
  let s := s.updStk k (fun x => { x with chDown := x.chDown ||| BitVec.ofNat 32 (2 ^ ch), st := .down, retraining := none, chHost := if byHost then x.chHost ||| BitVec.ofNat 32 (2 ^ ch) else x.chHost })
  let s := s.post Code.stackChannelDown Source.stk k (k + ch * 2 ^ 4 + b2n byHost * 2 ^ 9)
  let gone := s.ibx.models.filter (fun e => e.2.shards.any (fun d => decide (d.stack = k)) && decide (e.2.st = .ready))
  let s : State := { s with ibx := { s.ibx with
    models := absentModels s.ibx.models k
    lost := s.ibx.lost || (match s.ibx.streaming with
      | some b => gone.any (fun e => decide (e.1 = b.model))
      | none => false) } }
  let s : State := s.forEach gone (fun s e => s.report .modelAbsent e.1)
  if first then
    if (s.stk (partner k)).st = .down then s.journalLost (pairOf k) (s.lostItems (pairOf k) (fun _ => true))
    else s.post Code.journalMirrorLost Source.jrn 0 (pairOf k)
  else s

end Sys2Proof.Machine
end

