-- ==== Sys2Proof/Machine/JrnOps.lean ====
section
/-! DEFINITION. What the journal and the herd transport share: streams and their pairs (R351, R352), when a pair
accepts (R360, R388, R445), log records and the export ring (R366, R389, R470), and sending to another wafer
(R45, R46, R355). -/

namespace Sys2Proof.Machine

def State.stream (s : State) (n : Nat) : Option Stream := NatMap.find s.jrn.streams n

/-- The mirror pair of a stream: that of its target herd's home stack (R352). -/
def State.streamPair (s : State) (n : Nat) : Nat :=
  match s.stream n with
  | some x => pairOf (s.homeStack x.target)
  | none => 0

/-- A pair runs on one stack (R173, R391). -/
def State.pairSingle (s : State) (p : Nat) : Bool :=
  decide ((s.stk p).st = .down) || decide ((s.stk (p + 8)).st = .down)

/-- Whether a pair takes a new item: not at JOURNAL_FULL, not closed for a quiesce, not stopped by
STOP_ON_SINGLE, and a stack is there to hold it. -/
def State.pairTakes (s : State) (p : Nat) : Bool :=
  !(s.jrn.pair p).full && !s.jrn.closed && !(s.pairSingle p && s.rdb Reg.JRN_CTRL_STOP_ON_SINGLE) &&
    !(decide ((s.stk p).st = .down) && decide ((s.stk (p + 8)).st = .down))

/-- An item reaches the journal controller whole (R356). -/
def State.arrive (s : State) (it : Item) : State :=
  let p := s.streamPair it.stream
  let x := s.jrn.pair p
  s.setPair p { x with arriving := x.arriving ++ [it] }

def State.setJrn (s : State) (j : Jrn) : State := { s with jrn := j }

def State.setStreamSt (s : State) (n : Nat) (x : StreamSt) : State :=
  { s with jrn := { s.jrn with sst := NatMap.put s.jrn.sst StreamSt.reset n x } }

/-- The herds of a recovery group that are not DARK (R374). -/
def State.groupHerds (s : State) (g : Nat) : List Nat :=
  (s.herds.filter (fun e => decide (e.2.st ≠ .dark) && decide (s.groupOf e.1 = g))).map Prod.fst

/-! ### Log records (R365, R366) -/

/-- The bytes of a record, padded to whole lines. -/
def Rec.bytes (r : Rec) : List Byte :=
  let head := leBytes 2 0x4A4E ++ leBytes 1 r.typ ++ leBytes 1 r.flags ++ leBytes 2 r.stream ++ leBytes 2 r.herd ++
    leBytes 8 r.seq ++ leBytes 8 r.time.toNat ++ leBytes 4 r.payload.length ++ leBytes 4 r.src ++
    leBytes 8 r.tag.toNat ++ leBytes 8 r.epoch ++ leBytes 12 0
  head ++ leBytes 4 (crc32c (head ++ leBytes 4 0 ++ r.payload)).toNat ++ padTo 64 r.payload

/-- Lines of a record with a payload of n bytes. -/
def recLines (n : Nat) : Nat := 1 + ceilDiv n 64

/-- The log of the pair has room for `n` more lines. -/
def Pair.room (x : Pair) (n : Nat) : Bool := decide (x.head - x.tail + n ≤ logLines)

/-- A record of no item at the log's head; the controller's marks (R363, R372, R385). -/
def State.mark (s : State) (p typ stream herd seq : Nat) : Rec :=
  { typ := typ, flags := 0, stream := stream, herd := herd, seq := seq, time := s.now64, src := 0, tag := 0
    epoch := s.jrn.epoch, payload := [], pos := (s.jrn.pair p).head, lines := 1 }

/-- The lines of a record, from log line `pos` on. -/
def Rec.queue (r : Rec) : List JLine := (List.range r.lines).map (fun i => .log (r.pos + i) (slice r.bytes (64 * i) 64))

/-! ### Export (R389, R470) -/

def State.exports (s : State) : Bool := s.assisted 6 && s.rdb Reg.JRN_CTRL_EXPORT

/-- A PAD record of `n` lines. -/
def padRec (n : Nat) : Rec :=
  { typ := 5, flags := 0, stream := 0, herd := 0, seq := 0, time := 0, src := 0, tag := 0, epoch := 0
    payload := List.replicate (64 * (n - 1)) 0, pos := 0, lines := n }

/-- Writes bytes at PROD of the export ring, and reads nothing of the same page after them (R389). -/
def State.exportPut (s : State) (size : Nat) (bs : List Byte) : State :=
  let prod := s.rd Reg.GLB_EXPORT_PTR_PROD
  let addr := s.rd Reg.GLB_EXPORT_BASE_ADDR * 4096 + prod % size * 64
  let s := (s.emit (.hostWrite addr bs)).emit (.hostProbe addr)
  s.wr Reg.GLB_EXPORT_PTR_PROD ((prod + bs.length / 64) % 2 ^ 32)

/-- Exports the records that wait, as far as there is room; at most `n`. -/
def State.exportFlush : Nat → State → State
  | 0, s => s
  | n + 1, s =>
    match s.jrn.exportQ with
    | [] => s
    | r :: rest =>
      let log := s.rd Reg.GLB_EXPORT_BASE_LOG2_SIZE
      let size := 2 ^ log / 64
      let prod := s.rd Reg.GLB_EXPORT_PTR_PROD
      let free := size - (prod + 2 ^ 32 - s.rd Reg.GLB_EXPORT_PTR_CONS) % 2 ^ 32
      let k := r.length / 64
      let left := size - prod % size
      if log = 0 then s
      else if k ≤ left then
        if k ≤ free then State.exportFlush n ((s.exportPut size r).setJrn { s.jrn with exportQ := rest }) else s
      else if left ≤ free then State.exportFlush n (s.exportPut size (padRec left).bytes) else s

def State.export_ (s : State) : State := State.exportFlush (2 * s.jrn.exportQ.length) s

/-- A record is written: its lines go to both stacks, and to the export ring where records are exported. -/
def State.writeRec (s : State) (p : Nat) (r : Rec) : State :=
  let x := s.jrn.pair p
  let s := s.setPair p { x with head := x.head + r.lines, lineQ := x.lineQ ++ r.queue }
  if s.exports then (s.setJrn { s.jrn with exportQ := s.jrn.exportQ ++ [r.bytes] }).export_ else s

/-- Writes a mark where the log has room, which counts once both stacks hold it (R161); the control block of the next commit holds what it says in any case.
DEDUCED (log entry 82). -/
def State.writeMark (s : State) (p typ stream herd seq : Nat) : State :=
  if (s.jrn.pair p).room 1 then
    let r := s.mark p typ stream herd seq
    let s := s.writeRec p r
    s.setPair p { s.jrn.pair p with writing := (s.jrn.pair p).writing ++ [(r, none)] }
  else s

/-! ### Sending to another wafer (R45, R46, R355) -/

/-- The next port that is up after one, in ascending order and round (R355). -/
def State.nextPort (s : State) (m : Nat) : Option Nat :=
  ((List.range 16).map (fun i => (m + 1 + i) % 16)).find? (fun n => (s.mac n).up)

/-- The herd transport is on (R353). -/
def State.htOn (s : State) : Bool := decide (s.jrn.htAddr ≠ 0)

def State.peer (s : State) (w : Nat) : Peer := NatMap.get s.jrn.peers Peer.reset w

def State.setPeer (s : State) (w : Nat) (p : Peer) : State :=
  { s with jrn := { s.jrn with peers := NatMap.put s.jrn.peers Peer.reset w p } }

/-- The port a message takes: the lowest that is up; 16 when none is, until one comes up. DEDUCED (log entry 77). -/
def State.htTakes (s : State) : Nat := (s.nextPort 15).getD 16

/-- The stream of the herd transport that a message belongs to (R45): the work stream, the group, the wafers' own control
messages, or the relayed image. DEDUCED (log entry 106). -/
def htChan : HtBody → Nat
  | .work n _ _ _ => n.val
  | .collPart g _ => groupChan g.val
  | .collTree g _ _ _ => groupChan g.val
  | .collGather g _ _ => groupChan g.val
  | .image _ _ => 4161
  | _ => 4160

/-- Puts a message into the herd transport class of a port (R229); none while no port is up. -/
def State.htQueue (s : State) (m : Nat) (msg : HtMsg) : State :=
  if m < 16 then s.updMac m (fun x => { x with ht := x.ht ++ [.msg msg] }) else s

/-- Sends a sequenced message: it takes the next number of its stream and stays unacknowledged until the peer answers.
DEDUCED (log entry 106). -/
def State.htSend (s : State) (w : Fin 256) (body : HtBody) : State :=
  let p := s.peer w.val
  let c := htChan body
  let q := NatMap.get p.txSeq 1 c
  let msg : HtMsg := { peer := w, seq := BitVec.ofNat 64 q, body := body }
  let m := s.htTakes
  (s.setPeer w.val { p with txSeq := NatMap.ins p.txSeq c (q + 1), unacked := p.unacked ++ [(m, msg)] }).htQueue m msg

/-- Sends an acknowledgement; the message's number is `seq`. -/
def State.htAnswer (s : State) (w : Fin 256) (seq : Word) (body : HtBody) : State :=
  s.htQueue s.htTakes { peer := w, seq := seq, body := body }

/-- Acknowledges a message, with the receiver's epoch (R375). DEDUCED (log entry 106). -/
def State.htAck (s : State) (m : HtMsg) : State := s.htAnswer m.peer (BitVec.ofNat 64 s.jrn.epoch) (.ack (htChan m.body) m.seq)

/-- Where credits owed to a peer are kept: by peer, and by the herd whose engine is full; 1,024 is the wafer's own. -/
def owedKey (w h : Nat) : Nat := w * 2048 + h

/-- Bytes that the engine of a herd controller buffers (R140, R149). -/
def State.engineUsed (s : State) (h : Nat) : Nat :=
  let early := s.mesh.early.foldl (fun a e => match NatMap.find s.mesh.groups e.2.1 with
    | some g => if g.sender = h then a + 8 * e.2.2.length else a
    | none => a) 0
  let nodes := s.mesh.nodes.foldl (fun a n => if n.herd = h then a + 4 * n.values.length else a) early
  s.mesh.gathers.foldl (fun a g => if g.herd = h then a + 8 * g.words.length else a) nodes

/-- The engine's buffer of 256 KiB is full. -/
def State.engineFull (s : State) (h : Nat) : Bool := decide (h < 1024 ∧ 262144 ≤ s.engineUsed h)

/-- Owes a peer credits. -/
def State.owe (s : State) (w h n : Nat) : State :=
  { s with mesh := { s.mesh with owed := NatMap.put s.mesh.owed 0 (owedKey w h) (NatMap.get s.mesh.owed 0 (owedKey w h) + n) } }

/-- A load holds the credits of the image relay back (R196), and a full engine those of its collectives (R149). Key 1,025
stands for the relay. -/
def State.holdsCredits (s : State) (h : Nat) : Bool := s.engineFull h || (decide (h = 1025) && s.loadBusy)

/-- Returns a credit to a peer, or owes it while it is held back or no port is up. -/
def State.giveCredit (s : State) (w : Fin 256) (h : Nat) : State :=
  if s.holdsCredits h || decide (16 ≤ s.htTakes) then s.owe w.val h 1 else s.htAnswer w 0 (.credit 1)

/-- Returns the credits that nothing holds back any more. -/
def State.returnOwed (s : State) : State :=
  s.forEach s.mesh.owed (fun s e =>
    let w := e.1 / 2048
    if hw : w < 256 then
      if s.holdsCredits (e.1 % 2048) || decide (16 ≤ s.htTakes) then s
      else ({ s with mesh := { s.mesh with owed := NatMap.del s.mesh.owed e.1 } }).htAnswer ⟨w, hw⟩ 0 (.credit e.2)
    else s)

/-- A message that needs a credit takes it. DEDUCED (log entry 77). -/
def State.takeCredit (s : State) (w : Nat) : State :=
  s.setPeer w { s.peer w with credits := (s.peer w).credits - 1 }

/-- The wafer's role: 0 standalone, 1 manager, 2 worker (R43). -/
def State.role (s : State) : Nat :=
  match s.img.committed with
  | some c => c.role
  | none => 0

/-- The messages of a test that are not acknowledged go to a port, which sends them again; 16 keeps them until a port
comes up (R355). -/
def State.htGoes (s : State) (m : Nat) (which : Nat → Bool) : State :=
  let msgs := s.jrn.peers.flatMap (fun (e : Nat × Peer) => (e.2.unacked.filter (fun u => which u.1)).map Prod.snd)
  let s := { s with jrn := { s.jrn with peers := s.jrn.peers.map (fun (e : Nat × Peer) =>
    (e.1, { e.2 with unacked := e.2.unacked.map (fun (u : Nat × HtMsg) => if which u.1 then (m, u.2) else u) })) } }
  s.forEach msgs (fun s msg => s.htQueue m msg)

/-- A port that comes up takes over the messages of ports that are not. DEDUCED (log entry 77). -/
def State.htAdopt (s : State) (m : Nat) : State := s.htGoes m (fun u => decide (u ≠ m) && !(s.mac u).up)

/-- The other wafers of a group. -/
def State.otherWafers (s : State) (g : Group) : List Nat :=
  ((g.members.map (fun m => m / 1024)).eraseDups).filter (fun w => decide (w ≠ s.waferIndex))

/-- Wafer numbers as peers. -/
def peersOf (l : List Nat) : List (Fin 256) := l.filterMap (fun w => if h : w < 256 then some ⟨w, h⟩ else none)

/-! ### What the journal's steps may change -/

/-- A step of the journal or the herd transport may change what a herd step may, the rings and the frame MACs;
nothing else. -/
def actJrn (f : State → State) (s : State) : Result :=
  let t := f s
  .next { s with regs := t.regs, tiles := t.tiles, herds := t.herds, mesh := t.mesh, stks := t.stks
                 snaps := t.snaps, macs := t.macs, jrn := t.jrn, bru := t.bru, flt := t.flt, host := t.host, io := t.io }

end Sys2Proof.Machine
end

