-- ==== Sys2Proof/Machine/LoadOps.lean ====
section
/-! DEFINITION. What a load writes into herds and routers (R133, R143, R187 to R190, R197): herd sections from an
image or a resident entry, route overrides with the fill of transit routers, and collective groups. -/

namespace Sys2Proof.Machine

/-! ### Sections (R182, R184) -/

namespace SecType
def mgmtFw : Nat := 0x0001
def role : Nat := 0x0002
def modes : Nat := 0x0003
def partitionMap : Nat := 0x0004
def routeTables : Nat := 0x0005
def routeLocal : Nat := 0x0006
def bcastTrees : Nat := 0x0007
def tilePrograms : Nat := 0x0008
def commonTileFw : Nat := 0x0009
def herdSeq : Nat := 0x000A
def tileInit : Nat := 0x000B
def collectiveGroups : Nat := 0x000C
def journalStreams : Nat := 0x000D
def powerPolicy : Nat := 0x000E
def bringupScript : Nat := 0x000F
def macConfig : Nat := 0x0010
def queueMap : Nat := 0x0011
def timeConfig : Nat := 0x0012
def parseProgram : Nat := 0x0013
def ensemble : Nat := 0x0014
def ibexTrees : Nat := 0x0015
def registerInit : Nat := 0x0016
end SecType

/-- The payload of the section of a type and instance. -/
def sectOf (l : List Sect) (typ inst : Nat) : Option (List Byte) :=
  (l.find? (fun x => decide (x.typ = typ ∧ x.inst = inst))).map Sect.payload

/-- A section's CRC still matches its payload (R201). -/
def Sect.crcOk (x : Sect) : Bool := decide (crc32c x.payload = x.crc)

/-- A table of 4-bit entries from byte `a`: entry i in bits [4i + 3:4i] of the run (R187). -/
def nibbles (bs : List Byte) (a n : Nat) : NatMap Nat :=
  (List.range n).map (fun i => (i, (nthD bs (a + i / 2) 0).toNat / 16 ^ (i % 2) % 16))

/-! ### Route overrides (R133, R187) -/

/-- A transit router: a working router whose position holds no logical tile. -/
def State.transit (s : State) (px py : Nat) : Bool := (s.tileAt px py).isNone && !(s.bypassed px py)

/-- The transit routers that lie straight through from a logical router by an output, in order; bypassed routers
are passed over. -/
def State.through (s : State) (out : Nat) : Nat → Nat → Nat → List (Nat × Nat)
  | 0, _, _ => []
  | n + 1, px, py =>
    match neighbour px py out with
    | none => []
    | some (x, y) =>
      if s.bypassed x y then State.through s out n x y
      else if s.transit x y then (x, y) :: State.through s out n x y
      else []

/-- What a table of a logical router fills into transit routers: router key, destination, output. `own` keeps the
fill in the router's physical herd, for a local table. -/
def State.tableFills (s : State) (px py : Nat) (own : Bool) (tab : NatMap Nat) : List (Nat × Nat × Nat) :=
  tab.flatMap (fun (e : Nat × Nat) =>
    if e.2 % 8 < 4 then
      ((s.through (e.2 % 8) 1100 px py).filter (fun q => !own || decide (pherdAt q.1 q.2 = pherdAt px py))).map
        (fun q => (routerKey q.1 q.2, e.1, e.2 % 8))
    else [])

/-- The side opposite an output. -/
def opposite (out : Nat) : Nat := (out + 2) % 4

/-- What a broadcast entry of a logical router fills: router key, tree, entry. -/
def State.treeFills (s : State) (px py tree entry : Nat) : List (Nat × Nat × Nat) :=
  (List.range 4).flatMap (fun o =>
    if bit entry o then
      (s.through o 1100 px py).map (fun q => (routerKey q.1 q.2, tree, 2 ^ o + 32 * opposite o))
    else [])

/-- Two fills give one router different entries for one destination or tree. -/
def fillsClash (l : List (Nat × Nat × Nat)) : Bool :=
  l.any (fun a => l.any (fun b => decide (a.1 = b.1 ∧ a.2.1 = b.2.1 ∧ a.2.2 ≠ b.2.2)))

def State.updRouter (s : State) (key : Nat) (f : Router → Router) : State :=
  s.setRouter (key % 1089) (key / 1089) (f (s.router (key % 1089) (key / 1089)))

/-- A ROUTE_TABLES record names the router of a logical tile: its physical position, herd table and edge table. -/
structure TableRec where
  px   : Nat
  py   : Nat
  herd : NatMap Nat
  edge : NatMap Nat

def State.tableRec (s : State) (r : List Byte) : TableRec :=
  let w := fld r 0 4
  let p := s.physOf (tileKey (bits w 9 0) (bits w 19 10))
  { px := p.1, py := p.2, herd := nibbles r 8 1024, edge := nibbles r 520 64 }

/-- ROUTE_TABLES: the overrides, then the fills. -/
def State.applyRouteTables (s : State) (payload : List Byte) : State :=
  let rs := (recsOf 552 payload).map s.tableRec
  let s' : State := s.forEach rs (fun s r => s.updRouter (routerKey r.px r.py) (fun x => { x with herdTab := r.herd, edgeTab := r.edge }))
  s'.forEach (rs.flatMap (fun r => s.tableFills r.px r.py false r.herd)) (fun s f =>
    s.updRouter f.1 (fun x => { x with herdTab := NatMap.ins x.herdTab f.2.1 f.2.2 }))

/-- A ROUTE_LOCAL record of herd h: physical position and local table. -/
def State.localRec (s : State) (h : Nat) (r : List Byte) : (Nat × Nat) × NatMap Nat :=
  let pos := fld r 0 2
  (s.physOf (tileKey (h % 32 * 32 + pos % 32) (h / 32 * 32 + pos / 32)), nibbles r 8 1024)

def State.applyRouteLocal (s : State) (h : Nat) (payload : List Byte) : State :=
  let rs := (recsOf 520 payload).map (s.localRec h)
  let s' : State := s.forEach rs (fun s r => s.updRouter (routerKey r.1.1 r.1.2) (fun x => { x with localTab := r.2 }))
  s'.forEach (rs.flatMap (fun r => s.tableFills r.1.1 r.1.2 true r.2)) (fun s f =>
    s.updRouter f.1 (fun x => { x with localTab := NatMap.ins x.localTab f.2.1 f.2.2 }))

/-- A BCAST_TREES record: physical position, tree, entry. -/
def State.treeRec (s : State) (r : List Byte) : (Nat × Nat) × Nat × Nat :=
  let w := fld r 0 4
  (s.physOf (tileKey (bits w 9 0) (bits w 19 10)), bits w 21 20, bits w 31 24)

/-- Writes the broadcast entry of a router for a tree. -/
def State.putTree (s : State) (key tree e : Nat) : State :=
  s.updRouter key (fun x => { x with bcast := NatMap.put x.bcast 0 tree e })

def State.applyBcast (s : State) (payload : List Byte) : State :=
  s.forEach ((recsOf 4 payload).map s.treeRec) (fun s r => s.putTree (routerKey r.1.1 r.1.2) r.2.1 r.2.2)

/-- Local tables and broadcast entries of a physical herd's routers go back to what the generator gives. -/
def State.clearHerdRoutes (s : State) (ph : Nat) : State :=
  let rs : NatMap Router := NatMap.mapIf Router.reset (fun k => decide (herdOfPos k = ph))
    (fun r => { r with localTab := [], bcast := [] }) s.mesh.routers
  { s with mesh := { s.mesh with routers := rs } }

/-- The router of a key holds a logical tile. -/
def State.holdsTile (s : State) (key : Nat) : Bool := (s.tileAt (key % 1089) (key / 1089)).isSome

/-- What the broadcast entries of the logical routers that pass a test fill into transit routers. -/
def State.standingFills (s : State) (sel : Nat → Bool) : List (Nat × Nat × Nat) :=
  (s.mesh.routers.filter (fun e => sel e.1 && s.holdsTile e.1)).flatMap (fun e =>
    e.2.bcast.flatMap (fun t => s.treeFills (e.1 % 1089) (e.1 / 1089) t.1 t.2))

/-- The broadcast entries of the transit routers: those that the logical routers' entries fill, and no other (R133). -/
def State.refillTrees (s : State) : State :=
  let rs : NatMap Router := NatMap.mapIf Router.reset (fun k => !(s.holdsTile k)) (fun r => { r with bcast := [] }) s.mesh.routers
  State.forEach { s with mesh := { s.mesh with routers := rs } } (s.standingFills (fun _ => true)) (fun s f => s.putTree f.1 f.2.1 f.2.2)

/-! ### Tile programs, sequence and initial values (R143, R188, R189) -/

/-- The program of a map byte, if the tile gets one. -/
def programOf (payload fw : List Byte) (m : Nat) : Option (List Byte) :=
  if m = 0xFE then none
  else if m = 0xFF then some fw
  else
    let d := 1032 + 8 * m
    some (slice payload (fld payload d 4) (fld payload (d + 4) 4))

/-- TILE_PROGRAMS: each tile's program SRAM, written whole, so that no word of it is wrong any more (R53); a tile without a
program stays halted. -/
def State.applyPrograms (s : State) (h : Nat) (payload : Option (List Byte)) : State :=
  match payload with
  | none => s.mapTiles h (fun t => { t with prog := [], hasProg := false, bad := t.bad.filter (fun e => decide (e.1 < sramWords)) })
  | some bs =>
    s.forEach (List.range 1024) (fun s pos =>
      let p := programOf bs s.bru.fw (nthD bs (8 + pos) 0).toNat
      s.updTile (tileKey (h % 32 * 32 + pos % 32) (h / 32 * 32 + pos / 32)) (fun t =>
        { t with prog := Mem.write [] 0 (p.getD []), hasProg := p.isSome, bad := t.bad.filter (fun e => decide (e.1 < sramWords)) }))

/-- The words of a HERD_SEQ section. -/
def seqWords (bs : List Byte) : List (BitVec 32) := (recsOf 4 bs).map (fun r => BitVec.ofNat 32 (leNat r))

/-- A herd controller's part of a load: RESET_TILES, then the herd's sections; LOADED (R197, R204).
DEDUCED (log entry 68). -/
def State.loadHerd (s : State) (h : Nat) (sects : List Sect) : State :=
  let s := s.clearTiles h
  let s := s.applyPrograms h (sectOf sects SecType.tilePrograms h)
  let s := s.clearHerdRoutes (s.pherd h)
  let s := match sectOf sects SecType.routeLocal h with
    | some p => s.applyRouteLocal h p
    | none => s
  let s := match sectOf sects SecType.bcastTrees h with
    | some p => s.applyBcast p
    | none => s
  let s := s.refillTrees
  let seq := match sectOf sects SecType.herdSeq h with
    | some p => seqWords p
    | none => []
  let s := s.updHerd h (fun x =>
    { x with seq := seq, seqPos := if seq.isEmpty then none else some 0, timer := false, barrier := none
             hasProg := (sectOf sects SecType.tilePrograms h).isSome
             init := (sectOf sects SecType.tileInit h).getD [] })
  match sectOf sects SecType.tileInit h with
  | some p => s.applyInit h p
  | none => s

/-! ### Collective groups (R190) -/

/-- The records of COLLECTIVE_GROUPS: head and members, at most n. -/
def groupRecs : Nat → List Byte → List (List Byte)
  | 0, _ => []
  | n + 1, bs =>
    if bs.isEmpty then []
    else
      let total := roundUp (16 + 4 * fld bs 4 4) 8
      bs.take total :: groupRecs n (bs.drop total)

def groupOfRec (r : List Byte) : Group :=
  { tree := fld r 1 1, chunk := fld r 2 1, members := (List.range (fld r 4 4)).map (fun i => fld r (16 + 4 * i) 4)
    sender := fld r 8 2 }

def State.applyGroups (s : State) (payload : List Byte) : State :=
  s.forEach (groupRecs payload.length payload) (fun s r =>
    { s with mesh := { s.mesh with groups := NatMap.ins s.mesh.groups (fld r 0 1) (groupOfRec r) } })

end Sys2Proof.Machine
end

