-- ==== Sys2Proof/Machine/Resident.lean ====
section
/-! DEFINITION. The resident copies of an image in the image stores (R197, R201, R377): their layout, writing and reading them,
and a herd's reload from its resident entry. -/

namespace Sys2Proof.Machine

/-! ### Layout. DESIGN CHOICE (log entry 66) -/

/-- Where stack k's copy begins: its image store. -/
def State.copyBase (s : State) (k : Nat) : Option Nat := (s.regionOf k 4).map Region.lo

/-- Where it must end: the image store's end, in STK0 the staging area. -/
def State.copyEnd (s : State) (k : Nat) : Nat :=
  let hi := ((s.regionOf k 4).map Region.hi).getD 0
  if k = 0 then min hi stagingBase else hi

/-- A validity word that is set, in a line of its own. -/
def validLine : List Byte := leBytes 64 1

/-- Pads to whole lines. -/
def padLines (bs : List Byte) : List Byte := bs ++ List.replicate (roundUp bs.length 64 - bs.length) 0

/-- Sections one after another, each at a line of its own, from an offset on. -/
def placeSects : Nat → List Sect → List ResSect
  | _, [] => []
  | off, x :: xs =>
    { typ := x.typ, scope := x.scope, inst := x.inst, off := off, size := x.payload.length, crc := x.crc } ::
      placeSects (off + roundUp x.payload.length 64) xs

/-- Their bytes. -/
def sectBytes (l : List Sect) : List Byte := l.flatMap (fun x => padLines x.payload)

/-- What every copy begins with, after its validity word: the digest, the header, the section table and the signature block.
-/
def Image.front (g : Image) : List Byte :=
  padLines (leBytes 64 g.digest.toNat) ++ padLines g.head ++ padLines g.table ++ padLines g.sig

/-- The wafer-scope and port-scope sections. -/
def Image.common (g : Image) : List Sect := g.sects.filter (fun x => decide (x.scope = 0 ∨ x.scope = 2))

/-- The herd sections by herd. -/
def Image.herdSects (g : Image) : NatMap (List Sect) :=
  (List.range 1024).filterMap (fun h =>
    match g.sects.filter (fun x => decide (x.scope = 1 ∧ x.inst = h)) with
    | [] => none
    | l => some (h, l))

/-- The first place at or above an offset for `n` bytes beside the entries that are there. -/
def fitEntry (taken : List ResEntry) (n lo : Nat) : Nat :=
  let free (a : Nat) : Bool := taken.all (fun e => decide (e.off + e.len ≤ a ∨ a + n ≤ e.off))
  let ends := taken.map (fun e => e.off + e.len)
  (ends.filter (fun a => decide (lo ≤ a) && free a)).foldl min (if free lo then lo else ends.foldl max lo)

/-- The entries of the herds whose home stack is k, but for herd h's. -/
def State.entriesOf (s : State) (k h : Nat) : List ResEntry :=
  (s.img.herdRes.filter (fun e => decide (e.1 ≠ h) && decide (s.homeStack e.1 = k))).map Prod.snd

/-! ### Writing -/

/-- Writes bytes at an offset of stack k's copy. -/
def State.putCopy (s : State) (k off : Nat) (bs : List Byte) : State :=
  match s.copyBase k with
  | some base => if s.stkServes k = true ∧ base + off + bs.length ≤ s.copyEnd k then
      s.writeLines k ((base + off) / 64) bs (.block imagePort) else s
  | none => s

/-- The stack's copy of a whole image, but for its herd entries: the validity word is cleared before the rest and set after
it; a copy that does not fit stays without it. -/
def State.writeCopy (s : State) (g : Image) (k : Nat) : State :=
  let body := g.front ++ sectBytes g.common
  let s := s.putCopy k 0 (List.replicate 64 0)
  if (s.copyBase k).any (fun base => decide (base + 64 + body.length ≤ s.copyEnd k)) then (s.putCopy k 64 body).putCopy k 0 validLine
  else s

/-- Herd h's entry takes its place in its home stack's copy, and is written there with its validity word. -/
def State.writeEntry (s : State) (h : Nat) (l : List Sect) : State :=
  let k := s.homeStack h
  let bs := sectBytes l
  let off := fitEntry (s.entriesOf k h) (64 + bs.length) s.img.fixed
  let s : State := { s with img := { s.img with
    herdRes := NatMap.put s.img.herdRes ResEntry.none h { off := off, len := 64 + bs.length, sects := placeSects (off + 64) l } } }
  let s := s.putCopy k off (List.replicate 64 0)
  if (s.copyBase k).any (fun base => decide (base + off + 64 + bs.length ≤ s.copyEnd k)) then (s.putCopy k (off + 64) bs).putCopy k off validLine
  else s

/-- COMMIT writes the resident copies (R197, R201). -/
def State.storeResident (s : State) (g : Image) : State :=
  let start := 64 + g.front.length
  let s : State := { s with img := { s.img with
    resident := placeSects start g.common, fixed := start + (sectBytes g.common).length, herdRes := [] } }
  let s := s.forEach (List.range 16) (fun s k => s.writeCopy g k)
  s.forEach g.herdSects (fun s e => s.writeEntry e.1 e.2)

/-! ### Reading -/

/-- Reads lines up to the first uncorrectable one. -/
def State.readUntil (s : State) (k : Nat) (src : Option Src) : Nat → Nat → LineRead
  | _, 0 => ⟨s, [], false⟩
  | l, n + 1 =>
    let r := s.readLine k l src
    if r.poisoned then r
    else
      let q := State.readUntil r.state k src (l + 1) n
      ⟨q.state, r.bytes ++ q.bytes, q.poisoned⟩

/-- Reads `n` bytes at an offset of stack k's copy; a stack with no image store has none. -/
def State.readCopy (s : State) (k off n : Nat) : LineRead :=
  match s.copyBase k with
  | some base =>
    let r := s.readUntil k (some (.block imagePort)) ((base + off) / 64) (ceilDiv n 64)
    ⟨r.state, r.bytes.take n, r.poisoned⟩
  | none => ⟨s, [], true⟩

/-- A validity word reads as set. -/
def State.copyValid (s : State) (k off : Nat) : Bool :=
  let r := s.readCopy k off 64
  !r.poisoned && decide (r.bytes = validLine)

/-- What reading sections of a copy finds: the state, the sections, and the TYPE of the first that is damaged. -/
structure SectsRead where
  state : State
  sects : List Sect
  bad   : Option Nat

/-- Reads sections of stack k's copy, each with its CRC check, up to the first damaged one. -/
def State.readSects (s : State) (k : Nat) : List ResSect → SectsRead
  | [] => ⟨s, [], none⟩
  | e :: es =>
    let r := s.readCopy k e.off e.size
    let x : Sect := { typ := e.typ, scope := e.scope, inst := e.inst, payload := r.bytes, crc := e.crc }
    if r.poisoned = true ∨ x.crcOk = false then ⟨r.state, [], some e.typ⟩
    else
      let q := State.readSects r.state k es
      ⟨q.state, x :: q.sects, q.bad⟩

/-- Stack k's copy has its validity word and the committed image's digest. -/
def State.copyOk (s : State) (k : Nat) : Bool :=
  s.copyValid k 0 && (match s.img.committed with
    | some c =>
      let r := s.readCopy k 64 64
      !r.poisoned && decide (r.bytes = leBytes 64 c.digest.toNat)
    | none => false)

/-- Stacks that serve. -/
def State.serving (s : State) : List Nat := (List.range 16).filter (fun k => s.stkServes k)

/-- The wafer and port sections as the first good copy holds them. -/
def State.residentSects (s : State) : List Sect :=
  match s.serving.find? (fun k => s.copyOk k) with
  | some k => (s.readSects k s.img.resident).sects
  | none => []

/-- The payload of a resident wafer or port section. -/
def State.residentSect (s : State) (typ inst : Nat) : Option (List Byte) :=
  match s.serving.find? (fun k => s.copyOk k) with
  | some k => sectOf (s.readSects k (s.img.resident.filter (fun e => decide (e.typ = typ ∧ e.inst = inst)))).sects typ inst
  | none => none

/-- A herd's sections from its home stack, as its controller reads them: none with the TYPE of a damaged one, or 0 where the
entry's validity word is clear. A herd with no section has no entry. -/
def State.herdEntry (s : State) (h : Nat) : SectsRead :=
  let e := NatMap.get s.img.herdRes ResEntry.none h
  let k := s.homeStack h
  if e.sects.isEmpty then ⟨s, [], none⟩
  else if s.copyValid k e.off then s.readSects k e.sects
  else ⟨(s.readCopy k e.off 64).state, [], some 0⟩

/-- A reload that found a damaged section of a TYPE, or 0 for a validity word: the herd is FAULTED with IMAGE_CRC, whatever
it was FAULTED with before (R201). -/
def State.reloadBad (s : State) (h typ : Nat) : State :=
  ((s.updHerd h (fun x => { x with fault := Code.imageCrc, stackFault := false })).faultState h Code.imageCrc false).post Code.imageCrc Source.img 0 (0x04 + 0xFFFF * 2 ^ 16 + h * 2 ^ 32 + typ * 2 ^ 48)

/-- A herd's reload from its resident entry (R201, R377): a damaged section, or an entry whose validity word is
clear, leaves the herd FAULTED with IMAGE_CRC. -/
def State.reloadHerd (s : State) (h : Nat) : State :=
  let r := s.herdEntry h
  match r.bad with
  | none => r.state.loadHerd h r.sects
  | some typ => r.state.reloadBad h typ

end Sys2Proof.Machine
end

