-- ==== Sys2Proof/Machine/RecOps.lean ====
section
/-! DEFINITION. Recovery (R373, R376 to R382, R384, R388, R480): isolating a group, applying a spare choice, what
EXHAUSTED does, restoring a group, and the end of a recovery. -/

namespace Sys2Proof.Machine

def State.updFlt (s : State) (f : Flt → Flt) : State := { s with flt := f s.flt }

def fltCmd (op arg : Nat) : QCmd := { src := .fault, op := op, arg := arg, still := [] }

/-- TAKEN and OUTSEQ of the released herds of a group (R377). -/
def State.groupMarks (s : State) (g : Nat) : List (Nat × NatMap Nat × Nat) :=
  ((s.groupHerds g).filter (fun h => decide ((s.herd h).st ≠ .loaded ∧ (s.herd h).st ≠ .reshaping))).map
    (fun h => (h, (s.herd h).taken, (s.herd h).outseq))

/-- HALT goes to every herd of a group, ahead of all else (R140, R377). -/
def State.haltGroup (s : State) (g : Nat) : State := s.forEach (s.groupHerds g) (fun s h => s.herdCmd h (fltCmd 2 0))

/-- DETECT has found an element of herd h: the group is isolated and the failed herd FAULTED. A second fault of
the group keeps the marks of the first (R377, R388). -/
def State.isolate (s : State) (h : Nat) (f : Failed) : State :=
  let g := s.groupOf h
  let again := decide (s.flt.st ≠ .idle)
  let marks := if again then s.flt.atFault else s.groupMarks g
  let s := s.haltGroup g
  let code := if (s.herd h).fault ≠ 0 then (s.herd h).fault else Code.tileHandshakeTimeout
  let s := s.faultHerd h code false
  let s : State := { s with bru := { s.bru with failed := s.bru.failed ++ [f] } }
  s.updFlt (fun x => { x with
    st := .decide, herd := h, group := g, atFault := marks, choice := none, stop := false, moveTo := none
    failed := if again then x.failed ++ [f] else [f]
    reload := if again then x.reload ++ (if h ∈ x.reload then [] else [h]) else [h] })

/-- Every probe answers: the herd is FAULTED with its code and nothing moves (R376). -/
def State.stalled (s : State) (h : Nat) : State :=
  let code := if (s.herd h).fault ≠ 0 then (s.herd h).fault else Code.tileHandshakeTimeout
  s.faultHerd h code false

/-- A fault reaches the recovery. One recovery runs at a time; once no reserve is left nothing is recovered
until the next whole load (R377, R381). DEDUCED (log entry 89). -/
def State.detect (s : State) (h : Nat) (found : Option Failed) : State :=
  match found with
  | none => s.stalled h
  | some f =>
    if s.flt.st = .idle then s.isolate h f
    else if s.flt.st = .exhausted then s.stalled h
    else if s.flt.group = s.groupOf h then s.isolate h f
    else s.updFlt (fun x => { x with queue := x.queue ++ [(h, some f)] })

/-- A herd reset clears the herd's tiles and starts the RELOAD of the herd and the RESTORE and REPLAY of its group
(R479); one of a group under recovery joins it, and one of another group waits (R480). -/
def State.startReset (s : State) (h : Nat) : State :=
  let g := s.groupOf h
  if s.flt.st = .idle then
    let marks := s.groupMarks g
    let s := (s.haltGroup g).clearTiles h
    s.updFlt (fun x => { x with
      st := .reload, herd := h, group := g, atFault := marks, choice := none, stop := false, failed := []
      reload := [h], moveTo := none, byReset := true })
  else if s.flt.group = g ∧ s.flt.st ≠ .exhausted then
    let late := decide (s.flt.st = .restore ∨ s.flt.st = .replay ∨ s.flt.st = .resume)
    let s := s.clearTiles h
    s.updFlt (fun x => { x with
      reload := if h ∈ x.reload then x.reload else x.reload ++ [h], byReset := true
      st := if late then .reload else x.st })
  else if s.flt.st = .exhausted then s.clearTiles h
  else s.updFlt (fun x => { x with queue := x.queue ++ [(h, none)], byReset := true })

/-- The recovery ends; a fault that waits in DETECT, or a herd reset that waits, goes on. DEDUCED (log entry 89). -/
def State.fltDone (s : State) : State :=
  let q := s.flt.queue
  let s := s.updFlt (fun x => { x with
    st := .idle, failed := [], reload := [], choice := none, stop := false, atFault := [], moveTo := none, missed := []
    byReset := x.queue.any (fun e => decide (e.2 = none)) })
  match q with
  | [] => s
  | (h, none) :: rest => (s.updFlt (fun x => { x with queue := rest })).startReset h
  | (h, some f) :: rest => (s.updFlt (fun x => { x with queue := rest })).detect h (some f)

/-! ### Restoring a group (R372, R373) -/

/-- The release state of a herd: RESET_TILES, the resident sections, and the recorded TAKEN and OUTSEQ. -/
def State.restoreRelease (s : State) (h : Nat) : State :=
  (s.reloadHerd h).updHerd h (fun x => { x with taken := x.relTaken, outseq := x.relOutseq })

/-- Restores herds of group g: each that has committed since its release from the newest committed epoch, another to
its release state; a group whose snapshots cannot be read goes to FAULTED, and the answer says whether it was restored
(R204, R372, R373, R388). -/
def State.restoreGroup (s : State) (g : Nat) (hs : List Nat) : State × Bool :=
  let e := NatMap.get s.jrn.committed 0 g
  if hs.all (fun h => !(s.herd h).committed || s.snapReadable h e) then
    (s.forEach hs (fun s h => if (s.herd h).committed then s.restoreFrom h (s.snap (snapKey h e)) else s.restoreRelease h), true)
  else (s.forEach hs (fun s h => s.faultHerd h Code.journalMirrorLost false), false)

/-! ### No spare left (R381) -/

/-- REMAP_EXHAUSTED: the group is restored to its newest committed snapshot and left HALTED. DEDUCED (log entry 88). -/
def State.exhaust (s : State) : State :=
  let p := (s.flt.failed.head?.map Failed.at_).getD ⟨0, 0⟩
  let hs := s.flt.atFault.map Prod.fst
  let s := s.exhausted s.flt.herd p.x p.y
  let s := (s.restoreGroup s.flt.group hs).1
  s.updFlt (fun x => { x with st := .exhausted, choice := none, stop := false, failed := [], reload := [] })

/-! ### The choice (R378, R382) -/

/-- Goes to the state that carries the choice out; a move with no reserve herd left exhausts. -/
def State.applyChoice (s : State) (c : Choice) : State :=
  let s := s.updFlt (fun x => { x with choice := some c, stop := false })
  match c with
  | .move => if s.reserveNext.isSome then s.updFlt (fun x => { x with st := .move }) else s.exhaust
  | _ => s.updFlt (fun x => { x with st := .remap })

/-- After an element has been dealt with: the next one, or RELOAD. -/
def State.fltNext (s : State) : State :=
  let rest := s.flt.failed.drop 1
  s.updFlt (fun x => { x with failed := rest, choice := none, st := if rest.isEmpty then .reload else .decide })

/-- What the detail of a DECIDE stop holds: the choice, as FLT_REMAP shows one (R382, R398). -/
def choiceHolds (h : Nat) (c : Choice) (f : Failed) : List Nat := [h, c.kind, f.at_.x % 33, f.at_.y % 33]

/-- The logical herd of a failed element, else the herd of the recovery. -/
def State.failedHerd (s : State) (f : Failed) : Nat := (s.lherd (failHerd f)).getD s.flt.herd

/-- DECIDE: chooses a spare for the next failed element. -/
def State.decide_ (s : State) : State :=
  if s.flt.st = .decide ∧ s.flt.stop = false then
    match s.flt.failed with
    | [] => s.updFlt (fun x => { x with st := .reload })
    | f :: _ =>
      match s.spareChoice f with
      | none => (s.noteSpare f).fltNext
      | some c =>
        if c = .move ∧ s.reserveNext = none then s.exhaust
        else if s.assisted 0 then
          (s.updFlt (fun x => { x with choice := some c, stop := true })).postOpenStop 0 Source.flt
            (choiceHolds (s.failedHerd f) c f)
        else s.applyChoice c
  else s

/-- The choice of a DECIDE stop is applied. -/
def State.acceptChoice (s : State) : State :=
  match s.flt.choice with
  | some c => if s.flt.st = .decide ∧ s.flt.stop = true then s.applyChoice c else s
  | none => s

/-! ### Moves asked for by the host (R384, R397) -/

/-- A planned move starts once its herd's group has committed its snapshot, and no recovery runs.
DEDUCED (log entry 88). -/
def State.startPlanned (s : State) (g : Nat) : State :=
  match s.flt.planned with
  | none => s
  | some h =>
    if s.groupOf h = g ∧ s.flt.st = .idle ∧ s.reserveNext.isSome = true then
      let marks := s.groupMarks g
      let s := s.haltGroup g
      s.updFlt (fun x => { x with
        st := .move, herd := h, group := g, atFault := marks, choice := some .move, stop := false, failed := []
        reload := [h], planned := none, moveTo := none })
    else s

/-! ### Replay (R380, R382) -/

/-- A stopped recovery goes on into REPLAY. -/
def State.goReplay (s : State) : State :=
  let s := s.setJrn { s.jrn with stop := none }
  if s.flt.st = .restore then s.updFlt (fun x => { x with st := .replay }) else s

end Sys2Proof.Machine
end

