-- ==== Sys2Proof/Machine/Journal.lean ====
section
/-! DEFINITION. The commands of the work journal (R351 to R375, R384 to R389, R468). -/

namespace Sys2Proof.Machine

/-! ### SUBMIT_ENTRY (R468) -/

/-- Writes ACK_TIME and STATUS of the entry at CONS, and SEQ when it has one, and advances CONS.
DEDUCED (log entry 58). -/
def State.answerEntry (s : State) (ring status : Nat) (seq : Option Nat) : State :=
  let r := s.ring .submit ring
  let a := r.entry .submit r.cons
  let s := match seq with
    | some q => s.bar2Write (a + 16) (leBytes 8 q)
    | none => s
  ((s.bar2Write (a + 24) (leBytes 8 s.now64.toNat)).bar2Write (a + 3) (leBytes 1 status)).ringTake .submit ring

/-- The entry at CONS of a submit ring is in the controller already. DEDUCED (log entry 59). -/
def State.ringBusy (s : State) (ring : Nat) : Bool :=
  s.jrn.pairs.any (fun e => e.2.arriving.any (fun it => decide (it.ring = some ring)) ||
    e.2.writing.any (fun w => decide (w.2.any (fun it => decide (it.ring = some ring)) = true)))

/-- The journal controller takes the next entry of a submit ring: an item on its way, or a refusal that does not
block the ring. DEDUCED (log entry 58). -/
def State.submitEntry (s : State) (ring : Nat) : State :=
  match s.ringFront .submit ring with
  | none => s
  | some e =>
    if s.pdOn 93 = false ∨ s.ringBusy ring = true then s
    else
      let n := fld e 0 2
      let re := bit (fld e 2 1) 0
      let len := fld e 4 4
      match s.stream n with
      | none => s.answerEntry ring 3 none
      | some st =>
        if re = false ∧ (st.kind ≠ 1 ∨ st.arg ≠ ring) then s.answerEntry ring 3 none
        else if st.maxItem < len ∨ e.length < len + 32 then s.answerEntry ring 2 none
        else if s.pairTakes (s.streamPair n) then
          s.arrive { stream := n, src := ring, tag := BitVec.ofNat 64 (fld e 8 8), payload := slice e 32 len
                     reinject := if re then some (fld e 16 8) else none, ring := some ring, out := none, peer := none }
        else s

def execSubmitEntry (ring : Fin 4096) (s : State) : Result := actJrn (fun s => s.submitEntry ring.val) s

/-! ### ITEM_ARRIVAL (R356 to R360) -/

/-- An output whose OUTSEQ the controller has accepted, or is writing, from its herd (R363). -/
def State.dupOut (s : State) (x : Pair) (it : Item) : Bool :=
  match it.out with
  | none => false
  | some (h, q) => decide (q ≤ NatMap.get s.jrn.accepted 0 h) || x.writing.any (fun w => match w.2.bind Item.out with
      | some (h', q') => decide (h' = h ∧ q ≤ q')
      | none => false)

/-- A stream that can still number an item (R359). -/
def State.numbers (s : State) (it : Item) : Bool := decide ((s.jrn.streamSt it.stream).nextSeq < 2 ^ 64 - 1)

/-- The record of an item with its sequence number. DEDUCED (log entry 82). -/
def State.itemRec (s : State) (x : Pair) (it : Item) (seq : Nat) : Rec :=
  { typ := 1, flags := if it.reinject.isSome then 1 else 0, stream := it.stream, herd := 0, seq := seq, time := s.now64
    src := it.src, tag := it.tag, epoch := s.jrn.epoch, payload := it.payload, pos := x.head
    lines := recLines it.payload.length }

/-- Numbers an item and writes its record, when the log has room. DEDUCED (log entry 82). -/
def State.placeItem (s : State) (p : Nat) (it : Item) (seq : Nat) : State :=
  let x := s.jrn.pair p
  let r := s.itemRec x it seq
  if x.room r.lines then
    let s := s.setPair p { x with arriving := x.arriving.erase it }
    let s := s.setStreamSt it.stream { s.jrn.streamSt it.stream with nextSeq := seq + 1 }
    let s := s.writeRec p r
    let y := s.jrn.pair p
    s.setPair p { y with writing := y.writing ++ [(r, some it)] }
  else (s.setPair p { x with full := true }).post Code.journalFull Source.jrn 0 p

/-- An output of a herd has left: the controller holds it until SENT is raised (R363). -/
def State.outLeft (s : State) (h q : Nat) : State :=
  s.setJrn { s.jrn with outs := s.jrn.outs.map (fun x => if x.herd = h ∧ x.outseq = q then { x with left := true } else x) }

/-- The output that an item came as has left. -/
def State.itemLeft (s : State) (it : Item) : State :=
  match it.out, it.peer with
  | some (h, q), none => s.outLeft h q
  | _, _ => s

/-- A second copy of an output is discarded: one of this wafer counts as left, and one of a peer is acknowledged, with its
credit (R363). -/
def State.dropOut (s : State) (it : Item) : State :=
  match it.peer with
  | some (w, q) =>
    if h : w < 256 then (s.htAnswer ⟨w, h⟩ 0 (.ack it.stream (BitVec.ofNat 64 q))).giveCredit ⟨w, h⟩ 1024 else s
  | none => s.itemLeft it

/-- The next whole item at a pair takes its number and its record is written, or waits for log space; a pair that
has none raises JOURNAL_FULL once. -/
def State.itemArrival (s : State) (p : Nat) : State :=
  let x := s.jrn.pair p
  match x.arriving.find? s.numbers with
  | none => s
  | some it =>
    let drop (s : State) : State := s.setPair p { x with arriving := x.arriving.erase it }
    let next := (s.jrn.streamSt it.stream).nextSeq
    if s.dupOut x it then (drop s).dropOut it
    else if s.pairTakes p = false then s
    else
      match it.reinject with
      | some q => if q < next then
          match it.ring with
          | some r => (drop s).answerEntry r 4 none
          | none => drop s
        else s.placeItem p it q
      | none => s.placeItem p it next

def execItemArrival (pair : Fin 8) (s : State) : Result := actJrn (fun s => s.itemArrival pair.val) s

/-! ### ITEM_ACCEPT (R35, R356, R357, R389) -/

/-- Both stacks hold every line of a record, and the export ring has it where records are exported. -/
def State.recComplete (s : State) (x : Pair) (r : Rec) : Bool := x.holdsRec r && decide (r.bytes ∉ s.jrn.exportQ)

/-- The acknowledgement of an item (R357). DEDUCED (log entry 59). -/
def State.ackItem (s : State) (r : Rec) (it : Item) : State :=
  let s := match it.ring with
    | some n => s.answerEntry n 1 (some r.seq)
    | none => s
  match it.peer with
  | some (w, q) =>
    if h : w < 256 then
      (s.htAnswer ⟨w, h⟩ (BitVec.ofNat 64 r.seq) (.ack it.stream (BitVec.ofNat 64 q))).giveCredit ⟨w, h⟩ 1024
    else s
  | none => s

/-- What acceptance makes known: the highest OUTSEQ of the sending herd (R363), and the SRC detail of a RIM item (R364). -/
def State.noteAccepted (s : State) (r : Rec) (it : Item) : State :=
  let s := match it.out with
    | some (h, q) => s.setJrn { s.jrn with accepted := NatMap.put s.jrn.accepted 0 h (max q (NatMap.get s.jrn.accepted 0 h)) }
    | none => s
  match s.stream r.stream with
  | some st => if st.kind = 2 then s.setJrn { s.jrn with srcs := NatMap.ins s.jrn.srcs (r.stream * 2 ^ 64 + r.seq) r.src } else s
  | none => s

/-- The oldest record being written is complete: its item is accepted. -/
def State.itemAccept (s : State) (p : Nat) : State :=
  let x := s.jrn.pair p
  match x.writing with
  | (r, some it) :: rest =>
    if s.recComplete x r then
      let s := s.setPair p ({ x with writing := rest, recs := x.recs ++ [r] }).settled
      ((s.noteAccepted r it).itemLeft it).ackItem r it
    else s
  | _ => s

def execItemAccept (pair : Fin 8) (s : State) : Result := actJrn (fun s => s.itemAccept pair.val) s

/-! ### ITEM_DELIVER (R361, R388) -/

/-- The accepted record of an item of a stream. -/
def State.itemOf (s : State) (stream seq : Nat) : Option Rec :=
  (s.jrn.pair (s.streamPair stream)).recs.find? (fun r => decide (r.typ = 1 ∧ r.stream = stream ∧ r.seq = seq))

/-- The accepted item of a stream that follows sequence number `taken`: the lowest above it. -/
def State.nextItem (s : State) (stream taken : Nat) : Option Rec :=
  ((s.jrn.pair (s.streamPair stream)).recs.filter (fun r => decide (r.typ = 1 ∧ r.stream = stream ∧ taken < r.seq))).foldl
    (fun b r => match b with
      | some q => if r.seq < q.seq then some r else b
      | none => some r) none

/-- The first tile of a herd that waits for an item of a stream, with the address it named. DEDUCED (log entry 83). -/
def State.taker (s : State) (h stream : Nat) : Option (Nat × Nat) :=
  s.tiles.findSome? (fun e =>
    match e.2.wait with
    | .take st dst => if st = stream ∧ herdOfKey e.1 = h ∧ e.2.run = .running then some (e.1, dst) else none
    | _ => none)

/-- A stream that has stopped at a lost item delivers nothing from it on. -/
def State.stoppedAt (s : State) (stream seq : Nat) : Bool :=
  match (s.jrn.streamSt stream).lostAt with
  | some q => decide (q ≤ seq)
  | none => false

/-- The herd controller delivers the next accepted item to the tile that waits for it, and raises TAKEN.
DEDUCED (log entry 83). -/
def State.itemDeliver (s : State) (h stream : Nat) : State :=
  match s.stream stream with
  | none => s
  | some st =>
    match s.taker h stream, s.nextItem stream (NatMap.get (s.herd h).taken 0 stream) with
    | some (key, dst), some r =>
      if st.target ≠ h ∨ (s.herd h).st ≠ .running ∨ s.stoppedAt stream r.seq = true then s
      else
        let s := s.updTile key (fun t => { (t.put (dst * 8) r.payload).advance with wait := .none })
        s.updHerd h (fun x => { x with taken := NatMap.put x.taken 0 stream r.seq })
    | _, _ => s

def execItemDeliver (h : HerdNo) (stream : StreamNo) (s : State) : Result :=
  actJrn (fun s => s.itemDeliver h.val stream.val) s

/-! ### Outputs (R48, R363, R364, R466, R467, R469) -/

/-- A completion entry. -/
def State.completion (s : State) (h outseq : Nat) (tag : Word) (payload : List Byte) : List Byte :=
  leBytes 2 h ++ leBytes 2 0 ++ leBytes 4 payload.length ++ leBytes 8 tag.toNat ++ leBytes 8 outseq ++
    leBytes 8 s.now64.toNat ++ payload

/-- The controller holds an output: it has left, or waits. -/
def State.holdOut (s : State) (h q : Nat) (o : HerdOut) (left : Bool) : State :=
  s.setJrn { s.jrn with outs := s.jrn.outs ++ [{ herd := h, outseq := q, out := o, left := left }] }

/-- Sends an output that is not discarded; none: the herd stalls. A HERD item has left once it is accepted, and a WAFER
item once its receiver acknowledges it. DEDUCED (log entry 84). -/
def State.sendOut (s : State) (h q : Nat) (o : HerdOut) : Option State :=
  match o with
  | .completion tag payload =>
    let r := s.ring .completion h
    if r.full then none
    else if r.bytes .completion < 32 + payload.length then some (s.holdOut h q o true)
    else some ((s.ringPut .completion h (s.completion h q tag payload)).holdOut h q o true)
  | .reply _ _ _ => some (s.holdOut h q o false)
  | .stream n payload =>
    if s.pairTakes (s.streamPair n.val) then
      some ((s.arrive { stream := n.val, src := h, tag := 0, payload := payload, reinject := none, ring := none
                        out := some (h, q), peer := none }).holdOut h q o false)
    else none
  | .wafer w n payload =>
    if s.htOn = true ∧ 0 < (s.peer w.val).credits then
      if hh : h < 1024 then
        some (((s.takeCredit w.val).htSend w (.work n ⟨h, hh⟩ (BitVec.ofNat 64 q) payload)).holdOut h q o false)
      else none
    else none

/-- MAX_ITEM of a WAFER stream at its receiver, which the sender goes by (R353, R356). DESIGN CHOICE (log entry 130). -/
def peerMaxItem (w n : Nat) : Nat := min 1_048_576 (max 64 (Config.peerMaxItem w n))

/-- An output that its sender refuses: too long, or on a stream that the herd does not feed (R45, R351, R356). -/
def State.outRefused (s : State) (h : Nat) : HerdOut → Bool
  | .stream n payload =>
    match s.stream n.val with
    | some st => decide (st.kind ≠ 3 ∨ st.arg ≠ h ∨ st.maxItem < payload.length)
    | none => true
  | .wafer w n payload => decide (peerMaxItem w.val n.val < payload.length)
  | _ => false

/-- A herd emits an output: OUTSEQ counts up, and at or below SENT the output is discarded. DEDUCED (log entry 84). -/
def State.herdOutput (s : State) (h : Nat) (o : HerdOut) : State :=
  let x := s.herd h
  if x.st ≠ .running ∨ s.outRefused h o = true then s
  else
    let q := x.outseq + 1
    let s' := s.updHerd h (fun x => { x with outseq := q })
    if q ≤ NatMap.get s.jrn.sent 0 h then s'
    else (s'.sendOut h q o).getD s

def execHerdOutput (h : HerdNo) (o : HerdOut) (s : State) : Result := actJrn (fun s => s.herdOutput h.val o) s

/-- Raises SENT for the oldest output of a herd once it has left, and writes the mark to the pair. -/
def State.outputSent (s : State) (h : Nat) : State :=
  match s.jrn.outs.find? (fun o => decide (o.herd = h)) with
  | none => s
  | some o =>
    if o.left then
      let s := s.setJrn { s.jrn with outs := s.jrn.outs.erase o, sent := NatMap.put s.jrn.sent 0 h (max o.outseq (NatMap.get s.jrn.sent 0 h)) }
      s.writeMark (pairOf (s.homeStack h)) 2 0 h (NatMap.get s.jrn.sent 0 h)
    else s

def execOutputSent (h : HerdNo) (s : State) : Result := actJrn (fun s => s.outputSent h.val) s

/-- The MAC of a reply: REPLY_MAC of the stream, or the item's ingress MAC (its gang's leader). -/
def replyMacOf (st : Stream) (src : Nat) : Nat := if st.replyMac = 0xFF then src / 16 else st.replyMac

def isReply : HerdOut → Bool
  | .reply _ _ _ => true
  | _ => false

/-- A reply output goes into the herd transport class of its MAC; it waits while the link is down, and one that
names no accepted item of a RIM stream is dropped. DEDUCED (log entry 84). -/
def State.replyOutput (s : State) (h : Nat) : State :=
  match s.jrn.outs.find? (fun o => decide (o.herd = h ∧ o.left = false) && isReply o.out) with
  | none => s
  | some o =>
    match o.out with
    | .reply n seq frame =>
      match s.stream n.val, NatMap.find s.jrn.srcs (n.val * 2 ^ 64 + seq.toNat) with
      | some st, some src =>
        if st.kind = 2 ∧ 14 ≤ frame.length then
          let m := s.macLeader (replyMacOf st src)
          if (s.mac m).up then
            let s := s.updMac m (fun x => { x with ht := x.ht ++ [.frame { bytes := frame, tsMode := 0, tsId := 0, ref := 0 }] })
            s.outLeft h o.outseq
          else s
        else s.outLeft h o.outseq
      | _, _ => s.outLeft h o.outseq
    | _ => s

def execReplyOutput (h : HerdNo) (s : State) : Result := actJrn (fun s => s.replyOutput h.val) s

/-! ### EPOCH_BOUNDARY and EPOCH_ANNOUNCE (R368, R369, R381, R384, R388) -/

/-- The controller's own run of an epoch; a herd that must stay HALTED gets no RELEASE. DEDUCED (log entry 86). -/
def State.epochRun (s : State) (h : Nat) (ops : List Nat) : State :=
  let ops := if s.staysHalted h then ops.filter (fun o => decide (o ≠ 1)) else ops
  (s.forEach ops (fun s op => s.enqueue h { src := .sequence, op := op, arg := (s.herd h).epoch % 2 ^ 24, still := [] })).serve h

/-- The herd has not reached HALTED since the last boundary. -/
def Herd.missedBarrier (x : Herd) : Bool :=
  x.timer || (match x.barrier with
    | some b => decide (b.src = .sequence)
    | none => false)

/-- Boundary E at a RUNNING herd: a missed snapshot is counted and the next one is whole; then BARRIER, SNAPSHOT
and RELEASE, by the herd's sequence or by its controller. DEDUCED (log entry 86). -/
def State.boundaryHerd (s : State) (h e : Nat) : State :=
  let x := s.herd h
  let s := if x.missedBarrier then
      (s.count Reg.FLT_COUNT_MISSED 1).updHerd h (fun x => { x with
        snapAll := 3, queue := x.queue.filter (fun c => decide (c.src ≠ .sequence)) })
    else s
  let s := s.updHerd h (fun x => { x with
    epoch := e, barrier := x.barrier.map (fun b => if b.src = .sequence then { b with epoch := e } else b) })
  let own := x.barrier.any (fun b => decide (b.src = .sequence))
  if x.seqPos.isSome = true ∧ s.staysHalted h = false then
    if own then s else s.updHerd h (fun x => { x with timer := true })
  else s.epochRun h (if own then [4, 1] else [3, 4, 1])

/-- An epoch boundary of this wafer. -/
def State.boundary (s : State) (e : Nat) : State :=
  let leaving := decide (s.role = 2 ∧ s.waferIndex ∈ s.jrn.leaving)
  let s := s.setJrn { s.jrn with epoch := e, silent := false, closed := s.jrn.closed || leaving }
  s.forEach ((s.herds.filter (fun x => decide (x.2.st = .running))).map Prod.fst) (fun s h => s.boundaryHerd h e)

/-- The period is over on a standalone or manager wafer; a manager tells its members. -/
def State.epochBoundary (s : State) : State :=
  if s.role = 2 then s
  else
    let e := s.jrn.epoch + 1
    let s := s.boundary e
    if s.role = 1 then s.forEach (peersOf s.jrn.members) (fun s w => s.htSend w (.epoch (BitVec.ofNat 64 e))) else s

def execEpochBoundary (s : State) : Result := actJrn State.epochBoundary s

/-- A worker takes the manager's boundary and number. -/
def State.epochAnnounce (s : State) (e : Nat) : State := if s.role = 2 then s.boundary e else s

def execEpochAnnounce (e : Word) (s : State) : Result := actJrn (fun s => s.epochAnnounce e.toNat) s

/-! ### EPOCH_COMMIT (R365, R367, R372, R375, R384) -/

/-- The herds of a group that must have snapshot E: RUNNING ones, and those HALTED at its barrier. -/
def State.commitHerds (s : State) (g e : Nat) : List Nat :=
  (s.groupHerds g).filter (fun h => decide ((s.herd h).st = .running ∨ ((s.herd h).st = .halted ∧ (s.herd h).atEpoch = some e)))

/-- A complete snapshot E in both copies. -/
def State.hasSnapshot (s : State) (h e : Nat) : Bool :=
  let p := s.snap (snapKey h e)
  p.valid && p.copied && decide (p.epoch = e)

/-- Items that a committed snapshot's TAKEN covers are retired. -/
def State.retireItems (s : State) (hs : List Nat) (e : Nat) : State :=
  s.forEach s.jrn.streams (fun s x =>
    if x.2.target ∈ hs then
      let st := s.jrn.streamSt x.1
      s.setStreamSt x.1 { st with before := st.retired, retired := max st.retired (NatMap.get (s.snap (snapKey x.2.target e)).taken 0 x.1) }
    else s)

/-- A record that the tail may pass: retired, or superseded by the control block. -/
def Jrn.passable (j : Jrn) (r : Rec) : Bool :=
  if r.typ = 1 then decide (r.seq ≤ (j.streamSt r.stream).retired)
  else if r.typ = 4 then decide ((j.streamSt r.stream).nextSeq ≤ (j.streamSt r.stream).retired + 1)
  else true

/-- Where the tail of a pair's log may stand: at the oldest record that is neither retired nor superseded (R367). -/
def State.logTail (s : State) (p : Nat) : Nat :=
  let x := s.jrn.pair p
  ((x.recs.filter (fun r => !(s.jrn.passable r))).map Rec.pos ++ x.writing.map (fun w => w.1.pos)).foldl min x.head

/-- The state of a stream in a control block, with the log line of its oldest unretired record (R365). -/
def State.ctlStream (s : State) (p n : Nat) : CtlStream :=
  let x := s.jrn.pair p
  let st := s.jrn.streamSt n
  { nextSeq := st.nextSeq, retired := st.retired
    oldest := ((x.recs ++ x.writing.map Prod.fst).find? (fun r => decide (r.typ = 1 ∧ r.stream = n ∧ st.retired < r.seq))).map Rec.pos }

/-- The header of a control block. DESIGN CHOICE (log entry 38). -/
def Ctl.header (c : Ctl) : List Byte := leBytes 8 c.epoch ++ leBytes 8 c.head ++ leBytes 8 c.tail ++ leBytes 36 0

/-- Lines of a control block: its header, 4,096 stream states of 64 bytes and 1,024 herd states of 32 bytes (R365). -/
def ctlLines : Nat := (64 + 4096 * 64 + 1024 * 32) / 64

/-- What a control block of epoch e holds (R365, R373). -/
def State.ctlNow (s : State) (p e : Nat) : Ctl :=
  let hs := (List.range 1024).filter (fun h => decide (pairOf (s.homeStack h) = p))
  let c : Ctl :=
    { valid := false, epoch := e, head := (s.jrn.pair p).head, tail := s.logTail p, crc := 0
      streams := (s.jrn.sst.filter (fun q => decide (s.streamPair q.1 = p))).map (fun q => (q.1, s.ctlStream p q.1))
      herds := hs.filterMap (fun h =>
        let v := (NatMap.get s.jrn.sent 0 h, NatMap.get s.jrn.accepted 0 h)
        if v = (0, 0) then none else some (h, v))
      release := hs.filterMap (fun h =>
        let v := ((s.herd h).relTaken, (s.herd h).relOutseq)
        if v = ([], 0) then none else some (h, v)) }
  { c with crc := crc32c (c.header ++ leBytes 4 0) }

/-- Writes the control block that the commit before did not use; it counts once both stacks hold it (R161, R365). -/
def State.writeCtl (s : State) (p e : Nat) : State :=
  let x := s.jrn.pair p
  s.setPair p { x with lineQ := x.lineQ ++ [.ctl (!x.lastA) (s.ctlNow p e) ctlLines], lastA := !x.lastA }

/-- The groups of the wafer's released herds. -/
def State.liveGroups (s : State) : List Nat :=
  ((s.herds.filter (fun e => decide (e.2.st = .running ∨ e.2.st = .halted))).map (fun e => s.groupOf e.1)).eraseDups

/-- A worker reports a commit of all its groups to the manager, and a leaving one that its items are retired. -/
def State.reportCommit (s : State) (e : Nat) : State :=
  if s.role = 2 ∧ s.liveGroups.all (fun g => decide (e ≤ NatMap.get s.jrn.committed 0 g)) = true then
    let s := s.htSend 0 (.commitReport (BitVec.ofNat 64 e))
    if s.waferIndex ∈ s.jrn.leaving ∧ s.jrn.sst.all (fun q => decide (q.2.nextSeq ≤ q.2.retired + 1)) = true then
      s.htSend 0 (.admission false)
    else s
  else s

/-- Epoch E commits for a group. -/
def State.epochCommit (s : State) (g : Nat) : State :=
  let e := s.jrn.epoch
  let hs := s.commitHerds g e
  if s.jrn.silent = false ∧ NatMap.get s.jrn.committed 0 g < e ∧ hs.isEmpty = false ∧ hs.all (fun h => s.hasSnapshot h e) = true then
    let s := s.retireItems hs e
    let s := s.setJrn { s.jrn with
      before := NatMap.put s.jrn.before 0 g (NatMap.get s.jrn.committed 0 g), committed := NatMap.put s.jrn.committed 0 g e }
    let s := s.forEach (hs.map (fun h => pairOf (s.homeStack h))).eraseDups (fun s p => (s.writeMark p 3 0 g e).writeCtl p e)
    let s := s.forEach hs (fun s h => s.updHerd h (fun x => { x with committed := true }))
    (s.reportCommit e).startPlanned g
  else s

def execEpochCommit (group : Fin 256) (s : State) : Result := actJrn (fun s => s.epochCommit group.val) s

/-! ### RACK_COMMIT, membership and silence (R375, R384, R386) -/

/-- Rack commit of E frees what its receiver took in an epoch up to E, and members join and leave. -/
def State.rackDone (s : State) (e : Nat) : State :=
  let stay := s.jrn.members.filter (fun w => decide (w ∉ s.jrn.leaving))
  s.setJrn { s.jrn with
    rackEpoch := e, retained := s.jrn.retained.filter (fun r => r.1.all (fun k => decide (e < k)))
    members := stay ++ s.jrn.joining.filter (fun w => decide (w ∉ stay)), joining := [], leaving := [] }

/-- The manager announces rack commit of E once every wafer has reported commit of E. -/
def State.rackCommit (s : State) (e : Nat) : State :=
  if s.role = 2 then s.rackDone e
  else if s.role = 1 ∧ s.jrn.members.all (fun w => decide (e ≤ (s.peer w).reported)) = true ∧
      s.liveGroups.all (fun g => decide (e ≤ NatMap.get s.jrn.committed 0 g)) = true then
    (s.forEach (peersOf s.jrn.members) (fun s w => s.htSend w (.rackCommit (BitVec.ofNat 64 e)))).rackDone e
  else s

def execRackCommit (e : Word) (s : State) : Result := actJrn (fun s => s.rackCommit e.toNat) s

/-- A request of admission: the manager notes it, and a worker sends it. -/
def State.askAdmission (s : State) (w : Nat) (join : Bool) : State :=
  if s.role = 1 then
    if join then s.setJrn { s.jrn with joining := s.jrn.joining ++ (if w ∈ s.jrn.joining then [] else [w]) }
    else s.setJrn { s.jrn with leaving := s.jrn.leaving ++ (if w ∈ s.jrn.leaving then [] else [w]) }
  else if s.role = 2 ∧ s.waferIndex = w then
    if join then s.htSend 0 (.admission true)
    else s.setJrn { s.jrn with leaving := [w] }
  else s

def execWorkerJoin (w : Fin 256) (s : State) : Result := actJrn (fun s => s.askAdmission w.val true) s
def execWorkerLeave (w : Fin 256) (s : State) : Result := actJrn (fun s => s.askAdmission w.val false) s

/-- Two seconds without a boundary: a worker commits nothing further. -/
def execManagerSilence (s : State) : Result :=
  actJrn (fun s => if s.role = 2 then s.setJrn { s.jrn with silent := true } else s) s

/-! ### JRN_CMD (R382, R385, R395) -/

/-- The host reaches the journal's registers. DEDUCED (log entry 5). -/
def State.jrnHost (s : State) : Bool := s.host.linkUp && s.pdOn 93

/-- REPLAY goes on from a replay stop of the group. -/
def State.jrnReplay (s : State) (g : Nat) : State := if s.jrn.stop = some g then s.goReplay else s

/-- HOLD leaves the group HALTED; its recovery ends. -/
def State.jrnHold (s : State) (g : Nat) : State :=
  if s.jrn.stop = some g then
    let s := s.setJrn { s.jrn with stop := none }
    if s.flt.st = .restore ∧ s.flt.group = g then s.fltDone else s
  else s

/-- HANDOVER writes a HANDOVER record for each stream of the group, with the stream's RETIRED as its SEQ; at a replay stop the
group stays HALTED (R385). DESIGN CHOICE (log entry 139). -/
def State.handover (s : State) (g : Nat) : State :=
  let s := s.forEach (s.jrn.streams.filter (fun x => decide (s.groupOf x.2.target = g))) (fun s x =>
    s.writeMark (s.streamPair x.1) 4 x.1 0 (s.jrn.streamSt x.1).retired)
  s.jrnHold g

/-- A write of JRN_CMD. -/
def State.jrnCmd (s : State) (op g : Nat) : State :=
  match op with
  | 1 => s.jrnReplay g
  | 2 => s.jrnHold g
  | 3 => s.handover g
  | _ => s

def execJrnReplay (group : Fin 256) (s : State) : Result :=
  actJrn (fun s => if s.jrnHost then s.jrnCmd 1 group.val else s) s
def execJrnHold (group : Fin 256) (s : State) : Result :=
  actJrn (fun s => if s.jrnHost then s.jrnCmd 2 group.val else s) s
def execHandover (group : Fin 256) (s : State) : Result :=
  actJrn (fun s => if s.jrnHost then s.jrnCmd 3 group.val else s) s

/-- Five seconds at a replay stop with no command: replay starts. -/
def execReplayStopTimeout (s : State) : Result :=
  actJrn (fun s => match s.jrn.stop with
    | some g => s.jrnReplay g
    | none => s) s

end Sys2Proof.Machine
end

