-- ==== Sys2Proof/Machine/FrontOps.lean ====
section
/-! DEFINITION. The Pronghorn front (R241 to R259): the parse machine's instructions and the feature unit. The
Ibex streamer runs the same program over stored bytes (R294). -/

namespace Sys2Proof.Machine

/-! ### Values (R251, R254) -/

/-- The exact value of a raw value of a TYPE; the default type of a bound or BASE of a float type is F32. -/
def rawValue (typ : Nat) (v : BitVec 32) : Num :=
  match typ with
  | 0 => .fin false v.toNat 0
  | 1 => .fin (v.toInt < 0) v.toInt.natAbs 0
  | 2 => decodeFlt .fp32 v.toNat
  | 3 => decodeFlt .fp16 (v.toNat % 2 ^ 16)
  | _ => decodeFlt .bf16 (v.toNat % 2 ^ 16)

/-- The value of a LO, HI, BASE or boundary word. -/
def boundValue (typ : Nat) (v : BitVec 32) : Num := if typ ≤ 1 then rawValue typ v else decodeFlt .fp32 v.toNat

/-- floor(x * 2^-shift) of a finite number. -/
def Num.floorAt (x : Num) (shift : Int) : Int :=
  match x with
  | .fin neg m e =>
    let k := e - shift
    if 0 ≤ k then sgn neg (m * 2 ^ k.toNat) else sgn neg m / (2 ^ (-k).toNat : Int)
  | _ => 0

def Num.isFin : Num → Bool
  | .fin _ _ _ => true
  | _ => false

/-! ### Descriptors (R251, R252) -/

structure Feat where
  kind  : Nat
  typ   : Nat
  map   : Bool
  slot  : Nat
  mapBin : Nat
  cardM1 : Nat
  boff  : Nat
  lo    : BitVec 32
  hi    : BitVec 32

def Feat.ofWords (w0 w1 : Nat) : Feat :=
  { kind := bits w0 1 0, typ := bits w0 4 2, map := bit w0 5, slot := bits w0 13 8, mapBin := bits w0 31 16
    cardM1 := bits w0 47 32, boff := bits w0 63 48, lo := BitVec.ofNat 32 w1, hi := BitVec.ofNat 32 (w1 / 2 ^ 32) }

def Feat.ecard (d : Feat) : Nat := if d.map then max (d.cardM1 + 1) (d.mapBin + 1) else d.cardM1 + 1

/-- SHIFT of a UNIFORM feature, signed. -/
def Feat.shift (d : Feat) : Int := (BitVec.ofNat 8 d.hi.toNat).toInt

def State.desc (s : State) (n d : Nat) : Feat :=
  Feat.ofWords (s.rd (Reg.PRH_FRONT_DESC_WORD n (2 * d))) (s.rd (Reg.PRH_FRONT_DESC_WORD n (2 * d + 1)))

def State.bound (s : State) (n j : Nat) : BitVec 32 := BitVec.ofNat 32 (s.rd (Reg.PRH_FRONT_BOUND_BOUND n j))

/-- A bin, or a cause: 1 NaN, 2 out of range, 3 absent (R254). -/
def State.feature (s : State) (n : Nat) (d : Feat) (raw : PVal) (vec : List Nat) : Except Nat Nat :=
  if d.kind = 0 then .ok 0
  else if d.kind = 3 then
    let fb := d.hi.toNat % 64
    .ok (nthD vec (d.lo.toNat % 64) 0 * (s.desc n fb).ecard + nthD vec fb 0)
  else if raw.absent then .error 3
  else
    let x := rawValue d.typ raw.v
    match x with
    | .nan => .error 1
    | .inf _ => .error 2
    | .fin _ _ _ =>
      if d.kind = 1 then
        if Num.lt x (boundValue d.typ d.lo) || Num.lt (boundValue d.typ d.hi) x then .error 2
        else .ok ((List.range d.cardM1).filter (fun i => !(Num.lt x (boundValue d.typ (s.bound n (d.boff + i)))))).length
      else
        let z := Num.add x (boundValue d.typ d.lo).neg
        let y := z.floorAt d.shift
        if z.isFin = false ∨ y < 0 ∨ (d.cardM1 : Int) < y then .error 2 else .ok y.toNat

/-- What the feature unit finds. -/
inductive FeatAns where
  | vector (bins : List Nat) (mapped : Bool)
  | refused (idx cause : Nat) (mapped : Bool)

/-- The features in index order, with MAP and REJECT (R254, R255); `k` remain. -/
def State.features (s : State) (n : Nat) (slots : NatMap PVal) : Nat → List Nat → Bool → FeatAns
  | 0, vec, mapped => .vector vec mapped
  | k + 1, vec, mapped =>
    let i := vec.length
    let d := s.desc n i
    match s.feature n d (NatMap.get slots ⟨0, true⟩ d.slot) vec with
    | .ok b => State.features s n slots k (vec ++ [b]) mapped
    | .error c => if d.map then State.features s n slots k (vec ++ [d.mapBin]) true else .refused i c mapped

/-! ### The parse machine (R246 to R250) -/

/-- What an instruction does. -/
inductive ParseAns where
  | go (c : Ctx)
  /-- It waits for bytes, or for the tail (R245). -/
  | wait
  /-- END. -/
  | done
  /-- END with PASS. -/
  | pass
  /-- A register with ABSENT set steers control (R250). -/
  | absent

def Ctx.reg (c : Ctx) (i : Nat) : PVal := NatMap.get c.regs ⟨0, false⟩ i
def Ctx.setReg (c : Ctx) (i : Nat) (v : PVal) : Ctx := { c with regs := NatMap.put c.regs ⟨0, false⟩ i v }
/-- An unset raw slot reads as absent (R247). -/
def Ctx.setSlot (c : Ctx) (i : Nat) (v : PVal) : Ctx := { c with slots := NatMap.put c.slots ⟨0, true⟩ i v }
def Ctx.next (c : Ctx) : Ctx := { c with pc := c.pc + 1 }

/-- CUR saturates (R247). -/
def curAdd (a b : Nat) : BitVec 32 := BitVec.ofNat 32 (min (a + b) 0xFFFFFFFF)

/-- EXT (R249): bytes at or beyond HORIZON are unavailable at once, bytes at or beyond L at the tail. -/
def parseExt (w horizon : Nat) (c : Ctx) : ParseAns :=
  let width := bits w 13 12 + 1
  let off := if bit w 10 then c.cur.toNat + bits w 23 16 else bits w 23 16
  let off := if bit w 10 then min off 0xFFFFFFFF else off
  let dst := bits w 9 6
  let put (v : PVal) : ParseAns :=
    let c := c.setReg dst v
    .go (if bit w 15 then c.setSlot (bits w 40 35) v else c).next
  if horizon < off + width then put ⟨0, true⟩
  else if c.frame.len < off + width then (if c.tail then put ⟨0, true⟩ else .wait)
  else
    let bs := slice c.frame.bytes off width
    let v := (if bit w 11 then leNat bs else beNat bs) >>> bits w 28 24
    let n := bits w 34 29
    let v := v % 2 ^ n
    let v := if bit w 14 = true ∧ v.testBit (n - 1) = true then v + (2 ^ 32 - 2 ^ n) else v
    put ⟨BitVec.ofNat 32 v, false⟩

/-- The metadata of R248. -/
def Ctx.metaVal (c : Ctx) (f : Nat) : Nat :=
  match f with
  | 0 => c.frame.queue
  | 1 => c.ens
  | 2 => c.frame.prio
  | 3 => c.frame.tags
  | 4 => c.frame.vid0
  | 5 => c.frame.vid1
  | 6 => c.frame.etype
  | 7 => 14 + 4 * c.frame.tags
  | _ => 0

def parseMeta (w : Nat) (c : Ctx) : ParseAns :=
  .go (c.setReg (bits w 9 6) ⟨BitVec.ofNat 32 (c.metaVal (bits w 13 10)), false⟩).next

/-- The operations of ALU. -/
def aluFn (fn : Nat) (a b : BitVec 32) : BitVec 32 :=
  match fn with
  | 0 => a + b
  | 1 => a - b
  | 2 => a &&& b
  | 3 => a ||| b
  | 4 => a ^^^ b
  | 5 => if 32 ≤ b.toNat then 0 else a <<< b.toNat
  | 6 => if 32 ≤ b.toNat then 0 else a >>> b.toNat
  | 7 => if a.toNat ≤ b.toNat then a else b
  | 8 => if a.toNat ≤ b.toNat then b else a
  | 9 => a * b
  | _ => b

/-- The second operand: IMM32 or a register. -/
def Ctx.operand (c : Ctx) (imm : Bool) (w r : Nat) : PVal :=
  if imm then ⟨BitVec.ofNat 32 (w / 2 ^ 32), false⟩ else c.reg r

/-- ALU: ABSENT is the OR of the operands' flags; MOV has the one operand B. -/
def parseAlu (w : Nat) (c : Ctx) : ParseAns :=
  let fn := bits w 22 19
  let a := c.reg (bits w 13 10)
  let b := c.operand (bit w 18) w (bits w 17 14)
  .go (c.setReg (bits w 9 6) ⟨aluFn fn a.v b.v, (decide (fn ≠ 10) && a.absent) || b.absent⟩).next

def parseAdv (w : Nat) (c : Ctx) : ParseAns :=
  let r := c.reg (bits w 13 10)
  if bit w 14 then
    if r.absent then .absent
    else .go { c with cur := curAdd c.cur.toNat (w / 2 ^ 32 % 2 ^ 32 + r.v.toNat * 2 ^ bits w 16 15) }.next
  else .go { c with cur := curAdd c.cur.toNat (w / 2 ^ 32 % 2 ^ 32) }.next

/-- The conditions of BR. -/
def brCond (cond : Nat) (a b : BitVec 32) : Bool :=
  match cond with
  | 0 => decide (a = b)
  | 1 => decide (a ≠ b)
  | 2 => decide (a.toNat < b.toNat)
  | 3 => decide (b.toNat ≤ a.toNat)
  | 4 => decide (a &&& b ≠ 0)
  | 5 => decide (a &&& b = 0)
  | _ => true

/-- BR: a register that the condition reads must not be absent; ALWAYS reads none. -/
def parseBr (w : Nat) (c : Ctx) : ParseAns :=
  let cond := bits w 17 15
  let a := c.reg (bits w 9 6)
  let b := c.operand (bit w 14) w (bits w 13 10)
  if cond ≠ 6 ∧ (a.absent = true ∨ b.absent = true) then .absent
  else .go (if brCond cond a.v b.v then { c with pc := bits w 23 18 } else c.next)

def parseFeat (w : Nat) (c : Ctx) : ParseAns := .go (c.setSlot (bits w 21 16) (c.reg (bits w 13 10))).next

/-- One instruction of a parse program. -/
def parseStep (w horizon : Nat) (c : Ctx) : ParseAns :=
  match w % 64 with
  | 1 => parseExt w horizon c
  | 2 => parseMeta w c
  | 3 => parseAlu w c
  | 4 => parseAdv w c
  | 5 => parseBr w c
  | 6 => parseFeat w c
  | _ => if bit w 6 then .pass else .done

/-- What a whole parse finds. -/
inductive FrontAns where
  | vector (bins : List Nat) (mapped : Bool)
  | pass
  | refused (idx cause : Nat)

/-- Runs a parse program to its end over a stored frame; branches go forward, so 64 steps are enough. -/
def State.parseAll (s : State) (n : Nat) : Nat → Ctx → FrontAns
  | 0, _ => .pass
  | k + 1, c =>
    match parseStep (s.rd (Reg.PRH_FRONT_PROG_INSTR n c.pc)) (s.rd (Reg.PRH_FRONT_CTRL_HORIZON n)) c with
    | .go c' => State.parseAll s n k c'
    | .wait => .pass
    | .pass => .pass
    | .absent => .refused c.pc 4
    | .done =>
      match s.features n c.slots (s.rd (Reg.PRH_FRONT_CTRL_NFEAT n)) [] false with
      | .vector b m => .vector b m
      | .refused i e _ => .refused i e

/-- A context at the start of a frame (R247). -/
def Ctx.start (f : Frame) (ens : Nat) (tail : Bool) : Ctx :=
  { frame := f, tail := tail, ens := ens, pc := 0, cur := 0, regs := [], slots := [] }

end Sys2Proof.Machine
end

