-- ==== Sys2Proof/Machine/EvalOps.lean ====
section
/-! DEFINITION. Tree ensembles: leaf selection (R271, R272, R275), scores (R276, R277), the escalation band
(R278) and replies (R282, R283), for the resident engines and the Ibex streamer. -/

namespace Sys2Proof.Machine

/-! ### Leaves and sums -/

/-- A node is true when vector[FEAT] < THRESH (R271). -/
def nodeTrue (vec : List Nat) (node : Nat) : Bool := decide (nthD vec (bits node 21 16) 0 < node % 2 ^ 16)

/-- The leaf that the path from node k reaches, `d` levels below it (R272, R275). -/
def walkTree (vec nodes : List Nat) : Nat → Nat → Nat → Nat
  | 0, _, j => j
  | d + 1, k, j =>
    if nodeTrue vec (nthD nodes k 0) then walkTree vec nodes d (2 * k + 1) (2 * j)
    else walkTree vec nodes d (2 * k + 2) (2 * j + 1)

def Tree.leaf (t : Tree) (vec : List Nat) (nout o : Nat) : BitVec 32 :=
  nthD t.leaves (walkTree vec t.nodes t.depth 0 0 * nout + o) 0

/-- A score: FP32 bits or a fixed-point sum. -/
inductive ScoreVal where
  | fp (v : BitVec 32)
  | fix (v : Int)
deriving DecidableEq, Repr

/-- Output o over all trees and the base (R276, R277). -/
def scoreOut (trees : List Tree) (vec : List Nat) (nout o : Nat) (fixed : Bool) (base : BitVec 32) : ScoreVal :=
  let ls := trees.map (fun t => t.leaf vec nout o)
  if fixed then .fix (ls.foldl (fun a l => a + l.toInt) 0 + base.toInt)
  else .fp (rne32 (Num.add (of32 (treeSum ls)) (of32 base)))

/-- Saturates a 64-bit sum to 32 bits. -/
def sat32 (v : Int) : Int := if v < -2 ^ 31 then -2 ^ 31 else if 2 ^ 31 - 1 < v then 2 ^ 31 - 1 else v

def Num.le (a b : Num) : Bool := Num.lt a b || Num.eqv a b

/-- The escalation band of a queue holds a score (R278, R306). -/
def ScoreVal.inBand (x : ScoreVal) (lo hi : BitVec 32) : Bool :=
  match x with
  | .fp v => Num.le (of32 lo) (of32 v) && Num.le (of32 v) (of32 hi)
  | .fix v => decide (lo.toInt ≤ sat32 v ∧ sat32 v ≤ hi.toInt)

/-! ### Replies (R282, R283) -/

/-- The bytes of an insert of a FORM. -/
def ScoreVal.form (x : ScoreVal) (form frac : Nat) : List Byte :=
  let f32 : Nat := match x with
    | .fp v => v.toNat
    | .fix v => (rne32 (.fin (decide (v < 0)) v.natAbs (-(frac : Int)))).toNat
  let i32 : Nat := match x with
    | .fp v => v.toNat
    | .fix v => (BitVec.ofInt 32 (sat32 v)).toNat
  let i64 : Nat := match x with
    | .fp v => v.toNat
    | .fix v => (BitVec.ofInt 64 v).toNat
  match form with
  | 0 => beBytes 4 f32
  | 1 => leBytes 4 f32
  | 2 => beBytes 4 i32
  | 3 => leBytes 4 i32
  | 4 => beBytes 8 i64
  | _ => leBytes 8 i64

/-- A reply from a template: the request's bytes are `req`, its length `len`; a byte of the request beyond those that are
stored is `open_` (R283). -/
def buildReply (tpl req : List Byte) (open_ : Nat → Byte) (len : Nat) (outs : List ScoreVal) (frac : Nat) (seq : BitVec 32) : List Byte :=
  let tlen := fld tpl 0 2
  let b := slice tpl 80 tlen
  let b := (List.range (fld tpl 3 1)).foldl (fun b i =>
    let src := fld tpl (16 + 4 * i) 1
    let n := fld tpl (18 + 4 * i) 1
    patch b (fld tpl (17 + 4 * i) 1) ((List.range n).map (fun j => if src + j < len then nthD req (src + j) (open_ (src + j)) else 0))) b
  let b := (List.range (fld tpl 4 1)).foldl (fun b i =>
    patch b (fld tpl (48 + 4 * i) 1) ((nthD outs (fld tpl (49 + 4 * i) 1) (.fp 0)).form (fld tpl (50 + 4 * i) 1) frac)) b
  let b := if fld tpl 6 2 = 0xFFFF then b else patch b (fld tpl 6 2) (beBytes 4 seq.toNat)
  if fld tpl 8 2 = 0xFFFF then b
  else
    let at_ := fld tpl 8 2
    let b := patch b at_ [0, 0]
    let c := 0xFFFF - onesSum (b.drop (fld tpl 10 2)) (fld tpl 12 2)
    patch b at_ (beBytes 2 (if c = 0 then 0xFFFF else c))

end Sys2Proof.Machine
end

