-- ==== Sys2Proof/Machine/Front.lean ====
section
/-! DEFINITION. The commands of the Pronghorn front: one parse instruction of a context each (R249, R250), the
end of a parse (R254, R255) and its rate-limited reports (R257). -/

namespace Sys2Proof.Machine

/-- The rim's steps may change the frame MACs, the engines, the Ibex streamer, the time unit's queues, the
rings, the journal's arrivals, port stops, registers, stacks' reports and the events; nothing else. -/
def actRim (f : State → State) (s : State) : Result :=
  let t := f s
  .next { s with regs := t.regs, macs := t.macs, prhs := t.prhs, ibx := t.ibx, time := t.time, host := t.host
                 jrn := t.jrn, stks := t.stks, bru := t.bru, io := t.io }

/-- Contexts that the engine or gang has (R242). -/
def State.ctxCount (s : State) (n : Nat) : Nat := 4 * s.gangSize n

def State.ctx (s : State) (n c : Nat) : Option Ctx := NatMap.find (s.prh n).ctxs c

def State.setCtx (s : State) (n c : Nat) (x : Ctx) : State :=
  s.updPrh n (fun p => { p with ctxs := NatMap.ins p.ctxs c x })

/-- The context is free again. -/
def State.freeCtx (s : State) (n c : Nat) : State :=
  s.updPrh n (fun p => { p with ctxs := NatMap.del p.ctxs c })

/-- A frame is refused as FEATURE_INVALID (R250, R255, R257, R265). DEDUCED (log entry 79). -/
def State.refuseFrame (s : State) (n c : Nat) (x : Ctx) (idx cause : Nat) : State :=
  let s := s.freeCtx n c
  let s := (s.wr (Reg.PRH_FRONT_STATUS_LAST_FEAT n) idx).wr (Reg.PRH_FRONT_STATUS_LAST_CAUSE n) cause
  let s := (s.wr (Reg.PRH_FRONT_STATUS_LAST_QUEUE n) x.frame.queue).wr (Reg.PRH_FRONT_STATUS_LAST_VALID n) 1
  let s := s.prhFrontCount n Reg.INVALID_REJECT
  let s := if h : n < 16 then s.report (.featureInvalid ⟨n, h⟩) (idx * 2 ^ 16 + cause * 2 ^ 22 + x.frame.queue * 2 ^ 25) else s
  s.unscored n x.frame.id 2

/-- END PASS: the frame is not scored; no record is posted (R249, R281). -/
def State.passFrame (s : State) (n c : Nat) (x : Ctx) : State :=
  ((s.freeCtx n c).prhFrontCount n Reg.NS_PASS).unscored n x.frame.id 1

/-- The parse is done: the feature unit runs, a frame with a mapped feature is counted once in MAPPED, and the
vector is handed on or the frame refused (R254, R255). DEDUCED (log entry 78). -/
def State.endParse (s : State) (n c : Nat) (x : Ctx) : State :=
  match s.features n x.slots (s.rd (Reg.PRH_FRONT_CTRL_NFEAT n)) [] false with
  | .refused i e m => (s.when m (fun s => s.prhFrontCount n Reg.MAPPED)).refuseFrame n c x i e
  | .vector b m =>
    let s := s.freeCtx n c
    let s := if m then s.prhFrontCount n Reg.MAPPED else s
    let s := s.prhFrontCount n Reg.VECTORS_OUT
    let s := if (s.scoreOf n x.frame.id) = .parsing then s.setScore n x.frame.id .handed else s
    s.updPrh n (fun p => { p with handed := p.handed ++ [{ frame := x.frame, ens := x.ens, bins := b }] })

/-- Context c executes its instruction when it has opcode `op`. -/
def State.parseRow (s : State) (n c op : Nat) : State :=
  match s.ctx n c with
  | none => s
  | some x =>
    let w := s.rd (Reg.PRH_FRONT_PROG_INSTR n x.pc)
    if w % 64 = op ∧ s.macPowered n = true then
      match parseStep w (s.rd (Reg.PRH_FRONT_CTRL_HORIZON n)) x with
      | .go x' => s.setCtx n c x'
      | .wait => s
      | .absent => s.refuseFrame n c x x.pc 4
      | .pass => s.passFrame n c x
      | .done => s.endParse n c x
    else s

def execExt (n : MacNo) (ctx : Fin 16) (s : State) : Result := actRim (fun s => s.parseRow n.val ctx.val 1) s
def execMetaField (n : MacNo) (ctx : Fin 16) (s : State) : Result := actRim (fun s => s.parseRow n.val ctx.val 2) s
def execAlu (n : MacNo) (ctx : Fin 16) (s : State) : Result := actRim (fun s => s.parseRow n.val ctx.val 3) s
def execAdv (n : MacNo) (ctx : Fin 16) (s : State) : Result := actRim (fun s => s.parseRow n.val ctx.val 4) s
def execBr (n : MacNo) (ctx : Fin 16) (s : State) : Result := actRim (fun s => s.parseRow n.val ctx.val 5) s
def execFeat (n : MacNo) (ctx : Fin 16) (s : State) : Result := actRim (fun s => s.parseRow n.val ctx.val 6) s
def execEndParse (n : MacNo) (ctx : Fin 16) (s : State) : Result := actRim (fun s => s.parseRow n.val ctx.val 7) s

/-- A second has passed since the source's last record: what has happened since is posted; with nothing, the
next occurrence posts at once (R257). -/
def execRateLimitedReport (src : ReportSrc) (s : State) : Result :=
  actRim (fun s =>
    match s.io.lims.find? (fun l => decide (l.src = src)) with
    | none => s
    | some l =>
      if l.count = 0 then { s with io := { s.io with lims := s.io.lims.filter (fun m => decide (m.src ≠ src)) } }
      else
        let s := s.postReport src l.count l.detail
        { s with io := { s.io with lims := s.io.lims.map (fun m => if m.src = src then { m with count := 0 } else m) } }) s

end Sys2Proof.Machine
end

