-- ==== Sys2Proof/Machine/Eval.lean ====
section
/-! DEFINITION. EVALUATE: a feature vector takes an engine, is scored, and gets a reply or none (R273 to R288). -/

namespace Sys2Proof.Machine

/-- A member of the gang has a free leaf-table port (R280); `busy` says which hold an earlier vector. -/
def State.portFree (s : State) (n : Nat) (busy : List Bool) : Bool :=
  (List.range (s.gangSize n)).any (fun i => !(nthD busy i false))

/-- Replies in the engine's queue (R285). -/
def Prh.queued (p : Prh) : Nat := (p.replies.filter (fun r => !r.ibex)).length

/-- The frame is not scored: counted, reported with its reason (R281), and it goes to its fallback. -/
def State.notScored (s : State) (n : Nat) (v : Vec) (counter reason : Nat) : State :=
  ((s.prhEvalCount n counter).reportNotScored n reason v.frame.queue).unscored n v.frame.id 1

/-- Builds and queues the reply (R283 to R288). With the verdict known good it need not wait. -/
def State.queueReply (s : State) (n : Nat) (v : Vec) (e : Ens) (outs : List ScoreVal) : State :=
  let p := s.prh n
  let good := s.verdictOf n v.frame.id
  let full := decide (16 ≤ p.retracts.length)
  let r : Reply :=
    { bytes := buildReply e.template v.frame.bytes (fun _ => 0) v.frame.len outs e.frac p.seq, seq := p.seq, frameId := v.frame.id
      slot := v.ens, tags := fld e.template 2 1
      hold := s.rdb (Reg.MAC_QUEUE_CFG_HOLD_FCS n v.frame.queue) || full, good := good, paused := false, ibex := false }
  let s := s.setPrh n { p with seq := p.seq + 1, replies := p.replies ++ [r] }
  let s := if full && good.isNone then s.prhEvalCount n Reg.HELD_RETRACT_FULL else s
  match s.heldFrame n v.frame.id with
  | some f => ((s.dropHeld n f.id).setScore n f.id .none).freeCells n f.cellQ f.cells
  | none => s.setScore n v.frame.id .replied

/-- A bad verdict came before the reply was built: none is built (R286). -/
def State.cancelUnbuilt (s : State) (n : Nat) (v : Vec) : State :=
  let s := s.prhEvalCount n Reg.REPLY_CANCELLED
  match s.heldFrame n v.frame.id with
  | some f => ((s.dropHeld n f.id).setScore n f.id .none).freeCells n f.cellQ f.cells
  | none => s

/-- Scores the first vector handed to evaluation. -/
def State.evaluate (s : State) (n : Nat) (busy : List Bool) : State :=
  let p := s.prh n
  match p.handed with
  | [] => s
  | v :: rest =>
    let s := s.setPrh n { p with handed := rest }
    match NatMap.find p.ens v.ens with
    | none => s.unscored n v.frame.id 1
    | some e =>
      if s.portFree n busy = false then s.notScored n v Reg.NS_BUSY 3
      else
        let outs := (List.range e.nout).map (fun o => scoreOut e.trees v.bins e.nout o e.fixed (nthD e.base o 0))
        let q := v.frame.queue
        let lo := BitVec.ofNat 32 (s.rd (Reg.PRH_ESC_LO n q))
        let hi := BitVec.ofNat 32 (s.rd (Reg.PRH_ESC_HI n q))
        if (nthD outs 0 (.fp 0)).inBand lo hi then (s.prhEvalCount n Reg.ESCALATED).unscored n v.frame.id 3
        else if s.verdictOf n v.frame.id = some false then s.cancelUnbuilt n v
        else if 16 ≤ p.queued then s.notScored n v Reg.NS_TXFULL 4
        else s.queueReply n v e outs

def execEvaluate (n : MacNo) (busy : List Bool) (s : State) : Result :=
  actRim (fun s => if s.macPowered n.val then s.evaluate n.val busy else s) s

end Sys2Proof.Machine
end

