-- ==== Sys2Proof/Machine/Ibex.lean ====
section
/-! DEFINITION. The Ibex streamer (R294 to R301): requests, batches, models, and its commands. -/

namespace Sys2Proof.Machine

/-! ### Requests and batches (R294, R297, R298, R300) -/

/-- Vectors in the request buffer. -/
def Ibx.pending (x : Ibx) : Nat :=
  (x.opened ++ x.closed ++ x.streaming.toList).foldl (fun a b => a + b.vecs.length) 0

/-- A stop waits for IBX_CMD or its timeout (R298). -/
def Ibx.waitsHost (x : Ibx) : Bool := decide (0 < x.stops) && x.chosen.isNone

def Ibx.model? (x : Ibx) (m : Nat) : Option Model := NatMap.find x.models m

def State.setModel (s : State) (m : Nat) (x : Model) : State :=
  { s with ibx := { s.ibx with models := NatMap.ins s.ibx.models m x } }

/-- A request that cannot be scored goes to its model's unscored ring with FALLBACK and REASON 0; none when the ring is full.
An entry too small for it drops it (R300, R466, R469). -/
def State.toUnscored (s : State) (ring mac : Nat) (f : Frame) : Option State :=
  match s.offerRx ring mac { f with reason := 0 } with
  | (_, .waits) => none
  | (s, .unfit) => some ((s.queueDrop mac f.queue).ibxCount Reg.IBX_UNSCORED 1)
  | (s, .put) => some (s.ibxCount Reg.IBX_UNSCORED 1)

/-- A batch closes; in host-assisted mode the streamer stops each time (R297, R298). DEDUCED (log entry 136). -/
def State.closeBatch (s : State) (b : Batch) : State :=
  let s := { s with ibx := { s.ibx with
      opened := s.ibx.opened.filter (fun c => decide (c.model ≠ b.model)), closed := s.ibx.closed ++ [b] } }
  if s.assisted 7 then
    let s := { s with ibx := { s.ibx with stops := s.ibx.stops + 1 } }
    s.postOpenStop 7 Source.ibx [b.model, b.vecs.length]
  else s

/-- A vector joins its model's open batch, opening one at the first (R297). -/
def State.addVector (s : State) (m : Nat) (q : IbxReq) : State :=
  let b : Batch := match s.ibx.opened.find? (fun c => decide (c.model = m)) with
    | some b => { b with vecs := b.vecs ++ [q] }
    | none => { model := m, vecs := [q] }
  let s := { s with ibx := { s.ibx with opened := (s.ibx.opened.filter (fun c => decide (c.model ≠ m))) ++ [b] } }
  if s.rd Reg.IBX_CTRL_BATCH_MAX ≤ b.vecs.length then s.closeBatch b else s

/-- A DEST 2 queue hands a frame over (R294, R300); none: the queue waits. -/
def State.ibexRequest (s : State) (n model : Nat) (f : Frame) : Option State :=
  if 4096 ≤ s.ibx.pending then none
  else
    let g := { f with bytes := f.bytes.take 256 }
    match s.ibx.model? model with
    | none => some s
    | some m =>
      if m.st ≠ .ready then (s.toUnscored m.ring n g).map (fun s => s.report .modelAbsent model)
      else
        match s.parseAll n 64 (Ctx.start g model true) with
        | .vector b _ => some (s.addVector model { mac := n, frame := g, bins := some b })
        | _ => s.toUnscored m.ring n g

/-- BATCH_WAIT has passed since the model's batch opened. -/
def execBatchWaitExpire (model : ModelNo) (s : State) : Result :=
  actRim (fun s =>
    match s.ibx.opened.find? (fun c => decide (c.model = model.val)) with
    | some b => s.closeBatch b
    | none => s) s

/-! ### Trees of a shard (R295) -/

/-- Words of 32 bits from bytes. -/
def words32 (bs : List Byte) (a n : Nat) : List Nat := (List.range n).map (fun i => fld bs (a + 4 * i) 4)

/-- The trees of a shard from its bytes: each a head with its depth, its nodes and its leaves. -/
def shardTrees (nout : Nat) : Nat → List Byte → List Tree
  | 0, _ => []
  | k + 1, bs =>
    let d := (nthD bs 0 0).toNat % 16
    let nn := 2 ^ d - 1
    let nl := 2 ^ d * nout
    let size := 4 + 4 * nn + 4 * nl
    if d = 0 ∨ bs.length < size then []
    else { depth := d, nodes := words32 bs 4 nn, leaves := (words32 bs (4 + 4 * nn) nl).map (BitVec.ofNat 32) } ::
      shardTrees nout k (bs.drop size)

def State.shardBytes (s : State) (d : Shard) : List Byte := Mem.read (s.stk d.stack).mem d.addr d.size

def State.modelTrees (s : State) (m : Model) : List Tree :=
  m.shards.flatMap (fun d => shardTrees m.nout m.ntree (s.shardBytes d))

/-! ### Streaming (R296 to R298, R300) -/

/-- Reads every line of a shard; the flag says that a line could not be read. -/
def State.readShards (s : State) : List Shard → State × Bool
  | [] => (s, false)
  | d :: ds =>
    let down := decide ((s.stk d.stack).st = .down)
    let r := s.readLines d.stack (some (.block ibexPort)) (d.addr / 64) (ceilDiv d.size 64)
    let q := State.readShards r.state ds
    (q.1, down || r.poisoned || q.2)

/-- The model becomes absent, and is reported (R300). -/
def State.modelGone (s : State) (m : Nat) : State :=
  match s.ibx.model? m with
  | some x => (s.setModel m { x with st := .absent }).report .modelAbsent m
  | none => s

/-- The next closed batch: the one the host chose, else the oldest. -/
def Ibx.nextBatch (x : Ibx) : Option (Batch × List Batch) :=
  let i := match x.chosen with
    | some m => (x.closed.findIdx? (fun b => decide (b.model = m))).getD 0
    | none => 0
  (x.closed[i]?).map (fun b => (b, dropAt x.closed i))

/-- The free streamer streams the next closed batch. -/
def State.batchStream (s : State) : State :=
  if s.ibx.streaming.isSome = true ∨ s.ibx.waitsHost = true then s
  else
    match s.ibx.nextBatch with
    | none => s
    | some (b, rest) =>
      let s := { s with ibx := { s.ibx with
          streaming := some b, closed := rest, chosen := none, lastModel := b.model, lost := false } }
      match s.ibx.model? b.model with
      | none => { s with ibx := { s.ibx with lost := true } }
      | some m =>
        if m.st ≠ .ready then { s with ibx := { s.ibx with lost := true } }
        else
          let r := s.readShards m.shards
          if r.2 then
            let s := r.1.modelGone b.model
            { s with ibx := { s.ibx with lost := true } }
          else r.1

def execBatchStream (s : State) : Result := actRim State.batchStream s

/-- The reply of a scored vector (R283, R284, R297): never provisional, in the reply class of the ingress MAC. -/
def State.ibexReply (s : State) (m : Model) (trees : List Tree) (q : IbxReq) (b : List Nat) : State :=
  let outs := (List.range m.nout).map (fun o => scoreOut trees b m.nout o m.fixed (nthD m.base o 0))
  let r : Reply :=
    { bytes := buildReply m.template q.frame.bytes (Config.ibexCopyByte q.frame.ts) q.frame.len outs m.frac s.ibx.seq, seq := s.ibx.seq
      frameId := q.frame.id, slot := 0, tags := fld m.template 2 1, hold := false, good := some true, paused := false
      ibex := true }
  let s := { s with ibx := { s.ibx with seq := s.ibx.seq + 1 } }
  (s.updPrh q.mac (fun p => { p with replies := p.replies ++ [r] })).ibxCount Reg.IBX_VECTORS 1

/-- Hands the vectors of a lost batch to the unscored ring; what finds it full stays. -/
def State.batchUnscored (s : State) (ring : Nat) : List IbxReq → State × List IbxReq
  | [] => (s, [])
  | q :: qs =>
    match s.toUnscored ring q.mac q.frame with
    | some s => State.batchUnscored s ring qs
    | none => (s, q :: qs)

/-- The stream of a batch has passed: every vector is scored and answered, or goes unscored (R297, R300). -/
def State.batchComplete (s : State) : State :=
  match s.ibx.streaming with
  | none => s
  | some b =>
    match s.ibx.model? b.model with
    | none => { s with ibx := { s.ibx with streaming := none } }
    | some m =>
      if s.ibx.lost then
        let r := s.batchUnscored m.ring b.vecs
        { r.1 with ibx := { r.1.ibx with streaming := if r.2.isEmpty then none else some { b with vecs := r.2 } } }
      else
        let trees := s.modelTrees m
        let s := s.forEach b.vecs (fun s q =>
          match q.bins with
          | some v => s.ibexReply m trees q v
          | none => s)
        let s := s.ibxCount Reg.IBX_BATCHES 1
        { s with ibx := { s.ibx with streaming := none } }

def execBatchComplete (s : State) : Result := actRim State.batchComplete s

/-! ### Commands (R298, R301, R310) -/

/-- A batch of the model streams next, which answers a stop that waits. -/
def Ibx.choose (x : Ibx) (m : Nat) : Ibx := { x with stops := if x.chosen.isNone then x.stops - 1 else x.stops, chosen := some m }

/-- No command came within 50 us: the oldest closed batch runs. -/
def State.ibxTimeout (s : State) : State :=
  match s.ibx.waitsHost, s.ibx.closed with
  | true, b :: _ => { s with ibx := s.ibx.choose b.model }
  | _, _ => s

def execIbexStopTimeout (s : State) : Result := actRim State.ibxTimeout s

/-- RUN streams a closed batch of the model next; a later RUN names another one. DEDUCED (log entry 136). -/
def State.ibxRun (s : State) (m : Nat) : State :=
  if s.ibx.closed.any (fun b => decide (b.model = m)) then { s with ibx := s.ibx.choose m } else s

def execRun (model : ModelNo) (s : State) : Result := actRim (fun s => s.when s.host.linkUp (fun s => s.ibxRun model.val)) s

/-- SUSPEND makes the model absent; a batch already streaming finishes. -/
def State.ibxSuspend (s : State) (m : Nat) : State :=
  match s.ibx.model? m with
  | some x => if x.st = .ready ∨ x.st = .validating then s.modelGone m else s
  | none => s

def execSuspend (model : ModelNo) (s : State) : Result := actRim (fun s => s.when s.host.linkUp (fun s => s.ibxSuspend model.val)) s

/-- VALIDATE starts to recompute each shard's CRC. -/
def State.ibxValidate (s : State) (m : Nat) : State :=
  match s.ibx.model? m with
  | some x => if x.st = .none then s else s.setModel m { x with st := .validating }
  | none => s

def execValidate (model : ModelNo) (s : State) : Result := actRim (fun s => s.when s.host.linkUp (fun s => s.ibxValidate model.val)) s

/-- The model is ready when every CRC matches, and absent otherwise. -/
def execValidateComplete (model : ModelNo) (s : State) : Result :=
  actRim (fun s =>
    match s.ibx.model? model.val with
    | some x =>
      if x.st = .validating then
        let r := s.readShards x.shards
        let ok := !r.2 && x.shards.all (fun d => decide (crc32c (r.1.shardBytes d) = d.crc))
        r.1.setModel model.val { x with st := if ok then .ready else .absent }
      else s
    | none => s) s

/-- A write of IBX_CMD. -/
def State.ibxCmd (s : State) (op m : Nat) : State :=
  match op with
  | 1 => s.ibxRun m
  | 2 => s.ibxSuspend m
  | 3 => s.ibxValidate m
  | _ => s

end Sys2Proof.Machine
end

