-- ==== Sys2Proof/Machine/ImageChecks.lean ====
section
/-! DEFINITION. The checks of each section of an image (R184 to R191 and the chapters they name): whether a section
breaks a rule of its format. Every check reads the image and the state and changes nothing. -/

namespace Sys2Proof.Machine

/-- What a section's own check finds. -/
inductive Verdict where
  | ok
  /-- A failure with a sub-code of IMAGE_TARGET. -/
  | bad (sub : Nat)
  /-- A section of a type that the image lacks (sub-code 0x08). -/
  | missing (typ : Nat)
deriving DecidableEq, Repr

/-- Sub-code 0x07 unless the rules hold. -/
def Verdict.unless (ok : Bool) : Verdict := if ok then .ok else .bad 0x07

/-- The first failure. -/
def Verdict.and (a b : Verdict) : Verdict := if a = .ok then b else a

/-! ### Helpers -/

def zeroBytes (bs : List Byte) (a n : Nat) : Bool := (slice bs a n).all (fun b => decide (b = 0))

/-- The fields of a register table that a section sets. -/
def FieldRow.takes (f : FieldRow) (v : Nat) : Bool :=
  match f.chk with
  | .any => true
  | .range lo hi => decide (lo ≤ v ∧ v ≤ hi)
  | .zeroOr lo hi => decide (v = 0 ∨ (lo ≤ v ∧ v ≤ hi))
  | .cap => true

/-- A register value sets no reserved field and no reserved value. -/
def regValueOk (off v : Nat) : Bool :=
  match rowAt off with
  | none => false
  | some (r, _) =>
    let fs := r.fields.filter (fun f => decide (f.acc = .rw ∨ f.acc = .rwl))
    decide (fs.foldl (fun a f => setBits a f.hi f.lo 0) v = 0) && fs.all (fun f => f.takes (bits v f.hi f.lo))

def Image.sect (g : Image) (typ inst : Nat) : Option (List Byte) := sectOf g.sects typ inst

/-- The wafer index that the image gives, or the committed one. -/
def State.imageIndex (s : State) (g : Image) : Nat :=
  match g.sect SecType.role 0 with
  | some p => fld p 2 2
  | none => (s.img.committed.map Committed.index).getD 0

/-- A herd left without a place (R410). -/
def State.isAbsent (s : State) (h : Nat) : Bool := decide (h ∈ s.bru.map.absent)

/-! ### Wafer sections: ROLE, MODES (R186) -/

/-- DEDUCED (log entry 63). -/
def checkRole (p : List Byte) : Bool :=
  let role := fld p 0 1
  let idx := fld p 2 2
  decide (p.length = 32) && decide (role ≤ 2) && decide (fld p 1 1 = 0) && zeroBytes p 8 8 &&
    (if role = 2 then decide (1 ≤ idx ∧ idx ≤ 255) else decide (idx = 0) && zeroBytes p 16 16)

def checkModes (p : List Byte) : Bool :=
  decide (p.length = 16) && (p.take 9).all (fun b => decide (b.toNat ≤ 1)) && zeroBytes p 9 7

/-! ### PARTITION_MAP (R157, R158, R195) -/

def regionOfRec (r : List Byte) : Region :=
  let w := fld r 0 8
  { typ := bits w 3 0, mirror := bit w 4, shared := bit w 5, copyOf := bits w 11 8, base := fld r 8 2, size := fld r 10 2 }

/-- The 16 records of a stack's region table. -/
def mapRecs (p : List Byte) (k : Nat) : List (List Byte) := recsOf 16 (slice p (1024 + 256 * k) 256)

def pmapOf (p : List Byte) : PMap :=
  { home := (p.take 1024).map (fun b => b.toNat % 16)
    regions := (List.range 16).map (fun k => (mapRecs p k).map regionOfRec) }

/-- The rules of one record. -/
def regionRecOk (r : List Byte) : Bool :=
  let w := fld r 0 8
  let q := regionOfRec r
  if q.typ = 0 then zeroBytes r 0 16
  else decide (q.typ ≤ 7) && decide (bits w 7 6 = 0 ∧ bits w 63 12 = 0) && zeroBytes r 12 4 && decide (1 ≤ q.size) &&
    decide (q.base + q.size ≤ 1152) && (if q.typ = 6 then decide (1 ≤ q.copyOf ∧ q.copyOf ≤ 5) else decide (q.copyOf = 0)) &&
    (!q.mirror || decide (q.typ ≤ 4))

/-- No two regions of a list overlap. -/
def disjoint : List Region → Bool
  | [] => true
  | q :: qs => qs.all (fun r => decide (q.base + q.size ≤ r.base ∨ r.base + r.size ≤ q.base)) && disjoint qs

def ofType (rs : List Region) (t : Nat) : List Region := rs.filter (fun r => decide (r.typ = t))

/-- The partner has a copy region for every mirrored region of q's TYPE and size (R158). -/
def hasCopy (rs other : List Region) (q : Region) : Bool :=
  decide ((rs.filter (fun r => r.mirrored && decide (r.typ = q.typ ∧ r.size = q.size))).length ≤
    (other.filter (fun c => decide (c.typ = 6 ∧ c.copyOf = q.typ ∧ c.size = q.size))).length)

def stackMapOk (m : PMap) (k : Nat) : Bool :=
  let rs := (nthD m.regions k []).filter (fun r => decide (r.typ ≠ 0))
  let other := nthD m.regions (partner k) []
  disjoint rs &&
    (match ofType rs 7 with
     | [j] => decide (j.size = 32) && (ofType other 7).all (fun o => decide (o.base = j.base))
     | _ => false) &&
    (match ofType rs 5 with
     | [q] => hasCopy rs other q
     | _ => false) &&
    rs.all (fun q => !q.mirror || hasCopy rs other q) &&
    decide ((ofType rs 3).length ≤ 1) && decide ((ofType rs 4).length ≤ 1)

/-- DEDUCED (log entry 63). -/
def checkPmap (p : List Byte) : Bool :=
  decide (p.length = 5120) && (p.take 1024).all (fun b => decide (b.toNat < 16)) &&
    (List.range 16).all (fun k => (mapRecs p k).all regionRecOk) &&
    (List.range 16).all (stackMapOk (pmapOf p)) &&
    (nthD (pmapOf p).regions 0 []).any (fun r => decide (r.typ = 4 ∧ r.lo ≤ stagingBase ∧ stagingEnd ≤ r.hi))

/-- The state under the partition map of a whole image: no section gives the default (R157). -/
def State.underMap (s : State) (g : Image) : State :=
  if g.whole then { s with pmap := (g.sect SecType.partitionMap 0).map pmapOf } else s

/-! ### Routes (R133, R187, R410) -/

/-- A herd table gives an absent herd no route. DEDUCED (log entry 63). -/
def State.herdTabOk (s : State) (tab : NatMap Nat) : Bool :=
  s.bru.map.absent.all (fun h => decide (NatMap.get tab 7 h % 8 = 7))

def State.checkRouteTables (s : State) (p : List Byte) : Bool :=
  let rs := recsOf 552 p
  let ts := rs.map s.tableRec
  decide (p.length % 552 = 0) && rs.all (fun r => decide (fld r 0 4 < 2 ^ 20) && zeroBytes r 4 4) &&
    ts.all (fun t => s.herdTabOk t.herd) && !fillsClash (ts.flatMap (fun t => s.tableFills t.px t.py false t.herd))

def State.checkRouteLocal (s : State) (h : Nat) (p : List Byte) : Bool :=
  let rs := recsOf 520 p
  let ts := rs.map (s.localRec h)
  decide (p.length % 520 = 0) && rs.all (fun r => decide (fld r 0 2 < 1024) && zeroBytes r 2 6) &&
    !fillsClash (ts.flatMap (fun t => s.tableFills t.1.1 t.1.2 true t.2))

/-- What a BCAST_TREES payload fills into transit routers. -/
def State.bcastFills (s : State) (p : List Byte) : List (Nat × Nat × Nat) :=
  ((recsOf 4 p).map s.treeRec).flatMap (fun t => s.treeFills t.1.1 t.1.2 t.2.1 t.2.2)

/-- The herds that the image gives a BCAST_TREES. -/
def Image.bcastHerds (g : Image) : List Nat :=
  (g.sects.filter (fun x => decide (x.typ = SecType.bcastTrees))).map Sect.inst

/-- The fills that a herd's BCAST_TREES meets: those of the sections before it, and in a partial image those of the entries
that stay. -/
def State.otherFills (s : State) (g : Image) (h : Nat) : List (Nat × Nat × Nat) :=
  ((g.sects.takeWhile (fun x => !decide (x.typ = SecType.bcastTrees ∧ x.inst = h))).filter
    (fun x => decide (x.typ = SecType.bcastTrees))).flatMap (fun x => s.bcastFills x.payload) ++
  (if g.whole then []
   else s.standingFills (fun k => (s.lherd (herdOfPos k)).all (fun m => decide (m ∉ g.bcastHerds))))

/-- A record of a router of another herd fails with 0x09 when that herd lies outside HERD_MASK; two fills that give a transit
router two parents for a tree fail with 0x07, whichever sections they come from (R133). DEDUCED (log entry 63). -/
def State.checkBcast (s : State) (g : Image) (h : Nat) (p : List Byte) : Verdict :=
  let ws := (recsOf 4 p).map leNat
  let herd (w : Nat) : Nat := herdOfKey (tileKey (bits w 9 0) (bits w 19 10))
  if p.length % 4 ≠ 0 ∨ ws.any (fun w => decide (bits w 21 20 = 0 ∨ bits w 23 22 ≠ 0)) = true then .bad 0x07
  else if ws.any (fun w => decide (herd w ≠ h)) then
    (if g.whole = false ∧ ws.any (fun w => decide (herd w ∉ g.targets)) = true then .bad 0x09 else .bad 0x07)
  else .unless (!fillsClash (s.otherFills g h ++ s.bcastFills p))

/-! ### Tile programs, firmware, sequences, initial values (R51, R143, R188, R189) -/

/-- The image or the wafer has COMMON_TILE_FW. -/
def State.hasCommonFw (s : State) (g : Image) : Bool :=
  if g.whole then (g.sect SecType.commonTileFw 0).isSome else s.img.resident.any (fun e => decide (e.typ = SecType.commonTileFw))

def State.checkPrograms (s : State) (g : Image) (p : List Byte) : Bool :=
  let n := fld p 0 2
  let mp := slice p 8 1024
  decide (1 ≤ n ∧ n ≤ 254) && zeroBytes p 2 6 && decide (1032 + 8 * n ≤ p.length) &&
    mp.all (fun b => decide (b.toNat < n ∨ b.toNat = 0xFE) || (decide (b.toNat = 0xFF) && s.hasCommonFw g)) &&
    (List.range n).all (fun i =>
      let off := fld p (1032 + 8 * i) 4
      let size := fld p (1036 + 8 * i) 4
      decide (size % 4 = 0 ∧ size ≤ 8192 ∧ 1032 + 8 * n ≤ off ∧ off + size ≤ p.length))

def checkSeq (p : List Byte) : Bool :=
  let ws := (seqWords p).map BitVec.toNat
  decide (p.length % 4 = 0) && ws.all (fun w =>
    let op := w % 256
    decide ((1 ≤ op ∧ op ≤ 0x0A) ∨ (0x80 ≤ op ∧ op ≤ 0x83)) && (!decide (op = 0x82) || decide (w / 256 < ws.length)))

def InitRec.valid (r : InitRec) : Bool :=
  r.ok && decide (r.pos < 1024 ∨ r.pos = 0xFFFF) &&
    (if r.kind = 0 then decide (r.data.length = 8) && decide (r.off ∈ [tArith, tSeed, tStep, tSparse])
     else decide (r.kind = 1 ∧ r.off % 8 = 0 ∧ r.data.length % 8 = 0 ∧ r.off + r.data.length ≤ 40960))

def checkInit (p : List Byte) : Bool := (initRecs p.length p).all InitRec.valid

/-! ### COLLECTIVE_GROUPS (R185, R190, R205, R410) -/

def risingFrom : Nat → List Nat → Bool
  | _, [] => true
  | lo, x :: xs => decide (lo ≤ x) && risingFrom (x + 1) xs

def rising (l : List Nat) : Bool := risingFrom 0 l

def noRepeat (l : List Nat) : Bool := decide (l.eraseDups.length = l.length)

def State.groupRecOk (s : State) (g : Image) (r : List Byte) : Bool :=
  let n := fld r 4 4
  let q := groupOfRec r
  let idx := s.imageIndex g
  let here (m : Nat) : Bool := decide (m / 1024 = idx)
  decide (r.length = roundUp (16 + 4 * n) 8) && decide (fld r 0 1 ≤ 63) && decide (1 ≤ q.tree ∧ q.tree ≤ 3) &&
    decide (16 ≤ q.chunk ∧ q.chunk ≤ 30) && decide (fld r 3 1 = 0) && decide (1 ≤ n ∧ n ≤ 262144) && zeroBytes r 10 6 &&
    rising q.members && q.members.all (fun m => decide (m < 262144)) &&
    (decide (q.sender < 1024) || (decide (q.sender = 0xFFFF) && q.members.all here)) &&
    q.members.all (fun m => !(here m) || !(s.isAbsent (m % 1024))) &&
    (g.whole || (q.members.all (fun m => here m && decide (m % 1024 ∈ g.targets)) &&
      (match NatMap.find s.mesh.groups (fld r 0 1) with
       | some old => old.members.all (fun m => here m && decide (m % 1024 ∈ g.targets))
       | none => true)))

def State.checkGroups (s : State) (g : Image) (p : List Byte) : Bool := (groupRecs p.length p).all (s.groupRecOk g)

/-- No two records of COLLECTIVE_GROUPS name one group number (R185). -/
def Sect.groupsOnce (x : Sect) : Bool :=
  !decide (x.typ = SecType.collectiveGroups) || noRepeat ((groupRecs x.payload.length x.payload).map (fun r => fld r 0 1))

/-! ### MAC_CONFIG and QUEUE_MAP (R208, R210, R219, R223, R237) -/

/-- The 64-bit values of a section. -/
def words64 (p : List Byte) : List Nat := (recsOf 8 p).map leNat

/-- MODE that the image gives a MAC. -/
def Image.macMode (g : Image) (n : Nat) : Nat :=
  match g.sect SecType.macConfig n with
  | some p => fld p 0 8 % 8
  | none => 0

/-- A MAC's mode forms a gang of R208. -/
def Image.gangOk (g : Image) (n : Nat) : Bool :=
  match g.macMode n with
  | 2 => decide (n % 2 = 0 ∧ g.macMode (n + 1) = 4)
  | 3 => decide (n % 4 = 0 ∧ g.macMode (n + 1) = 4 ∧ g.macMode (n + 2) = 4 ∧ g.macMode (n + 3) = 4)
  | 4 => decide (n % 2 = 1 ∧ g.macMode (n - 1) = 2) || decide (n % 4 ≠ 0 ∧ g.macMode (n / 4 * 4) = 3)
  | _ => true

def Image.leads (g : Image) (n : Nat) : Bool := decide (1 ≤ g.macMode n ∧ g.macMode n ≤ 3)

def Image.follows (g : Image) (n : Nat) : Bool := decide (g.macMode n = 4)

def Image.cells (g : Image) (n : Nat) : Nat := 1024 * (if g.macMode n = 3 then 4 else if g.macMode n = 2 then 2 else 1)

def Image.maxLen (g : Image) (n : Nat) : Nat :=
  match g.sect SecType.macConfig n with
  | some p => bits (fld p 0 8) 19 6
  | none => 1518

def Image.checkMac (g : Image) (n : Nat) (p : List Byte) : Bool :=
  let ws := words64 p
  let offs := [Reg.MAC_CTRL n, Reg.MAC_PFC_CFG n] ++ (List.range 4).map (Reg.MAC_STATION_ADDR n)
  let pfc := nthD ws 1 0
  decide (p.length = 48) && (offs.zip ws).all (fun e => regValueOk e.1 e.2) && g.gangOk n &&
    decide (bits pfc 43 31 < bits pfc 30 18)

/-- The queue configurations that the image gives a port. -/
def Image.queues (g : Image) (n : Nat) : List Nat :=
  match g.sect SecType.queueMap n with
  | some p => (words64 p).drop 32
  | none => []

def qDest (v : Nat) : Nat := v % 8
def qArg (v : Nat) : Nat := bits v 15 3

/-- R219 for one queue. -/
def queueOk (qs : List Nat) (v : Nat) : Bool :=
  match qDest v with
  | 0 => decide (qArg v = 0)
  | 1 => decide (qArg v < 16) &&
      (match qs[bits v 19 16]? with
       | some f => decide (2 ≤ qDest f ∧ qDest f ≤ 4)
       | none => false)
  | 3 => decide (qArg v < 4096) && !(bit v 20)
  | _ => decide (qArg v < 4096)

/-- A stream record of the image's JOURNAL_STREAMS. -/
def Image.streamRec (g : Image) (n : Nat) : Option (List Byte) :=
  match g.sect SecType.journalStreams 0 with
  | some p => (recsOf 16 (p.drop 8256)).find? (fun r => decide (fld r 0 2 = n))
  | none => none

/-- A DEST 3 queue names a RIM stream whose items hold the MAC's longest frame (R354). -/
def Image.rimStreamOk (g : Image) (n stream : Nat) : Bool :=
  match g.streamRec stream with
  | some r => decide (fld r 2 1 = 2 ∧ g.maxLen n ≤ fld r 8 4)
  | none => false

/-- Slots of the port's ENSEMBLE sections. -/
def Image.slots (g : Image) (n : Nat) : List Nat :=
  (g.sects.filter (fun x => decide (x.typ = SecType.ensemble ∧ x.inst = n))).map (fun x => fld x.payload 0 1)

/-- The records of every IBEX_TREES section, each with its stack and payload. -/
def Image.shardRecs (g : Image) : List (Nat × List Byte × List Byte) :=
  (g.sects.filter (fun x => decide (x.typ = SecType.ibexTrees))).flatMap (fun x =>
    (recsOf 96 (slice x.payload 64 (96 * fld x.payload 0 4))).map (fun r => (x.inst, x.payload, r)))

/-- What the queues of a port ask of other sections (R262, R293 to R295). -/
def Image.queueNeeds (g : Image) (n : Nat) (v : Nat) : Verdict :=
  let prog := (g.sect SecType.parseProgram n).isSome
  if qDest v = 1 then
    if prog = false then .missing SecType.parseProgram
    else if qArg v ∈ g.slots n then .ok else .missing SecType.ensemble
  else if qDest v = 2 then
    if prog = false then .missing SecType.parseProgram
    else if g.shardRecs.any (fun e => decide (fld e.2.2 0 2 = qArg v)) then .ok else .missing SecType.ibexTrees
  else if qDest v = 3 then .unless (g.rimStreamOk n (qArg v))
  else .ok

/-- DEDUCED (log entry 64). -/
def Image.checkQueues (g : Image) (n : Nat) (p : List Byte) : Verdict :=
  let ws := words64 p
  let qs := ws.drop 32
  let offs := (List.range 32).map (Reg.MAC_FILTER_RULE n) ++ (List.range 16).map (Reg.MAC_QUEUE_CFG n)
  let pool := g.cells n
  let ok := decide (p.length = 384) && (offs.zip ws).all (fun e => regValueOk e.1 e.2) && !g.follows n &&
    qs.all (queueOk qs) && qs.all (fun v => decide (bits v 37 25 ≤ bits v 50 38 ∧ bits v 50 38 ≤ pool)) &&
    decide (qs.foldl (fun a v => a + bits v 37 25) 0 ≤ pool)
  (Verdict.unless ok).and (qs.foldl (fun a v => a.and (g.queueNeeds n v)) .ok)

/-! ### JOURNAL_STREAMS (R353, R354, R410) -/

/-- Bytes that snapshots need of a stack: 2 x (2 + G) MiB for each of its home herds. -/
def State.snapNeed (s : State) (p : List Byte) (k : Nat) : Nat :=
  (List.range 1024).foldl (fun a h => if s.homeStack h = k then a + 2 * (2 + fld p (64 + 8 * h) 1) * 2 ^ 20 else a) 0

def State.snapFits (s : State) (p : List Byte) (k : Nat) : Bool :=
  match s.regionOf k 5 with
  | some r => decide (s.snapNeed p k ≤ r.size * mib64)
  | none => false

def State.herdRecOk (s : State) (p : List Byte) (h : Nat) : Bool :=
  let r := slice p (64 + 8 * h) 8
  let size := fld r 2 2
  let base := fld r 4 2
  decide (fld r 0 1 ≤ 40) && zeroBytes r 6 2 &&
    (decide (size = 0) || (s.regions (s.homeStack h)).any (fun q =>
      decide (q.typ = 2 ∧ q.base ≤ base ∧ base + size ≤ q.base + q.size)))

def State.streamRecOk (s : State) (g : Image) (r : List Byte) : Bool :=
  let kind := fld r 2 1
  let arg := fld r 6 2
  let mac := fld r 12 1
  decide (fld r 0 2 < 4096) && decide (1 ≤ kind ∧ kind ≤ 4) && decide (fld r 3 1 = 0) && decide (fld r 4 2 < 1024) &&
    !(s.isAbsent (fld r 4 2)) &&
    (match kind with
     | 1 => decide (arg < 4096)
     | 2 => decide (arg = 0)
     | 3 => decide (arg < 1024) && !(s.isAbsent arg)
     | _ => decide (arg < 256)) &&
    decide (64 ≤ fld r 8 4 ∧ fld r 8 4 ≤ 1048576) &&
    (if kind = 2 then decide (mac = 0xFF) || (decide (mac < 16) && g.leads mac) else decide (mac = 0)) && zeroBytes r 13 3

/-- DEDUCED (log entry 63). -/
def State.checkStreams (s : State) (g : Image) (p : List Byte) : Bool :=
  let s := s.underMap g
  let n := fld p 0 2
  let rs := recsOf 16 (p.drop 8256)
  let ms := fld p 2 2
  decide (n ≤ 4096) && decide (p.length = 8256 + 16 * n) && decide (ms = 0 ∨ (50 ≤ ms ∧ ms ≤ 500)) && zeroBytes p 24 40 &&
    (List.range 1024).all (s.herdRecOk p) && rs.all (s.streamRecOk g) && rising (rs.map (fun r => fld r 0 2)) &&
    (List.range 16).all (s.snapFits p) &&
    (List.range 16).all (fun m => (g.queues m).all (fun v => !decide (qDest v = 3) || g.rimStreamOk m (qArg v)))

/-! ### POWER_POLICY (R431, R437, R438) -/

/-- A header field: its offset, length, range and default. -/
def policyFields : List (Nat × Nat × Nat × Nat × Nat) :=
  [(0, 2, 1000, 24000, 24000), (2, 2, 1000, 24000, 12000), (4, 2, 1000, 30000, 25000), (6, 1, 70, 105, 95),
   (7, 1, 80, 105, 100), (8, 1, 1, 20, 5), (9, 1, 70, 95, 95), (10, 2, 1, 400, 16), (12, 2, 1, 1600, 400),
   (14, 2, 1, 10000, 100), (16, 2, 100, 5000, 1000), (18, 2, 1, 1000, 10)]

/-- Header field i, with its default for 0. -/
def policyField (p : List Byte) (i : Nat) : Nat :=
  let f := nthD policyFields i (0, 0, 0, 0, 0)
  let v := fld p f.1 f.2.1
  if v = 0 then f.2.2.2.2 else v

/-- The domains whose FLOOR and CEIL are fixed (R431). -/
def pdFixed (d : Nat) : Bool := decide ((66 ≤ d ∧ d ≤ 81) ∨ d = 91 ∨ d = 92 ∨ d = 94)

def pdElastic (d : Nat) : Bool := decide (d ≤ 65)

def domRecOk (p : List Byte) (d : Nat) : Bool :=
  let r := slice p (64 + 8 * d) 8
  let floor := fld r 0 2
  let ceil := fld r 2 2
  decide (floor ≤ ceil) && (!(pdFixed d) || decide (floor = ceil)) &&
    (if pdElastic d then decide (80 ≤ floor) else decide ((Dom.default d).floor ≤ floor)) &&
    decide (fld r 4 1 ≤ 3) && decide (1 ≤ fld r 5 1) && decide (fld r 6 1 ≤ 18) && decide (fld r 7 1 = 0)

def policyFloors (p : List Byte) : Nat :=
  (List.range 96).foldl (fun a d => if d = 64 ∨ d = 65 then a else a + fld p (64 + 8 * d) 2) 0

/-- DEDUCED (log entry 64). -/
def checkPolicy (p : List Byte) : Bool :=
  decide (p.length = 832) &&
    (List.range 12).all (fun i => let f := nthD policyFields i (0, 0, 0, 0, 0)
      decide (f.2.2.1 ≤ policyField p i ∧ policyField p i ≤ f.2.2.2.1)) &&
    decide (fld p 2 2 ≤ policyField p 0) && zeroBytes p 20 44 && (List.range 96).all (domRecOk p) &&
    decide (policyFloors p ≤ 4 * (policyField p 0 - 1000))

/-! ### BRINGUP_SCRIPT (R420) -/

def stepOk (last : Bool) (r : List Byte) : Bool :=
  let arg := fld r 2 6
  decide (fld r 1 1 = 0) &&
    (match fld r 0 1 with
     | 0 => last && decide (arg = 0)
     | 1 => !last && decide (arg < 2 ^ 22 ∧ bits arg 10 0 < 1089 ∧ bits arg 21 11 < 1056)
     | 2 => !last && decide (arg < 2 ^ 11 ∧ bits arg 5 0 < 33)
     | 3 => !last && decide (arg = 0)
     | 4 => !last && decide (arg < 2 ^ 16)
     | 5 => !last && decide (arg < 8)
     | 6 => !last && decide (arg = 0)
     | _ => false)

def checkScript (p : List Byte) : Bool :=
  let n := fld p 0 4
  let rs := recsOf 8 (p.drop 64)
  decide (1 ≤ n ∧ n ≤ 8184) && decide (p.length = 64 + 8 * n) && zeroBytes p 4 60 &&
    (rs.zipIdx).all (fun e => stepOk (decide (e.2 + 1 = n)) e.1)

/-! ### TIME_CONFIG (R322) -/

def timeOffs : List Nat :=
  [Reg.TIME_CTRL, Reg.TIME_INC, Reg.TIME_RATE_SLEW, Reg.TIME_PPS_OUT_CFG] ++ (List.range 16).map Reg.TIME_ASYM

def Image.checkTime (g : Image) (p : List Byte) : Bool :=
  let src := fld p 160 1
  let mac := fld p 161 1
  decide (p.length = 256) && (timeOffs.zip (words64 p)).all (fun e => regValueOk e.1 e.2) && decide (src ≤ 3) &&
    (if src = 3 then decide (mac < 16) &&
      (match g.sect SecType.macConfig mac with
       | some c => bit (fld c 0 8) 23
       | none => false)
     else decide (mac = 0)) && zeroBytes p 162 6 && zeroBytes p 176 80

/-! ### PARSE_PROGRAM (R249, R251 to R253, R261, R262) -/

/-- HORIZON of a payload: 0 selects 128. -/
def progHorizon (p : List Byte) : Nat := if fld p 4 2 = 0 then 128 else fld p 4 2

def progNfeat (p : List Byte) : Nat := fld p 2 2

def insOk (n horizon i w : Nat) : Bool :=
  match w % 64 with
  | 1 =>
    let width := bits w 13 12 + 1
    let nb := bits w 34 29
    decide (bits w 63 41 = 0 ∧ 1 ≤ nb ∧ nb ≤ 32 ∧ bits w 28 24 + nb ≤ 8 * width) &&
      (bit w 10 || decide (bits w 23 16 + width ≤ horizon))
  | 2 => decide (bits w 63 14 = 0 ∧ bits w 13 10 ≤ 7)
  | 3 => decide (bits w 31 23 = 0 ∧ bits w 22 19 ≤ 10)
  | 4 => decide (bits w 9 6 = 0 ∧ bits w 31 17 = 0)
  | 5 => decide (bits w 31 24 = 0 ∧ bits w 17 15 ≤ 6 ∧ i < bits w 23 18 ∧ bits w 23 18 < n)
  | 6 => decide (bits w 9 6 = 0 ∧ bits w 15 14 = 0 ∧ bits w 63 22 = 0)
  | 7 => decide (bits w 63 7 = 0)
  | _ => false

def isNaN32 (typ : Nat) (v : BitVec 32) : Bool := decide (boundValue typ v = .nan)

/-- Boundaries strictly rising and finite. -/
def boundsOk (typ : Nat) : List (BitVec 32) → Bool
  | [] => true
  | [b] => (boundValue typ b).isFin
  | b :: c :: r => (boundValue typ b).isFin && Num.lt (boundValue typ b) (boundValue typ c) && boundsOk typ (c :: r)

/-- A descriptor at index i, with those below it. -/
def descOk (nbound : Nat) (bounds : List (BitVec 32)) (below : List Feat) (w0 w1 : Nat) : Bool :=
  let d := Feat.ofWords w0 w1
  let i := below.length
  let ecard (f : Nat) : Nat := (below[f]?.map Feat.ecard).getD 0
  decide (bits w0 7 6 = 0 ∧ bits w0 15 14 = 0) &&
    (match d.kind with
     | 0 => decide (d.typ = 0 ∧ d.boff = 0 ∧ d.mapBin ≤ d.cardM1 + 1) && !d.map
     | 1 => decide (d.typ ≤ 4 ∧ d.mapBin ≤ d.cardM1 + 1 ∧ 1 ≤ d.cardM1 ∧ d.cardM1 ≤ 255 ∧ d.boff + d.cardM1 ≤ nbound) &&
        boundsOk d.typ ((bounds.drop d.boff).take d.cardM1) && !(isNaN32 d.typ d.lo) && !(isNaN32 d.typ d.hi) &&
        !(Num.lt (boundValue d.typ d.hi) (boundValue d.typ d.lo))
     | 2 => decide (d.typ ≤ 4 ∧ d.mapBin ≤ d.cardM1 + 1 ∧ d.boff = 0) && !(isNaN32 d.typ d.lo) &&
        decide (-31 ≤ d.shift ∧ d.shift ≤ 31) && decide (d.hi.toNat < 256)
     | _ => decide (d.typ = 0 ∧ d.boff = 0 ∧ d.mapBin ≤ d.cardM1 + 1 ∧ d.lo.toNat < i ∧ d.hi.toNat < i) && !d.map && decide (d.lo.toNat < 64 ∧ d.hi.toNat < 64) &&
        decide (d.cardM1 + 1 = ecard d.lo.toNat * ecard d.hi.toNat))

/-- The descriptors in index order. -/
def descsOk (nbound : Nat) (bounds : List (BitVec 32)) : List Feat → List (List Byte) → Bool
  | _, [] => true
  | below, r :: rs => descOk nbound bounds below (fld r 0 8) (fld r 8 8) &&
      descsOk nbound bounds (below ++ [Feat.ofWords (fld r 0 8) (fld r 8 8)]) rs

def progIns (p : List Byte) : List Nat := words64 (slice p 64 (8 * fld p 0 2))
def progDescs (p : List Byte) : List (List Byte) := recsOf 16 (slice p (64 + 8 * fld p 0 2) (16 * fld p 2 2))
def progBounds (p : List Byte) : List (BitVec 32) :=
  (words32 p (64 + 8 * fld p 0 2 + 16 * fld p 2 2) (fld p 6 2)).map (BitVec.ofNat 32)

/-- DEDUCED (log entry 64). -/
def Image.checkProg (g : Image) (n : Nat) (p : List Byte) : Bool :=
  let ni := fld p 0 2
  let nf := progNfeat p
  let nb := fld p 6 2
  let hz := fld p 4 2
  decide (1 ≤ ni ∧ ni ≤ 64 ∧ 1 ≤ nf ∧ nf ≤ 64 ∧ nb ≤ 3072 ∧ p.length = 64 + 8 * ni + 16 * nf + 4 * nb) && zeroBytes p 8 56 &&
    decide (hz = 0 ∨ (hz % 8 = 0 ∧ 16 ≤ hz ∧ hz ≤ 256)) &&
    (progIns p).zipIdx.all (fun e => insOk ni (progHorizon p) e.2 e.1) &&
    decide (nthD (progIns p) (ni - 1) 0 % 64 = 7) && descsOk nb (progBounds p) [] (progDescs p) && !g.follows n

/-! ### ENSEMBLE (R271 to R273, R282, R292, R293) -/

/-- An FP32 leaf or base is finite and below 2^100 in magnitude. -/
def leafOk (fixed : Bool) (v : BitVec 32) : Bool := fixed || decide (bits v.toNat 30 23 < 227)

/-- The template of R282. DEDUCED (log entry 64). -/
def templateOk (t : List Byte) (fixed : Bool) (nout horizon : Nat) : Bool :=
  let tlen := fld t 0 2
  let sq := fld t 6 2
  let cs := fld t 8 2
  decide (60 ≤ tlen ∧ tlen ≤ 252 ∧ fld t 2 1 ≤ 2 ∧ fld t 3 1 ≤ 8 ∧ 1 ≤ fld t 4 1 ∧ fld t 4 1 ≤ 8 ∧ fld t 5 1 = 0) &&
    decide (sq = 0xFFFF ∨ sq + 4 ≤ tlen) && decide (cs = 0xFFFF ∨ cs + 2 ≤ tlen) && zeroBytes t 14 2 &&
    (List.range (fld t 3 1)).all (fun i =>
      let a := 16 + 4 * i
      decide (fld t a 1 < horizon ∧ 1 ≤ fld t (a + 2) 1 ∧ fld t (a + 2) 1 ≤ 16 ∧ fld t (a + 1) 1 + fld t (a + 2) 1 ≤ tlen ∧
        fld t (a + 3) 1 = 0)) &&
    (List.range (fld t 4 1)).all (fun i =>
      let a := 48 + 4 * i
      let form := fld t (a + 2) 1
      decide (fld t (a + 1) 1 < nout ∧ form ≤ 5 ∧ fld t a 1 + (if form ≤ 3 then 4 else 8) ≤ tlen ∧ fld t (a + 3) 1 = 0) &&
        (fixed || decide (form ≤ 1))) &&
    decide (t.length = 80 + roundUp tlen 8) && zeroBytes t (80 + tlen) (roundUp tlen 8 - tlen)

/-- The places of the parts of an ENSEMBLE payload. -/
structure EnsParts where
  depths : List Nat
  nodeAt : Nat
  leafAt : Nat
  tplAt  : Nat
  total  : Nat

def ensParts (p : List Byte) : EnsParts :=
  let nt := fld p 4 2
  let depths := (slice p 64 nt).map BitVec.toNat
  let nodes := depths.foldl (fun a d => a + (2 ^ d - 1)) 0
  let nodeAt := 64 + roundUp nt 8
  let leafAt := nodeAt + roundUp (4 * nodes) 8
  let tplAt := leafAt + 4 * fld p 8 4
  { depths := depths, nodeAt := nodeAt, leafAt := leafAt, tplAt := tplAt, total := tplAt + fld p 6 2 }

/-- The trees of an ENSEMBLE payload, from a node and a leaf offset on. -/
def ensTrees (p : List Byte) (nout : Nat) : List Nat → Nat → Nat → List Tree
  | [], _, _ => []
  | d :: ds, na, la =>
    { depth := d, nodes := words32 p na (2 ^ d - 1), leaves := (words32 p la (2 ^ d * nout)).map (BitVec.ofNat 32) } ::
      ensTrees p nout ds (na + 4 * (2 ^ d - 1)) (la + 4 * (2 ^ d * nout))

def ensOf (p : List Byte) : Ens :=
  let q := ensParts p
  { nout := fld p 1 1, fixed := decide (fld p 2 1 = 1), frac := fld p 3 1
    trees := ensTrees p (fld p 1 1) q.depths q.nodeAt q.leafAt
    base := (words32 p 16 8).map (BitVec.ofNat 32), template := slice p q.tplAt (fld p 6 2) }

/-- DEDUCED (log entry 64). -/
def nodeOk (nfeat w : Nat) : Bool := decide (w < 2 ^ 22 ∧ bits w 21 16 < nfeat)

/-- DEDUCED (log entry 64). -/
def treeOk (fixed : Bool) (nfeat : Nat) (t : Tree) : Bool := t.nodes.all (nodeOk nfeat) && t.leaves.all (leafOk fixed)

def Image.nfeat (g : Image) (n : Nat) : Nat := ((g.sect SecType.parseProgram n).map progNfeat).getD 0
def Image.horizon (g : Image) (n : Nat) : Nat := ((g.sect SecType.parseProgram n).map progHorizon).getD 128

/-- The ENSEMBLE payloads of a port up to the one for a slot, in section-table order: a total that passes its limit is
found at the section that passes it. DEDUCED (log entry 61). -/
def ensUpTo (slot : Nat) : List (List Byte) → List (List Byte)
  | [] => []
  | p :: ps => if fld p 0 1 = slot then [p] else p :: ensUpTo slot ps

def Image.ensembles (g : Image) (n slot : Nat) : List (List Byte) :=
  ensUpTo slot ((g.sects.filter (fun x => decide (x.typ = SecType.ensemble ∧ x.inst = n))).map Sect.payload)

/-- DEDUCED (log entry 64). -/
def Image.checkEns (g : Image) (n : Nat) (p : List Byte) : Bool :=
  let q := ensParts p
  let nout := fld p 1 1
  let nt := fld p 4 2
  decide (fld p 0 1 ≤ 15 ∧ 1 ≤ nout ∧ nout ≤ 8 ∧ fld p 2 1 ≤ 1 ∧ 1 ≤ nt ∧ nt ≤ 4096) &&
    (if fld p 2 1 = 0 then decide (fld p 3 1 = 0) else decide (fld p 3 1 ≤ 31)) && zeroBytes p 12 4 && zeroBytes p 48 16 &&
    q.depths.all (fun d => decide (1 ≤ d ∧ d ≤ 6)) && decide (p.length = q.total) &&
    zeroBytes p (64 + nt) (roundUp nt 8 - nt) &&
    (let e := q.nodeAt + 4 * q.depths.foldl (fun a d => a + (2 ^ d - 1)) 0
     zeroBytes p e (q.leafAt - e)) &&
    decide (fld p 8 4 = q.depths.foldl (fun a d => a + 2 ^ d * nout) 0) &&
    (ensOf p).trees.all (treeOk (ensOf p).fixed (g.nfeat n)) && (ensOf p).base.all (leafOk (ensOf p).fixed) &&
    ((ensOf p).base.drop nout).all (fun b => decide (b = 0)) &&
    templateOk (ensOf p).template (ensOf p).fixed nout (g.horizon n) &&
    decide ((g.ensembles n (fld p 0 1)).foldl (fun a e => a + ceilDiv (fld e 4 2) 256) 0 ≤ 16) &&
    decide ((g.ensembles n (fld p 0 1)).foldl (fun a e => a + fld e 8 4) 0 ≤ 1048576) && !g.follows n

/-- An ensemble for a slot that an earlier section of its port already fills, at section index i (R273). DEDUCED (log
entry 61). -/
def Image.slotTwice (g : Image) (i : Nat) (x : Sect) : Bool :=
  decide (x.typ = SecType.ensemble) && (g.sects.take i).any (fun y =>
    decide (y.typ = SecType.ensemble ∧ y.inst = x.inst ∧ fld y.payload 0 1 = fld x.payload 0 1))

/-! ### IBEX_TREES (R294, R295) -/

/-- A shard record with its stack: its fields. -/
structure ShardRec where
  stack : Nat
  model : Nat
  shard : Nat
  nshard : Nat
  nout  : Nat
  fixed : Bool
  frac  : Nat
  ntree : Nat
  first : Nat
  trees : Nat
  crc   : BitVec 32
  off   : Nat
  size  : Nat
  ring  : Nat
  tpl   : Nat
  base  : List (BitVec 32)
  /-- The bytes of the shard and of the section. -/
  data  : List Byte
  sect  : List Byte
  /-- Fields that must be 0, and ranges of single fields. -/
  ok    : Bool

def shardOfRec (k : Nat) (p r : List Byte) : ShardRec :=
  let off := fld r 24 8
  let size := fld r 32 4
  { stack := k, model := fld r 0 2, shard := fld r 2 1, nshard := fld r 3 1, nout := fld r 4 1, fixed := decide (fld r 5 1 = 1)
    frac := fld r 6 1, ntree := fld r 8 4, first := fld r 12 4, trees := fld r 16 4, crc := BitVec.ofNat 32 (fld r 20 4)
    off := off, size := size, ring := fld r 36 2, tpl := fld r 40 4, base := (words32 r 64 8).map (BitVec.ofNat 32)
    data := slice p off size, sect := p
    ok := decide (fld r 0 2 < 4096 ∧ fld r 2 1 < fld r 3 1 ∧ fld r 3 1 ≤ 16 ∧ 1 ≤ fld r 4 1 ∧ fld r 4 1 ≤ 8 ∧ fld r 5 1 ≤ 1 ∧
        fld r 6 1 ≤ 31 ∧ fld r 7 1 = 0 ∧ 1 ≤ fld r 8 4 ∧ fld r 8 4 ≤ 2 ^ 20 ∧ off % 64 = 0 ∧ off + size ≤ p.length ∧
        fld r 36 2 < 4096 ∧ fld r 38 2 = 0) &&
      zeroBytes r 44 20 && decide (fld r 5 1 = 1 ∨ fld r 6 1 = 0) &&
      decide (fld r 2 1 = 0 ∨ fld r 40 4 = 0) && (decide (fld r 2 1 = 0) || zeroBytes r 64 32) }

/-- The shard records of the image, in order. -/
def Image.shards (g : Image) : List ShardRec := g.shardRecs.map (fun e => shardOfRec e.1 e.2.1 e.2.2)

/-- The ports with a DEST 2 queue for a model. -/
def Image.ibexPorts (g : Image) (m : Nat) : List Nat :=
  (List.range 16).filter (fun n => (g.queues n).any (fun v => decide (qDest v = 2 ∧ qArg v = m)))

/-- The trees of the shard's data are whole, and nothing follows them. -/
def shardDataOk (nout : Nat) : Nat → List Byte → Bool
  | 0, bs => bs.isEmpty
  | k + 1, bs =>
    let d := fld bs 0 4
    let size := 4 + 4 * (2 ^ d - 1) + 4 * (2 ^ d * nout)
    decide (1 ≤ d ∧ d ≤ 10 ∧ size ≤ bs.length) && shardDataOk nout k (bs.drop size)

/-- The rules of one shard of a model. -/
def Image.shardOk (g : Image) (r : ShardRec) : Bool :=
  let mine := g.shards.filter (fun q => decide (q.model = r.model))
  let zero := mine.find? (fun q => decide (q.shard = 0))
  let per := (zero.map ShardRec.trees).getD 0
  r.ok && decide (mine.length = r.nshard) && noRepeat (mine.map ShardRec.shard) && noRepeat (mine.map ShardRec.stack) &&
    mine.all (fun q => decide (q.nshard = r.nshard ∧ q.nout = r.nout ∧ q.fixed = r.fixed ∧ q.frac = r.frac ∧ q.ntree = r.ntree ∧ q.ring = r.ring)) &&
    decide (r.first = per * r.shard) &&
    (if r.shard + 1 = r.nshard then decide (1 ≤ r.trees ∧ r.first + r.trees = r.ntree)
     else decide (r.trees = per) && (List.range 21).any (fun e => decide (per = 2 ^ e))) &&
    decide (crc32c r.data = r.crc) && shardDataOk r.nout r.trees r.data &&
    (shardTrees r.nout r.trees r.data).all (fun t => t.leaves.all (leafOk r.fixed) && t.nodes.all (fun w => decide (w < 2 ^ 22))) &&
    (g.ibexPorts r.model).all (fun n => (shardTrees r.nout r.trees r.data).all (fun t => t.nodes.all (nodeOk (g.nfeat n)))) &&
    (!decide (r.shard = 0) ||
      (let t := slice r.sect r.tpl (80 + roundUp (fld r.sect r.tpl 2) 8)
       decide (r.tpl + t.length ≤ r.sect.length) && r.base.all (leafOk r.fixed) && (r.base.drop r.nout).all (fun b => decide (b = 0)) &&
       (if (g.ibexPorts r.model).isEmpty then templateOk t r.fixed r.nout 256
        else (g.ibexPorts r.model).all (fun n => templateOk t r.fixed r.nout (g.horizon n)))))

/-- DEDUCED (log entry 64). -/
def State.checkTrees (s : State) (g : Image) (k : Nat) (p : List Byte) : Bool :=
  let n := fld p 0 4
  decide (64 + 96 * n ≤ p.length) && zeroBytes p 4 60 &&
    (match (s.underMap g).regionOf k 3 with
     | some r => decide (p.length ≤ r.size * mib64)
     | none => false) &&
    (g.shards.filter (fun r => decide (r.stack = k))).all g.shardOk

/-! ### REGISTER_INIT (R191) -/

def initBlock (off : Nat) : Bool :=
  match blockOf off with
  | some (b, _, _) => decide (b ∈ [Blk.glb, .pwr, .time, .mac, .prh, .ibx, .stk, .jrn, .flt])
  | none => false

def checkRegInit (p : List Byte) : Bool :=
  decide (p.length % 16 = 0) && (recsOf 16 p).all (fun r => decide (fld r 0 4 % 8 = 0) && zeroBytes r 4 4 && initBlock (fld r 0 4))

/-! ### A section -/

/-- The scope, the largest payload and whether a partial may carry a type (R184); none: reserved. -/
def typeRow (typ : Nat) : Option (Nat × Nat × Bool) :=
  ([(0x01, 0, 0x80_0000, false), (0x02, 0, 32, false), (0x03, 0, 16, false), (0x04, 0, 5120, false), (0x05, 0, 0x400_0000, false),
    (0x06, 1, 0x8_2000, true), (0x07, 1, 0x4000, true), (0x08, 1, 0x20_0000, true), (0x09, 0, 0x2000, false), (0x0A, 1, 0x4000, true),
    (0x0B, 1, 0x300_0000, true), (0x0C, 0, 0x100_0000, true), (0x0D, 0, 0x10_0000, false), (0x0E, 0, 0x1_0000, false),
    (0x0F, 0, 0x1_0000, false), (0x10, 2, 0x1000, false), (0x11, 2, 0x1000, false), (0x12, 0, 0x1000, false), (0x13, 2, 0x4000, false),
    (0x14, 2, 0x80_0000, false), (0x15, 3, 0x2000_0000, false), (0x16, 0, 0x10_0000, false)] : List (Nat × Nat × Nat × Bool)).find?
    (fun e => decide (e.1 = typ)) |>.map (fun e => (e.2.1, e.2.2.1, e.2.2.2))

/-- A section's own check (R193, step 6). -/
def State.checkSect (s : State) (g : Image) (x : Sect) : Verdict :=
  let p := x.payload
  if ((typeRow x.typ).map (fun e => e.2.1)).getD 0 < p.length then .bad 0x07
  else if x.scope = 1 ∧ s.isAbsent x.inst = true then .bad 0x07
  else
    match x.typ with
    | 0x02 => .unless (checkRole p)
    | 0x03 => .unless (checkModes p)
    | 0x04 => .unless (checkPmap p)
    | 0x05 => .unless (s.checkRouteTables p)
    | 0x06 => .unless (s.checkRouteLocal x.inst p)
    | 0x07 => s.checkBcast g x.inst p
    | 0x08 => .unless (s.checkPrograms g p)
    | 0x09 => .unless (decide (p.length % 4 = 0))
    | 0x0A => .unless (checkSeq p)
    | 0x0B => .unless (checkInit p)
    | 0x0C => .unless (s.checkGroups g p)
    | 0x0D => .unless (s.checkStreams g p)
    | 0x0E => .unless (checkPolicy p)
    | 0x0F => .unless (checkScript p)
    | 0x10 => .unless (g.checkMac x.inst p)
    | 0x11 => g.checkQueues x.inst p
    | 0x12 => .unless (g.checkTime p)
    | 0x13 => .unless (g.checkProg x.inst p)
    | 0x14 => .unless (g.checkEns x.inst p)
    | 0x15 => .unless (s.checkTrees g x.inst p)
    | 0x16 => .unless (checkRegInit p)
    | _ => .ok

end Sys2Proof.Machine
end

