-- ==== Sys2Proof/Machine/TimeOps.lean ====
section
/-! DEFINITION. The time unit (R314 to R345): the tick, its commands, PPS_OUT, and the writes of its registers
that do more than store. -/

namespace Sys2Proof.Machine

def State.setTime (s : State) (t : TimeU) : State := { s with time := t }

def State.timeOn (s : State) : Bool := s.pdOn 92

/-! ### PPS_OUT (R332) -/

/-- The period in 2^-16 ns. -/
def State.ppsPeriod (s : State) : Nat := s.rd Reg.TIME_PPS_OUT_CFG_PERIOD_NS * 2 ^ 16

/-- NEXT at or below the time goes on by whole periods to the first value above it, with no pulse. -/
def State.ppsSkip (s : State) : State :=
  let now := s.devTime.toNat
  let next := s.time.next.toNat
  if s.rdb Reg.TIME_CTRL_PPS_OUT_EN = true ∧ next ≤ now then
    let per := s.ppsPeriod
    s.setTime { s.time with next := BitVec.ofNat 80 (next + ((now - next) / per + 1) * per) }
  else s

/-- The level of the pin: PPS_OUT_POL 1 makes low the active level (R335). -/
def State.ppsPin (s : State) : Bool := s.time.pulse != s.rdb Reg.TIME_CTRL_PPS_OUT_POL

/-- The pin shows its level where that has changed. -/
def State.drivePps (s : State) (was : Bool) : State := if s.ppsPin = was then s else s.emit (.pps s.ppsPin)

/-- A pulse has lasted WIDTH_MS or half the period, whichever is shorter, in ticks of 16/25 ns. DEDUCED (log entry
131). -/
def State.pulseDue (s : State) : Bool :=
  decide (25 * min (s.rd Reg.TIME_PPS_OUT_CFG_WIDTH_MS * 1000000) (s.rd Reg.TIME_PPS_OUT_CFG_PERIOD_NS / 2)
    ≤ 16 * s.time.pulseAge)

/-- The pulse ends. -/
def State.pulseEnd (s : State) : State := (s.setTime { s.time with pulse := false }).drivePps s.ppsPin

/-- A pulse starts at the tick at which device time reaches NEXT. -/
def State.pulseStart (s : State) : State :=
  if s.rdb Reg.TIME_CTRL_PPS_OUT_EN = true ∧ s.time.next.toNat ≤ s.devTime.toNat then
    (s.setTime { s.time with pulse := true, pulseAge := 0
                             next := s.time.next + BitVec.ofNat 80 s.ppsPeriod }).drivePps s.ppsPin
  else s

/-- A tick of PPS_OUT: a pulse that has lasted its length ends at the latest now, and one that falls due starts. -/
def State.ppsTick (s : State) : State :=
  let s := if s.time.pulse = true ∧ s.pulseDue = true then s.pulseEnd else s
  (s.setTime { s.time with pulseAge := s.time.pulseAge + 1 }).pulseStart

/-! ### Events with timestamps (R334) -/

/-- An event with a timestamp joins a sequence: at its end, but among equal timestamps before the higher sources. -/
def putTimed {α : Type} (key : α → BitVec 80 × Nat) (e : α) : List α → List α
  | [] => [e]
  | x :: rest => if (key x).1 = (key e).1 ∧ (key e).2 < (key x).2 then e :: x :: rest else x :: putTimed key e rest

/-- An event reaches the event FIFO. -/
def State.timeEvent (s : State) (t : BitVec 80) (src : Nat) : State :=
  s.setTime { s.time with events := putTimed (fun e => (e.time, e.src)) ⟨t, src⟩ s.time.events }

/-- A frame reaches the management time path (R217, R326). -/
def State.ptpPut (s : State) (n : Nat) (f : Frame) : State :=
  (s.setTime { s.time with path := putTimed (fun e => (e.2.ts, e.1)) (n, f) s.time.path }).timeEvent f.ts n

/-! ### The tick (R317) -/

/-- The increment of a tick and the slew that remains. -/
def State.tickDelta (s : State) : Int × Int :=
  let inc : Int := s.rd Reg.TIME_INC_INC
  if s.rdb Reg.TIME_CTRL_MODE then
    let rate : Int := (BitVec.ofNat 32 (s.rd Reg.TIME_RATE_SLEW_RATE)).toInt
    let lim : Int := (s.rd Reg.TIME_RATE_SLEW_SLEW * 2 ^ 8 : Nat)
    let rem := s.time.rem
    let sl := if lim < rem then lim else if rem < -lim then -lim else rem
    (inc + inc * rate / 2 ^ 40 + sl, rem - sl)
  else (inc, s.time.rem)

/-- ADJ << 32, signed. -/
def adjShift (adj : Word) : Int := adj.toInt * 2 ^ 32

/-- A command lands (R319). -/
def State.landCmd (s : State) (c : TimeCmd) : State :=
  match c with
  | .step adj => (s.setTime { s.time with t := s.time.t + BitVec.ofInt 112 (adjShift adj) }).ppsSkip
  | .slew adj => s.setTime { s.time with rem := adjShift adj }
  | .load hi adj =>
    (s.setTime { s.time with t := BitVec.ofNat 112 ((hi.toNat * 2 ^ 64 + adj.toNat) * 2 ^ 32) }).ppsSkip
  | .cancel => s.setTime { s.time with rem := 0 }
  | .ack => s.setTime { s.time with stop := none }

/-- One tick of the time clock: the increment, a pulse that falls due, then the command that was written
first. -/
def State.tick (s : State) : State :=
  let d := s.tickDelta
  let s := s.setTime { s.time with
    t := s.time.t + BitVec.ofInt 112 d.1, rem := d.2
    sincePps := s.time.sincePps.map (fun n => min (n + 1) 781250000) }
  let s := s.ppsTick
  match s.time.cmds with
  | [] => s
  | c :: rest => (s.setTime { s.time with cmds := rest }).landCmd c

/-! ### Register writes that do more than store -/

def State.timeCmd (s : State) (c : TimeCmd) : State := s.setTime { s.time with cmds := s.time.cmds ++ [c] }

def State.timeAdj (s : State) : Word := BitVec.ofNat 64 (s.rd Reg.TIME_ADJ_ADJ)

/-- A write of TIME_CMD (R319, R340), which lands at the end of a tick. A SLEW in increment mode does nothing (R318). -/
def State.timeCommand (s : State) (op : Nat) (hi : BitVec 16) : State :=
  match op with
  | 1 => s.timeCmd (.step s.timeAdj)
  | 2 => if s.rdb Reg.TIME_CTRL_MODE then s.timeCmd (.slew s.timeAdj) else s
  | 3 => s.timeCmd (.load hi s.timeAdj)
  | 4 => s.timeCmd .ack
  | 5 => s.timeCmd .cancel
  | _ => s

/-- A write of TIME_CTRL (R318, R332, R335). -/
def State.timeCtrl (s : State) (v : Nat) : State :=
  let toInc := s.rdb Reg.TIME_CTRL_MODE && !(bit v 0)
  let was := s.ppsPin
  let s := s.setReg Reg.TIME_CTRL (BitVec.ofNat 64 (v % 32))
  let s := if toInc then s.setTime { s.time with rem := 0 } else s
  (if bit v 3 then s.ppsSkip else s.setTime { s.time with pulse := false }).drivePps was

/-- A write of TIME_PPS_OUT_NEXT takes the staged NEXT_HI with it (R332, R344). -/
def State.timeNext (s : State) (v : Word) : State :=
  (s.setTime { s.time with next := BitVec.ofNat 80 (s.time.nextHi.toNat * 2 ^ 64 + v.toNat) }).ppsSkip

/-- A read of TIME_NOW latches NOW_HI (R341). -/
def State.timeNow (s : State) : State × Word :=
  (s.setTime { s.time with nowHi := BitVec.ofNat 16 (s.devTime.toNat / 2 ^ 64) }, s.now64)

/-- POP of a transmit timestamp queue (R329). -/
def State.tsqPop (s : State) (n : Nat) : State :=
  s.setTime { s.time with tsq := NatMap.upd s.time.tsq [] n List.tail }

/-- The servo firmware writes TIME_INC, TIME_RATE_SLEW, TIME_ADJ and TIME_CMD (R320, R321): of its corrections, one
whose offset is larger than STEP_LIMIT is a STEP, any other a SLEW (R322). DESIGN CHOICE (log entry 47). -/
def State.applyFix (s : State) (f : ServoFix) : State :=
  let s := if f.inc = 0 then s else s.wr Reg.TIME_INC_INC f.inc.toNat
  let s := (s.wr Reg.TIME_RATE_SLEW_RATE f.rate.toNat).wr Reg.TIME_RATE_SLEW_SLEW f.slew.toNat
  let s := s.wr Reg.TIME_ADJ_ADJ f.adj.toNat
  match f.cmd with
  | .correct => s.timeCommand (if s.time.stepLimit.toNat < f.offset.toInt.natAbs then 1 else 2) 0
  | .load hi => s.timeCommand 3 hi
  | .cancel => s.timeCommand 5 0
  | .none => s

/-- The servo has an update point (R321): an accepted PPS_IN edge of an input that is not stuck, or an exchange with its
source, which through a MAC brought a frame on the management time path. DEDUCED (log entry 132). -/
def State.servoPoint (s : State) : Bool :=
  match s.time.servo with
  | 1 => s.time.edge && !s.time.stuck
  | 2 => true
  | 3 => s.time.path.any (fun e => decide (e.1 = s.time.servoMac))
  | _ => false

/-- The point is used up: the edge, or the frames that the source's MAC had brought. -/
def State.servoTaken (s : State) : State :=
  s.setTime { s.time with
    edge := s.time.edge && decide (s.time.servo ≠ 1)
    path := if s.time.servo = 3 then s.time.path.filter (fun e => decide (e.1 ≠ s.time.servoMac)) else s.time.path }

end Sys2Proof.Machine
end

