-- ==== Sys2Proof/Machine/Mac.lean ====
section
/-! DEFINITION. The commands of the frame MACs (R208 to R234, R285 to R289, R324 to R328, R355, R404, R405). -/

namespace Sys2Proof.Machine

/-! ### FRAME_RECEIVE (R212 to R225, R242, R243, R324) -/

/-- An ingress timestamp: device time at the plane, less RX_ASYM (R324, R325). -/
def State.rxStamp (s : State) (n : Nat) (sub : BitVec 16) : BitVec 80 :=
  s.devTime + BitVec.ofNat 80 sub.toNat - (BitVec.ofNat 32 (s.rd (Reg.TIME_ASYM_RX_ASYM n))).signExtend 80

/-- The frame as the MAC stores it: at most MAX_LEN bytes, with what its bytes say. -/
def State.rxFrame (s : State) (n : Nat) (w : WireFrame) : Frame :=
  let bs := w.bytes
  let maxLen := s.rd (Reg.MAC_CTRL_MAX_LEN n)
  let body := bs.take (bs.length - 4)
  { id := (s.mac n).nextId, bytes := bs.take maxLen, len := bs.length, slen := min bs.length maxLen, queue := 0
    prio := framePrio bs (s.rd (Reg.MAC_CTRL_DEF_PRIO n)), tags := frameTags bs, vid0 := frameVid0 bs
    vid1 := frameVid1 bs, etype := frameEtype bs, ts := s.rxStamp n w.sub
    fcsErr := !w.trunc && decide (fcs body ≠ bs.drop (bs.length - 4)), oversize := decide (maxLen < bs.length)
    pcsErr := w.pcsErr || w.fec.any (fun c => decide (0 < c.uncorr)), trunc := w.trunc, cellQ := 0, cells := 0, reason := 0 }

/-- The MAC holds the frame until its verdict. -/
def State.setRx (s : State) (n : Nat) (f : Frame) (way : RxWay) (dest1 : Bool) : State :=
  s.updMac n (fun m => { m with rx := some { frame := f, way := way, dest1 := dest1 }, nextId := m.nextId + 1 })

/-- Stores the frame in cells of queue q, or drops it whole (R222). DEDUCED (log entry 75). -/
def State.storeFrame (s : State) (n q : Nat) (f : Frame) (dest1 : Bool) : State :=
  let k := ceilDiv f.slen 256
  let r := s.takeCells n q 0 k
  if r.2 then r.1.setRx n { f with cellQ := q, cells := k } .queued dest1
  else ((r.1.macCount n Reg.RX_OVERFLOW_DROP 1).queueDrop n q).setRx n { f with cellQ := q } .overflow dest1

/-- A DEST 1 frame takes a parse context, or is not scored (R242, R243). -/
def State.takeContext (s : State) (n ens : Nat) (f : Frame) (bytes : List Byte) : State :=
  match (List.range (s.ctxCount n)).find? (fun c => (s.ctx n c).isNone) with
  | some c =>
    let s := s.setCtx n c (Ctx.start { f with bytes := bytes } ens false)
    (s.prhFrontCount n Reg.FRAMES_IN).setScore n f.id .parsing
  | none =>
    let s := s.prhFrontCount n Reg.NS_NO_CONTEXT
    (s.reportNotScored n 1 f.queue).setScore n f.id (.fallback 1)

/-- The codewords and symbols that the lanes of each MAC of the gang have corrected count at that MAC (R209, R233). -/
def State.countFec (s : State) (n : Nat) (cs : List FecCount) : State :=
  s.forEach (cs.filter (fun c => decide (c.mac.val ∈ s.gangOf n))) (fun s c =>
    ((s.macCount c.mac.val Reg.FEC_CORR_CW c.corr).macCount c.mac.val Reg.FEC_UNCORR_CW c.uncorr).macCount c.mac.val
      Reg.FEC_SYMBOLS c.symbols)

/-- A frame arrives whole but for its verdict: control frames, the destination address, the fixed matches, the
filter rules, the queue, its cells and its parse context. DEDUCED (log entry 8). DESIGN CHOICE (log entry 48).
DEDUCED (log entry 75). -/
def State.frameReceive (s : State) (n : Nat) (w : WireFrame) : State :=
  if s.macUp n = true ∧ (s.mac n).rx = none then
    let f := s.rxFrame n w
    let bs := w.bytes
    let s := s.countFec n w.fec
    if s.img.phase = .commit ∨ s.pwr.quiesce = true then (s.macCount n Reg.RX_OVERFLOW_DROP 1).setRx n f .disabled false
    else if f.etype = 0x8808 then s.setRx n f .control false
    else if s.daOk n bs = false then (s.macCount n Reg.RX_DA_DROP 1).setRx n f .dropDa false
    else if s.isHt bs then s.setRx n f .ht false
    else if s.rdb (Reg.MAC_CTRL_PTP_MGMT n) = true ∧ isPtp bs = true then s.setRx n f .ptp false
    else
      let q := s.chooseQueue n bs f.prio
      let f := { f with queue := q }
      match s.rd (Reg.MAC_QUEUE_CFG_DEST n q) with
      | 0 => (s.queueDrop n q).setRx n f .disabled false
      | 1 => (s.takeContext n (s.rd (Reg.MAC_QUEUE_CFG_ARG n q)) f bs).storeFrame n
          (s.rd (Reg.MAC_QUEUE_CFG_FALLBACK n q)) f true
      | _ => s.storeFrame n q f false
  else s

def execFrameReceive (m : MacNo) (f : WireFrame) (s : State) : Result := actRim (fun s => s.frameReceive m.val f) s

/-! ### FCS_VERDICT (R212 to R214, R220, R224, R286, R287) -/

/-- Counts the frame in exactly one counter (R214). -/
def State.countRx (s : State) (n : Nat) (f : Frame) : State :=
  if f.runt then s.macCount n Reg.RX_RUNT 1
  else if f.trunc then s.macCount n Reg.RX_TRUNC 1
  else if f.pcsErr then s.macCount n Reg.RX_PCS_ERR 1
  else if f.oversize then s.macCount n Reg.RX_OVERSIZE 1
  else if f.fcsErr then s.macCount n Reg.RX_FCS_ERR 1
  else (s.macCount n Reg.RX_FRAMES_OK 1).macCount n Reg.RX_BYTES_OK f.len

/-- A control frame is consumed: a pause or PFC frame is counted, and obeyed when it is good; any other is dropped (R214,
R227). -/
def State.takeControl (s : State) (n : Nat) (f : Frame) : State :=
  let o := 14 + 4 * f.tags
  let put (s : State) (mask : BitVec 8) (qs : List Nat) : State :=
    s.when f.good (fun s => s.updMac n (fun m => { m with ctl := m.ctl ++ [{ mask := mask, quanta := qs }] }))
  match be16 f.bytes o with
  | 0x0001 => put (s.macCount n Reg.RX_PAUSE 1) 0 [be16 f.bytes (o + 2)]
  | 0x0101 => put (s.macCount n Reg.RX_PFC 1) (BitVec.ofNat 8 (be16 f.bytes (o + 2)))
      ((List.range 8).map (fun p => be16 f.bytes (o + 4 + 2 * p)))
  | _ => s

/-- A DEST 1 frame at its tail: its contexts learn of the tail, and the engine of the verdict. -/
def State.tailDest1 (s : State) (n : Nat) (f : Frame) : State :=
  let s := s.updPrh n (fun p => { p with ctxs := p.ctxs.map (fun (e : Nat × Ctx) =>
    if e.2.frame.id = f.id then (e.1, { e.2 with tail := true }) else e) })
  match s.scoreOf n f.id with
  | .replied => ((s.setScore n f.id .none).freeCells n f.cellQ f.cells).judgeReply n f
  | .fallback r => (s.setScore n f.id .none).toFallback n f r
  | .none => s.freeCells n f.cellQ f.cells
  | _ => s.updMac n (fun m => { m with held := m.held ++ [f] })

/-- The verdict on the frame being received. -/
def State.fcsVerdict (s : State) (n : Nat) : State :=
  match (s.mac n).rx with
  | none => s
  | some x =>
    let f := x.frame
    let s := (s.updMac n (fun m => { m with rx := none })).countRx n f
    if x.dest1 then s.tailDest1 n f
    else
      match x.way with
      | .control => s.takeControl n f
      | .ht => if f.good then s.macCount n Reg.RX_HT 1 else s
      | .ptp =>
        if f.good then (s.macCount n Reg.RX_PTP_MGMT 1).ptpPut n f else s
      | .queued =>
        if f.good || (!f.runt && s.deliversBad n f.queue) then s.joinQueue n f
        else s.freeCells n f.cellQ f.cells
      | _ => s

def execFcsVerdict (m : MacNo) (s : State) : Result := actRim (fun s => s.fcsVerdict m.val) s

/-! ### QUEUE_DELIVER (R219 to R222, R294, R469) -/

/-- A frame whose tail came before the queue's next one, still with its engine, may yet take a place in the
queue. -/
def State.mayPrecede (s : State) (n q id : Nat) : Bool :=
  (s.mac n).held.any (fun f => decide (f.cellQ = q ∧ f.id < id ∧ 0 < f.cells))

/-- A frame is delivered, and counted; a bad one once more (R214, R234). -/
def State.countDelivered (s : State) (n q : Nat) (f : Frame) : State :=
  let s := s.count (Reg.MAC_QUEUE_STAT_FRAMES n q) 1
  if f.good then s else s.macCount n Reg.RX_BAD_DELIVERED 1

/-- Hands a frame to its queue's destination; none: the queue waits. -/
def State.handOver (s : State) (n q : Nat) (f : Frame) : Option State :=
  let arg := s.rd (Reg.MAC_QUEUE_CFG_ARG n q)
  match s.rd (Reg.MAC_QUEUE_CFG_DEST n q) with
  | 2 => (s.ibexRequest n arg f).map (fun s => s.countDelivered n q f)
  | 3 =>
    if s.pairTakes (s.streamPair arg) then
      some ((s.countDelivered n q f).arrive { stream := arg, src := n * 16 + q, tag := 0, payload := f.bytes, reinject := none
                                              ring := none, out := none, peer := none })
    else none
  | 4 =>
    match s.offerRx arg n f with
    | (_, .waits) => none
    | (s, .unfit) => some (s.queueDrop n q)
    | (s, .put) => some (s.countDelivered n q f)
  | _ => none

/-- The queue's next frame goes to its destination, and its cells are free. -/
def State.queueDeliver (s : State) (n q : Nat) : State :=
  match NatMap.get (s.mac n).queues [] q with
  | [] => s
  | f :: rest =>
    if s.mayPrecede n q f.id = true ∨ s.macPowered n = false then s
    else
      match s.handOver n q f with
      | none => s
      | some s =>
        let s := s.updMac n (fun m => { m with queues := NatMap.put m.queues [] q rest })
        s.freeCells n f.cellQ f.cells

def execQueueDeliver (m : MacNo) (q : Fin 16) (s : State) : Result := actRim (fun s => s.queueDeliver m.val q.val) s

/-! ### Pauses (R226, R227) -/

def setPause (ps : NatMap Nat) (p quanta : Nat) : NatMap Nat := NatMap.put ps 0 p quanta

/-- The MAC obeys a received pause or PFC frame for the priorities it honours. -/
def State.obeyPause (s : State) (n : Nat) (c : PauseIn) : State :=
  let honor := s.rd (Reg.MAC_PFC_CFG_RX_HONOR n)
  let mode := s.rd (Reg.MAC_PFC_CFG_FC_MODE n)
  if mode = 1 ∧ c.quanta.length = 1 then
    if bit honor 0 then s.updMac n (fun m => { m with paused := setPause m.paused 0 (nthD c.quanta 0 0) }) else s
  else if mode = 2 ∧ c.quanta.length = 8 then
    s.updMac n (fun m => { m with paused := (List.range 8).foldl (fun ps p =>
      if bit honor p = true ∧ c.mask.getLsbD p = true then setPause ps p (nthD c.quanta p 0) else ps) m.paused })
  else s

def execPauseFrameReceive (m : MacNo) (s : State) : Result :=
  actRim (fun s =>
    match (s.mac m.val).ctl with
    | [] => s
    | c :: rest => (s.updMac m.val (fun x => { x with ctl := rest })).obeyPause m.val c) s

/-- The pause of a priority has run out. -/
def execPauseExpire (m : MacNo) (p : Fin 8) (s : State) : Result :=
  actRim (fun s => s.updMac m.val (fun x => { x with paused := setPause x.paused p.val 0 })) s

/-- Half of PAUSE_QUANTA has passed with the priority still asserted: the frame is sent again. -/
def execPauseResend (m : MacNo) (p : Fin 8) (s : State) : Result :=
  actRim (fun s =>
    let x := s.mac m.val
    if x.xoff.getLsbD p.val then
      s.setMac m.val { x with fcOut := x.fcOut ++ [(BitVec.ofNat 8 (2 ^ p.val), s.rd (Reg.MAC_PFC_CFG_PAUSE_QUANTA m.val))] }
    else s) s

/-- The peer has paused a priority. -/
def State.isPaused (s : State) (n prio : Nat) : Bool :=
  let p := if s.rd (Reg.MAC_PFC_CFG_FC_MODE n) = 1 then 0 else prio
  decide (0 < NatMap.get (s.mac n).paused 0 p)

/-! ### TRANSMIT_START (R226, R228, R229, R285, R286, R326 to R328) -/

/-- A pause or PFC frame: reserved multicast address, STATION_ADDR0 as its source. -/
def State.flowFrame (s : State) (n : Nat) (mask : BitVec 8) (quanta : Nat) : List Byte :=
  let head := [0x01, 0x80, 0xC2, 0x00, 0x00, 0x01] ++ leBytes 6 (s.rd (Reg.MAC_STATION_ADDR_ADDR n 0)) ++ beBytes 2 0x8808
  if s.rd (Reg.MAC_PFC_CFG_FC_MODE n) = 1 then head ++ beBytes 2 0x0001 ++ beBytes 2 quanta
  else head ++ beBytes 2 0x0101 ++ beBytes 2 mask.toNat ++
    (List.range 8).flatMap (fun p => beBytes 2 (if mask.getLsbD p then quanta else 0))

/-- Pads to 60 bytes and appends the FCS. -/
def wireOf (bs : List Byte) : List Byte :=
  let b := bs ++ List.replicate (60 - bs.length) 0
  b ++ fcs b

/-- A frame enters the datapath; one longer than MAX_LEN is dropped and counted. -/
def State.putWire (s : State) (n : Nat) (bs : List Byte) : State × Bool :=
  let w := wireOf bs
  if s.rd (Reg.MAC_CTRL_MAX_LEN n) < w.length then (s.macCount n Reg.TX_OVERSIZE_DROP 1, false)
  else
    let s := (s.macCount n Reg.TX_FRAMES 1).macCount n Reg.TX_BYTES w.length
    ((s.updMac n (fun m => { m with sending := true })).emit (.frame n w), true)

/-- The egress timestamp: device time at the plane, plus TX_ASYM. -/
def State.txStamp (s : State) (n : Nat) (sub : BitVec 16) : BitVec 80 :=
  s.devTime + BitVec.ofNat 80 sub.toNat + (BitVec.ofNat 32 (s.rd (Reg.TIME_ASYM_TX_ASYM n))).signExtend 80

/-- An entry of the transmit timestamp queue, or its loss (R327, R328). -/
def State.tsqPut (s : State) (n : Nat) (id : BitVec 16) (ts : BitVec 80) : State :=
  let q := NatMap.get s.time.tsq [] n
  if q.length < 64 then { s with time := { s.time with tsq := NatMap.put s.time.tsq [] n (q ++ [(id, ts)]) } }
  else
    let s := s.count (Reg.TIME_TSQ_LOST_OVERFLOW n) 1
    let s := (s.wr (Reg.TIME_TSQ_LOST_LAST_ID n) id.toNat).wr (Reg.TIME_TSQ_LOST_VALID n) 1
    if h : n < 16 then s.report (.tsOverflow ⟨n, h⟩) (id.toNat * 2 ^ 16 + n * 2 ^ 32) else s

/-- The PTP header of a frame that takes a one-step update, and whether it lies in UDP (R326). -/
def oneStepAt (bs : List Byte) : Option (Nat × Bool) :=
  if frameEtype bs = 0x88F7 then some (14 + 4 * frameTags bs, false)
  else
    match ipv6Udp bs with
    | some o => if be16 bs (o + 42) = 319 then some (o + 48, true) else none
    | none => none

/-- Adds (egress - REF) to the correctionField, and mends the UDP checksum. -/
def oneStep (bs : List Byte) (at_ : Nat) (udp : Bool) (ts : BitVec 80) (ref : Word) : List Byte :=
  let old := slice bs (at_ + 8) 8
  let new := beBytes 8 (BitVec.ofNat 64 (beNat old) + (BitVec.ofNat 64 ts.toNat - ref)).toNat
  let b := patch bs (at_ + 8) new
  if udp then
    let cs := at_ - 2
    let sum := onesSum new (onesSum (old.map (fun x => ~~~x)) (0xFFFF - be16 bs cs))
    let c := 0xFFFF - sum
    patch b cs (beBytes 2 (if c = 0 then 0xFFFF else c))
  else b

/-- Sends a frame that may ask for a timestamp (R326). -/
def State.sendStamped (s : State) (n : Nat) (t : TxFrame) (sub : BitVec 16) : State :=
  let ts := s.txStamp n sub
  match t.tsMode, oneStepAt t.bytes with
  | 2, some (a, udp) => (s.putWire n (oneStep t.bytes a udp ts t.ref)).1
  | 0, _ => (s.putWire n t.bytes).1
  | m, _ =>
    let r := s.putWire n t.bytes
    if r.2 = true ∧ (m = 1 ∨ m = 2) then r.1.tsqPut n t.tsId ts else r.1

def State.txPrio (s : State) (n : Nat) (bs : List Byte) : Nat := framePrio bs (s.rd (Reg.MAC_CTRL_TX_DEF_PRIO n))

/-- Source 2: the next retract; none when there is none or it waits on a pause, counted once. -/
def State.txRetract (s : State) (n : Nat) : State × Bool :=
  let p := s.prh n
  match p.retracts with
  | [] => (s, false)
  | (b, counted) :: rest =>
    if s.isPaused n (s.txPrio n b) then
      if counted then (s, false)
      else ((s.setPrh n { p with retracts := (b, true) :: rest }).macCount n Reg.TX_PAUSED_REPLY 1, false)
    else (((s.setPrh n { p with retracts := rest }).prhEvalCount n Reg.RETRACTS |>.putWire n b).1, true)

/-- Source 3: the next reply in the order built; one that is held waits for its verdict. One longer than MAX_LEN is dropped,
and no byte of it is sent (R228, R286, R307, R313). -/
def State.txReply (s : State) (n : Nat) : State × Bool :=
  let p := s.prh n
  match p.replies with
  | [] => (s, false)
  | r :: rest =>
    if r.hold = true ∧ r.good ≠ some true then (s, false)
    else if s.isPaused n (s.txPrio n r.bytes) then
      if r.paused then (s, false)
      else ((s.setPrh n { p with replies := { r with paused := true } :: rest }).macCount n Reg.TX_PAUSED_REPLY 1, false)
    else
      let r2 := (s.setPrh n { p with replies := rest }).putWire n r.bytes
      if r2.2 then
        let s := if r.ibex then r2.1.ibxCount Reg.IBX_REPLIES 1 else r2.1.prhEvalCount n Reg.REPLIES
        (s.updPrh n (fun p => { p with started := if r.good = none then p.started ++ [r] else p.started }), true)
      else (r2.1, true)

/-- Source 4: the herd transport class: reply frames of streams (R364), and messages, which stand for their datagrams and
have no VLAN tag. DEDUCED (log entry 106). -/
def State.txHt (s : State) (n : Nat) (sub : BitVec 16) : State × Bool :=
  match (s.mac n).ht with
  | [] => (s, false)
  | .frame t :: rest =>
    if s.isPaused n (s.txPrio n t.bytes) then (s, false)
    else ((s.updMac n (fun m => { m with ht := rest })).sendStamped n t sub, true)
  | .msg m :: rest =>
    if s.isPaused n (s.rd (Reg.MAC_CTRL_TX_DEF_PRIO n)) then (s, false)
    else ((s.updMac n (fun x => { x with ht := rest, sending := true })).emit (.ht n m), true)

/-- A transmit ring of the MAC has an entry. -/
def State.txRingReady (s : State) (n t : Nat) : Bool :=
  let r := s.ring .transmit t
  r.en && decide (r.mac = n ∧ r.prod ≠ r.cons)

/-- Source 5: the host rings in turn (R229, R469). -/
def State.txHost (s : State) (n : Nat) (sub : BitVec 16) : State × Bool :=
  let order := (List.range 256).map (fun i => ((s.mac n).nextRing + i) % 256)
  match order.find? (fun t => s.txRingReady n t) with
  | none => (s, false)
  | some t =>
    match s.ringFront .transmit t with
    | none => (s, false)
    | some e =>
      let len := fld e 0 2
      let fr : TxFrame := { bytes := slice e 32 len, tsMode := fld e 2 1, tsId := BitVec.ofNat 16 (fld e 4 2), ref := BitVec.ofNat 64 (fld e 8 8) }
      let turn (s : State) : State := s.updMac n (fun m => { m with nextRing := (t + 1) % 256 })
      if len < 14 ∨ e.length < len + 32 then
        (turn ((s.ringTake .transmit t).macCount n Reg.TX_BAD_DESC 1), true)
      else if s.isPaused n (s.txPrio n fr.bytes) then (s, false)
      else (turn ((s.ringTake .transmit t).sendStamped n fr sub), true)

/-- A frame boundary: the next frame in the source order; nothing is sent during COMMIT (R198). -/
def State.transmitStart (s : State) (n : Nat) (sub : BitVec 16) : State :=
  if s.macUp n = true ∧ s.img.phase ≠ .commit then
    let s := s.updMac n (fun m => { m with sending := false })
    match (s.mac n).fcOut with
    | (mask, q) :: rest =>
      let s := s.updMac n (fun m => { m with fcOut := rest })
      ((s.macCount n Reg.TX_PAUSE 1).putWire n (s.flowFrame n mask q)).1
    | [] =>
      let r := s.txRetract n
      if r.2 then r.1
      else
        let r := r.1.txReply n
        if r.2 then r.1
        else
          let r := r.1.txHt n sub
          if r.2 then r.1 else (r.1.txHost n sub).1
  else s

def execTransmitStart (m : MacNo) (sub : BitVec 16) (s : State) : Result :=
  actRim (fun s => s.transmitStart m.val sub) s

/-! ### Links (R230, R355, R404, R405, R417) -/

/-- A message that is not sequenced, which no retransmission brings. -/
def htLoose : HtTx → Bool
  | .msg { peer := _, seq := _, body := .ack _ _ } => true
  | .msg { peer := _, seq := _, body := .credit _ } => true
  | _ => false

/-- The herd transport moves off a port: it sends the unacknowledged messages on the next one that is up, and what waits
there goes with them; with no port up they wait for one (R230, R355). -/
def State.htMove (s : State) (m : Nat) : State :=
  let q := (s.mac m).ht
  let loose := q.filter htLoose
  match s.nextPort m with
  | some n =>
    if n = m then s
    else
      let s := (s.updMac m (fun x => { x with ht := q.filter (fun t => match t with
        | .frame _ => true
        | .msg _ => false) })).updMac n (fun x => { x with ht := x.ht ++ loose })
      s.htGoes n (fun u => decide (u = m))
  | none =>
    let s := s.updMac m (fun x => { x with ht := q.filter (fun t => match t with
      | .frame _ => true
      | .msg _ => htLoose t) })
    s.htGoes 16 (fun u => decide (u = m))

/-- A link that was up is lost. -/
def State.linkLost (s : State) (m : Nat) : State :=
  let x := s.mac m
  let s := s.setMac m { x with
    up := false, training := true, lost := true, sending := false
    rx := x.rx.map (fun r => { r with frame := { r.frame with trunc := true, fcsErr := false } }) }
  let s := if x.sending then s.macCount m Reg.TX_ABORT 1 else s
  (s.post Code.linkDown Source.mac m 0).htMove m

def execLinkDown (m : MacNo) (s : State) : Result := actRim (fun s => if s.macUp m.val then s.linkLost m.val else s) s

/-- The port is up; a link that had been lost raises LINK_RETRAIN. -/
def State.portUp (s : State) (m : Nat) : State :=
  let x := s.mac m
  let s := (s.setMac m { x with up := true, training := false, retry := false, lost := false }).htAdopt m
  if x.lost then s.post Code.linkRetrain Source.mac m 0 else s

/-- A training failed: it is tried again after 1 s (R405). -/
def State.portFailed (s : State) (m : Nat) : State := s.updMac m (fun x => { x with training := false, retry := true })

/-- A port's training ends; in host-assisted mode of SerDes training it stops (R417). A port that does not train is up once
its PCS aligns. DEDUCED (log entry 134). -/
def State.portTrained (s : State) (m : Nat) (ok : Bool) : State :=
  if (s.mac m).training = true ∧ s.leads m = true ∧ s.macPowered m = true then
    if s.linkTrains m = false then (if ok then s.portUp m else s)
    else if s.assisted 2 then
      let s := s.updMac m (fun x => { x with training := false })
      let s := { s with bru := { s.bru with stops := s.bru.stops ++ [BruStop.serdes m ok] } }
      s.postStop (Code.hostStop + 2) Source.bru 0 (m + b2n ok * 16)
    else if ok then s.portUp m else s.portFailed m
  else s

def execPortTraining (m : MacNo) (ok : Bool) (s : State) : Result := actRim (fun s => s.portTrained m.val ok) s

/-- A second after a failed training the port trains again. -/
def execPortTrainingRetry (m : MacNo) (s : State) : Result :=
  actRim (fun s =>
    let x := s.mac m.val
    if x.retry = true ∧ x.down = false then s.setMac m.val { x with retry := false, training := true } else s) s

end Sys2Proof.Machine
end

