-- ==== Sys2Proof/Machine/Stack.lean ====
section
/-! DEFINITION. Stack requests, mirror copies, refresh, scrub, retraining and its stops, and host access
through BAR4 (R152 to R179, R462, R476, R505, R506). -/

namespace Sys2Proof.Machine

/-- Stack steps may change stacks, snapshots' copies, packets, the journal's stream states and control blocks, Ibex
models, the registers and the events. -/
def actStack (f : State → State) (s : State) : Result :=
  let t := f s
  .next { s with regs := t.regs, mesh := t.mesh, stks := t.stks, snaps := t.snaps, ibx := t.ibx, jrn := t.jrn, io := t.io }

/-! ### Requests from the mesh (R155, R156, R159, R164) -/

/-- The READ_RSP of a request: it lands at the requester's ADDR and CTR, with its TAG; one to a herd controller stands at
its port. DEDUCED (log entry 43). -/
def State.sendReadRsp (s : State) (k : Nat) (q : StkReq) (bytes : List Byte) (poisoned : Bool) : State :=
  let words := (List.range (8 * q.lines)).map (fun i => BitVec.ofNat 64 (fld bytes (8 * i) 8))
  let rsp (dx dy : Nat) : Packet :=
    { dx := dx, dy := dy, edge := false, kind := 0x2, addr := q.dst, ctr := q.ctr, tag := q.tag, payload := words
      src := .block k }
  match q.src with
  | .tile key => s.sendFromStack k (rsp (keyX key) (keyY key)) poisoned
  | .herd h => s.inject { pkt := rsp (h % 32 * 32) (h / 32 * 32), loc := .herd h, poisoned := poisoned }
  | .block _ => s

/-- The region that holds all lines of a request permits it, from its first byte to its last, to its source (R159). -/
def State.permitted (s : State) (k : Nat) (q : StkReq) (write : Bool) : Bool :=
  match s.regionAt k (q.addr / 64 * 64) (64 * q.lines) with
  | some r => s.allowed k r q.addr write q.src && s.allowed k r (q.addr / 64 * 64 + 64 * q.lines - 1) write q.src
  | none => false

/-! ### Host accesses (R462, R506) -/

/-- The snapshot region of a stack holds a snapshot, whose placement the manual does not give. -/
def State.holdsSnapshot (s : State) (k : Nat) : Bool :=
  s.snaps.any (fun e => decide (s.homeStack (e.1 / 2) = k))

/-- A control block has been written, or is being written. -/
def Pair.hasCtl (x : Pair) : Bool :=
  x.ctlA.valid || x.ctlB.valid || x.lineQ.any (fun j => match j with
    | .ctl _ _ _ => true
    | .log _ _ => false)

/-- Lines whose layout the manual does not give: those of snapshots and their copies (R370), and those of control
blocks (R365). DESIGN CHOICE (log entry 38). -/
def State.openLayout (s : State) (k : Nat) (r : Region) (addr : Nat) : Bool :=
  (decide (r.typ = 5) && s.holdsSnapshot k) || (decide (r.typ = 6 ∧ r.copyOf = 5) && s.holdsSnapshot (partner k)) ||
    (decide (r.typ = 7 ∧ addr - r.lo < 2 ^ 20) && (s.jrn.pair (pairOf k)).hasCtl)

/-- One piece of a host access, inside one line: stack address and length. -/
def bar4Pieces : Nat → Nat → Nat → List (Nat × Nat)
  | 0, _, _ => []
  | fuel + 1, a, len =>
    if len = 0 then []
    else
      let n := min len (64 - a % 64)
      (a, n) :: bar4Pieces fuel (a + n) (len - n)

/-- Reads a piece of a line for the host. DESIGN CHOICE (log entry 38). -/
def State.bar4ReadPiece (s : State) (k addr n : Nat) : LineRead :=
  let q := s.readLine k (addr / 64) (some (.block hostPort))
  let hidden := match s.regionAt k (addr / 64 * 64) 64 with
    | some r => s.openLayout k r addr
    | none => false
  if hidden = true ∧ q.poisoned = false then
    ⟨q.state.draw, (List.range n).map (fun i => Config.storedByte (addr + i) q.state.io.draws), false⟩
  else ⟨q.state, slice q.bytes (addr % 64) n, q.poisoned⟩

/-- Reads the pieces of a host access in order. -/
def State.bar4ReadAll (s : State) (k : Nat) : List (Nat × Nat) → LineRead
  | [] => ⟨s, [], false⟩
  | p :: ps =>
    let r := s.bar4ReadPiece k p.1 p.2
    let q := State.bar4ReadAll r.state k ps
    ⟨q.state, r.bytes ++ q.bytes, r.poisoned || q.poisoned⟩

/-- Writes a piece of a line for the host: a whole line replaces it; a part merges with what can be read, and
is dropped when the line is uncorrectable and no copy serves it (R506). -/
def State.bar4WritePiece (s : State) (k addr : Nat) (bs : List Byte) : State :=
  if bs.length = 64 then s.writeLine k (addr / 64) bs
  else
    let q := s.readLine k (addr / 64) (some (.block hostPort))
    if q.poisoned then q.state else q.state.writeLine k (addr / 64) (patch q.bytes (addr % 64) bs)

def State.bar4WriteAll (s : State) (k start : Nat) (bytes : List Byte) : List (Nat × Nat) → State
  | [] => s
  | p :: ps => State.bar4WriteAll (s.bar4WritePiece k p.1 (slice bytes (p.1 - start) p.2)) k start bytes ps

/-! ### Serving a request (R156, R164, R166, R173) -/

/-- A READ_REQ is served: both codes act on each line, and a line that no copy serves poisons the READ_RSP, which RELEASE
has served again (R507). -/
def State.serveRead (s : State) (k : Nat) (q : StkReq) : State :=
  let r := s.readLines k (some q.src) (q.addr / 64) q.lines
  let s := r.state.updStk k (fun x => { x with poisoned := if r.poisoned then x.poisoned ++ [q] else x.poisoned })
  s.sendReadRsp k q r.bytes r.poisoned

/-- A host read completes; with a line that no copy serves the completion carries the EP bit (R506). -/
def State.serveHostRead (s : State) (k : Nat) (q : StkReq) (len : Nat) : State :=
  let r := s.bar4ReadAll k (bar4Pieces (len / 64 + 2) q.addr len)
  r.state.emit (if r.poisoned then .poisoned r.bytes else .read r.bytes)

/-- A host write reaches its lines; to a region without a copy of a stack that is down it is dropped and counted (R506). -/
def State.serveHostWrite (s : State) (k : Nat) (q : StkReq) (bytes : List Byte) : State :=
  if s.writable k (q.addr / 64) then
    s.bar4WriteAll k q.addr bytes (bar4Pieces (bytes.length / 64 + 2) q.addr bytes.length)
  else s.refuse k q.src

/-- A stack takes requests up while it is in service, and answers them when it is down. -/
def Stk.answers (x : Stk) : Bool := decide (x.st = .service ∨ x.st = .down)

/-- Request i of the queue is served. -/
def State.serveReq (s : State) (k i : Nat) : State :=
  match (s.stk k).reqs[i]? with
  | none => s
  | some q =>
    let s := s.updStk k (fun x => x.taken i q)
    match q.kind with
    | .read => s.serveRead k q
    | .write bytes => s.writeLines k (q.addr / 64) bytes q.src
    | .hostRead len => s.serveHostRead k q len
    | .hostWrite bytes => s.serveHostWrite k q bytes

/-- The controller serves the request of the third class whose turn it is; journal lines go before it, and a mirror copy
whose turn it is lands with MIRROR_COPY (R164). DEDUCED (log entry 43). -/
def State.serveStack (s : State) (k : Nat) : State :=
  if (s.stk k).answers = true ∧ s.journalFirst k = false then
    match s.pick k with
    | some (.req i) => s.serveReq k i
    | _ => s
  else s

/-- A request enters the queue, and is served at once where its turn has come (R164). -/
def State.accept (s : State) (k : Nat) (q : StkReq) : State :=
  let n := (s.stk k).reqs.length
  let s := s.updStk k (fun x => { x with reqs := x.reqs ++ [q] })
  if (s.stk k).answers = true ∧ s.journalFirst k = false ∧ s.pick k = some (.req n) then s.serveReq k n else s

/-- The edge link that a packet at a stack has come by. -/
def Flight.atStack (f : Flight) (k : Nat) : Option Nat :=
  match f.loc with
  | .edge port link => if port = k then some link else none
  | _ => none

/-- A stack controller takes packet i, a READ_REQ: it queues an allowed request with the space of its READ_RSP, and
answers any other with zeros of the requested length (R123, R155, R159). DEDUCED (log entry 43). -/
def State.stackRead (s : State) (k i : Nat) : State :=
  match s.mesh.flights[i]? with
  | none => s
  | some f =>
    match f.atStack k with
    | none => s
    | some link =>
      if f.pkt.kind = 0x1 then
        let w := (nthD f.pkt.payload 0 0).toNat
        let q : StkReq :=
          { src := f.pkt.src, input := link, kind := .read, addr := w % 2 ^ 37, lines := bits w 44 40
            dst := f.pkt.addr, ctr := f.pkt.ctr, tag := f.pkt.tag }
        let s := s.dropFlight i
        if f.poisoned then s
        else if f.pkt.payload.length = 1 ∧ q.addr % 64 = 0 ∧ q.lines ≠ 0 ∧ s.permitted k q false = true then
          s.updStk k (fun x => { x with reqs := x.reqs ++ [q] })
        else (s.refuse k q.src).sendReadRsp k q (List.replicate (64 * q.lines) 0) false
      else s

def execStackRead (k : StkNo) (i : Nat) (s : State) : Result := actStack (fun s => s.stackRead k.val i) s

def execReadRsp (k : StkNo) (s : State) : Result := actStack (fun s => s.serveStack k.val) s

/-- A stack controller takes packet i, a WRITE: word 0 holds the address and 8 words follow for each line; a
request that is not allowed, or whose length does not match, is dropped and counted (R155, R159). -/
def State.stackWrite (s : State) (k i : Nat) : State :=
  match s.mesh.flights[i]? with
  | none => s
  | some f =>
    match f.atStack k with
    | none => s
    | some link =>
      if f.pkt.kind = 0x0 ∧ (s.stk k).answers = true then
        let n := f.pkt.payload.length - 1
        let q : StkReq :=
          { src := f.pkt.src, input := link, kind := .write (wordBytes f.pkt.payload.tail)
            addr := (nthD f.pkt.payload 0 0).toNat % 2 ^ 37, lines := n / 8, dst := 0, ctr := 0, tag := 0 }
        let s := s.dropFlight i
        if f.poisoned then s
        else if n % 8 = 0 ∧ 1 ≤ q.lines ∧ q.lines ≤ 31 ∧ q.addr % 64 = 0 ∧ s.permitted k q true = true then s.accept k q
        else s.refuse k q.src
      else s

def execStackWrite (k : StkNo) (i : Nat) (s : State) : Result := actStack (fun s => s.stackWrite k.val i) s

/-- A copy reaches the partner of stack k, and the write that it belongs to is complete (R162, R163). -/
def State.landCopy (s : State) (k : Nat) (c : CopyW) : State :=
  match c with
  | .line l bs => match s.copyAddr k l with
    | some a => s.updStk (partner k) (fun y => y.writeLine (a / 64) bs)
    | none => s
  | .snap key => s.setSnap key { s.snap key with copied := true }

/-- The oldest mirror copy of stack k goes over the rim ring and lands in the partner stack when its turn comes there; it
waits while the partner is not in service, and the home copy is all there is when the partner is down (R162 to R164,
R173). -/
def State.mirrorCopy (s : State) (k : Nat) : State :=
  let p := partner k
  match (s.stk k).copies with
  | [] => s
  | c :: rest =>
    let s' := s.updStk k (fun x => { x with copies := rest })
    if (s.stk p).st = .down then
      match c with
      | .line _ _ => s'
      | .snap key => s'.landCopy k (.snap key)
    else if s.stkServes p = true ∧ s.journalFirst p = false ∧ s.pick p = some .copy then
      (s'.updStk p (fun y => { y with served := some ringInput })).landCopy k c
    else s

def execMirrorCopy (k : StkNo) (s : State) : Result := actStack (fun s => s.mirrorCopy k.val) s

/-! ### Journal lines (R161) -/

/-- The journal controller writes the next waiting line of a pair to both stacks itself (R161); with one stack
down the other carries the journal alone (R173). With neither in service the line waits. DEDUCED (log entry 44). -/
def State.journalLineWrite (s : State) (p : Nat) : State :=
  let x := s.jrn.pair p
  match x.lineQ with
  | [] => s
  | j :: _ =>
    if s.journalReady p = true ∧ s.journalHeld p j = false then
      let put (s : State) (k : Nat) : State :=
        match j with
        | .log l bs => match s.logAddr k l with
          | some a => if s.stkServes k then s.updStk k (fun y => y.writeLine a bs) else s
          | none => s
        | .ctl _ _ _ => s
      (put (put s p) (p + 8)).setPair p x.lineDone
    else s

def execJournalLineWrite (pair : Fin 8) (s : State) : Result := actStack (fun s => s.journalLineWrite pair.val) s

/-! ### Refresh and scrub (R152, R167) -/

/-- The banks of some kind close their rows. -/
def Stk.close (x : Stk) (which : Nat → Bool) : Stk :=
  { x with openRows := x.openRows.filter (fun e => !(which e.1)), hits := x.hits.filter (fun e => !(which e.1)) }

/-- A refresh that has come due goes before all else (R164): of one bank of every pseudo-channel in service, of all banks
in training (R152). The interval is halved while the stack reports more than 85 degrees C. -/
def State.refresh (s : State) (k bank : Nat) : State :=
  let x := s.stk k
  if x.st = .service ∨ x.st = .training then
    s.setStk k { (x.close (fun b => decide (x.st = .training ∨ b % stackBanks = bank))) with
      refreshes := x.refreshes + 1, hot := decide (85 < x.temp) }
  else s

def execRefresh (k : StkNo) (bank : Fin 48) (s : State) : Result := actStack (fun s => s.refresh k.val bank.val) s

/-- Refresh management is served; the manual does not say for which bank. -/
def State.refreshManagement (s : State) (k : Nat) : State :=
  let x := s.stk k
  if x.st = .service ∨ x.st = .training then s.setStk k { x with refreshes := x.refreshes + 1, hot := decide (85 < x.temp) }
  else s

def execRefreshManagement (k : StkNo) (s : State) : Result := actStack (fun s => s.refreshManagement k.val) s

/-- Scrub goes after everything else, and waits for a channel that is retraining (R164, R169). -/
def State.scrubTurn (s : State) (k : Nat) : Bool :=
  s.rdb (Reg.STK_CTRL_SCRUB_EN k) && s.stkServes k && !(s.journalFirst k) && (s.pick k).isNone &&
    (s.stk k).channelFree (s.stk k).scrubPos

/-- A scrub read of the next line: an uncorrectable line of a mirrored region is rewritten from its copy, any
other is posted and left (R167, R173). The scrubber then moves on. -/
def State.scrubRead (s : State) (k : Nat) : State :=
  if s.scrubTurn k then
    let l := (s.stk k).scrubPos
    let r := s.readLine k l none
    r.state.updStk k (fun x => { x with scrubPos := (l + 1) % stackLines })
  else s

def execScrubRead (k : StkNo) (s : State) : Result := actStack (fun s => s.scrubRead k.val) s

/-! ### Retraining (R169, R171, R476) -/

def whyCode : RetrainWhy → Nat
  | .temperature => 0
  | .errors => 1
  | .host => 2

/-- Puts a channel into the queue, which goes in channel order and holds each channel once. DEDUCED (log entry 42). -/
def queueCh : List (Nat × RetrainWhy) → Nat → RetrainWhy → List (Nat × RetrainWhy)
  | [], c, w => [(c, w)]
  | (c', w') :: r, c, w =>
    if c < c' then (c, w) :: (c', w') :: r else if c = c' then (c', w') :: r else (c', w') :: queueCh r c w

/-- The detail of a stack stop (R476). -/
def stopDetail (k ch kind why margin failed : Nat) : Nat :=
  k + ch * 2 ^ 4 + kind * 2 ^ 9 + why * 2 ^ 10 + margin * 2 ^ 12 + failed * 2 ^ 32

/-- In host-assisted mode the stack stops before each retraining and posts the channel and the trigger. -/
def State.armRetrain (s : State) (k : Nat) : State :=
  let x := s.stk k
  match x.retrainQ with
  | [] => s
  | (ch, why) :: rest =>
    if x.retraining = none ∧ x.stops = [] ∧ s.assisted 3 = true then
      let s := s.setStk k { x with retrainQ := rest, stops := [{ kind := 1, ch := ch, why := why, failed := 0 }] }
      s.postStop (Code.hostStop + 3) Source.stk k (stopDetail k ch 1 (whyCode why) x.margin 0)
    else s

/-- Starts the retraining of a channel. -/
def Stk.startRetrain (x : Stk) (ch : Nat) : Stk := { x with retraining := some ch, lastCh := ch }

/-- The stack temperature at the last training of a channel. -/
def Stk.trainedAt (x : Stk) (ch : Nat) : Nat := NatMap.get x.chTemp x.trainTemp ch

/-- What a trigger of R169 asks: the temperature has moved by RETRAIN_DT or more since the channel was last trained, or the
channel has had 64 controller corrections within 1 s; the host's write asks nothing. -/
def State.triggered (s : State) (k ch : Nat) : RetrainWhy → Bool
  | .temperature =>
    let a := (s.stk k).trainedAt ch
    let t := (s.stk k).temp
    decide (s.rd (Reg.STK_CTRL_RETRAIN_DT k) ≤ max a t - min a t)
  | .errors => match (NatMap.get (s.stk k).corrAt [] ch)[63]? with
    | some old => decide (s.devTime.toNat ≤ old + 1_000_000_000)
    | none => false
  | .host => true

/-- The channel is queued, stopped for, or deferred already. -/
def Stk.queued (x : Stk) (ch : Nat) : Bool :=
  x.retrainQ.any (fun e => decide (e.1 = ch)) || x.deferred.any (fun e => decide (e.1 = ch)) ||
    x.stops.any (fun e => decide (e.kind = 1 ∧ e.ch = ch))

/-- A trigger queues its channel (R169); the temperature and error triggers only while RETRAIN_AUTO arms
them. The stack must be in service. -/
def State.trigger (s : State) (k ch : Nat) (why : RetrainWhy) : State :=
  let x := s.stk k
  if x.st = .service ∧ x.queued ch = false ∧
      (why = .host ∨ (s.rdb (Reg.STK_CTRL_RETRAIN_AUTO k) = true ∧ s.triggered k ch why = true)) then
    (s.setStk k { x with retrainQ := queueCh x.retrainQ ch why }).armRetrain k
  else s

/-- The stack reports its temperature; a temperature move or an error count queues a channel. -/
def execRetrainTrigger (k : StkNo) (ch : Fin 32) (why : RetrainWhy) (temp : Nat) (s : State) : Result :=
  actStack (fun s =>
    let s := if why = .temperature then s.updStk k.val (fun x => { x with temp := temp % 256 }) else s
    s.trigger k.val ch.val why) s

/-- A write of STKn_RETRAIN queues the channel (R178). -/
def execStknRetrain (k : StkNo) (ch : Fin 32) (s : State) : Result :=
  actStack (fun s => s.when s.host.linkUp (fun s => s.trigger k.val ch.val .host)) s

/-- The next queued retraining starts: one channel of a stack at a time, and none while a stop waits. In host-assisted
mode its stop comes first (R171). -/
def State.retrain (s : State) (k : Nat) : State :=
  let x := s.stk k
  match x.retrainQ with
  | [] => s
  | (ch, _) :: rest =>
    if x.st = .service ∧ x.retraining = none ∧ x.stops = [] then
      if s.assisted 3 then s.armRetrain k else s.setStk k ({ x with retrainQ := rest }.startRetrain ch)
    else s

def execRetrain (k : StkNo) (s : State) : Result := actStack (fun s => s.retrain k.val) s

/-- A retraining ends: the channel serves again, or it is down (R169, R170). A retraining that the host asked
for at the stop after cold training clears or sets the channel's failure there. DEDUCED (log entry 42). -/
def State.retrainComplete (s : State) (k : Nat) (ok : Bool) : State :=
  let x := s.stk k
  match x.retraining with
  | none => s
  | some ch =>
    match x.stops with
    | st :: rest =>
      if st.kind = 0 then
        let b : BitVec 32 := BitVec.ofNat 32 (2 ^ ch)
        s.setStk k { x with retraining := none
                            stops := { st with failed := if ok then st.failed &&& ~~~b else st.failed ||| b } :: rest }
      else if ok then s.setStk k { x with retraining := none } else s.channelDown k ch false
    | [] =>
      if ok then (s.setStk k { x with retraining := none, chTemp := NatMap.ins x.chTemp ch x.temp }).armRetrain k
      else s.channelDown k ch false

def execRetrainComplete (k : StkNo) (ok : Bool) (s : State) : Result :=
  actStack (fun s => s.retrainComplete k.val ok) s

/-- Every channel whose training failed is down (R170). -/
def State.enterDown (s : State) (k : Nat) (failed : BitVec 32) : State :=
  s.forEach ((List.range 32).filter (fun c => failed.getLsbD c)) (fun s c => s.channelDown k c false)

/-- The stack enters service, or the channels that failed are down. -/
def State.enterService (s : State) (k : Nat) (failed : BitVec 32) : State :=
  if failed = 0 then
    s.updStk k (fun x => { x with st := .service, retraining := none, trainTemp := x.temp, chTemp := [], corrAt := [] })
  else s.enterDown k failed

/-- Ends the stop of a stack: its kind must be the one the command answers. -/
def State.endStop (s : State) (k kind : Nat) (f : State → StkStop → State) : State :=
  match (s.stk k).stops with
  | [] => s
  | st :: rest => if st.kind = kind then f (s.updStk k (fun x => { x with stops := rest })) st else s

/-- No command came: after cold training the stack is accepted as trained or its failed channel is down (500
ms); a retraining starts (10 ms) (R171). -/
def execStackStopTimeout (k : StkNo) (s : State) : Result :=
  actStack (fun s =>
    match (s.stk k.val).stops with
    | [] => s
    | st :: _ =>
      if st.kind = 0 then s.endStop k.val 0 (fun s st => s.enterService k.val st.failed)
      else s.endStop k.val 1 (fun s st => s.updStk k.val (fun x => x.startRetrain st.ch))) s

/-- A GLB_ASSIST_CMD for function 3: 1 ACCEPT, 2 RETRAIN of CH, 3 DOWN of CH, 4 START, 5 DEFER by 1 to 1,000 ms
(R476, R486). RETRAIN leaves the stop waiting. -/
def State.stackAssist (s : State) (op k ch ms : Nat) : State :=
  match op with
  | 1 => s.endStop k 0 (fun s st => s.enterService k st.failed)
  | 2 =>
    match (s.stk k).stops with
    | [] => s
    | st :: _ => if st.kind = 0 then s.updStk k (fun x => x.startRetrain ch) else s
  | 3 => s.endStop k 0 (fun s st => (s.channelDown k ch true).enterDown k (st.failed &&& ~~~(BitVec.ofNat 32 (2 ^ ch))))
  | 4 => s.endStop k 1 (fun s st => s.updStk k (fun x => x.startRetrain st.ch))
  | 5 =>
    if 1 ≤ ms ∧ ms ≤ 1000 then
      s.endStop k 1 (fun s st => (s.updStk k (fun x => { x with deferred := x.deferred ++ [(st.ch, st.why)] })).armRetrain k)
    else s
  | _ => s

def execStackAccept (k : StkNo) (s : State) : Result := actStack (fun s => s.when s.host.linkUp (fun s => s.stackAssist 1 k.val 0 0)) s

def execStackRetrain (k : StkNo) (ch : Fin 32) (s : State) : Result := actStack (fun s => s.when s.host.linkUp (fun s => s.stackAssist 2 k.val ch.val 0)) s

def execStackDown (k : StkNo) (ch : Fin 32) (s : State) : Result := actStack (fun s => s.when s.host.linkUp (fun s => s.stackAssist 3 k.val ch.val 0)) s

def execStackStart (k : StkNo) (s : State) : Result := actStack (fun s => s.when s.host.linkUp (fun s => s.stackAssist 4 k.val 0 0)) s

def execStackDefer (k : StkNo) (ms : BitVec 10) (s : State) : Result := actStack (fun s => s.when s.host.linkUp (fun s => s.stackAssist 5 k.val 0 ms.toNat)) s

/-- The channel deferred longest starts, with no second stop (R476). -/
def execDeferExpire (k : StkNo) (s : State) : Result :=
  actStack (fun s =>
    let x := s.stk k.val
    match x.deferred with
    | (ch, _) :: rest =>
      if x.retraining = none then s.setStk k.val ({ x with deferred := rest }.startRetrain ch) else s
    | [] => s) s

/-- Writing 1 to VALID clears STKn_ECC_ADDR (R177). -/
def execStknEccAddrClear (k : StkNo) (s : State) : Result :=
  actStack (fun s => s.when (s.host.linkUp && s.pdOn (66 + k.val)) (fun s => s.setReg (Reg.STK_ECC_ADDR k.val) 0)) s

/-! ### BAR4 (R462, R506) -/

/-- The stack and stack address that a BAR4 offset reaches, through an open aperture (R462). -/
def State.bar4Map (s : State) (off : Nat) : Option (Nat × Nat) :=
  let a := off / 2 ^ 32
  let addr := s.rd (Reg.GLB_BAR4_AP_BASE a) * mib64 + off % 2 ^ 32
  if s.rdb (Reg.GLB_BAR4_AP_EN a) = true ∧ addr < stackLines * 64 then some (s.rd (Reg.GLB_BAR4_AP_STACK a), addr) else none

/-- The request of a host access; one access lies in one aperture. DEDUCED (log entry 39). -/
def hostReq (addr n : Nat) (kind : ReqKind) : StkReq :=
  { src := .block hostPort, input := portInput hostPort, kind := kind, addr := addr
    lines := if n = 0 then 0 else (addr % 64 + n + 63) / 64, dst := 0, ctr := 0, tag := 0 }

/-- A host read enters the queue of its stack; a refused one is answered with zeros (R159, R506). -/
def State.bar4Read (s : State) (off len : Nat) : State :=
  match s.bar4Map off with
  | none => s.emit (.read (List.replicate len 0))
  | some (k, addr) =>
    let q := hostReq addr len (.hostRead len)
    if s.permitted k q false then s.accept k q else (s.refuse k q.src).emit (.read (List.replicate len 0))

def execBar4Read (off : BitVec 36) (len : Nat) (s : State) : Result :=
  actStack (fun s => s.when s.host.linkUp (fun s => s.bar4Read off.toNat len)) s

/-- A host write enters the queue of its stack; a refused one is dropped and counted (R159, R179). -/
def State.bar4Write (s : State) (off : Nat) (bytes : List Byte) : State :=
  match s.bar4Map off with
  | none => s
  | some (k, addr) =>
    let q := hostReq addr bytes.length (.hostWrite bytes)
    if s.permitted k q true then s.accept k q else s.refuse k q.src

def execBar4Write (off : BitVec 36) (bytes : List Byte) (s : State) : Result :=
  actStack (fun s => s.when s.host.linkUp (fun s => s.bar4Write off.toNat bytes)) s

end Sys2Proof.Machine
end

