-- ==== Sys2Proof/Machine/ResetOps.lean ====
section
/-! DEFINITION. The resets (R172, R192, R199, R284, R329, R359, R387, R411, R418, R419, R442, R479, R480): what a warm
reset, a trip, a port reset and a function-level reset clear and keep. -/

namespace Sys2Proof.Machine

/-! ### Stacks and journal at a warm reset (R172, R387) -/

/-- The stack controllers finish the writes that they have received (R172). -/
def State.finishWrites (s : State) : State :=
  s.forEach (List.range 16) (fun s k => s.forEach (s.stk k).reqs (fun s q =>
    match q.kind with
    | .write bytes => s.writeLines k (q.addr / 64) bytes q.src
    | .hostWrite bytes => s.serveHostWrite k q bytes
    | _ => s))

/-- The mirror copies of a stack that can reach its partner land. -/
def State.landCopies (s : State) : State :=
  s.forEach (List.range 16) (fun s k => s.forEach (s.stk k).copies (fun s c =>
    if s.stkServes (partner k) then s.landCopy k c else s))

/-- A stack enters self-refresh; one that is down stays so, and one that never served has nothing to keep. -/
def Stk.sleep (x : Stk) : Stk :=
  { Stk.reset with
    mem := x.mem, bad := x.bad, corr := x.corr, odie := x.odie, chDown := x.chDown, chHost := x.chHost
    trainTemp := x.trainTemp, chTemp := x.chTemp, margin := x.margin, scrubPos := x.scrubPos, refreshes := x.refreshes
    st := match x.st with
      | .service => .selfRefresh
      | .selfRefresh => .selfRefresh
      | .down => .down
      | _ => .off }

/-- Records that both stacks hold whole, from the first that was being written on: the scan of the log finds them
(R172, R367). -/
def Pair.found (x : Pair) : List (Rec × Option Item) := x.writing.takeWhile (fun w => x.holdsRec w.1)

/-- Records that the scan does not find. -/
def Pair.unfound (x : Pair) : List (Rec × Option Item) := x.writing.dropWhile (fun w => x.holdsRec w.1)

/-- The items of a pair that are not accepted. -/
def Pair.unaccepted (x : Pair) : List Item := x.arriving ++ x.unfound.filterMap Prod.snd

/-- The pair forgets what is not accepted; its log goes on after the records that the stacks hold, and the newer valid
control block is the last (R35, R358, R365, R367, R387). DEDUCED (log entry 85). -/
def Pair.rebuilt (x : Pair) : Pair :=
  { x with arriving := [], lineQ := [], writing := [], full := false
           recs := x.recs ++ x.found.map Prod.fst
           head := (x.unfound.map (fun w => w.1.pos)).foldl min x.head
           lastA := x.ctlA.valid && (!x.ctlB.valid || decide (x.ctlB.epoch ≤ x.ctlA.epoch)) }

/-- Items found in the log are accepted: their herds' OUTSEQs count as accepted (R363, R365). -/
def State.acceptFound (s : State) (its : List Item) : State :=
  s.forEach its (fun s it =>
    match it.out with
    | some (h, q) => s.setJrn { s.jrn with accepted := NatMap.put s.jrn.accepted 0 h (max q (NatMap.get s.jrn.accepted 0 h)) }
    | none => s)

/-- A COMMIT record that is not found: its group's commit has not come about (R372). DEDUCED (log entry 85). -/
def State.takeBackCommit (s : State) (r : Rec) : State :=
  if r.typ = 3 ∧ NatMap.get s.jrn.committed 0 r.herd = r.seq then
    let was := NatMap.get s.jrn.before 0 r.herd
    let s := s.setJrn { s.jrn with committed := NatMap.put s.jrn.committed 0 r.herd was }
    let s := s.forEach s.jrn.streams (fun s x =>
      if s.groupOf x.2.target = r.herd then
        s.setStreamSt x.1 { s.jrn.streamSt x.1 with retired := (s.jrn.streamSt x.1).before }
      else s)
    if was = 0 then s.forEach (s.groupHerds r.herd) (fun s h => s.updHerd h (fun x => { x with committed := false })) else s
  else s

/-- NEXT_SEQ goes back to the first number that no accepted item holds. DEDUCED (log entry 85). -/
def State.takeBackSeq (s : State) (rs : List (Nat × Nat)) : State :=
  s.forEach rs (fun s e =>
    let st := s.jrn.streamSt e.1
    s.setStreamSt e.1 { st with nextSeq := min st.nextSeq e.2 })

/-- The messages of items that are not accepted count as not received. -/
def State.forgetSeen (s : State) (its : List Item) : State :=
  s.forEach its (fun s it =>
    match it.peer with
    | some (w, q) => s.setPeer w { s.peer w with seen := (s.peer w).seen.filter (fun e => decide (e ≠ (it.stream, q))) }
    | none => s)

/-- The journal as its region and the control blocks give it again (R367). DEDUCED (log entry 85). -/
def State.rebuildJournal (s : State) : State :=
  let lost := s.jrn.pairs.flatMap (fun (e : Nat × Pair) => e.2.unfound.map Prod.fst)
  let rs := (lost.filter (fun r => decide (r.typ = 1))).map (fun r => (r.stream, r.seq))
  let its := s.jrn.pairs.flatMap (fun (e : Nat × Pair) => e.2.unaccepted)
  let found := s.jrn.pairs.flatMap (fun (e : Nat × Pair) => e.2.found.filterMap Prod.snd)
  let s := ((s.takeBackSeq rs).forgetSeen its).acceptFound found
  let s := s.forEach lost State.takeBackCommit
  let s := s.forEach s.jrn.pairs (fun s e => s.setPair e.1 e.2.rebuilt)
  s.setJrn { s.jrn with outs := [], closed := false, stop := none, exportQ := [], silent := false, joining := [], leaving := [] }

/-! ### Power -/

/-- Switches off every domain but those kept; a dark domain holds nothing (R432). -/
def State.darken (s : State) (keep : List Nat) : State :=
  { s with pwr := { s.pwr with doms := (s.pwr.doms.zipIdx).map (fun e =>
      if e.2 ∈ keep then e.1 else e.1.switch false) } }

/-! ### Warm reset (R199, R418, R479) -/

/-- Registers in the always-on domain and PD92: the power arbiter's and the time unit's. DEDUCED (log entry 98). -/
def keptReg (off : Nat) : Bool := decide (0x10_0000 ≤ off ∧ off < 0x30_0000)

/-- What the journal's control blocks keep of a herd: its last release (R373). -/
def Herd.kept (x : Herd) : Herd :=
  { Herd.reset with relTaken := x.relTaken, relOutseq := x.relOutseq, committed := x.committed }

/-- What a warm reset clears. -/
def State.warmClear (s : State) : State :=
  let s := s.finishWrites.landCopies
  let s := s.rebuildJournal.htGoes 16 (fun _ => true)
  { s with
    regs := s.regs.filter (fun e => keptReg e.1)
    locked := false
    tiles := []
    herds := NatMap.mapIf Herd.reset (fun _ => true) Herd.kept s.herds
    mesh := { Mesh.reset with routers := NatMap.mapIf Router.reset (fun _ => true) (fun r => { Router.reset with bypass := r.bypass }) s.mesh.routers }
    stks := NatMap.mapIf Stk.reset (fun _ => true) Stk.sleep s.stks
    img := { s.img with phase := .idle, loading := none, shaped := false, ports := 0 }
    macs := []
    prhs := NatMap.mapIf Prh.reset (fun _ => true) (fun p => { Prh.reset with ens := p.ens }) s.prhs
    ibx := { Ibx.reset with models := s.ibx.models }
    time := { s.time with stop := none, edge := false, path := [], events := [] }
    flt := { Flt.reset with usedRows := s.flt.usedRows }
    host := { s.host with linkUp := false, bar2 := [], rings := [], msixQ := [], limited := [], mailLen := [], harvestStop := false }
    io := { s.io with lims := [] }
    pwr := { s.pwr with overReq := 0, underReq := 0, overCap := 0, armed := true, stop := false } }

/-- Requests of BRU_CTRL and of the resident script for the warm start to come (R420, R421). -/
def State.scriptSteps (s : State) : List (Nat × Nat) :=
  match s.residentSect SecType.bringupScript 0 with
  | some p => (recsOf 8 (slice p 64 (8 * fld p 0 4))).map (fun r => (fld r 0 1, fld r 2 6))
  | none => []

/-- MARK_TILE steps of the script: tiles that count as failed. -/
def markedTiles (l : List (Nat × Nat)) : List Failed :=
  l.filterMap (fun e => if e.1 = 1 then some { at_ := ⟨bits e.2 10 0, bits e.2 21 11⟩, elem := .tile } else none)

/-- MARK_HERD steps: physical herds that must move. -/
def markedHerds (l : List (Nat × Nat)) : List Nat :=
  l.filterMap (fun e => if e.1 = 2 then some (bits e.2 10 6 * 33 + bits e.2 5 0) else none)

def trainMask (l : List (Nat × Nat)) : BitVec 16 :=
  l.foldl (fun a e => if e.1 = 4 then a ||| BitVec.ofNat 16 e.2 else a) 0

/-- The bring-up engine at a warm reset: the map store stays. -/
def State.warmBru (s : State) : Bru :=
  let l := s.scriptSteps
  { Bru.reset with
    warm := true, frozen := true, map := s.bru.map, bcastNo := s.bru.bcastNo, everDone := true, since := s.devTime.toNat
    failed := s.bru.failed ++ markedTiles l, failedHerds := s.bru.failedHerds ++ markedHerds l
    wantBist := s.rdb Reg.BRU_CTRL_WARM_BIST || l.any (fun e => decide (e.1 = 3))
    wantTrain := (if s.rdb Reg.BRU_CTRL_WARM_TRAIN then BitVec.allOnes 16 else 0) ||| trainMask l
    hold := s.rdb Reg.BRU_CTRL_HOLD_RELEASE || l.any (fun e => decide (e.1 = 6))
    stopAt := (l.filter (fun e => decide (e.1 = 5))).map (fun e => e.2 % 8) }

/-- A warm start runs as a cold start: no frozen map, no committed image, or no DONE since the cold reset (R418,
R419). -/
def State.runsCold (s : State) : Bool := !s.bru.frozen || s.img.committed.isNone || !s.bru.everDone

/-- A warm reset with its cause of R484. -/
def State.warmReset (s : State) (cause : Nat) : State :=
  let c := if s.pwr.tripped then 6 else cause
  let cold := s.runsCold
  let bru := if cold then { Bru.reset with everDone := s.bru.everDone, since := s.devTime.toNat } else s.warmBru
  let s := s.warmClear.darken [92]
  let s : State := { s with bru := bru }
  let s : State := if cold then
      { s with img := { Img.reset with everCommitted := s.img.everCommitted }, mesh := Mesh.reset, flt := Flt.reset }
    else s
  { s with host := { s.host with lastCause := c }, pwr := { s.pwr with tripped := false, quiesce := false, waitCool := false } }

/-! ### Trip (R442) -/

/-- The hottest junction of the switched domains: its domain and temperature. -/
def State.hottest (s : State) : Nat × Nat :=
  (s.pwr.doms.zipIdx).foldl (fun a e => if a.2 < e.1.temp then (e.2, e.1.temp) else a) (0, 0)

/-- The detail of THERM_ALERT (R441). -/
def State.alertDetail (s : State) (low trip : Bool) : Nat :=
  let h := s.hottest
  b2n s.pwr.alertOut + b2n low * 2 + b2n trip * 4 + h.1 * 2 ^ 3 + h.2 % 256 * 2 ^ 10 + min s.pwr.alertSecs 0xFFFF * 2 ^ 18

/-- The wafer powers down as a warm reset does, but for PD90, PD91 and PD92, and stays down. DEDUCED (log entry 98). -/
def State.powerDown (s : State) : State :=
  let l := s.host.linkUp
  let s := s.warmClear.darken [90, 91, 92]
  { s with pwr := { s.pwr with tripped := true }, host := { s.host with linkUp := l } }

/-- A trip: THERM_ALERT with the trip bit, and the power-down. -/
def State.trip (s : State) : State :=
  if s.pwr.tripped then s
  else
    let d := s.alertDetail s.pwr.alertLow true
    (s.postEvent { code := Code.thermAlert, stop := false, source := Source.pwr, loc := 0, stream := none
                   time := s.now64, detail := BitVec.ofNat 64 d }).powerDown

/-! ### Cold reset (R449, R479) -/

/-- Everything but the fuses and the calibration flash; an overwrite in progress leaves a corrupt block. -/
def State.coldReset (s : State) (cause : Nat) : State :=
  { State.reset with
    fuses := s.fuses
    pwr := { Pwr.reset with flash := s.pwr.flash, flashBad := if s.pwr.calBusy then some s.io.draws else s.pwr.flashBad }
    host := { HostIf.reset with lastCause := cause }
    io := { Io.reset with out := s.io.out, draws := s.io.draws + 1 } }

/-! ### Herd, port and function-level resets (R479, R480) -/

/-- A start is in progress: a herd or port reset joins it (R480). DEDUCED (log entry 90). -/
def State.starting (s : State) : Bool := decide (s.bru.stage < 7)

/-- DEDUCED (log entry 90). -/
def State.herdReset (s : State) (h : Nat) : State :=
  if s.starting = true ∨ (s.herd h).st = .dark then s else s.startReset h

/-- One MAC of a port reset; the frames of its parse contexts count as not scored (R260, R479). -/
def State.portClear (s : State) (n : Nat) : State :=
  let s := (s.htMove n).forEach (s.prh n).ctxs (fun s _ => s.prhFrontCount n Reg.NS_NO_CONTEXT)
  let s := s.updMac n (fun m =>
    { MacSt.reset with ht := m.ht, nextRing := m.nextRing, nextId := m.nextId, training := s.leads n && s.macPowered n })
  let s := s.updPrh n (fun p => { Prh.reset with ens := p.ens })
  s.setTime { s.time with tsq := NatMap.del s.time.tsq n }

/-- A port reset; the Ibex streamer's counter of replies follows the engines' rules (R284). DEDUCED (log entry 90). -/
def State.portReset (s : State) (n : Nat) : State :=
  if s.starting then s
  else
    let s := s.forEach (s.gangOf n) State.portClear
    { s with ibx := { s.ibx with seq := 0 } }

/-- All mailboxes: buffers to 0, pending requests discarded. -/
def State.functionReset (s : State) : State :=
  let s := s.resetRegs 0x300_0000 0x310_0000
  { s with host := { s.host with bar2 := Mem.outside s.host.bar2 0 0x10_0000, mailLen := [] } }

end Sys2Proof.Machine
end

