-- ==== Sys2Proof/Machine/PowerOps.lean ====
section
/-! DEFINITION. The power arbiter, the alarms, the coolant loop and the calibration block (R428 to R459). -/

namespace Sys2Proof.Machine

def State.setPwr (s : State) (p : Pwr) : State := { s with pwr := p }

def State.updPwr (s : State) (f : Pwr → Pwr) : State := { s with pwr := f s.pwr }

/-- Domain d, dark when there is none. -/
def State.dom (s : State) (d : Nat) : Dom := nthD s.pwr.doms d (Dom.default d)

/-! ### Allocation (R435) -/

/-- A domain's share while grants are worked out. -/
structure Share where
  g      : Nat
  want   : Nat
  prio   : Nat
  weight : Nat
deriving DecidableEq, Repr

/-- FLOOR and what the domain wants above it. -/
def Dom.share (x : Dom) (ramp : Nat) : Share :=
  if x.on then { g := x.floor, want := min x.req (min x.capd (x.grant + ramp)) - x.floor, prio := x.prio, weight := x.weight }
  else { g := 0, want := 0, prio := x.prio, weight := x.weight }

def sumWant (l : List Share) (p : Nat) : Nat := l.foldl (fun a x => if x.prio = p then a + x.want else a) 0

/-- The weights of the domains of a class that still want. -/
def sumWeight (l : List Share) (p : Nat) : Nat :=
  l.foldl (fun a x => if x.prio = p ∧ 0 < x.want then a + x.weight else a) 0

def giveAll (l : List Share) (p : Nat) : List Share :=
  l.map (fun x => if x.prio = p then { x with g := x.g + x.want, want := 0 } else x)

/-- One weighted round that gives `q` units a weight. -/
def giveRound (l : List Share) (p q : Nat) : List Share :=
  l.map (fun x => if x.prio = p then
      let a := min x.want (q * x.weight)
      { x with g := x.g + a, want := x.want - a }
    else x)

def sumGrant (l : List Share) : Nat := l.foldl (fun a x => a + x.g) 0

/-- Weighted rounds, as long as a unit a weight is left. -/
def rounds (p : Nat) : Nat → List Share → Nat → List Share × Nat
  | 0, l, left => (l, left)
  | n + 1, l, left =>
    let ws := sumWeight l p
    if 0 < ws ∧ ws ≤ left then
      let l' := giveRound l p (left / ws)
      rounds p n l' (left - (sumGrant l' - sumGrant l))
    else (l, left)

/-- One sweep of the remainder over consecutive domains: one unit each while any is left; answers the domain after
the last one served. -/
def sweep (p : Nat) : List Nat → List Share → Nat → Nat → List Share × Nat × Nat
  | [], l, left, ptr => (l, left, ptr)
  | d :: ds, l, left, ptr =>
    match l[d]? with
    | some x =>
      if 0 < left ∧ x.prio = p ∧ 0 < x.want then
        sweep p ds (l.set d { x with g := x.g + 1, want := x.want - 1 }) (left - 1) ((d + 1) % 96)
      else sweep p ds l left ptr
    | none => sweep p ds l left ptr

/-- Sweeps until the remainder is given out. -/
def remainder (p : Nat) : Nat → List Share → Nat → Nat → List Share × Nat
  | 0, l, _, ptr => (l, ptr)
  | n + 1, l, left, ptr =>
    if 0 < left ∧ 0 < sumWant l p then
      let r := sweep p ((List.range 96).map (fun i => (ptr + i) % 96)) l left ptr
      remainder p n r.1 r.2.1 r.2.2
    else (l, ptr)

/-- The classes from `p` on, PRIO 0 first; once a class cannot have all it wants, lower classes keep floors. -/
def classes : Nat → Nat → List Share → Nat → Nat → List Share × Nat
  | 0, _, l, _, ptr => (l, ptr)
  | n + 1, p, l, left, ptr =>
    let need := sumWant l p
    if need ≤ left then classes n (p + 1) (giveAll l p) (left - need) ptr
    else
      let r := rounds p 97 l left
      remainder p (r.2 + 1) r.1 r.2 ptr

/-- Grants for a budget in units, and the new ptr. -/
def allocate (l : List Share) (budget : Int) (floorsOnly : Bool) (ptr : Nat) : List Nat × Nat :=
  let left := budget - (sumGrant l : Nat)
  if floorsOnly = true ∨ left ≤ 0 then (l.map Share.g, ptr)
  else
    let r := classes 4 0 l left.toNat ptr
    (r.1.map Share.g, r.2)

/-! ### The epoch (R430, R432, R434 to R436, R440, R441, R446) -/

def State.capW (s : State) : Nat := s.rd Reg.PWR_CTRL_CAP_W

/-- The cooling cap (R435). -/
def Pwr.coolCap (p : Pwr) : Nat := if p.derated then p.deratedW else 24000

/-- The budget in watts, which heavy stacks can take below 0. DEDUCED (log entry 95). -/
def State.budget (s : State) (pStk pFix : Nat) : Int :=
  (min s.capW (min s.pwr.coolCap s.pwr.railA) : Nat) - (pStk : Int) - (pFix : Int)

/-- Floors only: a forced minimum, a low alert pin, a low VDIST or a quiesce (R430, R441, R445, R450). -/
def State.floorsOnly (s : State) : Bool :=
  s.rdb Reg.PWR_CTRL_FORCE_MIN || s.pwr.alertLow || s.pwr.vdistLow || s.pwr.quiesce

/-- The sensors of a domain: those of its herds, or its own (R440, R447). -/
def sensorsOf (d : Nat) : List Nat :=
  if d < 66 then (List.range 16).map (fun j => (16 * (d % 2) + j) * 33 + d / 2) else [990 + d]

/-- A sensor as it is used, in quarters of a degree: TEMP_OFF is added, or 10 degrees on the defaults of a corrupt block (R447,
R448). -/
def State.sensor (s : State) (inp : PowerIn) (i : Nat) : Int :=
  nthD inp.temp i 0 + (if s.pwr.calDefault then 40 else (nthD s.pwr.offsets i 0).toInt)

/-- The temperature of a domain in whole degrees, the highest of its sensors (R440). DESIGN CHOICE (log entry 138). -/
def State.reading (s : State) (inp : PowerIn) (d : Nat) : Nat :=
  ((sensorsOf d).foldl (fun a i => max a (s.sensor inp i)) 0).toNat / 4

/-- The thermal ceiling of domain d at temperature t (R440). -/
def Pwr.thermal (p : Pwr) (d : Nat) (x : Dom) (t : Nat) : Nat :=
  if pdElastic d then
    if p.tTarget ≤ t then max x.floor (x.capd - p.thermStep)
    else if t + p.tHyst ≤ p.tTarget then min x.ceil (x.capd + p.thermStep)
    else x.capd
  else x.ceil

/-- The supply level of a domain: as it has settled, at most VMAX, and 0.66 V on the defaults of R448. -/
def State.level (s : State) (d v : Nat) (x : Dom) : Nat :=
  if pdFixed d then min v 18 else if s.pwr.calDefault then 0 else min v x.vmax

/-- Latches the inputs of domain d and puts the grant of the last boundary in force. DEDUCED (log entry 95). -/
def State.latch (s : State) (inp : PowerIn) (d : Nat) (x : Dom) : Dom :=
  let t := s.reading inp d
  let v := s.level d (nthD inp.volt d 0) x
  let x := { x with temp := min t 0xFF, capd := s.pwr.thermal d x t }
  if x.on then
    { x with req := min (nthD inp.req d 0) 0x1FFF, grant := x.next, volt := v
             throttle := decide (v = 0) && !(pdFixed d) && nthD inp.throttle d false }
  else x

def State.floorSum (s : State) : Nat := s.pwr.doms.foldl (fun a x => if x.on then a + x.floor else a) 0

/-- Detail of POWER_BUDGET_EXCEEDED (R436). -/
def State.budgetDetail (s : State) (cause demand : Nat) : Nat :=
  cause + min s.pwr.budgetW 0xFFFF * 2 ^ 2 + min demand 0xFFFF * 2 ^ 18

def State.powerCause (s : State) (c : Fin 4) (demand : Nat) : State :=
  s.report (.powerCause c) (s.budgetDetail c.val demand)

/-- The demand that cause 3 shows. DESIGN CHOICE (log entry 96). -/
def State.vdistDemand (s : State) : Nat :=
  if Config.vdistDemandFloors then ceilDiv s.floorSum 4 else s.rd Reg.PWR_MEAS_P_DIST_W

/-- The junctions and stacks that make the W1056 drive THERM_ALERT_N, and those that let it release the pin. -/
def State.hot (s : State) (temps : List Nat) : Bool :=
  temps.any (fun t => decide (s.pwr.tAlert ≤ t)) || s.stks.any (fun e => decide (s.pwr.stkAlert ≤ e.2.temp))

def State.cool (s : State) (temps : List Nat) : Bool :=
  temps.all (fun t => decide (t + s.pwr.tHyst ≤ s.pwr.tAlert)) &&
    s.stks.all (fun e => decide (e.2.temp + s.pwr.tHyst ≤ s.pwr.stkAlert))

/-- DESIGN CHOICE (log entry 97). -/
def State.drivePin (s : State) (temps : List Nat) : State :=
  if s.pwr.alertOut then
    if s.cool temps then (s.updPwr (fun p => { p with alertOut := false })).emit (.alertPin false) else s
  else if s.hot temps then (s.updPwr (fun p => { p with alertOut := true })).emit (.alertPin true)
  else s

/-- Measurements of the epoch that has passed (R452). -/
def State.measure (s : State) (inp : PowerIn) : State :=
  let s := (s.wr Reg.PWR_MEAS_P_DIST_W (min inp.pDist 0xFFFF)).wr Reg.PWR_MEAS_P_STK_W (min inp.pStk 0xFFF)
  let s := s.wr Reg.PWR_MEAS_P_FIX_W (min inp.pFix 0x3FF)
  let h := s.hottest
  (s.wr Reg.PWR_MEAS_JMAX h.2).wr Reg.PWR_MEAS_JMAX_DOM h.1

/-- The stop of host-assisted power policy: its counters, and the stop itself (R446). -/
def State.powerStop (s : State) (req : Nat) (budget : Int) : State :=
  let exceeds := decide (4 * budget < (req : Nat))
  let s := s.updPwr (fun p => { p with
    overReq := if exceeds then min (p.overReq + 1) 100 else 0
    underReq := if exceeds then 0 else min (p.underReq + 1) 100
    armed := p.armed || (!exceeds && decide (99 ≤ p.underReq)) })
  if s.assisted 4 = true ∧ s.pwr.armed = true ∧ s.pwr.stop = false ∧ s.pwr.overReq = 100 then
    (s.updPwr (fun p => { p with stop := true, armed := false })).postStop (Code.hostStop + 4) Source.pwr 0
      (min budget.toNat 0xFFFF + min (ceilDiv req 4) 0xFFFF * 2 ^ 16)
  else s

/-- The reports of R436, and of R430 while VDIST is low. -/
def State.powerReports (s : State) (inp : PowerIn) (budget : Int) : State :=
  let s := if 4 * budget < (s.floorSum : Nat) then
      (s.wr Reg.PWR_STATUS_OVER 1).powerCause 1 (ceilDiv s.floorSum 4)
    else s
  let s := s.updPwr (fun p => { p with overCap := if s.capW < inp.pDist then min (p.overCap + 1) 100 else 0 })
  let s := if s.pwr.overCap = 100 then s.powerCause 2 inp.pDist else s
  if s.pwr.vdistLow then s.powerCause 3 s.vdistDemand else s

/-- Grants worked out at this boundary; under floors-only they hold at once. DEDUCED (log entry 95). -/
def State.grants (s : State) (budget : Int) : State :=
  let only := s.floorsOnly
  let r := allocate (s.pwr.doms.map (fun x => x.share s.pwr.ramp)) (4 * budget) only s.pwr.ptr
  s.updPwr (fun p => { p with
    ptr := r.2
    doms := (p.doms.zip r.1).map (fun e => { e.1 with next := e.2, grant := if only then e.2 else e.1.grant }) })

/-- The temperatures that the stacks report (R175, R441). -/
def State.stackTemps (s : State) (inp : PowerIn) : State :=
  s.forEach inp.stk.zipIdx (fun s e =>
    s.when (decide (e.2 < 16) && s.pdOn (66 + e.2)) (fun s => s.updStk e.2 (fun x => { x with temp := e.1 % 256 })))

/-- A 10 us boundary of the arbiter. -/
def State.powerEpoch (s : State) (inp : PowerIn) : State :=
  let s := s.stackTemps inp
  let s := s.updPwr (fun p => { p with doms := (p.doms.zipIdx).map (fun e => s.latch inp e.2 e.1) })
  let s := s.measure inp
  let s := s.drivePin (s.pwr.doms.map Dom.temp)
  let b := s.budget inp.pStk inp.pFix
  let s := s.updPwr (fun p => { p with budgetW := b.toNat })
  let s := s.grants b
  let s := s.powerReports inp b
  s.powerStop (s.pwr.doms.foldl (fun a x => a + x.req) 0) b

/-! ### Registers of the arbiter (R446, R456) -/

/-- A write of PWR_DOM_CFG in host-assisted mode: each field that is in range, of a domain that is not fixed.
DEDUCED (log entry 100). -/
def State.domCfg (s : State) (v : Nat) : State :=
  let d := s.rd Reg.PWR_DOM_SEL_DOMAIN
  if s.assisted 4 = true ∧ pdFixed d = false then
    let set (x : Dom) : Dom :=
      let c := if x.floor ≤ bits v 12 0 then bits v 12 0 else x.ceil
      { x with
        ceil := c, capd := if pdElastic d then min x.capd c else c, prio := bits v 14 13
        weight := if 1 ≤ bits v 22 15 then bits v 22 15 else x.weight
        vmax := if bits v 27 23 ≤ 18 then bits v 27 23 else x.vmax }
    s.updPwr (fun p => { p with doms := p.doms.modify d set })
  else s

/-- ACK ends a stop. -/
def State.powerAck (s : State) : State := s.updPwr (fun p => { p with stop := false })

/-! ### VDIST and the alert pin (R430, R441) -/

def State.raiseAlert (s : State) : State :=
  let d := s.alertDetail true false
  s.postEvent { code := Code.thermAlert, stop := false, source := Source.pwr, loc := 0, stream := none
                time := s.now64, detail := BitVec.ofNat 64 d }

def State.vdistLow (s : State) (trips : Bool) : State :=
  let s := s.updPwr (fun p => { p with vdistLow := true })
  let s := s.powerCause 3 s.vdistDemand
  if trips then s.trip else s

/-- The pin has been low for `us` microseconds. -/
def State.alertPinLow (s : State) (us : Nat) : State :=
  if s.pwr.alertLow then s
  else if us < 10 then s.count Reg.PWR_ALERT_STAT_ALERT_GLITCH 1
  else ((s.updPwr (fun p => { p with alertLow := true, alertSecs := 0 })).count Reg.PWR_ALERT_STAT_ALERTS 1).raiseAlert

def State.alertSecond (s : State) : State :=
  if s.pwr.alertLow then (s.updPwr (fun p => { p with alertSecs := min (p.alertSecs + 1) 0xFFFF })).raiseAlert else s

/-- The pin has been high for 1 ms, which it cannot be while the W1056 drives it low. -/
def State.alertPinHigh (s : State) : State :=
  if s.pwr.alertOut then s else s.updPwr (fun p => { p with alertLow := false })

/-! ### Coolant (R443 to R445) -/

/-- Flow in 0.1 L/min. DESIGN CHOICE (log entry 97). -/
def Pwr.flow (p : Pwr) (f : Nat) : Nat := 600 * f / p.flowK

/-- A temperature in 0.1 degrees. DESIGN CHOICE (log entry 97). -/
def Pwr.coolTemp (p : Pwr) (f : Nat) : Nat :=
  if f < p.tempF0 then (Config.coldTemp f p.tempF0 p.tempSlope).toNat else min (10 * (f - p.tempF0) / p.tempSlope) 0xFFF

/-- COOL_FAULT with its cause; the flow and the inlet are those measured last (R444). -/
def State.coolFault (s : State) (cause : Nat) : State :=
  s.post Code.coolFault Source.pwr 0
    (cause + min (s.rd Reg.PWR_COOL_FLOW) 1023 * 2 ^ 2 + s.rd Reg.PWR_COOL_TIN * 2 ^ 12)

def State.derateCause (s : State) : Nat := if s.pwr.lost = 0 then 2 else 3

/-- An episode of derating starts. -/
def State.derate (s : State) : State :=
  let s := s.updPwr (fun p => { p with derated := true, gates := 0, goodGates := 0 })
  s.coolFault s.derateCause

/-- A gate of an episode: reported once a second, ended by 10 s in range. DESIGN CHOICE (log entry 97). -/
def State.derateGate (s : State) (bad : Bool) : State :=
  let s := s.updPwr (fun p => { p with gates := p.gates + 1, goodGates := if bad then 0 else p.goodGates + 1 })
  if s.pwr.goodGates = 100 then s.updPwr (fun p => { p with derated := false })
  else if s.pwr.gates % 10 = 0 then s.coolFault s.derateCause else s

/-- A 100 ms gate: the three inputs in Hz, and the pulses that were too short to count as edges. An input with an edge is not
lost. -/
def State.coolGate (s : State) (flow tin tout glitches : Nat) : State :=
  let s := s.count Reg.PWR_ALERT_STAT_COOL_GLITCH glitches
  let back (i f : Nat) : BitVec 3 := if 0 < f then BitVec.ofNat 3 (2 ^ i) else 0
  let s := s.updPwr (fun p => { p with lost := p.lost &&& ~~~(back 0 flow ||| back 1 tin ||| back 2 tout) })
  let s := s.wr Reg.PWR_COOL_FLOW (min (s.pwr.flow flow) 0xFFFF)
  let s := (s.wr Reg.PWR_COOL_TIN (s.pwr.coolTemp tin)).wr Reg.PWR_COOL_TOUT (s.pwr.coolTemp tout)
  let bad := decide (45 * s.pwr.tempSlope + s.pwr.tempF0 < tin) || decide (60 * flow < 36 * s.pwr.flowK) || decide (s.pwr.lost ≠ 0)
  if s.pwr.derated then s.derateGate bad else if bad then s.derate else s

def State.sensorLost (s : State) (i : Nat) : State :=
  let s := s.updPwr (fun p => { p with lost := p.lost ||| BitVec.ofNat 3 (2 ^ i), goodGates := 0 })
  if s.pwr.derated then s else s.derate

/-- COOL_FAULT_N has been low for 50 ms: the quiesce. A wafer that is down already has nothing to quiesce. -/
def State.quiesce (s : State) : State :=
  let s := s.updPwr (fun p => { p with coolLow := true })
  if s.pwr.tripped = true ∨ s.pwr.quiesce = true then s
  else
    let s := s.coolFault 1
    let s := (s.wr Reg.PWR_STATUS_COOL_FAULT 1).updPwr (fun p => { p with quiesce := true })
    let s := s.setJrn { s.jrn with closed := true }
    s.boundary (s.jrn.epoch + 1)

/-- 1.0 s into a quiesce the wafer powers down as in a trip. DEDUCED (log entry 98). -/
def State.quiesceEnd (s : State) : State := if s.pwr.quiesce then s.powerDown else s

/-- COOL_FAULT_N is high again after `ms` milliseconds: a low shorter than 50 ms is counted and no more. -/
def State.coolPinHigh (s : State) (ms : Nat) : State :=
  if ms < 50 then s.count Reg.PWR_ALERT_STAT_COOL_GLITCH 1 else s.updPwr (fun p => { p with coolLow := false })

/-! ### The calibration block (R447 to R449, R458) -/

/-- A 16-bit or 32-bit two's complement field. -/
def sfld (bs : List Byte) (a n : Nat) : Int := (BitVec.ofNat (8 * n) (fld bs a n)).toInt

/-- The range checks of R447. -/
def calRanges (bs : List Byte) : Bool :=
  decide (bits (fld bs 6 2) 15 1 = 0) && zeroBytes bs 0x18 8 &&
    (List.range 96).all (fun i => decide (-60 ≤ sfld bs (0x20 + 2 * i) 2 ∧ sfld bs (0x20 + 2 * i) 2 ≤ 60)) &&
    zeroBytes bs (0xE0 + 1086) 2 && (List.range 32).all (fun i => zeroBytes bs (0x520 + 32 * i + 16) 16) &&
    decide (-100000 ≤ sfld bs 0x2920 4 ∧ sfld bs 0x2920 4 ≤ 100000) && zeroBytes bs 0x2924 5852

/-- Why a block is corrupt, by its code in FAIL_WHY; 0 when it is not. -/
def calWhy (bs : List Byte) : Nat :=
  if fld bs 0 4 ≠ 0x4C414343 ∨ fld bs 4 2 ≠ 1 then 1
  else if fld bs 0x10 4 ≠ 16384 then 2
  else if fld bs 0x14 4 ≠ (crc32c (patch bs 0x14 [0, 0, 0, 0])).toNat then 3
  else if calRanges bs = false then 4
  else 0

def State.calFail (s : State) (why : Nat) : State :=
  (s.wr Reg.PWR_CAL_CTL_FAIL 1).wr Reg.PWR_CAL_CTL_FAIL_WHY why

/-- The write buffer as a whole block. -/
def State.calBuffer (s : State) : List Byte := Mem.read s.pwr.wbuf 0 16384

/-- PWR_CAL_CTL WRITE. -/
def State.calStart (s : State) (confirm : Nat) : State :=
  if s.pwr.calBusy = true ∨ confirm ≠ 0x5A3C then s.calFail 6
  else
    let s := ((s.wr Reg.PWR_CAL_CTL_DONE 0).wr Reg.PWR_CAL_CTL_FAIL 0).wr Reg.PWR_CAL_CTL_FAIL_WHY 0
    if calWhy s.calBuffer = 0 then s.updPwr (fun p => { p with calBusy := true }) else s.calFail (calWhy s.calBuffer)

/-- The block as an overwrite programs it: FACTORY is 0, with the CRC that goes with it (R447). DEDUCED (log entry 119). -/
def userBlock (m : Mem) : Mem :=
  if bit (fld (Mem.read m 6 2) 0 2) 0 then
    let m := Mem.write m 6 (leBytes 2 (fld (Mem.read m 6 2) 0 2 - 1))
    Mem.write m 0x14 (leBytes 4 (crc32c (patch (Mem.read m 0 16384) 0x14 [0, 0, 0, 0])).toNat)
  else m

/-- The overwrite ends; a block that does not read back as written is corrupt. -/
def State.calEnd (s : State) (ok : Bool) : State :=
  if s.pwr.calBusy then
    if ok then
      (s.updPwr (fun p => { p with calBusy := false, flash := userBlock p.wbuf, flashBad := none })).wr Reg.PWR_CAL_CTL_DONE 1
    else ((s.updPwr (fun p => { p with calBusy := false, flashBad := some s.io.draws })).draw).calFail 5
  else s

/-- Bytes of the flash; those of a corrupt block are open. DESIGN CHOICE (log entry 99). -/
def State.flashRead (s : State) (a n : Nat) : List Byte :=
  match s.pwr.flashBad with
  | some k => (List.range n).map (fun i => Config.flashByte k (a + i))
  | none => Mem.read s.pwr.flash a n

/-- The word that PWR_CAL_DATA shows. DESIGN CHOICE (log entry 99). -/
def State.calWord (s : State) : Word :=
  let a := 8 * s.rd Reg.PWR_CAL_ADDR_WORD
  if s.rdb Reg.PWR_CAL_ADDR_BUF then BitVec.ofNat 64 (leNat (Mem.read s.pwr.wbuf a 8))
  else if s.pwr.calBusy then 0
  else BitVec.ofNat 64 (leNat (s.flashRead a 8))

/-- AUTOINC advances WORD after an access. -/
def State.calNext (s : State) : State :=
  if s.rdb Reg.PWR_CAL_ADDR_AUTOINC then s.wr Reg.PWR_CAL_ADDR_WORD ((s.rd Reg.PWR_CAL_ADDR_WORD + 1) % 2048) else s

/-- A write of PWR_CAL_DATA: the write buffer's word; the flash block cannot be written so. -/
def State.calWriteWord (s : State) (v : Word) : State :=
  let a := 8 * s.rd Reg.PWR_CAL_ADDR_WORD
  let s := if s.rdb Reg.PWR_CAL_ADDR_BUF then s.updPwr (fun p => { p with wbuf := Mem.write p.wbuf a (leBytes 8 v.toNat) }) else s
  s.calNext

end Sys2Proof.Machine
end

