-- ==== Sys2Proof/Machine/BringOps.lean ====
section
/-! DEFINITION. The bring-up engine (R399 to R427): which stage may start, its stops and their answers, the start-up
map and its freezing, and the watchdog of the management cores. -/

namespace Sys2Proof.Machine

def State.updBru (s : State) (f : Bru → Bru) : State := { s with bru := f s.bru }

/-! ### Stages (R399, R412, R417) -/

/-- The stage due: HERD_LOAD once a broadcast has left no tile missing. DEDUCED (log entry 52). -/
def Bru.stageNow (b : Bru) : Nat := if b.stage = 4 ∧ b.bcastOn = true ∧ b.missing = [] then 5 else b.stage

/-- A stop before a stage. -/
def BruStop.ofStage : BruStop → Bool
  | .holdRelease => true
  | .stopAt _ => true
  | _ => false

/-- The stage may start: it is due, and no stop before it waits or is still to be made. DEDUCED (log entry 5). -/
def State.mayStart (s : State) (stage : Nat) : Bool :=
  decide (s.bru.stageNow = stage) && !s.pwr.tripped && !(s.bru.stopAt.contains stage) && !(s.bru.stops.any BruStop.ofStage) &&
    !(decide (stage = 6) && s.bru.hold)

/-- A STOP_AT or HOLD_RELEASE stop is made before the stage that is due, STOP_AT first. -/
def State.bringupStop (s : State) (stage : Nat) : State :=
  if s.bru.stageNow = stage ∧ s.bru.stops.any BruStop.ofStage = false then
    if s.bru.stopAt.contains stage then
      (s.updBru (fun b => { b with stopAt := b.stopAt.filter (fun x => decide (x ≠ stage)), stops := b.stops ++ [.stopAt stage] })).postStop
        Code.bringupStop Source.bru 0 stage
    else if stage = 6 ∧ s.bru.hold = true then
      (s.updBru (fun b => { b with hold := false, stops := b.stops ++ [.holdRelease] })).postStop Code.bringupStop Source.bru 0 (6 + 8)
    else s
  else s

/-- The stop that is answered next: the oldest. DEDUCED (log entry 105). -/
def State.popStop (s : State) : State := s.updBru (fun b => { b with stops := b.stops.drop 1 })

/-! ### The start-up map (R408 to R411) -/

/-- The physical herd that a logical herd takes unless it must move. -/
def naturalHerd (h : Nat) : Nat := h / 32 * 33 + h % 32

/-- A logical herd whose place is unfit moves to the lowest reserve herd, or is absent. -/
def State.placeHerd (s : State) (h : Nat) : State :=
  if s.unfit (naturalHerd h) then
    match s.reserveNext with
    | some row => s.placeIn h row
    | none => s.updBru (fun b => { b with map := { b.map with absent := b.map.absent ++ [h] } })
  else s

/-- The start-up map of every herd, computed from what has failed. -/
def State.startMap (s : State) : MapStore :=
  let phs := (s.bru.failed.map failHerd).eraseDups
  let s : State := { s with bru := { s.bru with map := MapStore.empty }, flt := { s.flt with usedRows := [] } }
  let s := s.forEach phs (fun s ph => s.setHmap ph (s.skips ph))
  (s.forEach (List.range 1024) State.placeHerd).bru.map

/-- The map goes into the map store and is frozen; bring-up waits for an image where none is committed. -/
def State.freeze (s : State) (m : MapStore) : State :=
  let s : State := { s with flt := { s.flt with usedRows := m.moved.map (fun e => e.2 / 33) } }
  let ready := s.img.committed.isSome
  let s := s.updBru (fun b => { b with
    map := m, draft := none, frozen := true, waitImage := !ready, stage := if ready then 4 else 3 })
  let s := s.wr Reg.BRU_BIST_SUM_HERDS_MOVED (min m.moved.length 63)
  match m.absent with
  | [] => s
  | h :: _ => (s.wr Reg.BRU_STATUS_EXHAUSTED 1).post Code.remapExhausted Source.bru 0 h

/-- Tiles that count as failed. -/
def State.failedTiles (s : State) : Nat := (s.bru.failed.filter (fun f => decide (f.elem ≠ .controller))).length

/-- REMAP: the map is computed, and frozen; in host-assisted mode of tile remap bring-up stops first.
DEDUCED (log entry 24). -/
def State.remap (s : State) : State :=
  if s.mayStart 3 = true ∧ s.bru.warm = false ∧ s.bru.frozen = false ∧ s.bru.draft = none then
    let m := s.startMap
    if s.assisted 0 then
      (s.updBru (fun b => { b with draft := some m, stops := b.stops ++ [.remap] })).postStop Code.hostStop Source.bru 0
        (s.failedTiles + min (m.moved.length + m.absent.length) 63 * 2 ^ 21)
    else s.freeze m
  else s

/-! ### Answers (R417, R423) -/

/-- A port at its stop is up when it trained, and trains again later otherwise. -/
def State.settlePort (s : State) (m : Nat) (trained : Bool) : State := if trained then s.portUp m else s.portFailed m

/-- The remap stop ends with the draft frozen. -/
def State.acceptMap (s : State) : State :=
  match s.bru.draft with
  | some m => s.popStop.freeze m
  | none => s.popStop

/-- BRU_CMD ACCEPT. -/
def State.bruAccept (s : State) (m : Nat) : State :=
  match s.bru.stops with
  | .remap :: _ => s.acceptMap
  | .serdes n t :: _ => if n = m then s.popStop.settlePort n t else s
  | _ => s

/-- After a broadcast repair stop the next round may run; after the third, what misses is retired. -/
def State.repairGoesOn (s : State) : State := if 3 ≤ s.bru.round then s.popStop.retireMissing else s.popStop

/-- BRU_CMD RETIRE_NOW. -/
def State.retireNow (s : State) : State :=
  match s.bru.stops with
  | .repair _ _ :: _ => s.popStop.retireMissing
  | _ => s

/-- BRU_CMD RETRY. -/
def State.bruRetry (s : State) (m : Nat) : State :=
  match s.bru.stops with
  | .repair _ _ :: _ => s.repairGoesOn
  | .serdes n _ :: _ => if n = m then s.popStop.updMac n (fun x => { x with training := true }) else s
  | _ => s

/-- BRU_CMD GO. -/
def State.bruGo (s : State) : State :=
  match s.bru.stops with
  | .holdRelease :: _ => s.popStop
  | .stopAt _ :: _ => s.popStop
  | _ => s

/-- BRU_CMD MARK at a remap stop: the tile counts as failed and the map is computed again. -/
def State.bruMark (s : State) (px py : Nat) : State :=
  match s.bru.stops with
  | .remap :: _ =>
    if px < 1089 ∧ py < 1056 then
      let s := s.updBru (fun b => { b with failed := b.failed ++ [{ at_ := ⟨px, py⟩, elem := .tile }] })
      s.updBru (fun b => { b with draft := some s.startMap })
    else s
  | _ => s

/-- BRU_CMD DOWN. -/
def State.bruDown (s : State) (m : Nat) : State :=
  match s.bru.stops with
  | .serdes n _ :: _ => if n = m then s.popStop.updMac n (fun x => { x with training := false, retry := false, down := true }) else s
  | _ => s

/-- A write of BRU_CMD. DEDUCED (log entry 105). -/
def State.bruCmd (s : State) (op px py m : Nat) : State :=
  match op with
  | 1 => s.bruAccept m
  | 2 => s.retireNow
  | 3 => s.bruRetry m
  | 4 => s.bruGo
  | 5 => s.bruMark px py
  | 6 => s.bruDown m
  | _ => s

/-- No command came in time: the fallback of a stop. -/
def State.bruTimeout (s : State) (k : BruStopKind) : State :=
  match k, s.bru.stops with
  | .remap, .remap :: _ => s.acceptMap
  | .serdes m, .serdes n t :: _ => if n = m.val then s.popStop.settlePort n t else s
  | .stopAt st, .stopAt x :: _ => if x = st.val then s.popStop else s
  | _, _ => s

/-- 10 ms at a broadcast repair stop. -/
def State.repairTimeout (s : State) : State :=
  match s.bru.stops with
  | .repair _ _ :: _ => s.repairGoesOn
  | _ => s

/-! ### Watchdog (R387, R471, R474) -/

/-- The management cores restart at address 0: a reply still pending is discarded. DESIGN CHOICE (log entry 47).
DESIGN CHOICE (log entry 56). -/
def State.watchdog (s : State) : State :=
  let n := s.host.restarts + 1
  let s : State := { s with host := { s.host with restarts := n, mailLen := [] }
                            bru := { s.bru with mgmt := if s.bru.mgmt.cores.isEmpty then s.bru.mgmt else Mgmt.start s.bru.mgmt.mem } }
  s.post Code.mgmtWatchdog Config.watchdogSource.toNat 0 (min n 0xFFFF)

end Sys2Proof.Machine
end

