-- ==== Sys2Proof/Machine/HostOps.lean ====
section
/-! DEFINITION. The host interface below the registers (R463 to R478): the ring directory and BAR2, mailboxes, event
records, MSI-X messages and the counter harvest. -/

namespace Sys2Proof.Machine

def State.setHost (s : State) (h : HostIf) : State := { s with host := h }

/-! ### PCI Express (R460, R461) -/

/-- The identity that PCI Express configuration space shows. -/
structure PciIdentity where
  vendor : BitVec 16
  device : BitVec 16
  revision : BitVec 8
  subVendor : BitVec 16
  subDevice : BitVec 16
  classCode : BitVec 24
  vectors : Nat
deriving DecidableEq, Repr

/-- The identity of the wafer; Revision ID is REV of GLB_ID (R460). -/
def State.pciIdentity (s : State) : PciIdentity :=
  { vendor := 0x1FB9, device := 0x1056, revision := BitVec.ofNat 8 (s.rd Reg.GLB_ID_REV), subVendor := 0x1FB9
    subDevice := 1, classCode := 0x120000, vectors := 2048 }

/-- The size of a BAR in bytes (R461). -/
def barBytes : Nat → Nat
  | 0 => 2 ^ 26
  | 2 => 2 ^ 30
  | 4 => 2 ^ 36
  | _ => 0

/-! ### The ring directory (R463 to R466) -/

/-- The ring of a BAR2 offset in the directory, and the offset in its record. -/
def ringAt (off : Nat) : Option (RingKind × Nat × Nat) :=
  if 0x10_0000 ≤ off ∧ off < 0x14_0000 then some (.submit, (off - 0x10_0000) / 64, off % 64)
  else if 0x14_0000 ≤ off ∧ off < 0x18_0000 then some (.receive, (off - 0x14_0000) / 64, off % 64)
  else if 0x18_0000 ≤ off ∧ off < 0x19_0000 then some (.completion, (off - 0x18_0000) / 64, off % 64)
  else if 0x19_0000 ≤ off ∧ off < 0x19_4000 then some (.transmit, (off - 0x19_0000) / 64, off % 64)
  else if 0x19_4000 ≤ off ∧ off < 0x19_4040 then some (.event, 0, off % 64)
  else none

/-- A directory record as it reads. -/
def Ring.record (r : Ring) : List Byte :=
  leBytes 4 r.base ++ leBytes 1 r.log2 ++ leBytes 1 (b2n r.en + 2 * b2n r.irq) ++ leBytes 2 r.vec ++ leBytes 4 r.esize ++
    leBytes 1 r.mac ++ leBytes 3 0 ++ leBytes 4 r.prod.toNat ++ leBytes 4 r.cons.toNat ++ leBytes 40 0

def hostProduces (k : RingKind) : Bool := decide (k = .submit ∨ k = .transmit)

/-- Fields that a ring uses are no longer at their cleared values, its entries lie in BAR2, and a transmit ring's MAC
is on and no follower (R466). DEDUCED (log entry 54). -/
def State.ringValid (s : State) (k : RingKind) (r : Ring) : Bool :=
  decide (r.base ≠ 0 ∧ r.log2 ≠ 0) && (decide (k = .event) || decide (r.esize ≠ 0 ∧ r.vec ≠ 0)) &&
    decide (r.base + r.size * r.bytes k ≤ 2 ^ 30) && (!decide (k = .transmit) || s.leads r.mac)

/-- FLAGS of a record: EN is set only in a valid record. DEDUCED (log entry 54). -/
def State.ringFlags (s : State) (k : RingKind) (r : Ring) (v : Nat) : Ring :=
  let r := if k = .event then r else { r with irq := bit v 1 }
  { r with en := bit v 0 && (r.en || s.ringValid k r) }

/-- BASE, LOG2 and VECTOR, each in its range. -/
def Ring.place (k : RingKind) (r : Ring) (v mask : Nat) : Ring :=
  let r := if bit mask 0 && decide (bits v 31 0 % 64 = 0 ∧ 0x100_0000 ≤ bits v 31 0 ∧ bits v 31 0 < 2 ^ 30) then
      { r with base := bits v 31 0 } else r
  let r := if bit mask 32 && decide (4 ≤ bits v 39 32 ∧ bits v 39 32 ≤ 16) then { r with log2 := bits v 39 32 } else r
  if bit mask 32 && decide (k ≠ .event) && decide (32 ≤ bits v 63 48 ∧ bits v 63 48 ≤ 2047) then { r with vec := bits v 63 48 }
  else r

/-- ESIZE and MAC. -/
def Ring.shape (k : RingKind) (r : Ring) (v mask : Nat) : Ring :=
  let r := if bit mask 0 && decide (k ≠ .event) && decide (1 ≤ bits v 31 0 ∧ bits v 31 0 ≤ 16385) then
      { r with esize := bits v 31 0 } else r
  if bit mask 32 && decide (k = .transmit) && decide (bits v 39 32 ≤ 15) then { r with mac := bits v 39 32 } else r

/-- A PROD write of the host (R465). DEDUCED (log entry 54). -/
def Ring.setProd (k : RingKind) (r : Ring) (p : BitVec 32) : Ring :=
  if hostProduces k && decide ((p - r.cons).toNat ≤ r.size) then { r with prod := p } else r

/-- A CONS write of the host: forward by no more than PROD - CONS (R465). -/
def Ring.setCons (k : RingKind) (r : Ring) (c : BitVec 32) : Ring :=
  if !(hostProduces k) && decide ((c - r.cons).toNat ≤ r.held) then { r with cons := c } else r

/-- A write of word w of a record; `mask` says which bits are written. -/
def State.dirWrite (s : State) (k : RingKind) (i w v mask : Nat) : State :=
  let r := s.ring k i
  match w with
  | 0 =>
    let r' := if r.en then r else r.place k v mask
    s.setRing k i (if bit mask 40 then s.ringFlags k r' (bits v 47 40) else r')
  | 1 => if r.en then s else s.setRing k i (r.shape k v mask)
  | 2 =>
    let r := if bit mask 0 then r.setProd k (BitVec.ofNat 32 (bits v 31 0)) else r
    s.setRing k i (if bit mask 32 then r.setCons k (BitVec.ofNat 32 (bits v 63 32)) else r)
  | _ => s

/-- RING_ENABLE: EN is set and IRQ_EN written. -/
def State.ringEnable (s : State) (k : RingKind) (i : Nat) (irq : Bool) : State :=
  s.setRing k i (s.ringFlags k (s.ring k i) (1 + 2 * b2n irq))

/-! ### BAR2 (R463, R464, R477) -/

/-- A host write into BAR2. -/
def State.hostBar2Write (s : State) (off : Nat) (bs : List Byte) : State :=
  match ringAt off with
  | some (k, i, a) =>
    if bs.length = 8 ∧ a % 8 = 0 then s.dirWrite k i (a / 8) (leNat bs) (2 ^ 64 - 1)
    else if bs.length = 4 ∧ a % 4 = 0 then
      s.dirWrite k i (a / 8) (leNat bs * 2 ^ (8 * (a % 8))) ((2 ^ 32 - 1) * 2 ^ (8 * (a % 8)))
    else s
  | none =>
    if off < 0x10_0000 then s.bar2Write off (bs.take (0x10_0000 - off))
    else if 0x100_0000 ≤ off then s.bar2Write off (bs.take (2 ^ 30 - off))
    else s

/-- A host read of BAR2. -/
def State.hostBar2Read (s : State) (off n : Nat) : List Byte :=
  match ringAt off with
  | some (k, i, a) =>
    if (n = 8 ∧ a % 8 = 0) ∨ (n = 4 ∧ a % 4 = 0) then slice (s.ring k i).record a n else List.replicate n 0
  | none => if 0x19_4040 ≤ off ∧ off < 0x20_0000 then List.replicate n 0 else Mem.read s.host.bar2 off n

/-! ### Mailboxes (R471) -/

/-- POST of mailbox m. -/
def State.postMail (s : State) (m len : Nat) : State :=
  if s.rdb (Reg.MBX_STAT_BUSY m) = true ∨ len = 0 ∨ 32768 < len then s.wr (Reg.MBX_STAT_REJECTED m) 1
  else
    let s := s.wr (Reg.MBX_STAT_BUSY m) 1
    s.setHost { s.host with mailLen := NatMap.ins s.host.mailLen m len }

/-- The firmware's reply to a request that it holds. DESIGN CHOICE (log entry 47). -/
def State.mailReply (s : State) (m : Nat) (reply : List Byte) : State :=
  if s.rdb (Reg.MBX_STAT_BUSY m) = true ∧ (NatMap.find s.host.mailLen m).isSome = true ∧ s.pdOn 90 = true then
    let s := s.bar2Write (m * 0x1_0000 + 0x8000) (reply.take 32768)
    let s := (s.wr (Reg.MBX_STAT_REPLY m) 1).wr (Reg.MBX_STAT_RLEN m) (min reply.length 32768)
    let s := s.wr (Reg.MBX_STAT_BUSY m) 0
    (s.setHost { s.host with mailLen := NatMap.del s.host.mailLen m }).emit (.msix (2 + m))
  else s

/-- 2 s without a reply. -/
def State.mailExpire (s : State) (m : Nat) : State :=
  if s.rdb (Reg.MBX_STAT_BUSY m) then
    let s := (s.wr (Reg.MBX_STAT_EXPIRED m) 1).wr (Reg.MBX_STAT_BUSY m) 0
    s.setHost { s.host with mailLen := NatMap.del s.host.mailLen m }
  else s

/-! ### Event records and messages (R472, R473, R481, R487) -/

def Event.severity (e : Event) : Nat := Machine.severity e.code e.detail.toNat

/-- An event record. -/
def Event.bytes (e : Event) : List Byte :=
  let st := e.stream.getD (0, 0)
  leBytes 2 e.code ++ leBytes 1 (e.severity + 4 * b2n e.stream.isSome + 8 * b2n e.stop) ++ leBytes 1 e.source ++
    leBytes 4 (e.loc % 2 ^ 20 + st.1 % 4096 * 2 ^ 20) ++ leBytes 8 st.2 ++ leBytes 8 e.time.toNat ++ leBytes 8 e.detail.toNat

/-- The fault controller writes the oldest event to the event ring, or drops it when the ring is full. -/
def State.eventRecord (s : State) : State :=
  match s.io.events with
  | [] => s
  | e :: rest =>
    let s : State := { s with io := { s.io with events := rest } }
    let s := if 2 ≤ e.severity then s.setHost { s.host with severe := e.bytes } else s
    if (s.ring .event 0).full then
      ((s.count Reg.GLB_EVENT_LOST_COUNT 1).wr Reg.GLB_EVENT_LOST_LAST_CODE e.code).wr Reg.GLB_EVENT_LOST_VALID 1
    else
      let s := s.ringPut .event 0 e.bytes
      if e.stop then s.askMsix .stop else s

/-- The vector of a source. -/
def State.vector (s : State) : MsixSrc → Nat
  | .event => 0
  | .stop => 1
  | .ring r => (s.ring r.kind r.idx).vec

/-- A source's message goes out, or is held back within 1 us of its last one. -/
def State.msixSignal (s : State) : State :=
  match s.host.msixQ with
  | [] => s
  | m :: rest =>
    let s := s.setHost { s.host with msixQ := rest }
    if s.host.limited.any (fun e => decide (e.1 = m)) then
      s.setHost { s.host with limited := s.host.limited.map (fun e => if e.1 = m then (m, true) else e) }
    else (s.setHost { s.host with limited := s.host.limited ++ [(m, false)] }).emit (.msix (s.vector m))

/-- The 1 us of a source has passed: a message held back goes out and starts the next. -/
def State.msixExpire (s : State) (m : MsixSrc) : State :=
  let held := s.host.limited.contains (m, true)
  let s := s.setHost { s.host with limited := s.host.limited.filter (fun e => decide (e.1 ≠ m)) }
  if held then (s.setHost { s.host with limited := s.host.limited ++ [(m, false)] }).emit (.msix (s.vector m)) else s

/-! ### The export ring (R470, R490) -/

/-- GLB_EXPORT_PTR: CONS moves forward by no more than PROD - CONS, and waiting records go on. -/
def State.exportCons (s : State) (c : BitVec 32) : State :=
  let cons := BitVec.ofNat 32 (s.rd Reg.GLB_EXPORT_PTR_CONS)
  let prod := BitVec.ofNat 32 (s.rd Reg.GLB_EXPORT_PTR_PROD)
  if (c - cons).toNat ≤ (prod - cons).toNat then (s.wr Reg.GLB_EXPORT_PTR_CONS c.toNat).export_ else s

/-- GLB_EXPORT_BASE may be written: the ring is empty. -/
def State.exportIdle (s : State) : Bool := decide (s.rd Reg.GLB_EXPORT_PTR_PROD = s.rd Reg.GLB_EXPORT_PTR_CONS)

/-! ### The counter harvest (R477, R478, R488) -/

/-- The RC counter registers of MACn, PRHn and IBX. -/
def harvestRegs : List Nat :=
  (List.range 16).flatMap (fun n =>
    (List.range 24).map (Reg.MAC_STAT n) ++ (List.range 16).map (Reg.MAC_QUEUE_STAT n) ++
      (List.range 6).map (Reg.PRH_STAT_FRONT n) ++ (List.range 7).map (Reg.PRH_STAT_EVAL n)) ++
    (List.range 4).map Reg.IBX_STAT

/-- The RC fields of a register, low to high. -/
def rcFields (off : Nat) : List FieldRow :=
  match rowAt off with
  | some (r, _) => r.fields.filter (fun f => decide (f.acc = .rc))
  | none => []

/-- Clears the RC fields of a register, as a 64-bit read does. -/
def State.clearRc (s : State) (off : Nat) : State :=
  s.setReg off (BitVec.ofNat 64 ((rcFields off).foldl (fun a f => setBits a f.hi f.lo 0) (s.reg off).toNat))

/-- Adds the fields of one register to their totals. -/
def State.harvestReg (s : State) (off : Nat) : State :=
  if s.blkOn off = true ∧ s.reg off ≠ 0 then
    let v := (s.reg off).toNat
    let s := s.forEach ((rcFields off).zipIdx) (fun s e =>
      let a := 0x20_0000 + 2 * (off - 0x40_0000) + 8 * e.2
      s.bar2Write a (leBytes 8 (leNat (Mem.read s.host.bar2 a 8) + bits v e.1.hi e.1.lo)))
    s.clearRc off
  else s

def State.harvestAll (s : State) : State :=
  (s.forEach harvestRegs State.harvestReg).countWrap Reg.GLB_HARVEST_PASSES 1

/-- PERIOD_MS is over: the firmware runs a pass, or stops in host-assisted mode. DESIGN CHOICE (log entry 101). -/
def State.harvestPass (s : State) : State :=
  if s.pdOn 90 = false then s
  else if s.assisted 8 then
    if s.host.harvestStop then s
    else (s.setHost { s.host with harvestStop := true }).postOpenStop 8 Source.glb [s.now64.toNat]
  else s.harvestAll

/-- 50 ms at a harvest stop. -/
def State.harvestTimeout (s : State) : State :=
  if s.host.harvestStop then (s.setHost { s.host with harvestStop := false }).harvestAll else s

/-- ACCEPT skips the pass. -/
def State.harvestAccept (s : State) : State := s.setHost { s.host with harvestStop := false }

end Sys2Proof.Machine
end

