-- ==== Sys2Proof/Machine/LoadCmds.lean ====
section
/-! DEFINITION. The commands of the image loader's registers (R192, R196, R207): START, ABORT and the fuses. -/

namespace Sys2Proof.Machine

def State.setImg (s : State) (g : Img) : State := { s with img := g }

/-- START when PHASE is IDLE or DONE; a START at any other time is dropped. DEDUCED (log entry 62). -/
def State.imgStart (s : State) : State :=
  if s.img.phase = .idle ∨ s.img.phase = .done then s.setImg { s.img with phase := .verify, loading := none }
  else s.wr Reg.IMG_LOAD_STATUS_REJECTED 1

/-- ABORT ends a load in VERIFY. -/
def State.imgAbort (s : State) : State :=
  if s.img.phase = .verify then s.setImg { s.img with phase := .idle, loading := none } else s

/-! ### Fuses -/

def Fuses.slot (f : Fuses) : Nat → Option (BitVec 512)
  | 0 => f.slot0
  | 1 => f.slot1
  | 2 => f.slot2
  | 3 => f.slot3
  | _ => none

def Fuses.isRevoked (f : Fuses) (k : Nat) : Bool := f.revoked.getLsbD k

/-- A programmed, unrevoked slot. -/
def Fuses.live (f : Fuses) (k : Nat) : Bool := (f.slot k).isSome && !f.isRevoked k

/-- Burns a digest into a blank slot. -/
def Fuses.burn (f : Fuses) (k : Nat) (d : BitVec 512) : Fuses :=
  match k with
  | 0 => { f with slot0 := f.slot0.or (some d) }
  | 1 => { f with slot1 := f.slot1.or (some d) }
  | 2 => { f with slot2 := f.slot2.or (some d) }
  | 3 => { f with slot3 := f.slot3.or (some d) }
  | _ => f

def Fuses.revoke (f : Fuses) (k : Nat) : Fuses := { f with revoked := f.revoked ||| BitVec.ofNat 4 (2 ^ k) }

/-- Set bits of the thermometer field. -/
def Fuses.minSvn (f : Fuses) : Nat := ((List.range 64).filter (fun i => f.thermo.getLsbD i)).length

/-- Burns thermometer bits, lowest first, until `n` are set. -/
def Fuses.advance (f : Fuses) (n : Nat) : Fuses :=
  (List.range 64).foldl (fun f i => if f.minSvn < n then { f with thermo := f.thermo ||| BitVec.ofNat 64 (2 ^ i) } else f) f

/-- IMG_FUSE_DATA as a digest. -/
def State.fuseData (s : State) : BitVec 512 :=
  BitVec.ofNat 512 (leNat ((List.range 8).flatMap (fun i => leBytes 8 (s.rd (Reg.IMG_FUSE_DATA_DATA i)))))

/-- One of FUSE_DONE and FUSE_FAIL reports a fuse command. -/
def State.fuseAns (s : State) (ok : Bool) : State :=
  (s.wr Reg.IMG_KEY_STATUS_FUSE_DONE (b2n ok)).wr Reg.IMG_KEY_STATUS_FUSE_FAIL (b2n (!ok))

/-- A slot is programmed while it is blank and unrevoked and no image has been committed since the last cold reset. -/
def State.fuseProgram (s : State) (k : Nat) (confirm : Nat) : State :=
  if confirm = 0xA5F0 ∧ s.img.everCommitted = false ∧ s.fuses.slot k = none ∧ s.fuses.isRevoked k = false then
    { s.fuseAns true with fuses := s.fuses.burn k s.fuseData }
  else s.fuseAns false

/-- A slot is revoked at any time, but not the last one that is programmed and unrevoked. -/
def State.fuseRevoke (s : State) (k : Nat) (confirm : Nat) : State :=
  let last := s.fuses.live k && !((List.range 4).any (fun j => decide (j ≠ k) && s.fuses.live j))
  if confirm = 0xA5F0 ∧ last = false then { s.fuseAns true with fuses := s.fuses.revoke k } else s.fuseAns false

/-- A write of IMG_FUSE_CMD; an OP other than program and revoke does nothing, and with the right CONFIRM that command has
completed (R207). DEDUCED (log entry 55). -/
def State.fuseCmd (s : State) (op k confirm : Nat) : State :=
  match op with
  | 1 => s.fuseProgram k confirm
  | 2 => s.fuseRevoke k confirm
  | _ => s.fuseAns (decide (confirm = 0xA5F0))

end Sys2Proof.Machine
end

