-- ==== Sys2Proof/Machine/Recovery.lean ====
section
/-! DEFINITION. The commands of the Chamois recovery (R376 to R382, R397). -/

namespace Sys2Proof.Machine

/-- A step of the recovery may change what a journal step may, and the power domains. -/
def actRec (f : State → State) (s : State) : Result :=
  let t := f s
  .next { s with regs := t.regs, tiles := t.tiles, herds := t.herds, mesh := t.mesh, stks := t.stks, snaps := t.snaps
                 macs := t.macs, jrn := t.jrn, bru := t.bru, flt := t.flt, pwr := t.pwr, host := t.host, io := t.io }

def execDetect (h : HerdNo) (found : Option Failed) (s : State) : Result := actRec (fun s => s.detect h.val found) s

def execDecide (s : State) : Result := actRec State.decide_ s

/-- REMAP: the mapping skips the failed tile or its row, a failed router is bypassed, and ROUTE_REPAIR runs on
the herd (R377, R378, R398). -/
def State.chamoisRemap (s : State) : State :=
  match s.flt.st, s.flt.choice, s.flt.failed with
  | .remap, some c, f :: _ =>
    let h := s.failedHerd f
    let s := s.skip f c
    let s := if f.elem = .router then s.setRouter f.at_.x f.at_.y { s.router f.at_.x f.at_.y with bypass := true } else s
    let s := (s.count Reg.FLT_COUNT_REMAPS 1).noteRemap h c.kind (f.at_.x % 33) (f.at_.y % 33)
    (s.repairRoutes h).fltNext
  | _, _, _ => s

def execChamoisRemap (s : State) : Result := actRec State.chamoisRemap s

/-- MOVE: the lowest free reserve herd is powered and tested; one that fails is marked used and DECIDE tries the
next (R379). Its routes follow with ROUTE_PATCH, and what its tiles miss of the firmware in the end counts at RELOAD. DEDUCED
(log entry 133). -/
def State.herdMove (s : State) (m : MoveEnd) : State :=
  if s.flt.st = .move ∧ s.flt.moveTo = none then
    match s.reserveNext with
    | none => s.exhaust
    | some row =>
      let s := s.setPd (pdOfPherd (reserveHerd row)) true
      if m.bistOk then
        let s := s.retireHerd (s.pherd s.flt.herd)
        let s := s.setHmap (reserveHerd row) ((s.herdMap (reserveHerd row)).getD HMap.plain)
        s.updFlt (fun x => { x with usedRows := x.usedRows ++ [row], moveTo := some row, missed := x.missed ++ m.missed })
      else
        let s := s.updFlt (fun x => { x with usedRows := x.usedRows ++ [row] })
        if s.flt.failed.isEmpty then (if s.reserveNext.isSome then s else s.exhaust)
        else s.updFlt (fun x => { x with st := .decide, choice := none })
  else s

def execHerdMove (m : MoveEnd) (s : State) : Result := actRec (fun s => s.herdMove m) s

/-- The reload of a herd; in a reserve herd, which took no broadcast, its controller reads COMMON_TILE_FW from its home stack's
copy first, and a damaged one leaves the herd FAULTED as a damaged section does (R201, R416). DEDUCED (log entry 133). -/
def State.reloadPlaced (s : State) (h : Nat) : State :=
  if s.pherd h % 33 = 32 then
    let r := s.readSects (s.homeStack h) (s.img.resident.filter (fun e => decide (e.typ = SecType.commonTileFw)))
    match r.bad with
    | none => r.state.reloadHerd h
    | some typ => r.state.reloadBad h typ
  else s.reloadHerd h

/-- What tiles of the reserve herds that the recovery has brought into service miss of the firmware after its repair
rounds (R416). -/
def State.reserveMissed (s : State) : NatMap Nat :=
  (s.missIn s.bru.fw s.flt.missed).filter (fun e =>
    decide (e.2 ≠ 0 ∧ herdOfPos e.1 % 33 = 32) && s.flt.reload.any (fun h => decide (s.pherd h = herdOfPos e.1)))

/-- RELOAD: RESET_TILES in each failed herd, and its sections from the resident entry (R377). A tile of a reserve herd that
has not taken the firmware is retired first, and DECIDE spares it (R415, R416). DEDUCED (log entry 133). -/
def State.reload (s : State) : State :=
  if s.flt.st = .reload then
    match s.reserveMissed with
    | [] => (s.forEach s.flt.reload State.reloadPlaced).updFlt (fun x => { x with st := .restore, missed := [] })
    | gone => (s.retire gone).updFlt (fun x => { x with st := .decide, failed := missFails gone, choice := none, missed := [] })
  else s

def execReload (s : State) : Result := actRec State.reload s

/-- A reload that failed leaves the herd FAULTED, and the recovery cannot go on (R201). -/
def State.reloadFailed (s : State) : Bool := s.flt.reload.any (fun h => decide ((s.herd h).st = .faulted ∧ (s.herd h).fault = Code.imageCrc))

/-- RESTORE: every herd of the group; in host-assisted mode of journal replay it stops before REPLAY (R373, R377,
R382). -/
def State.recoveryRestore (s : State) : State :=
  if s.flt.st = .restore ∧ s.jrn.stop = none then
    if s.reloadFailed then s.fltDone
    else
      let r := s.restoreGroup s.flt.group (s.flt.atFault.map Prod.fst)
      let s := r.1
      if r.2 = false then s.fltDone
      else if s.assisted 6 then
        (s.setJrn { s.jrn with stop := some s.flt.group }).postOpenStop 6 Source.jrn [s.now64.toNat]
      else s.updFlt (fun x => { x with st := .replay })
  else s

def execRecoveryRestore (s : State) : Result := actRec State.recoveryRestore s

/-- The number after the last that a wafer holds of a peer's stream. -/
def Peer.nextSeen (x : Peer) (c : Nat) : Nat := ((x.seen.filter (fun q => decide (q.1 = c))).map Prod.snd).foldl max 0 + 1

/-- The replaying wafer asks the other wafers of the herds' groups for the collective messages from the numbers its
snapshot holds (R375). -/
def State.askResend (s : State) (hs : List Nat) : State :=
  s.forEach s.mesh.groups (fun s e =>
    if hg : e.1 < 64 then
      if hs.any (fun h => s.herdChan h (groupChan e.1)) then
        s.forEach (peersOf (s.otherWafers e.2)) (fun s w =>
          s.htSend w (.resend ⟨e.1, hg⟩ (BitVec.ofNat 64 ((s.peer w.val).nextSeen (groupChan e.1)))))
      else s
    else s)

/-- REPLAY: the group is released and takes its items again from TAKEN + 1 (R380). -/
def State.replay (s : State) : State :=
  if s.flt.st = .replay then
    let s := s.forEach (s.flt.atFault.map Prod.fst) (fun s h => s.herdCmd h (fltCmd 1 0))
    (s.askResend (s.flt.atFault.map Prod.fst)).updFlt (fun x => { x with st := .resume })
  else s

def execReplay (s : State) : Result := actRec State.replay s

/-- A herd has reached the TAKEN and OUTSEQ it had at the fault. -/
def State.caughtUp (s : State) (m : Nat × NatMap Nat × Nat) : Bool :=
  decide (m.2.2 ≤ (s.herd m.1).outseq) && m.2.1.all (fun t => decide (t.2 ≤ NatMap.get (s.herd m.1).taken 0 t.1))

/-- RESUME: the group has caught up, and the recovery ends. -/
def State.resume (s : State) : State :=
  if s.flt.st = .resume ∧ s.flt.atFault.all s.caughtUp = true then (s.count Reg.FLT_COUNT_RECOVERIES 1).fltDone else s

def execResume (s : State) : Result := actRec State.resume s

def execDecideStopTimeout (s : State) : Result := actRec State.acceptChoice s

/-- FLT_CMD: ACCEPT, MOVE and HOLD answer a DECIDE stop; with no stop, MOVE asks for a planned move.
DEDUCED (log entry 88). -/
def State.fltCommand (s : State) (op h : Nat) : State :=
  match op with
  | 1 => s.acceptChoice
  | 2 =>
    if s.flt.stop then s.applyChoice .move
    else s.updFlt (fun x => { x with planned := some h })
  | 3 =>
    if s.flt.stop then (s.updFlt (fun x => { x with held := x.held ++ [x.group] })).fltDone else s
  | _ => s

def execFltAccept (s : State) : Result := actRec (fun s => if s.host.linkUp then s.fltCommand 1 0 else s) s
def execFltMove (h : HerdNo) (s : State) : Result := actRec (fun s => if s.host.linkUp then s.fltCommand 2 h.val else s) s
def execFltHold (s : State) : Result := actRec (fun s => if s.host.linkUp then s.fltCommand 3 0 else s) s

end Sys2Proof.Machine
end

