-- ==== Sys2Proof/Machine/RegOps.lean ====
section
/-! DEFINITION. Reads and writes of BAR0 registers (R17 to R21): what each register reads as, and what a write of
each register does beyond storing its fields. -/

namespace Sys2Proof.Machine

/-! ### What a register reads as -/

/-- Replaces the fields of a value, those of a list of (field, value) pairs. -/
def overlay (v : Nat) (l : List (Fld × Nat)) : Nat := l.foldl (fun v e => setBits v e.1.hi e.1.lo e.2) v

/-- A register as its table reads it from the stored bits: WO and reserved fields read 0. -/
def storedRead (off v : Nat) : Nat :=
  match rowAt off with
  | some (r, _) => r.fields.foldl (fun a f => if f.acc = .wo then a else a + bits v f.hi f.lo * 2 ^ f.lo) 0
  | none => 0

/-- Bit f: function f is stopped (R475, R485). DEDUCED (log entry 107). -/
def State.waits (s : State) : Nat :=
  let remap := s.flt.stop || s.bru.stops.any (fun x => decide (x = .remap))
  let serdes := s.bru.stops.any (fun x => match x with
    | .serdes _ _ => true
    | _ => false)
  b2n remap + 2 * b2n (s.bru.stops.any BruStop.ofRepair) + 4 * b2n serdes + 8 * b2n (s.stks.any (fun e => decide (e.2.stops ≠ []))) +
    16 * b2n s.pwr.stop + 32 * b2n s.time.stop.isSome + 64 * b2n s.jrn.stop.isSome + 128 * b2n s.ibx.waitsHost +
    256 * b2n s.host.harvestStop

/-- DEDUCED (log entry 52). -/
def State.liveGlb (s : State) (off : Nat) : List (Fld × Nat) :=
  if off = Reg.GLB_ID then [(Reg.GLB_ID_ROLE, s.role), (Reg.GLB_ID_INDEX, s.waferIndex)]
  else if off = Reg.GLB_RESET_CTL then
    [(Reg.GLB_RESET_CTL_LAST_CAUSE, s.host.lastCause), (Reg.GLB_RESET_CTL_BUSY, b2n s.flt.byReset)]
  else if off = Reg.GLB_MODE then [(Reg.GLB_MODE_WAIT, s.waits)]
  else []

def State.livePwr (s : State) (off : Nat) : List (Fld × Nat) :=
  let d := s.dom (s.rd Reg.PWR_DOM_SEL_DOMAIN)
  if off = Reg.PWR_STATUS then
    [(Reg.PWR_STATUS_ALERT_IN, b2n (s.pwr.alertLow || s.pwr.alertOut)), (Reg.PWR_STATUS_ALERT_OUT, b2n s.pwr.alertOut),
     (Reg.PWR_STATUS_COOL_DERATE, b2n s.pwr.derated), (Reg.PWR_STATUS_CAL_STATE, s.pwr.calState),
     (Reg.PWR_STATUS_WAIT_HOST, b2n s.pwr.stop), (Reg.PWR_STATUS_WAIT_COOL, b2n s.pwr.waitCool),
     (Reg.PWR_STATUS_SENSOR_LOST, s.pwr.lost.toNat), (Reg.PWR_STATUS_BUDGET_W, min s.pwr.budgetW 0xFFFF)]
  else if off = Reg.PWR_DOM then
    [(Reg.PWR_DOM_REQ, d.req), (Reg.PWR_DOM_GRANT, d.grant), (Reg.PWR_DOM_FLOOR, if d.on then d.floor else 0), (Reg.PWR_DOM_VOLT, d.volt),
     (Reg.PWR_DOM_TEMP, d.temp), (Reg.PWR_DOM_ON, b2n d.on), (Reg.PWR_DOM_THROTTLE, b2n d.throttle)]
  else if off = Reg.PWR_DOM_CFG then
    [(Reg.PWR_DOM_CFG_CEIL, d.ceil), (Reg.PWR_DOM_CFG_PRIO, d.prio), (Reg.PWR_DOM_CFG_WEIGHT, d.weight), (Reg.PWR_DOM_CFG_VMAX, d.vmax)]
  else if off = Reg.PWR_CAL_DATA then [(Reg.PWR_CAL_DATA_DATA, s.calWord.toNat)]
  else if off = Reg.PWR_CAL_CTL then [(Reg.PWR_CAL_CTL_BUSY, b2n s.pwr.calBusy)]
  else []

/-- The transmit timestamp queue of a MAC; a gang follower has none (R327). -/
def State.tsqOf (s : State) (n : Nat) : List (BitVec 16 × BitVec 80) :=
  if s.macMode n = 4 then [] else NatMap.get s.time.tsq [] n

def State.liveTsq (s : State) (loc : Nat) : List (Fld × Nat) :=
  let n := (loc - 0x200) / 32
  match s.tsqOf n with
  | [] => []
  | (id, ts) :: rest =>
    if loc % 32 = 0 then
      [(Reg.TIME_TSQ_HEAD_TS_ID n, id.toNat), (Reg.TIME_TSQ_HEAD_TIME_HI n, ts.toNat / 2 ^ 64),
       (Reg.TIME_TSQ_HEAD_COUNT n, rest.length + 1), (Reg.TIME_TSQ_HEAD_VALID n, 1)]
    else if loc % 32 = 8 then [(Reg.TIME_TSQ_TIME_TIME n, ts.toNat % 2 ^ 64)]
    else []

/-- DEDUCED (log entry 52). -/
def State.liveTime (s : State) (off loc : Nat) : List (Fld × Nat) :=
  let src := s.rdb Reg.TIME_CTRL_CLK_SRC
  if off = Reg.TIME_STATUS then
    [(Reg.TIME_STATUS_REF_LOCKED, b2n (src && s.time.refGood)), (Reg.TIME_STATUS_HOLDOVER, b2n (src && !s.time.refGood)),
     (Reg.TIME_STATUS_PPS_STUCK, b2n s.time.stuck), (Reg.TIME_STATUS_SLEWING, b2n (decide (s.time.rem ≠ 0))),
     (Reg.TIME_STATUS_WAIT_HOST, b2n s.time.stop.isSome), (Reg.TIME_STATUS_TRIM_DEFAULT, b2n s.time.trimDefault),
     (Reg.TIME_STATUS_NOW_HI, s.time.nowHi.toNat)]
  else if off = Reg.TIME_NOW then [(Reg.TIME_NOW_NOW, s.now64.toNat)]
  else if off = Reg.TIME_PPS_OUT_NEXT then [(Reg.TIME_PPS_OUT_NEXT_NEXT, s.time.next.toNat % 2 ^ 64)]
  else if off = Reg.TIME_PPS_OUT_CFG then [(Reg.TIME_PPS_OUT_CFG_NEXT_HI, s.time.next.toNat / 2 ^ 64)]
  else if 0x200 ≤ loc ∧ loc < 0x400 then s.liveTsq loc
  else []

def State.liveMac (s : State) (n off : Nat) : List (Fld × Nat) :=
  let x := s.mac n
  if off = Reg.MAC_STATUS n then
    [(Reg.MAC_STATUS_LINK_UP n, b2n x.up), (Reg.MAC_STATUS_TRAINING n, b2n (x.training && s.linkTrains n)),
     (Reg.MAC_STATUS_RX_PAUSED n, x.paused.foldl (fun a e => a + 2 ^ e.1) 0), (Reg.MAC_STATUS_TX_XOFF n, x.xoff.toNat),
     (Reg.MAC_STATUS_CELLS_FREE n, if s.macMode n = 4 then 0 else s.cellsFree n)]
  else []

/-- Waves and leaf entries that the ensembles of an engine hold (R273). -/
def wavesOf (p : Prh) : Nat := p.ens.foldl (fun a e => a + ceilDiv e.2.trees.length 256) 0
def leavesOf (p : Prh) : Nat := p.ens.foldl (fun a e => a + (e.2.trees.map (fun t => t.leaves.length)).foldl (· + ·) 0) 0

def State.livePrh (s : State) (n off : Nat) : List (Fld × Nat) :=
  let x := s.prh n
  if off = Reg.PRH_FRONT_STATUS n then
    [(Reg.PRH_FRONT_STATUS_CTX_BUSY n, x.ctxs.foldl (fun a e => a + 2 ^ e.1) 0)]
  else if off = Reg.PRH_EVAL_STATUS n then
    [(Reg.PRH_EVAL_STATUS_WAVES_USED n, wavesOf x), (Reg.PRH_EVAL_STATUS_LEAVES_USED n, leavesOf x),
     (Reg.PRH_EVAL_STATUS_REPLY_Q n, x.queued), (Reg.PRH_EVAL_STATUS_RETRACT_Q n, x.retracts.length)]
  else if off = Reg.PRH_REPLY_SEQ n then [(Reg.PRH_REPLY_SEQ_NEXT n, x.seq.toNat)]
  else []

def MState.code : MState → Nat
  | .none => 0
  | .ready => 1
  | .absent => 2
  | .validating => 3

def State.liveIbx (s : State) (off : Nat) : List (Fld × Nat) :=
  if off = Reg.IBX_STATUS then
    [(Reg.IBX_STATUS_PENDING, s.ibx.pending), (Reg.IBX_STATUS_BUSY, b2n s.ibx.streaming.isSome),
     (Reg.IBX_STATUS_WAIT_HOST, b2n s.ibx.waitsHost), (Reg.IBX_STATUS_MODEL, s.ibx.lastModel), (Reg.IBX_STATUS_CLOSED, s.ibx.closed.length)]
  else if off = Reg.IBX_MODEL_INFO then
    match s.ibx.model? (s.rd Reg.IBX_MODEL_SEL_MODEL) with
    | some m =>
      [(Reg.IBX_MODEL_INFO_STATE, m.st.code), (Reg.IBX_MODEL_INFO_NSHARD, m.shards.length), (Reg.IBX_MODEL_INFO_NTREE, m.ntree),
       (Reg.IBX_MODEL_INFO_NOUT, m.nout)]
    | none => []
  else []

def StkState.code : StkState → Nat
  | .off => 0
  | .training => 1
  | .service => 2
  | .selfRefresh => 3
  | .down => 4

def State.liveStk (s : State) (n off : Nat) : List (Fld × Nat) :=
  let x := s.stk n
  if off = Reg.STK_STATUS n then
    [(Reg.STK_STATUS_STATE n, x.st.code), (Reg.STK_STATUS_RETRAINING n, b2n x.retraining.isSome),
     (Reg.STK_STATUS_RETRAIN_CH n, x.retraining.getD x.lastCh), (Reg.STK_STATUS_TEMP n, x.temp), (Reg.STK_STATUS_CH_DOWN n, x.chDown.toNat)]
  else []

/-- Bit p: a pair satisfies a test. -/
def pairBits (f : Nat → Bool) : Nat := (List.range 8).foldl (fun a p => a + b2n (f p) * 2 ^ p) 0

/-- The lowest committed epoch over the wafer's groups. -/
def State.lowestCommit (s : State) : Nat :=
  match s.liveGroups.map (fun g => NatMap.get s.jrn.committed 0 g) with
  | [] => 0
  | e :: es => es.foldl min e

/-- DEDUCED (log entry 52). -/
def State.liveJrn (s : State) (off : Nat) : List (Fld × Nat) :=
  let n := s.rd Reg.JRN_STREAM_SEL_STREAM
  let st := s.jrn.streamSt n
  if off = Reg.JRN_STATUS then
    [(Reg.JRN_STATUS_FULL, pairBits (fun p => (s.jrn.pair p).full)), (Reg.JRN_STATUS_SINGLE, pairBits s.pairSingle),
     (Reg.JRN_STATUS_WAIT_HOST, b2n s.jrn.stop.isSome)]
  else if off = Reg.JRN_EPOCH 0 then [(Reg.JRN_EPOCH_EPOCH 0, s.jrn.epoch)]
  else if off = Reg.JRN_EPOCH 1 then [(Reg.JRN_EPOCH_EPOCH 1, s.lowestCommit)]
  else if off = Reg.JRN_STREAM_SEQ 0 then [(Reg.JRN_STREAM_SEQ_SEQ 0, st.nextSeq)]
  else if off = Reg.JRN_STREAM_SEQ 1 then
    [(Reg.JRN_STREAM_SEQ_SEQ 1, ((s.stream n).map (fun x => NatMap.get (s.herd x.target).taken 0 n)).getD 0)]
  else if off = Reg.JRN_STREAM_SEQ 2 then [(Reg.JRN_STREAM_SEQ_SEQ 2, st.retired)]
  else []

/-- PHASE: HERD_LOAD once a load's broadcast has left no tile missing (R197). DEDUCED (log entry 52). -/
def State.phaseCode (s : State) : Nat :=
  match s.img.phase with
  | .idle => 0
  | .verify => 1
  | .commit => 2
  | .broadcast => if s.bru.bcastOn = true ∧ s.bru.missing = [] then 4 else 3
  | .herdLoad => 4
  | .done => 5

def State.liveImg (s : State) (off loc : Nat) : List (Fld × Nat) :=
  let c := s.img.committed
  if off = Reg.IMG_LOAD_STATUS then
    [(Reg.IMG_LOAD_STATUS_PHASE, s.phaseCode), (Reg.IMG_LOAD_STATUS_LOCKED, b2n s.locked), (Reg.IMG_LOAD_STATUS_WHOLE_VALID, b2n c.isSome)]
  else if off = Reg.IMG_SVN then
    [(Reg.IMG_SVN_MIN_SVN, s.fuses.minSvn), (Reg.IMG_SVN_CUR_SVN, (c.map Committed.svn).getD 0)]
  else if off = Reg.IMG_KEY_STATUS then
    [(Reg.IMG_KEY_STATUS_PROGRAMMED, (List.range 4).foldl (fun a k => a + b2n (s.fuses.slot k).isSome * 2 ^ k) 0),
     (Reg.IMG_KEY_STATUS_REVOKED, s.fuses.revoked.toNat), (Reg.IMG_KEY_STATUS_LAST_SLOT, (c.map Committed.slot).getD 0)]
  else if 0x80 ≤ loc ∧ loc < 0xC0 then
    [(⟨off, 63, 0⟩, ((c.map (fun x => x.digest.toNat)).getD 0) / 2 ^ (64 * ((loc - 0x80) / 8)) % 2 ^ 64)]
  else []

/-- Milliseconds since the reset was released. -/
def State.elapsedMs (s : State) : Nat := (s.devTime.toNat - s.bru.since) / 65536 / 1000000

/-- What the registers of the bring-up engine show. DESIGN CHOICE (log entry 93). -/
def State.liveBru (s : State) (off : Nat) : List (Fld × Nat) :=
  let b := s.bru
  if off = Reg.BRU_STATUS then
    [(Reg.BRU_STATUS_STAGE, b.stageNow), (Reg.BRU_STATUS_WARM, b2n b.warm), (Reg.BRU_STATUS_WAIT_HOST, b2n (decide (b.stops ≠ []))),
     (Reg.BRU_STATUS_WAIT_IMAGE, b2n b.waitImage), (Reg.BRU_STATUS_FROZEN, b2n b.frozen),
     (Reg.BRU_STATUS_LATE, b2n (decide (b.stage ≠ 0) && Config.retriesLate b.since s.now64.toNat)),
     (Reg.BRU_STATUS_ELAPSED_MS, (if b.stage = 7 then b.elapsed else s.elapsedMs) % 2 ^ 32)]
  else if off = Reg.BRU_MAP ∧ b.frozen = true ∧ s.rd Reg.BRU_MAP_SEL_PHX < 33 then
    let ph := s.rd Reg.BRU_MAP_SEL_PHY * 33 + s.rd Reg.BRU_MAP_SEL_PHX
    let m := s.hmap ph
    [(Reg.BRU_MAP_LOGICAL, (s.lherd ph).getD 0), (Reg.BRU_MAP_HOLDS, b2n (s.lherd ph).isSome), (Reg.BRU_MAP_RETIRED, b2n m.retired),
     (Reg.BRU_MAP_SKIP_ROW, m.skipRow), (Reg.BRU_MAP_SKIP_TILE, m.skipOf (s.rd Reg.BRU_MAP_SEL_ROW))]
  else []

def RecSt.code : RecSt → Nat
  | .idle => 0
  | .detect => 1
  | .isolate => 2
  | .decide => 3
  | .remap => 4
  | .move => 5
  | .reload => 6
  | .restore => 7
  | .replay => 8
  | .resume => 9
  | .exhausted => 10

def State.liveFlt (s : State) (off : Nat) : List (Fld × Nat) :=
  if off = Reg.FLT_STATUS then
    [(Reg.FLT_STATUS_STATE, s.flt.st.code), (Reg.FLT_STATUS_WAIT_HOST, b2n s.flt.stop), (Reg.FLT_STATUS_HERD, s.flt.herd),
     (Reg.FLT_STATUS_RESERVE_FREE, s.reserveFree)]
  else []

/-- Fields that show what the blocks hold. DEDUCED (log entry 50). -/
def State.live (s : State) (b : Blk) (n off loc : Nat) : List (Fld × Nat) :=
  match b with
  | .glb => s.liveGlb off
  | .pwr => s.livePwr off
  | .time => s.liveTime off loc
  | .mac => s.liveMac n off
  | .prh => s.livePrh n off
  | .ibx => s.liveIbx off
  | .stk => s.liveStk n off
  | .jrn => s.liveJrn off
  | .img => s.liveImg off loc
  | .bru => s.liveBru off
  | .flt => s.liveFlt off
  | .hrd => []
  | .mbx => []

/-- A PRH engine or timestamp queue of a gang follower reads 0 but for its own configuration (R208, R243). -/
def State.followerBlank (s : State) (b : Blk) (n loc : Nat) : Bool :=
  (decide (b = .prh) && decide (s.macMode n = 4)) ||
  (decide (b = .time ∧ 0x200 ≤ loc ∧ loc < 0x400) && decide (s.macMode ((loc - 0x200) / 32) = 4))

/-- The value of a register, with no side effect of a read; a dark block reads 0. DEDUCED (log entry 50). -/
def State.peek (s : State) (off : Nat) : Nat :=
  match blockOf off with
  | some (b, n, loc) =>
    if s.blkOn off = false ∨ off % 8 ≠ 0 ∨ (rowAt off).isNone = true then 0
    else if s.followerBlank b n loc then 0
    else overlay (storedRead off (s.reg off).toNat) (s.live b n off loc)
  | none => 0

/-! ### Reads (R18, R19) -/

/-- What any read of a register does besides clearing: TIME_NOW latches NOW_HI, PWR_CAL_DATA advances WORD, and
HRD_WIN_DATA reaches through the window. DEDUCED (log entry 51). -/
def State.readEffect (s : State) (off : Nat) : State × Nat :=
  if off = Reg.TIME_NOW ∧ s.blkOn off = true then
    let r := s.timeNow
    (r.1, r.2.toNat)
  else if off = Reg.PWR_CAL_DATA then (s.calNext, s.peek off)
  else if off = Reg.HRD_WIN_DATA then
    let r := s.windowRead
    ({ r.1 with tiles := s.tiles }, r.2.toNat)
  else (s, s.peek off)

/-- An aligned 64-bit host read. DEDUCED (log entry 51). -/
def State.read64 (s : State) (off : Nat) : State × Nat :=
  if off = Reg.HRD_WIN_DATA then
    let r := s.windowRead
    (r.1, r.2.toNat)
  else
    let r := s.readEffect off
    (if s.blkOn off then r.1.clearRc off else r.1, r.2)

/-- An aligned 32-bit host read of one half. DEDUCED (log entry 51). -/
def State.read32 (s : State) (off : Nat) : State × Nat :=
  let r := s.readEffect (off / 8 * 8)
  (r.1, if off % 8 = 4 then r.2 / 2 ^ 32 else r.2 % 2 ^ 32)

/-! ### Writes -/

/-- FLOOR sum of all domains but PD64 and PD65, as CAP_W's range takes it (R438, R450). -/
def State.capFloor (s : State) : Nat :=
  ceilDiv ((s.pwr.doms.zipIdx).foldl (fun a e => if e.2 = 64 ∨ e.2 = 65 then a else a + e.1.floor) 0) 4 + 1000

def State.checkOk (s : State) (c : Check) (v : Nat) : Bool :=
  match c with
  | .any => true
  | .range lo hi => decide (lo ≤ v ∧ v ≤ hi)
  | .zeroOr lo hi => decide (v = 0 ∨ (lo ≤ v ∧ v ≤ hi))
  | .cap => decide (s.capFloor ≤ v ∧ v ≤ 24000)

/-- One field under its access type: `old` is the register's value, `new` the written one merged into it. -/
def State.storeField (s : State) (f : FieldRow) (old new v : Nat) : Nat :=
  match f.acc with
  | .rw => if s.checkOk f.chk (bits new f.hi f.lo) then setBits old f.hi f.lo (bits new f.hi f.lo) else old
  | .rwl => if !s.locked && s.checkOk f.chk (bits new f.hi f.lo) then setBits old f.hi f.lo (bits new f.hi f.lo) else old
  | .w1c => if bit v f.lo then setBits old f.hi f.lo 0 else old
  | _ => old

/-- Stores the fields of a register under their access types. -/
def State.store (s : State) (off v mask : Nat) : State :=
  match rowAt off with
  | some (r, _) =>
    let old := (s.reg off).toNat
    let new := merge old v mask
    s.setReg off (BitVec.ofNat 64 (r.fields.foldl (fun a f => s.storeField f a new (v &&& mask)) old))
  | none => s

/-- A W1C bit that clears other fields of its register with it: a mask of all it clears (R177, R265, R350, R398, R487). -/
def State.clearGroup (s : State) (off v bitNo keep : Nat) : State :=
  if bit v bitNo then s.setReg off (s.reg off &&& BitVec.ofNat 64 keep) else s

/-- GLB_RESET_CTL: the largest reset asked for supersedes the others (R480, R484). DEDUCED (log entry 102). -/
def State.resetCtl (s : State) (v : Nat) : State :=
  if bit v 0 = true ∧ bits v 63 48 = 0xC3E1 then s.warmReset 4
  else
    let s := s.when (bit v 1) (fun s => s.herdReset (bits v 13 4))
    let s := s.when (bit v 2) (fun s => s.portReset (bits v 17 14))
    s.when (bit v 3) State.functionReset

/-- GLB_ASSIST_CMD (R486). -/
def State.assistCmd (s : State) (v : Nat) : State :=
  if bits v 3 0 = 3 then s.stackAssist (bits v 6 4) (bits v 11 8) (bits v 16 12) (bits v 26 17)
  else if bits v 3 0 = 8 ∧ bits v 6 4 = 1 then s.harvestAccept
  else s

def State.writeGlb (s : State) (off v mask : Nat) : State :=
  if off = Reg.GLB_RESET_CTL then s.resetCtl v
  else if off = Reg.GLB_ASSIST_CMD then s.assistCmd v
  else if off = Reg.GLB_EVENT_LOST then s.clearGroup off v 48 0xFFFF_FFFF
  else if off = Reg.GLB_EXPORT_BASE then if s.exportIdle then (s.store off v mask).export_ else s
  else if off = Reg.GLB_EXPORT_PTR then if bit mask 32 then s.exportCons (BitVec.ofNat 32 (v / 2 ^ 32)) else s
  else s.store off v mask

def State.writePwr (s : State) (off v mask : Nat) : State :=
  if off = Reg.PWR_CTRL then (s.store off v mask).when (bit v 17) State.powerAck
  else if off = Reg.PWR_DOM_CFG then s.domCfg (merge (s.peek off) v mask)
  else if off = Reg.PWR_CAL_DATA then s.calWriteWord (BitVec.ofNat 64 (merge s.calWord.toNat v mask))
  else if off = Reg.PWR_CAL_CTL then (s.store off v mask).when (decide (bits v 1 0 = 1)) (fun s => s.calStart (bits v 63 48))
  else s.store off v mask

def State.writeTime (s : State) (off loc v mask : Nat) : State :=
  if off = Reg.TIME_CTRL then s.timeCtrl (merge (s.reg off).toNat v mask)
  else if off = Reg.TIME_CMD then s.timeCommand (bits v 2 0) (BitVec.ofNat 16 (bits v 31 16))
  else if off = Reg.TIME_PPS_OUT_NEXT then s.timeNext (BitVec.ofNat 64 (merge (s.peek off) v mask))
  else if off = Reg.TIME_PPS_OUT_CFG then
    let s := s.store off v mask
    s.when (bit mask 48) (fun s => s.setTime { s.time with nextHi := BitVec.ofNat 16 (bits v 63 48) })
  else if 0x200 ≤ loc ∧ loc < 0x400 then
    let n := (loc - 0x200) / 32
    if loc % 32 = 0 then s.when (bit v 40 && decide (s.macMode n ≠ 4)) (fun s => s.tsqPop n)
    else if loc % 32 = 16 then s.clearGroup off v 48 0xFFFF_FFFF
    else s
  else s.store off v mask

def State.writeStk (s : State) (n off v mask : Nat) : State :=
  if off = Reg.STK_RETRAIN n then if bit mask 0 then s.trigger n (bits v 4 0) .host else s
  else if off = Reg.STK_ECC_ADDR n then s.clearGroup off v 42 0
  else s.store off v mask

def State.writeImg (s : State) (off v mask : Nat) : State :=
  if off = Reg.IMG_LOAD_CMD then (s.when (bit v 0) State.imgStart).when (bit v 1) State.imgAbort
  else s.store off v mask

/-- A write of one register other than IMG_FUSE_CMD. -/
def State.writeBlock (s : State) (off v mask : Nat) : State :=
  match blockOf off with
  | some (.glb, _, _) => s.writeGlb off v mask
  | some (.pwr, _, _) => s.writePwr off v mask
  | some (.time, _, loc) => s.writeTime off loc v mask
  | some (.prh, n, _) => if off = Reg.PRH_FRONT_STATUS n then s.clearGroup off v 29 0 else s.store off v mask
  | some (.ibx, _, _) => if off = Reg.IBX_CMD then s.ibxCmd (bits v 2 0) (bits v 27 16) else s.store off v mask
  | some (.stk, n, _) => s.writeStk n off v mask
  | some (.jrn, _, _) => if off = Reg.JRN_CMD then s.jrnCmd (bits v 3 0) (bits v 11 4) else s.store off v mask
  | some (.img, _, _) => s.writeImg off v mask
  | some (.bru, _, _) =>
    if off = Reg.BRU_CMD then s.bruCmd (bits v 2 0) (bits v 14 4) (bits v 25 15) (bits v 29 26) else s.store off v mask
  | some (.flt, _, _) =>
    if off = Reg.FLT_CMD then s.fltCommand (bits v 2 0) (bits v 12 3)
    else if off = Reg.FLT_REMAP then s.clearGroup off v 24 0
    else s.store off v mask
  | some (.hrd, _, _) =>
    if off = Reg.HRD_WIN_DATA then s.windowWrite (BitVec.ofNat 64 v) mask
    else if off = Reg.HRD_CMD then s.hrdCmdWrite v
    else s.store off v mask
  | some (.mbx, _, loc) => if loc % 16 = 0 then s.when (bit v 0) (fun s => s.postMail (loc / 16) (bits v 32 16)) else s.store off v mask
  | some (.mac, _, _) => s.store off v mask
  | none => s

/-- A write of one register: `mask` says which bits are written, and `v` is 0 outside it. IMG_FUSE_CMD alone reaches
the fuses (R192). -/
def State.writeReg (s : State) (off v mask : Nat) : State :=
  if s.blkOn off = false ∨ (rowAt off).isNone = true then s
  else if off = Reg.IMG_FUSE_CMD then s.fuseCmd (bits v 3 2) (bits v 1 0) (bits v 63 48)
  else { s.writeBlock off v mask with fuses := s.fuses }

/-- An aligned 64-bit write. -/
def State.write64 (s : State) (off v : Nat) : State := s.writeReg off v fullMask

/-- An aligned 32-bit write of one half. -/
def State.write32 (s : State) (off v : Nat) : State :=
  if off % 8 = 4 then s.writeReg (off - 4) (v * 2 ^ 32) ((2 ^ 32 - 1) * 2 ^ 32) else s.writeReg off v (2 ^ 32 - 1)

/-- A host access other than a register write. DEDUCED (log entry 51). -/
def State.accessOther (s : State) : HostAccess → State
  | .read64 off =>
    let r := s.read64 off.toNat
    r.1.emit (.read (leBytes 8 r.2))
  | .read32 off =>
    let r := s.read32 off.toNat
    r.1.emit (.read (leBytes 4 r.2))
  | .bar2Write off bytes => s.hostBar2Write off.toNat bytes
  | .bar2Read off len => s.emit (.read (s.hostBar2Read off.toNat len))
  | _ => s

/-- A host access; a register write alone can reach the fuses. DEDUCED (log entry 51). -/
def State.access (s : State) : HostAccess → State
  | .write64 off v => s.write64 off.toNat v.toNat
  | .write32 off v => s.write32 off.toNat v.toNat
  | a => { s.accessOther a with fuses := s.fuses }

/-! ### Sideband (R481) -/

/-- A sideband read of 8 bytes. -/
def State.sideRead (s : State) (off : Nat) : State := s.emit (.side (leBytes 8 (s.peek off)))

/-! ### Test port (R482) -/

/-- EXTEST, CLAMP and HIGHZ take effect: BRU_STATUS reads STAGE 0. DEDUCED (log entry 53). -/
def State.testable (s : State) : Bool := decide (bits (s.peek Reg.BRU_STATUS) 2 0 = 0)

def State.setJtag (s : State) (j : Jtag) : State := { s with jtag := j }

/-- A test-port instruction that does not hold the pins. DEDUCED (log entry 53). -/
def State.testIr (s : State) (ir : Byte) : State := s.setJtag { s.jtag with ir := ir, pins := 0 }

/-- EXTEST (1), CLAMP (2) and HIGHZ (3), which act as BYPASS at any time but in RAMP. DEDUCED (log entry 53). -/
def State.testPins (s : State) (ir : Byte) (pins : Nat) : State :=
  s.setJtag { s.jtag with ir := ir, pins := if s.testable then pins else 0 }

end Sys2Proof.Machine
end

