-- ==== Sys2Proof/Machine/ImageOps.lean ====
section
/-! DEFINITION. The image loader (R180 to R207): the checks of VERIFY in their order, what COMMIT writes, and the loads of
the herds. -/

namespace Sys2Proof.Machine

/-! ### Reading the staged image (R181, R182, R193) -/

/-- A failure of VERIFY (R194): its code, sub-code, section index, herd index and section TYPE. -/
structure Fail where
  code : Nat
  sub  : Nat
  sect : Nat
  herd : Nat
  typ  : Nat
deriving DecidableEq, Repr

/-- A failure that names nothing. -/
def failAt (code sub : Nat) : Fail := { code := code, sub := sub, sect := 0xFFFF, herd := 0xFFFF, typ := 0 }

/-- The section table's entries, in its order. -/
structure Entry where
  typ   : Nat
  scope : Nat
  inst  : Nat
  off   : Nat
  size  : Nat
  crc   : Nat
  /-- Its must-be-0 fields are 0. -/
  zero  : Bool
deriving DecidableEq, Repr

def entryOf (r : List Byte) : Entry :=
  { typ := fld r 0 2, scope := fld r 2 1, inst := fld r 4 2, off := fld r 8 8, size := fld r 16 4, crc := fld r 20 4
    zero := decide (fld r 3 1 = 0 ∧ fld r 6 2 = 0 ∧ fld r 24 8 = 0) }

def hdrKind (h : List Byte) : Nat := fld h 0x06 2
def hdrFlags (h : List Byte) : Nat := fld h 0x0E 2
def hdrSize (h : List Byte) : Nat := fld h 0x10 8
def hdrCount (h : List Byte) : Nat := fld h 0x18 4

/-- Step 1: the header check. DEDUCED (log entry 62). -/
def headerOk (h : List Byte) : Bool :=
  let whole := decide (hdrKind h = 1)
  decide (fld h 0 4 = 0x4C55_4E4A ∧ fld h 4 2 = 1 ∧ (hdrKind h = 1 ∨ hdrKind h = 2) ∧ fld h 0x0C 2 ≤ 63 ∧ hdrFlags h < 4) &&
    (if whole then !(bit (hdrFlags h) 1) && zeroBytes h 0x20 192 && decide (hdrSize h ≤ 2 ^ 30 - 128)
     else !(bit (hdrFlags h) 0) && decide (hdrSize h ≤ 2 ^ 28)) &&
    decide (hdrSize h % 64 = 0 ∧ 1 ≤ hdrCount h ∧ hdrCount h ≤ 8192 ∧ fld h 0x1E 2 = 0 ∧ 256 + 32 * hdrCount h ≤ hdrSize h)

/-- Step 2: the key. -/
def State.checkKey (s : State) (sig : List Byte) : Option Fail :=
  let slot := fld sig 96 1
  if zeroBytes sig 97 31 = false then some (failAt Code.imageAuth 0x05)
  else if 3 < slot ∨ s.fuses.live slot = false then some (failAt Code.imageAuth 0x01)
  else if s.fuses.slot slot ≠ some (digestBits (sha512 (slice sig 0 32))) then some (failAt Code.imageAuth 0x02)
  else none

/-- The herd that an entry names, for the event record. -/
def Entry.herd (e : Entry) : Nat := if e.scope = 1 ∧ e.inst < 1024 then e.inst else 0xFFFF

def Entry.fail (e : Entry) (i code sub : Nat) : Fail := { code := code, sub := sub, sect := i, herd := e.herd, typ := e.typ }

/-- Step 5, the table: entries of a signed span of `size` bytes, the next payload at or above `lo`. -/
def checkTable (size : Nat) : Nat → Nat → List Entry → Option Fail
  | _, _, [] => none
  | i, lo, e :: es =>
    if e.zero = false ∨ e.off % 64 ≠ 0 ∨ e.off < lo ∨ e.size = 0 ∨ size < e.off + e.size then some (e.fail i Code.imageCrc 0x02)
    else checkTable size (i + 1) (e.off + e.size) es

/-- Step 5, the payloads. -/
def checkCrcs (img : List Byte) : Nat → List Entry → Option Fail
  | _, [] => none
  | i, e :: es =>
    if (crc32c (slice img e.off e.size)).toNat ≠ e.crc then some (e.fail i Code.imageCrc 0x03) else checkCrcs img (i + 1) es

def Entry.sect (img : List Byte) (e : Entry) : Sect :=
  { typ := e.typ, scope := e.scope, inst := e.inst, payload := slice img e.off e.size, crc := BitVec.ofNat 32 e.crc }

/-- Herds of HERD_MASK. -/
def maskHerds (h : List Byte) : List Nat := (List.range 1024).filter (fun i => (nthD h (0x60 + i / 8) 0).getLsbD (i % 8))

/-- The section table's bytes. -/
def tableBytes (h img : List Byte) : List Byte := slice img 256 (32 * hdrCount h)

/-- The image as it is loaded. -/
def imageOf (h sig img : List Byte) (es : List Entry) : Image :=
  { whole := decide (hdrKind h = 1), svn := fld h 0x0C 2, slot := fld sig 96 1, advance := bit (hdrFlags h) 0
    autoRelease := bit (hdrFlags h) 1, digest := digestBits (sha512 img), targets := maskHerds h, sects := es.map (Entry.sect img)
    head := h, table := tableBytes h img, sig := sig }

/-! ### Step 6: the target -/

/-- INSTANCE is in its scope's range. -/
def instOk (scope inst : Nat) : Bool :=
  match scope with
  | 0 => decide (inst = 0)
  | 1 => decide (inst < 1024)
  | 2 => decide (inst < 16)
  | _ => decide (inst < 16)

/-- A section is allowed in this kind and scope. -/
def Image.allowed (g : Image) (x : Sect) : Bool :=
  match typeRow x.typ with
  | some (scope, _, part) => decide (x.scope = scope) && (g.whole || part) && instOk x.scope x.inst
  | none => false

/-- The most sections of a type and instance (R185). -/
def maxSame (typ : Nat) : Nat := if typ = SecType.ensemble then 16 else 1

def Sect.fail (x : Sect) (i sub : Nat) : Fail :=
  { code := Code.imageTarget, sub := sub, sect := i, herd := if x.scope = 1 then x.inst % 2 ^ 16 else 0xFFFF, typ := x.typ }

/-- Kinds, scopes, instances, the mask and multiplicities, section after section; `before` are the sections passed.
DEDUCED (log entry 61). -/
def Image.checkKinds (g : Image) : Nat → List Sect → List Sect → Option Fail
  | _, _, [] => none
  | i, before, x :: xs =>
    if g.allowed x = false then some { x.fail i 0x02 with herd := if x.scope = 1 ∧ x.inst < 1024 then x.inst else 0xFFFF }
    else if g.whole = false ∧ x.scope = 1 ∧ x.inst ∉ g.targets then some (x.fail i 0x09)
    else if maxSame x.typ ≤ (before.filter (fun y => decide (y.typ = x.typ ∧ y.inst = x.inst))).length ∨ x.groupsOnce = false then
      some (x.fail i 0x07)
    else g.checkKinds (i + 1) (x :: before) xs

/-- A section that a whole image lacks. -/
def Image.checkNeeded (g : Image) : Option Fail :=
  if g.whole then
    ([SecType.mgmtFw, SecType.role].find? (fun t => (g.sect t 0).isNone)).map
      (fun t => { failAt Code.imageTarget 0x08 with typ := t })
  else none

/-- Steps of R193 on the header against the committed image. DEDUCED (log entry 62). -/
def State.checkBase (s : State) (h : List Byte) : Option Fail :=
  let idx := fld h 0x1C 2
  let wrongIdx := match s.img.committed with
    | some c => decide (idx ≠ c.index) && (decide (hdrKind h = 2) || decide (idx ≠ 0xFFFF))
    | none => false
  if fld h 8 4 ≠ 0x1056 then some (failAt Code.imageTarget 0x01)
  else if wrongIdx then some (failAt Code.imageTarget 0x04)
  else if hdrKind h = 1 then none
  else if s.img.committed.map Committed.digest ≠ some (digestBits (slice h 0x20 64)) then some (failAt Code.imageTarget 0x03)
  else if (maskHerds h).isEmpty then some (failAt Code.imageTarget 0x09)
  else none

/-- The journal holds an accepted item of a stream that passes a test, and its completion is not recorded (R198, R385). -/
def State.unfinished (s : State) (f : Nat → Bool) : Bool :=
  s.jrn.pairs.any (fun (e : Nat × Pair) =>
    e.2.recs.any (fun r => decide (r.typ = 1) && f r.stream && decide ((s.jrn.streamSt r.stream).retired < r.seq) &&
      !(e.2.recs.any (fun q => decide (q.typ = 4 ∧ q.stream = r.stream ∧ r.pos < q.pos)))))

/-- A recovery is in progress. -/
def State.recovering (s : State) : Bool := decide (s.flt.st ≠ .idle ∧ s.flt.st ≠ .exhausted)

/-- A herd as a whole load wants it. -/
def wholeReady (x : Herd) : Bool := decide (x.st = .dark ∨ x.st = .loaded ∨ x.st = .halted ∨ x.st = .faulted)

/-- A herd as a partial load wants it. -/
def State.partReady (s : State) (h : Nat) : Bool :=
  let x := s.herd h
  (decide (x.st = .loaded ∨ x.st = .faulted) || (decide (x.st = .halted ∧ x.atEpoch.isSome = true) && x.drained)) &&
    !(s.recovering && decide (s.groupOf h = s.flt.group))

def herdFail (sub h : Nat) : Fail := { failAt Code.imageTarget sub with herd := h }

/-- The state preconditions of R198 and R203. DEDUCED (log entry 62). -/
def State.checkReady (s : State) (g : Image) : Option Fail :=
  if g.whole then
    match s.herds.find? (fun e => !(wholeReady e.2)) with
    | some e => some (herdFail 0x05 e.1)
    | none =>
      if s.recovering then some (herdFail 0x05 s.flt.herd)
      else if s.img.committed.map Committed.digest ≠ some g.digest ∧ s.unfinished (fun _ => true) = true then
        some (failAt Code.imageTarget 0x06)
      else none
  else
    match g.targets.find? (fun h => !(s.partReady h)) with
    | some h => some (herdFail 0x05 h)
    | none =>
      if s.unfinished (fun n => match s.stream n with
          | some st => decide (st.target ∈ g.targets)
          | none => false) then some (failAt Code.imageTarget 0x06)
      else none

/-- Each section's own check, in section-table order. -/
def State.checkSects (s : State) (g : Image) : Nat → List Sect → Option Fail
  | _, [] => none
  | i, x :: xs =>
    match s.checkSect g x with
    | .ok => if g.slotTwice i x then some (x.fail i 0x07) else s.checkSects g (i + 1) xs
    | .bad sub => some (x.fail i sub)
    | .missing typ => some { failAt Code.imageTarget 0x08 with typ := typ }

/-- Step 6. -/
def State.checkTarget (s : State) (h : List Byte) (g : Image) : Option Fail :=
  (((s.checkBase h).or (g.checkKinds 0 [] g.sects)).or g.checkNeeded).or ((s.checkReady g).or (s.checkSects g 0 g.sects))

/-- Steps 3 to 6, on the signed span. -/
def State.checkSpan (s : State) (h sig img : List Byte) : Except Fail Image :=
  let es := (recsOf 32 (tableBytes h img)).map entryOf
  if Ed.verify (slice sig 0 32) (sha512 img) (slice sig 32 64) = false then .error (failAt Code.imageAuth 0x03)
  else if fld h 0x0C 2 < s.fuses.minSvn then .error (failAt Code.imageAuth 0x04)
  else
    match (checkTable (hdrSize h) 0 (256 + 32 * hdrCount h) es).or (checkCrcs img 0 es) with
    | some f => .error f
    | none =>
      let g := imageOf h sig img es
      match s.checkTarget h g with
      | some f => .error f
      | none => .ok g

/-- Reads n bytes of the staged image from byte a, up to the first uncorrectable line. -/
def State.staged (s : State) (a n : Nat) : LineRead :=
  s.readUntil 0 (some (.block imagePort)) ((stagingBase + a) / 64) (ceilDiv n 64)

/-- An uncorrectable line of the staged image was read. -/
def stagedLost : Fail := failAt Code.imageCrc 0x05

/-- The checks of R193 in order, each on what it reads. DEDUCED (log entry 61). -/
def State.verifyImage (s : State) : State × Except Fail Image :=
  let r := s.staged 0 256
  if r.poisoned then (r.state, .error stagedLost)
  else if headerOk r.bytes = false then (r.state, .error (failAt Code.imageCrc 0x01))
  else
    let t := r.state.staged 256 (32 * hdrCount r.bytes)
    let q := if t.poisoned then t else t.state.staged (hdrSize r.bytes) 128
    if q.poisoned then (q.state, .error stagedLost)
    else
      match s.checkKey q.bytes with
      | some f => (q.state, .error f)
      | none =>
        let m := q.state.staged 0 (hdrSize r.bytes)
        if m.poisoned then (m.state, .error stagedLost)
        else (m.state, s.checkSpan r.bytes q.bytes m.bytes)

/-! ### How a load ends (R194, R207) -/

/-- A load fails: PHASE returns to IDLE, and the loader reports the failure. -/
def State.imgFail (s : State) (f : Fail) : State :=
  let s := s.setImg { s.img with phase := .idle, loading := none }
  let s := (s.wr Reg.IMG_LOAD_STATUS_FAIL 1).wr Reg.IMG_LOAD_STATUS_SUB f.sub
  let s := (s.wr Reg.IMG_LOAD_STATUS_CODE f.code).wr Reg.IMG_LOAD_STATUS_SECTION f.sect
  s.post f.code Source.img 0 (f.sub + f.sect * 2 ^ 16 + f.herd * 2 ^ 32 + f.typ * 2 ^ 48)

/-- A load finishes. -/
def State.imgDone (s : State) : State :=
  (s.setImg { s.img with phase := .done, loading := none }).wr Reg.IMG_LOAD_STATUS_DONE 1

/-- VERIFY. DEDUCED (log entry 24). -/
def State.verify (s : State) : State :=
  if s.img.phase = .verify then
    match s.verifyImage with
    | (s, .error f) => s.imgFail f
    | (s, .ok g) => s.setImg { s.img with phase := if g.whole then .commit else .herdLoad, loading := some g, shaped := false }
  else s

/-! ### What COMMIT writes: ports (R198, R210, R211, R249, R273, R274) -/

/-- Writes the 64-bit values of a section into registers, whatever their access. -/
def State.setRegs (s : State) (offs : List Nat) (p : List Byte) : State :=
  s.forEach (offs.zip (words64 p)) (fun s e => s.setReg e.1 (BitVec.ofNat 64 e.2))

def macOffs (n : Nat) : List Nat := [Reg.MAC_CTRL n, Reg.MAC_PFC_CFG n] ++ (List.range 4).map (Reg.MAC_STATION_ADDR n)

def queueOffs (n : Nat) : List Nat :=
  (List.range 32).map (Reg.MAC_FILTER_RULE n) ++ (List.range 16).map (Reg.MAC_QUEUE_CFG n)

/-- The link of a port whose configuration has changed. DEDUCED (log entry 69). -/
def State.retrainPort (s : State) (n : Nat) : State :=
  let on := s.leads n && s.macPowered n
  let s := if (s.mac n).up then s.linkLost n else s
  s.updMac n (fun x => { x with up := false, training := on, retry := false, lost := x.lost && on, down := false })

/-- Counters of frames and of queues, which read 0 on a follower (R209). -/
def frameCounters (n : Nat) : List Nat :=
  ((List.range 24).filter (fun i => decide (i < 20 ∨ i = 23))).map (Reg.MAC_STAT n) ++ (List.range 16).map (Reg.MAC_QUEUE_STAT n)

/-- Sets whether MACn's MAC_CONFIG is in effect. -/
def State.setPort (s : State) (n : Nat) (on : Bool) : State :=
  let b : BitVec 16 := BitVec.ofNat 16 (2 ^ n)
  s.setImg { s.img with ports := if on then s.img.ports ||| b else s.img.ports &&& ~~~b }

/-- MAC_CONFIG and QUEUE_MAP of MACn; a port without MAC_CONFIG stays off, with the fields of its registers as they are (R199,
R210). DEDUCED (log entry 65). -/
def State.applyMac (s : State) (l : List Sect) (n : Nat) : State :=
  let old : List Word := BitVec.ofNat 64 (s.macMode n) :: (macOffs n).map s.reg
  let s : State := match sectOf l SecType.macConfig n with
    | some p => (s.setRegs (macOffs n) p).setPort n true
    | none => s.setPort n false
  let s : State := if s.macMode n = 4 then s.forEach (frameCounters n) (fun s off => s.setReg off 0) else s
  let s : State := match sectOf l SecType.queueMap n with
    | some p => s.setRegs (queueOffs n) p
    | none => s
  if BitVec.ofNat 64 (s.macMode n) :: (macOffs n).map s.reg = old ∧ ((s.mac n).up = true ∨ (s.mac n).training = true ∨ (s.mac n).retry = true ∨ (s.mac n).down = true) then s
  else s.retrainPort n

/-- PARSE_PROGRAM of a port (R261). -/
def State.applyProg (s : State) (l : List Sect) (n : Nat) : State :=
  match sectOf l SecType.parseProgram n with
  | none => s
  | some p =>
    let s := (s.wr (Reg.PRH_FRONT_CTRL_HORIZON n) (progHorizon p)).wr (Reg.PRH_FRONT_CTRL_NINSTR n) (fld p 0 2)
    let s := (s.wr (Reg.PRH_FRONT_CTRL_NFEAT n) (fld p 2 2)).wr (Reg.PRH_FRONT_CTRL_NBOUND n) (fld p 6 2)
    let s := s.forEach (progIns p).zipIdx (fun s e => s.wr (Reg.PRH_FRONT_PROG_INSTR n e.2) e.1)
    let s := s.forEach (words64 (slice p (64 + 8 * fld p 0 2) (16 * fld p 2 2))).zipIdx (fun s e =>
      s.wr (Reg.PRH_FRONT_DESC_WORD n e.2) e.1)
    s.forEach (progBounds p).zipIdx (fun s e => s.wr (Reg.PRH_FRONT_BOUND_BOUND n e.2) e.1.toNat)

/-- The ENSEMBLE payloads of a port, in slot order. -/
def ensPayloads (l : List Sect) (n : Nat) : List (List Byte) :=
  (List.range 16).flatMap (fun slot =>
    (l.filter (fun x => decide (x.typ = SecType.ensemble ∧ x.inst = n ∧ fld x.payload 0 1 = slot))).map Sect.payload)

/-- ENS_INFO of the ensembles, from a wave and a leaf entry on. -/
def State.ensInfo (s : State) (n : Nat) : List (List Byte) → Nat → Nat → State
  | [], _, _ => s
  | p :: ps, wave, leaf =>
    let i := fld p 0 1
    let nw := ceilDiv (fld p 4 2) 256
    let s := (s.wr (Reg.PRH_ENS_INFO_NTREE n i) (fld p 4 2)).wr (Reg.PRH_ENS_INFO_NOUT n i) (fld p 1 1)
    let s := (s.wr (Reg.PRH_ENS_INFO_LEAF_TYPE n i) (fld p 2 1)).wr (Reg.PRH_ENS_INFO_FRAC n i) (fld p 3 1)
    let s := (s.wr (Reg.PRH_ENS_INFO_WAVE0 n i) wave).wr (Reg.PRH_ENS_INFO_NWAVE n i) nw
    State.ensInfo (s.wr (Reg.PRH_ENS_INFO_LEAF_BASE n i) leaf) n ps (wave + nw) (leaf + fld p 8 4)

/-- The ensembles of a port, in the node store of each engine of its gang. DEDUCED (log entry 65). -/
def State.applyEns (s : State) (l : List Sect) (n : Nat) : State :=
  let src := s.macLeader n
  let ens : NatMap Ens := (ensPayloads l src).map (fun p => (fld p 0 1, ensOf p))
  let s := s.updPrh n (fun x => { x with ens := ens })
  let s := s.forEach (List.range 16) (fun s i => s.setReg (Reg.PRH_ENS_INFO n i) 0)
  if src = n then s.ensInfo n (ensPayloads l n) 0 0 else s

/-! ### What COMMIT writes: time, power, journal, modes (R186, R190, R322, R353, R437) -/

/-- TIME_CONFIG; without it the servo source alone is set. DEDUCED (log entry 65). -/
def State.applyTime (s : State) (l : List Sect) (role : Nat) : State :=
  match sectOf l SecType.timeConfig 0 with
  | none => s.setTime { s.time with servo := if role = 2 then 2 else 0 }
  | some p =>
    let s := s.timeCtrl (fld p 0 8)
    let s := s.setRegs (timeOffs.drop 1) (p.drop 8)
    s.setTime { s.time with nextHi := BitVec.ofNat 16 (fld p 30 2), servo := fld p 160 1, servoMac := fld p 161 1
                            stepLimit := BitVec.ofNat 64 (fld p 168 8) }

/-- The domain record of POWER_POLICY, or the defaults of R431. -/
def policyDom (p : Option (List Byte)) (d : Nat) (x : Dom) : Dom :=
  let q := Dom.default d
  let r := match p with
    | some p => slice p (64 + 8 * d) 8
    | none => leBytes 2 q.floor ++ leBytes 2 q.ceil ++ leBytes 1 q.prio ++ leBytes 1 q.weight ++ leBytes 1 q.vmax
  let y := { x with floor := fld r 0 2, ceil := fld r 2 2, prio := fld r 4 1, weight := fld r 5 1, vmax := fld r 6 1 }
  let y := { y with capd := if pdElastic d then max y.floor (min y.capd y.ceil) else y.ceil }
  if y.on then { y with grant := max y.grant y.floor, next := max y.next y.floor } else y

/-- POWER_POLICY, or the defaults of R437 and R438. DEDUCED (log entry 65). -/
def State.applyPower (s : State) (l : List Sect) : State :=
  let p := sectOf l SecType.powerPolicy 0
  let f := policyField (p.getD (List.replicate 832 0))
  let s := s.wr Reg.PWR_CTRL_CAP_W (f 0)
  s.updPwr (fun x => { x with
    deratedW := f 1, railA := f 2, tTarget := f 3, tAlert := f 4, tHyst := f 5, stkAlert := f 6, thermStep := f 7
    ramp := f 8, flowK := f 9, tempF0 := f 10, tempSlope := f 11
    doms := (x.doms.zipIdx).map (fun e => policyDom p e.2 e.1) })

def streamOfRec (r : List Byte) : Stream :=
  { kind := fld r 2 1, target := fld r 4 2, arg := fld r 6 2, maxItem := fld r 8 4, replyMac := fld r 12 1 }

/-- A field of every herd's record that is not its default. -/
def herdField {α : Type} [DecidableEq α] (d : α) (f : Nat → α) : NatMap α :=
  (List.range 1024).filterMap (fun h => if f h = d then none else some (h, f h))

/-- JOURNAL_STREAMS, or no stream at all. DEDUCED (log entry 65). -/
def State.applyStreams (s : State) (l : List Sect) : State :=
  match sectOf l SecType.journalStreams 0 with
  | none => (s.wr Reg.JRN_CTRL_EPOCH_MS 250).setJrn
      { s.jrn with streams := [], granules := [], group := [], retain := [], htAddr := 0, htPort := 0 }
  | some p =>
    let rec_ (h : Nat) : List Byte := slice p (64 + 8 * h) 8
    let s := s.wr Reg.JRN_CTRL_EPOCH_MS (if fld p 2 2 = 0 then 250 else fld p 2 2)
    s.setJrn { s.jrn with
      streams := (recsOf 16 (p.drop 8256)).map (fun r => (fld r 0 2, streamOfRec r))
      granules := herdField 20 (fun h => fld (rec_ h) 0 1)
      group := herdField 0 (fun h => fld (rec_ h) 1 1)
      retain := herdField (0, 0) (fun h => if fld (rec_ h) 2 2 = 0 then (0, 0) else (fld (rec_ h) 4 2, fld (rec_ h) 2 2))
      htAddr := BitVec.ofNat 128 (beNat (slice p 8 16)), htPort := fld p 4 2 }

def State.applyModes (s : State) (l : List Sect) : State :=
  match sectOf l SecType.modes 0 with
  | some p => s.wr Reg.GLB_MODE_MODE ((List.range 9).foldl (fun a i => a + fld p i 1 % 2 * 2 ^ i) 0)
  | none => s

/-- COLLECTIVE_GROUPS of a whole image. -/
def State.applyAllGroups (s : State) (l : List Sect) : State :=
  let s : State := { s with mesh := { s.mesh with groups := [] } }
  match sectOf l SecType.collectiveGroups 0 with
  | some p => s.applyGroups p
  | none => s

/-- REGISTER_INIT, under the access types of R18. DEDUCED (log entry 69). -/
def State.applyInits (s : State) (l : List Sect) : State :=
  match sectOf l SecType.registerInit 0 with
  | some p => s.forEach (recsOf 16 p) (fun s r => s.write64 (fld r 0 4) (fld r 8 8))
  | none => s

/-- Every wafer and port section but time's, in a state whose RWL fields are open. -/
def State.applyWafer (s : State) (l : List Sect) : State :=
  let s := s.applyModes l
  let s := s.forEach (List.range 16) (fun s n => s.applyMac l n)
  let s := s.forEach (List.range 16) (fun s n => (s.applyProg l n).applyEns l n)
  ((s.applyPower l).applyStreams l).applyAllGroups l

/-! ### What COMMIT writes: the resident copies (R197, R201, R295) -/

/-- The models that the shard records make. -/
def modelOf (base : Nat → Nat) (all : List ShardRec) (m : Nat) : Option Model :=
  let mine := all.filter (fun r => decide (r.model = m))
  match mine.find? (fun r => decide (r.shard = 0)) with
  | none => none
  | some z => some
    { st := .ready, ntree := z.ntree, nout := z.nout, fixed := z.fixed, frac := z.frac, ring := z.ring
      shards := (List.range z.nshard).filterMap (fun i => (mine.find? (fun r => decide (r.shard = i))).map (fun r =>
        { stack := r.stack, addr := base r.stack + r.off, size := r.size, crc := r.crc }))
      base := z.base, template := slice z.sect z.tpl (80 + roundUp (fld z.sect z.tpl 2) 8) }

/-- A model with a shard in a stack that is down is absent (R300). -/
def State.modelState (s : State) (x : Model) : Model :=
  if x.shards.any (fun d => !(s.stkServes d.stack)) then { x with st := .absent } else x

/-- IBEX_TREES goes to the tree stores, and the models become resident. -/
def State.applyTrees (s : State) (g : Image) : State :=
  let base (k : Nat) : Nat := ((s.regionOf k 3).map Region.lo).getD 0
  let s' := s.forEach (g.sects.filter (fun x => decide (x.typ = SecType.ibexTrees))) (fun s x =>
    s.writeLines x.inst (base x.inst / 64) x.payload (.block imagePort))
  let ids := (g.shards.map ShardRec.model).eraseDups
  let ms := (List.range 4096).filterMap (fun m =>
    if m ∈ ids then (modelOf base g.shards m).map (fun x => (m, s.modelState x)) else none)
  { s' with ibx := { s'.ibx with models := ms } }

/-! ### COMMIT (R197 to R200) -/

/-- TAKEN of each stream's target herd, when no unfinished item is left: NEXT_SEQ - 1; it and OUTSEQ are what the herd is
restored to until its next release (R361, R373). DEDUCED (log entry 67). -/
def State.freshTaken (s : State) : State :=
  let s := s.forEach (NatMap.keys s.herds) (fun s h => s.updHerd h (fun x => { x with taken := [], relTaken := [], relOutseq := x.outseq }))
  s.forEach s.jrn.streams (fun s e => s.updHerd e.2.target (fun x =>
    let t := NatMap.put x.taken 0 e.1 ((s.jrn.streamSt e.1).nextSeq - 1)
    { x with taken := t, relTaken := t }))

/-- Another image: the snapshots of the one before are of no use to it. DEDUCED (log entry 67). -/
def State.newDigest (s : State) : State :=
  let s := s.forEach (NatMap.keys s.herds) (fun s h => s.updHerd h (fun x => { x with committed := false }))
  { s with snaps := [], jrn := { s.jrn with committed := [] } }

/-- Bring-up goes on once it has an image. DEDUCED (log entry 69). -/
def State.imageReady (s : State) : State :=
  let go := s.bru.frozen && decide (s.bru.stage = 3)
  s.updBru (fun b => { b with waitImage := false, stage := if go then 4 else b.stage, bcastOn := false, missing := [], round := 0 })

/-- The SVN of a whole image with ADVANCE_SVN is burnt. DEDUCED (log entry 69). -/
def Image.burns (g : Image) (f : Fuses) : Fuses := if g.advance then f.advance g.svn else f

/-- COMMIT of a whole image. -/
def State.commitImage (s : State) (g : Image) : State :=
  let role := (g.sect SecType.role 0).getD []
  let same := decide (s.img.committed.map Committed.digest = some g.digest)
  let s : State := { s with locked := false, pmap := (g.sect SecType.partitionMap 0).map pmapOf }
  let s := (s.storeResident g).applyTrees g
  let s := s.setImg { s.img with
    committed := some { digest := g.digest, svn := g.svn, slot := g.slot, role := fld role 0 1, index := fld role 2 2 }
    everCommitted := true, phase := .broadcast }
  let s := if same then s else s.newDigest
  let s := (s.applyWafer g.sects).applyTime g.sects (fld role 0 1)
  let s := if same then s else s.freshTaken
  let s := s.imageReady
  let s := s.updFlt (fun x => { x with st := .idle, held := [] })
  { s.applyInits g.sects with locked := true }

/-- Every parse context of the powered ports is free (R260). -/
def State.contextsFree (s : State) : Bool :=
  (List.range 16).all (fun n => !(s.macPowered n) || (s.prh n).ctxs.isEmpty)

/-- COMMIT, which waits for the frames that hold parse contexts to finish under the program they began with (R197, R198, R260).
DEDUCED (log entry 24). DEDUCED (log entry 65). -/
def State.commit (s : State) : State :=
  match s.img.phase, s.img.loading with
  | .commit, some g => if s.contextsFree then { s.commitImage g with fuses := g.burns s.fuses } else s
  | _, _ => s

/-! ### BROADCAST (R401, R412, R413) -/

/-- Bring-up has reached BROADCAST and its image is committed, or a whole load at run time has. -/
def State.mayBroadcast (s : State) : Bool :=
  !s.bru.bcastOn && ((s.mayStart 4 && s.img.committed.isSome && (decide (s.img.phase = .broadcast) || s.bru.warm)) ||
    (decide (s.bru.stage = 7) && decide (s.img.phase = .broadcast)))

/-- Segment i of a firmware, the last one padded with zeros (R412). -/
def fwSeg (fw : List Byte) (i : Nat) : List Byte := slice fw (4096 * i) 4096 ++ List.replicate (4096 - (slice fw (4096 * i) 4096).length) 0

/-- A herd controller's copy of a segment that fails its CRC is read from its home stack's resident copy (R413); what it holds
then, where that still differs from what was sent. A physical herd that holds no logical herd has no home stack. DEDUCED (log
entry 133). -/
def State.keepSeg (s : State) (fw : List Byte) (x : FwSeg) : State :=
  if crc32c x.bytes = crc32c (fwSeg fw x.seg) then s
  else
    match s.lherd x.ph, s.img.resident.find? (fun e => decide (e.typ = SecType.commonTileFw)) with
    | some h, some e =>
      let r := s.readCopy (s.homeStack h) (e.off + 4096 * x.seg) (min 4096 (e.size - 4096 * x.seg))
      let got := fwSeg r.bytes 0
      if r.poisoned = false ∧ crc32c got = crc32c (fwSeg fw x.seg) then r.state
      else r.state.updBru (fun b => { b with copies := b.copies ++ [{ x with bytes := got }] })
    | _, _ => s.updBru (fun b => { b with copies := b.copies ++ [x] })

/-- The management cores start with MGMT_FW at address 0 of their memory (R186, R399). -/
def State.startMgmt (s : State) : State :=
  match s.residentSect SecType.mgmtFw 0 with
  | some p => s.updBru (fun b => { b with mgmt := Mgmt.start (Mem.write [] 0 p) })
  | none => s

/-- One broadcast: the tiles that have missed segments of it, and the segments that herd controllers have received in error.
The management cores start before it. DEDUCED (log entry 24). -/
def State.broadcast (s : State) (missed : List (Nat × Nat)) (bad : List FwSeg) : State :=
  if s.mayBroadcast then
    let s := s.startMgmt
    let fw := (s.residentSect SecType.commonTileFw 0).getD []
    let s := s.updBru (fun b => { b with
      bcastNo := (b.bcastNo + 1) % 256, bcastOn := true, fw := fw, copies := [], missing := s.missIn fw missed, round := 0 })
    (s.forEach bad (fun s x => s.keepSeg fw x)).noteBcast
  else s

/-! ### HERD_LOAD (R187, R197, R418) -/

/-- Routers as they are generated, and the overrides of ROUTE_TABLES. DEDUCED (log entry 68). -/
def State.resetRoutes (s : State) : State :=
  let rs : NatMap Router := NatMap.mapIf Router.reset (fun _ => true)
    (fun r => { r with herdTab := [], localTab := [], edgeTab := [], bcast := [] }) s.mesh.routers
  let s : State := State.generateAll { s with mesh := { s.mesh with routers := rs } }
  match s.residentSect SecType.routeTables 0 with
  | some p => s.applyRouteTables p
  | none => s

def State.presentHerds (s : State) : List Nat := (List.range 1024).filter s.herdPresent

/-- The groups of the herds that hold a program. -/
def State.progGroups (s : State) : List Nat :=
  ((s.herds.filter (fun e => e.2.hasProg)).map (fun e => s.groupOf e.1)).eraseDups

/-- Each group goes back to its newest committed snapshot, or to its release state: at a warm start, and at a whole load,
where the snapshots of an image of the same digest are still of use (R198, R373, R418). DEDUCED (log entry 67). -/
def State.restoreAll (s : State) : State :=
  s.forEach s.progGroups (fun s g => (s.restoreGroup g ((s.groupHerds g).filter (fun h => (s.herd h).hasProg))).1)

/-! ### Herd-partial loads (R202 to R206) -/

/-- A resident entry with the sections that a partial image carries. DEDUCED (log entry 68). -/
def mergeSects (old new : List Sect) : List Sect :=
  old.filter (fun x => !(new.any (fun y => decide (y.typ = x.typ)))) ++ new

/-- One target herd goes to RESHAPING: its resident entry and its snapshots. DEDUCED (log entry 68). -/
def State.reshape (s : State) (g : Image) (h : Nat) : State :=
  let r := s.herdEntry h
  let l := mergeSects r.sects (g.sects.filter (fun x => decide (x.scope = 1 ∧ x.inst = h)))
  let s := (r.state.updHerd h (fun x => { x with st := .reshaping, committed := false, reshaped := true })).writeEntry h l
  let s := (s.setSnap (snapKey h 0) { s.snap (snapKey h 0) with valid := false })
  s.setSnap (snapKey h 1) { s.snap (snapKey h 1) with valid := false }

/-- The herds of a partial load are written from their resident entries, but for those that a fault has taken out of
RESHAPING (R206), and released where AUTO_RELEASE asks for it. -/
def State.loadTargets (s : State) (g : Image) : State :=
  let hs := g.targets.filter (fun h => decide ((s.herd h).st = .reshaping))
  let s := s.forEach hs State.reloadHerd
  let s := match g.sect SecType.collectiveGroups 0 with
    | some p => s.applyGroups p
    | none => s
  let s := if g.autoRelease then s.forEach hs (fun s h => s.herdCmd h { src := .loader, op := 1, arg := 0, still := [] }) else s
  s.imgDone

/-- After VERIFY of a partial image: every target goes to RESHAPING, and is loaded after that (R204). DEDUCED (log entry 68).
-/
def State.reshaping (s : State) : State :=
  match s.img.phase, s.img.loading with
  | .herdLoad, some g =>
    if s.img.shaped then s.loadTargets g
    else
      let s := s.forEach g.targets (fun s h => s.reshape g h)
      s.setImg { s.img with shaped := true }
  | _, _ => s

/-- HERD_LOAD is due: in bring-up after BROADCAST, or in a whole load at run time. -/
def State.mayHerdLoad (s : State) : Bool :=
  s.mayStart 5 || (decide (s.bru.stage = 7 ∧ s.img.phase = .broadcast ∧ s.bru.missing = []) && s.bru.bcastOn)

/-- HERD_LOAD of a whole image, and of a partial one whose targets are in RESHAPING. DEDUCED (log entry 24).
DEDUCED (log entry 67). -/
def State.herdLoad (s : State) : State :=
  if s.mayHerdLoad then
    let start := decide (s.bru.stage ≠ 7)
    let s := (s.resetRoutes).forEach s.presentHerds State.reloadHerd
    let s := s.restoreAll
    let s := if s.img.phase = .broadcast then s.imgDone else s
    s.updBru (fun b => { b with stage := if start then 6 else b.stage, release := !start, bcastOn := false })
  else if s.img.shaped then s.reshaping
  else s

/-! ### The resident copy (R201, R418) -/

/-- The checks of the copies by stack, in turn, up to the first that is damaged: its TYPE, or 0 for a validity word or a digest.
-/
def State.readCopies (s : State) : List Nat → SectsRead
  | [] => ⟨s, [], none⟩
  | k :: ks =>
    if s.copyOk k then
      let r := s.readSects k s.img.resident
      match r.bad with
      | none => State.readCopies r.state ks
      | some t => ⟨r.state, [], some t⟩
    else ⟨s, [], some 0⟩

/-- What a warm start finds of the resident copies (R201). DESIGN CHOICE (log entry 66). -/
def State.checkCopies (s : State) : SectsRead :=
  if s.serving.isEmpty ∨ s.img.committed.isNone = true then ⟨s, [], some 0⟩ else s.readCopies s.serving

/-- Every stack that serves holds a valid copy of the committed image whose sections match their CRCs. -/
def State.residentOk (s : State) : Bool := s.checkCopies.bad.isNone

/-- The warm start finds its copy damaged: it waits for an image. DEDUCED (log entry 91). -/
def State.residentBad (s : State) : State :=
  let r := s.checkCopies
  (r.state.updBru (fun b => { b with waitImage := true })).post Code.imageCrc Source.img 0
    (0x04 + 0xFFFF * 2 ^ 16 + 0xFFFF * 2 ^ 32 + (r.bad.getD 0) * 2 ^ 48)

/-- The configuration of the resident copy, and the lock. -/
def State.applyResident (s : State) : State :=
  let l := s.residentSects
  let s : State := { s.checkCopies.state with locked := false }
  { (s.applyWafer l).applyInits l with locked := true }

/-- A warm start at its map stage reads the resident copy. -/
def State.warmRead (s : State) : State :=
  if s.bru.warm = true ∧ s.bru.stage = 3 ∧ s.bru.waitImage = false then
    (if s.residentOk then s.checkCopies.state else s.residentBad)
  else s

/-- A reload reads the resident copy: of the wafer at a warm start, or of a herd that recovery reloads. -/
def State.residentReload (s : State) : Option Nat → State
  | none => s.warmRead
  | some h => if s.flt.st = .reload ∧ h ∈ s.flt.reload then s.reloadHerd h else s

end Sys2Proof.Machine
end

