-- ==== Sys2Proof/Machine/Bringup.lean ====
section
/-! DEFINITION. The stages and commands of bring-up (R399 to R427). -/

namespace Sys2Proof.Machine

/-! ### RAMP (R400, R442, R448) -/

/-- The calibration block, read in RAMP at a cold start. DEDUCED (log entry 91). -/
def State.readCal (s : State) : State :=
  let bs := s.flashRead 0 16384
  let bad := s.pwr.flashBad.isSome || decide (calWhy bs ≠ 0)
  let st := if bad then 2 else if bit (fld bs 6 2) 0 then 0 else 1
  (s.updPwr (fun p => { p with calState := st, calDefault := bad, offsets := if bad then [] else slice bs 0xE0 1086 })).setTime { s.time with trimDefault := bad }

/-- A warm start waits until every junction is below T_ALERT and COOL_FAULT_N is high. DEDUCED (log entry 91). -/
def State.waitsCool (s : State) : Bool :=
  decide (3 ≤ s.host.lastCause) && (s.pwr.coolLow || s.pwr.doms.any (fun d => decide (s.pwr.tAlert ≤ d.temp)))

def State.linkOn (s : State) : State := s.setHost { s.host with linkUp := true }

/-- The always-on domain starts, and every domain is switched on in its order. DEDUCED (log entry 24).
DEDUCED (log entry 91). -/
def State.ramp (s : State) : State :=
  if s.mayStart 0 then
    if s.waitsCool then (((s.setPd 92 true).setPd 91 true).linkOn).updPwr (fun p => { p with waitCool := true })
    else
      let s := if s.bru.warm then s else s.readCal
      let s := (s.forEach (List.range 96) (fun s d => s.setPd d true)).linkOn
      let s := (s.updPwr (fun p => { p with waitCool := false })).setJtag { s.jtag with pins := 0 }
      s.updBru (fun b => { b with stage := 1 })
  else s

def execRamp (s : State) : Result := act State.ramp s

/-! ### TRAIN (R168, R170, R171, R401, R404, R508) -/

/-- What training finds of stack k; one that the list leaves out trains on every channel. DEDUCED (log entry 41). -/
def resultOf (rs : List TrainResult) (k temp : Nat) : TrainResult :=
  match rs.find? (fun r => decide (r.stack.val = k)) with
  | some r => r
  | none => { stack := Fin.ofNat 16 k, failed := 0, margin := 0, temp := temp }

/-- A down stack raises STACK_CHANNEL_DOWN once more for each down channel. DEDUCED (log entry 41). -/
def State.downAgain (s : State) (k : Nat) : State :=
  let x := s.stk k
  s.forEach ((List.range 32).filter (fun c => x.chDown.getLsbD c)) (fun s c =>
    s.post Code.stackChannelDown Source.stk k (k + c * 2 ^ 4 + b2n (x.chHost.getLsbD c) * 2 ^ 9))

/-- Trains a stack: it stops in host-assisted mode, and enters service or is down otherwise. -/
def State.trainStack (s : State) (k : Nat) (r : TrainResult) : State :=
  let was := decide ((s.stk k).st = .down)
  let s := s.updStk k (fun x => { x with
    st := .training, temp := r.temp % 256, margin := r.margin.toNat, chDown := 0, chHost := 0 })
  if s.assisted 3 then
    let s := s.updStk k (fun x => { x with stops := [{ kind := 0, ch := 0, why := .host, failed := r.failed }] })
    s.postStop (Code.hostStop + 3) Source.stk k (stopDetail k 0 0 0 r.margin.toNat r.failed.toNat)
  else if was = true ∧ r.failed ≠ 0 then
    (s.updStk k (fun x => { x with st := .down, chDown := r.failed })).downAgain k
  else s.enterService k r.failed

/-- A stack in TRAIN: trained at a cold start, on request and when it has never served; else out of self-refresh.
DEDUCED (log entry 41). -/
def State.startStack (s : State) (rs : List TrainResult) (k : Nat) : State :=
  let x := s.stk k
  if s.bru.warm = false ∨ s.bru.wantTrain.getLsbD k = true ∨ x.st = .off then s.trainStack k (resultOf rs k x.temp)
  else if x.st = .selfRefresh then s.updStk k (fun x => { x with st := .service })
  else s.downAgain k

/-- MAC_CONFIG of the resident copy takes effect in TRAIN of a warm start, and the ports train.
DEDUCED (log entry 91). -/
def State.warmPorts (s : State) : State :=
  if s.bru.warm = true ∧ s.residentOk = true then 
    let l := s.residentSects
    s.forEach (List.range 16) (fun s n => s.applyMac l n)
  else s

/-- DEDUCED (log entry 24). DEDUCED (log entry 92). -/
def State.train (s : State) (rs : List TrainResult) : State :=
  if s.mayStart 1 then
    let s := if s.bru.trained then s else
      ((s.forEach (List.range 16) (fun s k => s.startStack rs k)).warmPorts).updBru (fun b => { b with trained := true })
    if s.stks.any (fun e => decide (e.2.st = .training)) then s
    else s.updBru (fun b => { b with stage := if b.warm = true ∧ b.wantBist = false then 3 else 2 })
  else s

def execTrain (rs : List TrainResult) (s : State) : Result := act (fun s => s.train rs) s

/-! ### BIST (R406, R407, R424) -/

def elemCode : Elem → Nat
  | .tile => 0
  | .router => 1
  | .controller => 2

/-- TILE_BIST_FAIL of an element, for the first 4,096 of a start. DEDUCED (log entry 26). -/
def State.bistFail (s : State) (f : Failed) : State :=
  if s.bru.bistRecords < 4096 then
    (s.updBru (fun b => { b with bistRecords := b.bistRecords + 1 })).post Code.tileBistFail Source.herd
      ((s.lherd (failHerd f)).getD 0) (f.at_.x + f.at_.y * 2 ^ 11 + elemCode f.elem * 2 ^ 22)
  else s

/-- Positions of the failed elements of some kinds, each once. -/
def positions (l : List Failed) (p : Elem → Bool) : Nat :=
  (((l.filter (fun f => p f.elem)).map (fun f => routerKey f.at_.x f.at_.y)).eraseDups).length

/-- A failed router is set to bypass. -/
def State.bypassRouter (s : State) (f : Failed) : State :=
  if f.elem = .router then s.setRouter f.at_.x f.at_.y { s.router f.at_.x f.at_.y with bypass := true } else s

/-- DEDUCED (log entry 24). -/
def State.bist (s : State) (failed : List Failed) : State :=
  if s.mayStart 2 then
    let l := failed.filter (fun f => decide (f.at_.x < 1089 ∧ f.at_.y < 1056))
    let s := s.forEach l State.bistFail
    let s := s.updBru (fun b => { b with failed := (b.failed ++ l).eraseDups, stage := 3 })
    let s := s.forEach l State.bypassRouter
    let s := s.wr Reg.BRU_BIST_SUM_TILES_FAILED (min (positions l (fun e => decide (e ≠ .controller))) 0x1F_FFFF)
    let s := s.wr Reg.BRU_BIST_SUM_ROUTERS_BYPASSED (min (positions l (fun e => decide (e = .router))) 0xFFF)
    s.wr Reg.BRU_BIST_SUM_RESERVE_PASS ((List.range 32).filter (fun r => !(s.unfit (reserveHerd r)))).length
  else s

def execBist (failed : List Failed) (s : State) : Result := act (fun s => s.bist failed) s

/-! ### REMAP and the warm start (R408 to R411, R418) -/

def execRemap (s : State) : Result := act State.remap s

/-- A marked herd moves to a reserve herd; with none left it is absent. -/
def State.moveMarked (s : State) (ph : Nat) : State :=
  match s.lherd ph with
  | none => s
  | some h =>
    match s.reserveNext with
    | some row =>
      let s := (s.placeIn h row).count Reg.FLT_COUNT_MOVES 1
      (s.noteRemap h 2 0 0).post Code.herdMoved Source.flt 0 (h + row * 2 ^ 10)
    | none =>
      let s := (s.exhausted h (ph % 33 * 33) (ph / 33 * 33)).wr Reg.BRU_STATUS_EXHAUSTED 1
      s.updBru (fun b => { b with map := { b.map with absent := b.map.absent ++ [h] } })

/-- The stored map with what has failed or is marked spared on top of it, and the resident image's values. -/
def State.warmStart (s : State) : State :=
  if s.mayStart 3 = true ∧ s.bru.warm = true ∧ s.bru.waitImage = false then
    if s.residentOk then
      let s := (s.forEach s.bru.failed State.spareMissing).forEach s.bru.failedHerds State.moveMarked
      s.applyResident.updBru (fun b => { b with stage := 4 })
    else s.residentBad
  else s

def execWarmStart (s : State) : Result := act State.warmStart s

/-! ### RELEASE (R403) -/

/-- A domain of the reserve column whose herds are not in use goes dark. -/
def State.reserveDark (s : State) (d : Nat) : State :=
  if s.bru.map.moved.any (fun e => decide (pdOfPherd e.2 = d)) then s else s.setPd d false

/-- The herds that hold a program are released. -/
def State.releaseHerds (s : State) : State :=
  s.forEach (s.presentHerds.filter (fun h => (s.herd h).hasProg)) (fun s h =>
    s.herdCmd h { src := .loader, op := 1, arg := 0, still := [] })

/-- DEDUCED (log entry 24). DEDUCED (log entry 67). -/
def State.releaseStage (s : State) : State :=
  if s.mayStart 6 then
    let s := ((s.releaseHerds).reserveDark 64).reserveDark 65
    (s.updBru (fun b => { b with stage := 7, everDone := true, elapsed := s.elapsedMs })).wr Reg.BRU_STATUS_DONE 1
  else if s.bru.stage = 7 ∧ s.bru.release = true then s.releaseHerds.updBru (fun b => { b with release := false })
  else s

def execReleaseStage (s : State) : Result := act State.releaseStage s

/-! ### Stops and their answers (R417, R423) -/

/-- The host reaches the bring-up engine. DEDUCED (log entry 5). -/
def State.bruHost (s : State) (f : State → State) : State := s.when (s.host.linkUp && s.pdOn 95) f

def execRepairStopTimeout (s : State) : Result := act State.repairTimeout s
def execBringupStopTimeout (k : BruStopKind) (s : State) : Result := act (fun s => s.bruTimeout k) s
def execBringupStop (stage : Fin 8) (s : State) : Result := act (fun s => s.bringupStop stage.val) s
def execBruAccept (m : MacNo) (s : State) : Result := act (fun s => s.bruHost (fun s => s.bruAccept m.val)) s
def execRetireNow (s : State) : Result := act (fun s => s.bruHost State.retireNow) s
def execRetry (m : MacNo) (s : State) : Result := act (fun s => s.bruHost (fun s => s.bruRetry m.val)) s
def execGo (s : State) : Result := act (fun s => s.bruHost State.bruGo) s

def execMark (px py : BitVec 11) (s : State) : Result :=
  act (fun s => s.bruHost (fun s => s.bruMark px.toNat py.toNat)) s

def execDown (m : MacNo) (s : State) : Result := act (fun s => s.bruHost (fun s => s.bruDown m.val)) s
def execMgmtWatchdog (s : State) : Result := act State.watchdog s

end Sys2Proof.Machine
end

