-- ==== Sys2Proof/WellFormed.lean ====
section
/-! DEFINITION. Which commands have operands that the hardware can be given. A meaning answers on every
command; for a command outside these ranges its answer says nothing about the hardware. -/

namespace Sys2Proof

/-- A host access that R19 supports: aligned, and inside its BAR (R461). -/
def HostAccess.wf : HostAccess → Bool
  | .write64 off _ => decide (off.toNat % 8 = 0)
  | .write32 off _ => decide (off.toNat % 4 = 0)
  | .read64 off => decide (off.toNat % 8 = 0)
  | .read32 off => decide (off.toNat % 4 = 0)
  | .bar2Write off bytes => decide (off.toNat + bytes.length ≤ 2 ^ 30)
  | .bar2Read off len => decide (off.toNat + len ≤ 2 ^ 30)

/-- An access that R19 does not support. -/
def BadAccess.wf (a : BadAccess) : Bool :=
  decide (a.bits = 8) || decide (a.bits = 16) || decide (a.bits = 32 ∧ a.off % 4 ≠ 0)
    || decide (a.bits = 64 ∧ a.off % 8 ≠ 0) || decide (64 < a.bits)

/-- A physical position of R25: 1,089 columns and 1,056 rows of tiles. -/
def Phys.wf (p : Phys) : Bool := decide (p.x < 1089) && decide (p.y < 1056)

def VecOp.wf (op : VecOp) : Bool := decide (op.n ≤ 32)

def ConvOp.wf (op : ConvOp) : Bool := decide (op.n ≤ 32)

def TineOp.wf (op : TineOp) : Bool :=
  (decide (op.fmt = .tine6) || decide (op.fmt = .tine4)) && decide (op.blk < 8)

/-- A dense matrix has rows and columns from 1 upward, a segment length of a BSR build is 1 to 256 (R96,
R503). -/
def BuildOp.wf (op : BuildOp) : Bool :=
  decide (1 ≤ op.rows) && decide (1 ≤ op.cols) && decide (1 ≤ op.segLen) && decide (op.segLen ≤ 256)

/-- A frame on the wire has at least its FCS unless it was cut. -/
def WireFrame.wf (f : WireFrame) : Bool := f.trunc || decide (4 ≤ f.bytes.length)


/-- Only a RED_ACC takes its payload from the accumulators (R80). -/
def SendOp.wf (op : SendOp) : Bool :=
  match op.src with
  | .sram _ => true
  | .accs _ => decide (op.kind = 4 ∧ op.len.toNat % 4 = 0)

def Upset.wf : Upset → Bool
  | .route r _ _ => r.wf
  | _ => true

def PowerIn.wf (p : PowerIn) : Bool :=
  decide (p.req.length = 96) && decide (p.temp.length ≤ 1086) && decide (p.volt.length = 96)
    && decide (p.throttle.length = 96) && p.volt.all (fun v => decide (v < 32)) && p.upsets.all Upset.wf

/-- Ring numbers of R463. -/
def RingId.wf (r : RingId) : Bool :=
  match r.kind with
  | .submit => decide (r.idx < 4096)
  | .receive => decide (r.idx < 4096)
  | .completion => decide (r.idx < 1024)
  | .transmit => decide (r.idx < 256)
  | .event => decide (r.idx = 0)

def MsixSrc.wf : MsixSrc → Bool
  | .ring r => r.wf
  | _ => true

/-- The operands are ones the hardware can be given. DESIGN CHOICE (log entry 6). -/
def Instr.wf : Instr → Bool
  | .registerWrite a => a.wf
  | .unsupportedAccess a => a.wf
  | .outputConversion _ op => op.wf
  | .vectorOperation _ op => op.wf
  | .tineEncode _ op => op.wf
  | .s24Compress _ op => op.wf
  | .s24MaskedCompress _ op => op.wf
  | .bsrBuild _ op => op.wf
  | .tileHandshakeTimeout r => r.wf
  | .redAccCombine r _ _ => r.wf
  | .sendPacket _ op => op.wf
  | .routerFailure r => r.wf
  | .bist failed => failed.all (fun f => f.at_.wf)
  | .frameReceive _ f => f.wf
  | .powerEpoch p => p.wf
  | .bar4Write off bytes => Decidable.decide (off.toNat + bytes.length ≤ 2 ^ 36)
  | .bar4Read off len => Decidable.decide (off.toNat + len ≤ 2 ^ 36)
  | .consWrite r _ => r.wf
  | .ringEnable r _ => r.wf
  | .msixHoldoffExpire m => m.wf
  | .mailboxReply _ reply => Decidable.decide (reply.length ≤ 32768)
  | _ => true

end Sys2Proof
end

