-- ==== Sys2Proof/Machine/Host.lean ====
section
/-! DEFINITION. The commands of the host interface, the sideband, the test port and the resets (R17 to R21, R463 to
R484). The host reaches registers and BAR2 once the PCI Express link is up. -/

namespace Sys2Proof.Machine

/-- A command of the host, which reaches nothing before its link is up (R400). DEDUCED (log entry 5). -/
def State.byHost (s : State) (f : State → State) : State := s.when s.host.linkUp f

/-! ### Registers (R18, R19) -/

def execRegisterWrite (a : HostAccess) (s : State) : Result := actFuses (fun s => s.byHost (fun s => s.access a)) s

/-- An access that R19 does not support: a write does nothing, a read returns zeros. -/
def execUnsupportedAccess (a : BadAccess) (s : State) : Result :=
  act (fun s => s.byHost (fun s => s.when (!a.write) (fun s => s.emit (.read (List.replicate (a.bits / 8) 0))))) s

/-! ### Rings (R465, R466) -/

def execSubmitDoorbell (ring : Fin 4096) (prod : BitVec 32) (s : State) : Result :=
  act (fun s => s.byHost (fun s => s.setRing .submit ring.val ((s.ring .submit ring.val).setProd .submit prod))) s

def execTransmitDoorbell (ring : Fin 256) (prod : BitVec 32) (s : State) : Result :=
  act (fun s => s.byHost (fun s => s.setRing .transmit ring.val ((s.ring .transmit ring.val).setProd .transmit prod))) s

def execConsWrite (ring : RingId) (cons : BitVec 32) (s : State) : Result :=
  act (fun s => s.byHost (fun s => s.when ring.wf (fun s =>
    s.setRing ring.kind ring.idx ((s.ring ring.kind ring.idx).setCons ring.kind cons)))) s

def execRingEnable (ring : RingId) (irq : Bool) (s : State) : Result :=
  act (fun s => s.byHost (fun s => s.when ring.wf (fun s => s.ringEnable ring.kind ring.idx irq))) s

/-! ### Events and messages (R472, R473) -/

def execEventRecord (s : State) : Result := act State.eventRecord s
def execMsixSignal (s : State) : Result := act State.msixSignal s
def execMsixHoldoffExpire (src : MsixSrc) (s : State) : Result := act (fun s => s.msixExpire src) s

/-! ### Mailboxes (R471) -/

def execPost (m : MailNo) (len : BitVec 17) (s : State) : Result := act (fun s => s.byHost (fun s => s.postMail m.val len.toNat)) s
def execMailboxReply (m : MailNo) (reply : List Byte) (s : State) : Result := act (fun s => s.mailReply m.val reply) s
def execMailboxExpire (m : MailNo) (s : State) : Result := act (fun s => s.mailExpire m.val) s

/-! ### Export and harvest (R470, R477, R478, R490) -/

def execGlbExportBaseWrite (v : Word) (s : State) : Result :=
  act (fun s => s.byHost (fun s => s.writeGlb Reg.GLB_EXPORT_BASE v.toNat (2 ^ 64 - 1))) s

def execGlbExportPtrWrite (cons : BitVec 32) (s : State) : Result := act (fun s => s.byHost (fun s => s.exportCons cons)) s

def execHarvestPass (s : State) : Result := act State.harvestPass s
def execHarvestStopTimeout (s : State) : Result := act State.harvestTimeout s
def execHarvestAccept (s : State) : Result := act (fun s => s.byHost State.harvestAccept) s

/-! ### Modes (R42, R475) -/

/-- The modes apply at the next stopping point of each function, which reads them there. -/
def execGlbModeWrite (v : Word) (s : State) : Result :=
  act (fun s => s.byHost (fun s => s.store Reg.GLB_MODE v.toNat (2 ^ 64 - 1))) s

/-! ### Resets (R479, R480, R484) -/

def execColdReset (s : State) : Result := act (fun s => s.coldReset 0) s

/-- A PCI Express fundamental reset, or a register write with its key. -/
def execWarmReset (fundamental : Bool) (confirm : BitVec 16) (s : State) : Result :=
  act (fun s =>
    if fundamental then s.warmReset 3
    else s.byHost (fun s => s.when (decide (confirm = 0xC3E1)) (fun s => s.warmReset 4))) s

def execHerdReset (h : HerdNo) (s : State) : Result := act (fun s => s.byHost (fun s => s.herdReset h.val)) s
def execPortReset (m : MacNo) (s : State) : Result := act (fun s => s.byHost (fun s => s.portReset m.val)) s
def execFunctionLevelReset (s : State) : Result := act State.functionReset s

/-! ### Sideband (R481) -/

def execGetId (s : State) : Result := act (fun s => s.sideRead Reg.GLB_ID) s
def execGetState (s : State) : Result := act (fun s => s.sideRead Reg.BRU_STATUS) s
def execGetPower (s : State) : Result := act (fun s => s.sideRead Reg.PWR_MEAS) s
def execGetCool (s : State) : Result := act (fun s => s.sideRead Reg.PWR_COOL) s
def execGetPwrStatus (s : State) : Result := act (fun s => s.sideRead Reg.PWR_STATUS) s
def execGetEvent (s : State) : Result := act (fun s => s.emit (.side s.host.severe)) s

/-- SET_CAP writes the field CAP_W alone, within its range. -/
def execSetCap (w : BitVec 16) (s : State) : Result := act (fun s => s.store Reg.PWR_CTRL w.toNat 0xFFFF) s

def execSidebandWarmReset (b : Byte) (s : State) : Result :=
  act (fun s => s.when (decide (b = 0xA5)) (fun s => s.warmReset 5)) s

def execSidebandColdReset (b : Byte) (s : State) : Result :=
  act (fun s => s.when (decide (b = 0x5A)) (fun s => s.coldReset 2)) s

def execRegAddr (off : BitVec 32) (s : State) : Result := act (fun s => s.setHost { s.host with sideAddr := off }) s

/-- REG_READ reads as a register read does, and clears no counter. -/
def execRegRead (s : State) : Result :=
  act (fun s =>
    let r := s.readEffect s.host.sideAddr.toNat
    r.1.emit (.side (leBytes 8 r.2))) s

/-! ### Test port (R482) -/

def execBypass (s : State) : Result := act (fun s => (s.testIr 0xFF).emit (.jtag [false])) s

/-- IDCODE shifts out 0x1105_60B7, its least significant bit first. -/
def execIdcode (s : State) : Result :=
  act (fun s => (s.testIr 0x01).emit (.jtag ((List.range 32).map (fun i => bit 0x1105_60B7 i)))) s

/-- SAMPLE/PRELOAD takes the pins into the chain's shift stage, and preloads its latches. -/
def execSamplePreload (pins chain : List Bool) (s : State) : Result :=
  act (fun s => ((s.testIr 0x02).emit (.jtag pins)).setJtag { (s.testIr 0x02).jtag with chain := chain }) s

def execExtest (s : State) : Result := act (fun s => s.testPins 0x03 1) s
def execClamp (s : State) : Result := act (fun s => s.testPins 0x04 2) s
def execHighz (s : State) : Result := act (fun s => s.testPins 0x05 3) s

/-- Test-Logic-Reset selects IDCODE and gives the pins back. -/
def execTestLogicReset (s : State) : Result := act (fun s => s.testIr 0x01) s

end Sys2Proof.Machine
end

