-- ==== Sys2Proof/Machine/Transport.lean ====
section
/-! DEFINITION. The herd transport's collectives and messages (R45, R46, R146, R148, R149, R195, R355, R375). -/

namespace Sys2Proof.Machine

/-! ### Collectives across wafers (R149) -/

/-- The herd whose controller sends a group's messages to other wafers; 0xFFFF for none (R149, R190). -/
def State.senderOf (s : State) (g : Nat) : Nat :=
  match NatMap.find s.mesh.groups g with
  | some q => q.sender
  | none => 0xFFFF

/-- Bytes of the messages that a herd has in its retention area. -/
def State.retainedBytes (s : State) (h : Nat) : Nat :=
  s.jrn.retained.foldl (fun a r => match r.2.body with
    | .collPart g ws => if s.senderOf g.val = h then a + 8 * ws.length else a
    | .collTree g _ _ vs => if s.senderOf g.val = h then a + 4 * vs.length else a
    | .collGather g _ ws => if s.senderOf g.val = h then a + 8 * ws.length else a
    | _ => a) 0

/-- The retention area of a herd has room; a herd without one keeps nothing (R353, R375). -/
def State.retains (s : State) (h bytes : Nat) : Bool :=
  let size := (NatMap.get s.jrn.retain (0, 0) h).2 * 0x400_0000
  decide (size = 0 ∨ s.retainedBytes h + bytes ≤ size)

/-- Sends a collective message to a wafer, and keeps it until rack commit. -/
def State.collSend (s : State) (h : Nat) (w : Fin 256) (body : HtBody) : State :=
  let seq := BitVec.ofNat 64 (NatMap.get (s.peer w.val).txSeq 1 (htChan body))
  let s := (s.takeCredit w.val).htSend w body
  if (NatMap.get s.jrn.retain (0, 0) h).2 = 0 then s
  else s.setJrn { s.jrn with retained := s.jrn.retained ++ [(none, { peer := w, seq := seq, body := body })] }

/-- The first `n` words that a wafer has sent of a group's partial, if all are there. -/
def State.earlyOf (s : State) (g n w : Nat) : Option (List Word) :=
  match s.mesh.early.find? (fun e => decide (e.1 = w ∧ e.2.1 = g)) with
  | some e => if n ≤ e.2.2.length then some (e.2.2.take n) else none
  | none => none

/-- Takes `n` words of each wafer out of the buffer. -/
def dropEarly (l : List (Nat × Nat × List Word)) (g n : Nat) : List (Nat × Nat × List Word) :=
  (l.map (fun e => if e.2.1 = g then (e.1, e.2.1, e.2.2.drop n) else e)).filter (fun e => !e.2.2.isEmpty)

/-- With the wafer's own partial sent and every other wafer's there, the group's result is formed and goes to its
members on this wafer. -/
def State.joinCollective (s : State) (g : Nat) : State :=
  match NatMap.find s.mesh.groups g, s.mesh.parts.find? (fun p => decide (p.group = g)) with
  | some q, some p =>
    let n := p.words.length
    let ws := s.otherWafers q
    let got := ws.filterMap (s.earlyOf g n)
    if p.sent = n ∧ got.length = ws.length then
      let s : State := { s with mesh := { s.mesh with parts := s.mesh.parts.erase p, early := dropEarly s.mesh.early g n } }
      s.sendResult q p.op p.addr p.ctr (p.tag % 4) 4 (combineAll (p.words :: got))
    else s
  | _, _ => s

/-- The member at a slice index lies on this wafer. -/
def State.sliceHere (s : State) (q : Group) (i : Nat) : Bool :=
  match q.members[i]? with
  | some m => decide (m / 1024 = s.waferIndex)
  | none => true

/-- A subtree result of this wafer alone whose pair partner needs another wafer (R148, R149). -/
def State.nodeLeaves (s : State) (q : Group) (n : RedNode) : Bool :=
  let p := if n.slice % (2 * n.width) = 0 then n.slice + n.width else n.slice - n.width
  decide (p < q.members.length) && !n.sent && (List.range n.width).all (fun i => s.sliceHere q (n.slice + i)) &&
    !((List.range n.width).all (fun i => s.sliceHere q (p + i)))

/-- What the rim sender of a group has to send next: words of the wafer's combined partial, a subtree result that
leaves, or words of a piece of a member of this wafer. -/
inductive CollNext where
  | part (p : CollPart)
  | node (n : RedNode)
  | piece (g : Gather)

def State.collNext (s : State) (g : Nat) (q : Group) : Option CollNext :=
  match s.mesh.parts.find? (fun p => decide (p.group = g ∧ p.sent < p.words.length)) with
  | some p => some (.part p)
  | none => match s.mesh.nodes.find? (fun n => decide (n.coll = g) && s.nodeLeaves q n) with
    | some n => some (.node n)
    | none => (s.mesh.gathers.find? (fun x => decide (x.coll = g ∧ x.sent < x.words.length) && s.sliceHere q x.slice)).map .piece

/-- Messages of at most the group's chunk size (R149). -/
def Group.cut (q : Group) (ws : List Word) (sent : Nat) : List Word := (ws.drop sent).take (2 ^ q.chunk / 8)

/-- The message of what is next, and its bytes. -/
def CollNext.body (g : Fin 64) (q : Group) : CollNext → HtBody × Nat
  | .part p => (.collPart g (q.cut p.words p.sent), 8 * (q.cut p.words p.sent).length)
  | .node n => (.collTree g n.slice n.width n.values, 4 * n.values.length)
  | .piece x => (.collGather g x.slice (q.cut x.words x.sent), 8 * (q.cut x.words x.sent).length)

/-- What is next has gone. -/
def State.collGone (s : State) (g : Nat) (q : Group) : CollNext → State
  | .part p =>
    let s : State := { s with mesh := { s.mesh with parts := s.mesh.parts.map (fun x =>
      if x = p then { x with sent := x.sent + (q.cut p.words p.sent).length } else x) } }
    s.joinCollective g
  | .node n =>
    { s with mesh := { s.mesh with nodes := s.mesh.nodes.map (fun x => if x = n then { x with sent := true } else x) } }
  | .piece y =>
    { s with mesh := { s.mesh with gathers := s.mesh.gathers.map (fun x =>
      if x = y then { x with sent := x.sent + (q.cut y.words y.sent).length } else x) } }

/-- The rim sender of a group sends the next chunk to the group's other wafers, while it holds a credit of each and its
retention area has room. -/
def State.collectiveSend (s : State) (g : Nat) : State :=
  match NatMap.find s.mesh.groups g with
  | none => s
  | some q =>
    let ws := peersOf (s.otherWafers q)
    if hg : g < 64 then
      if q.sender = 0xFFFF ∨ s.htOn = false ∨ ws.isEmpty = true ∨ ws.any (fun w => decide ((s.peer w.val).credits = 0)) = true then s
      else
        match s.collNext g q with
        | some c =>
          let b := c.body ⟨g, hg⟩ q
          if s.retains q.sender (b.2 * ws.length) then
            ((s.forEach ws (fun s w => s.collSend q.sender w b.1)).collGone g q c).returnOwed
          else s
        | none => s
    else s

def execCollectiveMessageSend (group : Fin 64) (s : State) : Result := actJrn (fun s => s.collectiveSend group.val) s

/-! ### HT_MESSAGE_RECEIVE (R355, R375) -/

/-- Words of a partial that arrive early wait for their turn. -/
def State.holdEarly (s : State) (w g : Nat) (ws : List Word) : State :=
  let l := s.mesh.early
  let l := if l.any (fun e => decide (e.1 = w ∧ e.2.1 = g)) then
      l.map (fun e => if e.1 = w ∧ e.2.1 = g then (e.1, e.2.1, e.2.2 ++ ws) else e)
    else l ++ [(w, g, ws)]
  { s with mesh := { s.mesh with early := l } }

/-- Where the results of a group's collective go: where those of this wafer's own contributions name. -/
def State.ownPlace (s : State) (g : Nat) : Nat × Nat × Nat :=
  match s.mesh.nodes.find? (fun n => decide (n.coll = g)), s.mesh.gathers.find? (fun n => decide (n.coll = g)) with
  | some n, _ => (n.addr, n.ctr, n.tag)
  | none, some n => (n.addr, n.ctr, n.tag)
  | none, none => (0, 0, 0)

/-- Another wafer's subtree result enters the engine of the group's rim sender; it goes where the wafer's own
results of the collective go. -/
def State.holdTree (s : State) (g slice width : Nat) (vs : List (BitVec 32)) : State :=
  match NatMap.find s.mesh.groups g with
  | none => s
  | some q =>
    let a := s.ownPlace g
    { s with mesh := { s.mesh with nodes := s.mesh.nodes ++
        [{ herd := q.sender, coll := g, slice := slice, width := width, values := vs, sent := true
           addr := a.1, ctr := a.2.1, tag := a.2.2 }] } }

/-- Words of another wafer's piece enter the engine of the group's rim sender; those of one member follow each other. -/
def State.holdGather (s : State) (g slice : Nat) (ws : List Word) : State :=
  match NatMap.find s.mesh.groups g with
  | none => s
  | some q =>
    let a := s.ownPlace g
    let mine (x : Gather) : Bool := decide (x.herd = q.sender ∧ x.coll = g ∧ x.slice = slice)
    let l := s.mesh.gathers
    let l := if l.any mine then
        l.map (fun x => if mine x then { x with words := x.words ++ ws, sent := x.sent + ws.length } else x)
      else l ++ [{ herd := q.sender, coll := g, slice := slice, words := ws, addr := a.1, ctr := a.2.1, tag := a.2.2, sent := ws.length }]
    { s with mesh := { s.mesh with gathers := l } }

/-- The message is sequenced: the receiver keeps its number. -/
def htSequenced : HtBody → Bool
  | .ack _ _ => false
  | .credit _ => false
  | _ => true

/-! ### Images relayed by the manager (R44, R195, R196) -/

/-- Bytes of an image go into the staging area of a worker. DEDUCED (log entry 70). -/
def State.stageImage (s : State) (off : Nat) (bytes : List Byte) : State :=
  if off % 64 = 0 ∧ stagingBase + off + bytes.length ≤ stagingEnd then
    s.writeLines 0 ((stagingBase + off) / 64) bytes (.block imagePort)
  else s

/-- The manager sends a worker bytes of an image while it holds a credit of the worker; at the worker they go into the
staging area, which a load in progress keeps them out of (R196). -/
def State.imageRelay (s : State) (w : Fin 256) (off : Nat) (bytes : List Byte) : State :=
  if s.role = 1 then
    if s.htOn = true ∧ 0 < (s.peer w.val).credits ∧ bytes.length ≤ 2 ^ 32 then
      (s.takeCredit w.val).htSend w (.image off bytes)
    else s
  else if s.role = 2 ∧ s.waferIndex = w.val ∧ s.loadBusy = false then s.stageImage off bytes
  else s

/-- A collective message that its receiver has not yet: acknowledged, and its credit goes back unless the engine is full. -/
def State.collTaken (s : State) (m : HtMsg) (g : Nat) : State := (s.htAck m).giveCredit m.peer (s.senderOf g)

/-- A retained message learns the epoch in which its receiver took it. -/
def noteTaken (w c e : Nat) (q : Word) (r : Option Nat × HtMsg) : Option Nat × HtMsg :=
  if r.1 = none ∧ r.2.peer.val = w ∧ htChan r.2.body = c ∧ r.2.seq = q then (some e, r.2) else r

/-- An acknowledgement: the message is no longer sent again, one that is retained learns when it was taken, and a work message's
output has left. -/
def State.ackTaken (s : State) (w c e : Nat) (q : Word) : State :=
  let mine (u : Nat × HtMsg) : Bool := decide (htChan u.2.body = c ∧ u.2.seq = q)
  let done := (s.peer w).unacked.filter mine
  let s := s.setJrn { s.jrn with retained := s.jrn.retained.map (noteTaken w c e q) }
  let s := s.setPeer w { s.peer w with unacked := (s.peer w).unacked.filter (fun u => !(mine u)) }
  s.forEach done (fun s u => match u.2.body with
    | .work _ h q' _ => s.outLeft h.val q'.toNat
    | _ => s)

/-- The collective messages of a group from a number on are sent again. -/
def State.sendAgain (s : State) (w : Fin 256) (g : Nat) (q : Word) : State :=
  s.forEach (s.jrn.retained.filter (fun r =>
    decide (r.2.peer = w ∧ htChan r.2.body = groupChan g ∧ q.toNat ≤ r.2.seq.toNat))) (fun s r => s.htQueue s.htTakes r.2)

/-- What a message does that its receiver does not hold yet. -/
def State.htTake (s : State) (m : HtMsg) : State :=
  let w := m.peer.val
  match m.body with
  | .work n h q payload =>
    match s.stream n.val with
    | some st =>
      if st.kind = 4 ∧ st.arg = w ∧ payload.length ≤ st.maxItem then
        s.arrive { stream := n.val, src := w, tag := 0, payload := payload, reinject := none, ring := none
                   out := some ((w + 1) * 1024 + h.val, q.toNat), peer := some (w, m.seq.toNat) }
      else (s.htAck m).giveCredit m.peer 1024
    | none => (s.htAck m).giveCredit m.peer 1024
  | .collPart g ws => ((s.holdEarly w g.val ws).collTaken m g.val).joinCollective g.val
  | .collTree g a b vs => (s.holdTree g.val a b vs).collTaken m g.val
  | .collGather g i ws => (s.holdGather g.val i ws).collTaken m g.val
  | .image off bytes => ((s.stageImage off bytes).htAck m).giveCredit m.peer 1025
  | .epoch e => if w = 0 then (s.htAck m).epochAnnounce e.toNat else s
  | .commitReport e =>
    let s := s.htAck m
    if s.role = 1 then s.setPeer w { s.peer w with reported := max (s.peer w).reported e.toNat } else s
  | .rackCommit e => if w = 0 ∧ s.role = 2 then (s.htAck m).rackDone e.toNat else s
  | .resend g q => (s.htAck m).sendAgain m.peer g.val q
  | .admission join =>
    let s := s.htAck m
    if s.role = 1 then s.askAdmission w join else s
  | .ack c q => s.ackTaken w c m.seq.toNat q
  | .credit n => s.setPeer w { s.peer w with credits := (s.peer w).credits + n }

/-- An image's bytes wait at a worker whose loader is busy, as a message that has not been received (R196). -/
def State.htWaits (s : State) (b : HtBody) : Bool :=
  match b with
  | .image _ _ => s.loadBusy
  | _ => false

/-- A message has arrived whole: one whose number the receiver holds already is discarded, and acknowledged
again; a work message is acknowledged once its item is accepted (R357). DESIGN CHOICE (log entry 48).
DEDUCED (log entry 106). -/
def State.htReceive (s : State) (m : HtMsg) : State :=
  if s.htOn = false ∨ s.htWaits m.body = true then s
  else
    let w := m.peer.val
    let id := (htChan m.body, m.seq.toNat)
    if htSequenced m.body = true ∧ id ∈ (s.peer w).seen then s.htAck m
    else
      let s := if htSequenced m.body then s.setPeer w { s.peer w with seen := (s.peer w).seen ++ [id] } else s
      (s.htTake m).returnOwed

def execHtMessageReceive (msg : HtMsg) (s : State) : Result := actJrn (fun s => s.htReceive msg) s

end Sys2Proof.Machine
end

