-- ==== Sys2Proof/Machine/Image.lean ====
section
/-! DEFINITION. The commands of the image loader (R192 to R207). -/

namespace Sys2Proof.Machine

def execStart (s : State) : Result := act (fun s => s.when s.host.linkUp State.imgStart) s
def execAbort (s : State) : Result := act (fun s => s.when s.host.linkUp State.imgAbort) s
def execVerify (s : State) : Result := act State.verify s

/-- COMMIT may burn the image's SVN (R200). -/
def execCommit (s : State) : Result := actFuses State.commit s

def execBroadcast (b : BcastEnd) (s : State) : Result := act (fun s => s.broadcast b.missed b.bad) s
def execHerdLoad (s : State) : Result := act State.herdLoad s
def execReshaping (s : State) : Result := act State.reshaping s
def execResidentReload (h : Option HerdNo) (s : State) : Result := act (fun s => s.residentReload (h.map (fun x => x.val))) s
def execImageRelay (at_ : RelayTo) (bytes : List Byte) (s : State) : Result := act (fun s => s.imageRelay at_.w at_.off bytes) s

def execFuseProgram (slot : Fin 4) (confirm : BitVec 16) (s : State) : Result :=
  actFuses (fun s => s.when s.host.linkUp (fun s => s.fuseProgram slot.val confirm.toNat)) s

def execFuseRevoke (slot : Fin 4) (confirm : BitVec 16) (s : State) : Result :=
  actFuses (fun s => s.when s.host.linkUp (fun s => s.fuseRevoke slot.val confirm.toNat)) s

end Sys2Proof.Machine
end

