-- ==== Sys2Proof/Machine/Power.lean ====
section
/-! DEFINITION. The commands of the power arbiter, the alarms, the coolant loop and the calibration block (R428 to
R459). -/

namespace Sys2Proof.Machine

/-- A boundary of the arbiter, after the errors in stored words that its operand brings. DESIGN CHOICE (log entry 108). -/
def execPowerEpoch (inp : PowerIn) (s : State) : Result := act (fun s => (s.withUpsets inp.upsets).powerEpoch inp) s

/-- 10 ms passed with no ACK: what the host has written stands (R446). -/
def execPowerStopTimeout (s : State) : Result := act State.powerAck s

def execPowerAck (s : State) : Result := act (fun s => s.when s.host.linkUp State.powerAck) s

def execPwrDomCfgWrite (v : Word) (s : State) : Result :=
  act (fun s => s.when s.host.linkUp (fun s => s.domCfg v.toNat)) s

def execVdistLow (trips : Bool) (s : State) : Result := act (fun s => s.vdistLow trips) s

/-- VDIST has been above 0.97 V for 1 ms (R430). -/
def execVdistRecover (s : State) : Result := act (fun s => s.updPwr (fun p => { p with vdistLow := false })) s

/-- VAON has left its tolerance: a cold reset, with its cause of R484 (R430). -/
def execVaonLoss (s : State) : Result := act (fun s => s.coldReset 1) s

def execThermAlertNLow (us : Nat) (s : State) : Result := act (fun s => s.alertPinLow us) s

def execThermAlert (s : State) : Result := act State.alertSecond s

def execThermAlertNHigh (s : State) : Result := act State.alertPinHigh s

def execTrip (s : State) : Result := act State.trip s

def execCoolantMeasure (flow tin tout : FreqIn) (s : State) : Result :=
  act (fun s => s.coolGate flow.hz tin.hz tout.hz (flow.glitches + tin.glitches + tout.glitches)) s

def execSensorLost (input : Fin 3) (s : State) : Result := act (fun s => s.sensorLost input.val) s

def execQuiesce (s : State) : Result := act State.quiesce s

def execQuiesceTimeout (s : State) : Result := act State.quiesceEnd s

def execCoolFaultNHigh (lowMs : Nat) (s : State) : Result := act (fun s => s.coolPinHigh lowMs) s

def execCalWrite (confirm : BitVec 16) (s : State) : Result :=
  act (fun s => s.when s.host.linkUp (fun s => s.calStart confirm.toNat)) s

def execCalWriteComplete (readBackOk : Bool) (s : State) : Result := act (fun s => s.calEnd readBackOk) s

/-- A host access to PWR_CAL_DATA (R458). -/
def execPwrCalDataAccess (write : Option Word) (s : State) : Result :=
  act (fun s => s.when s.host.linkUp (fun s =>
    match write with
    | some v => s.calWriteWord v
    | none => (s.emit (.read (leBytes 8 s.calWord.toNat))).calNext)) s

end Sys2Proof.Machine
end

