-- ==== Sys2Proof/Machine/Sparse.lean ====
section
/-! DEFINITION. Sparse operands (R86 to R116, R503): descriptors, metadata checks, the sparse dot product,
lanes and stealing, and the instructions that build and unpack sparse operands. -/

namespace Sys2Proof.Machine

/-! ### Descriptors (R88) -/

/-- KIND values. -/
def s24 : Nat := 1
def bsr : Nat := 2

def fmtCode : Fmt → Nat
  | .fp32 => 0
  | .bf16 => 1
  | .fp16 => 2
  | .e4m3 => 3
  | .e5m2 => 4
  | .tine6 => 5
  | .tine4 => 6

def readDesc (m : Mem) (addr : Nat) : Desc :=
  let w (i : Nat) : Nat := leNat (Mem.read m (addr + 8 * i) 8)
  { kind := bits (w 0) 3 0, fmt := bits (w 0) 7 4
    rsv := bits (w 0) 15 8 + bits (w 0) 63 48 + bits (w 3) 63 32
    brows := bits (w 0) 31 16, bcols := bits (w 0) 47 32, nnz := bits (w 1) 31 0, nseg := bits (w 1) 63 32
    meta_ := bits (w 2) 31 0, index := bits (w 2) 63 32, value := bits (w 3) 31 0 }

def Desc.bytes (d : Desc) : List Byte :=
  leBytes 8 (d.kind + d.fmt * 16 + d.brows * 2 ^ 16 + d.bcols * 2 ^ 32) ++ leBytes 8 (d.nnz + d.nseg * 2 ^ 32) ++
    leBytes 8 (d.meta_ + d.index * 2 ^ 32) ++ leBytes 8 d.value

/-- Extents of R97, step 1e: metadata, index and value arrays. -/
def Desc.metaSize (d : Desc) : Nat := if d.kind = s24 then 8 * ceilDiv (d.brows * d.bcols) 4 else 8 * d.nseg
def Desc.indexSize (d : Desc) : Nat := if d.kind = s24 then 0 else roundUp (2 * d.nnz) 8
def Desc.valueSize (d : Desc) (f : Fmt) : Nat :=
  if d.kind = s24 then
    (if f.isTine then ceilDiv (d.brows * d.bcols) 16 * tineLine f else 8 * d.brows * d.bcols * f.bytes)
  else (if f.isTine then ceilDiv d.nnz 2 * tineLine f else 64 * d.nnz * f.bytes)

/-- Aligned to 8 and within data SRAM; an empty array has to lie there as well. DEDUCED (log entry 116). -/
def inSram (addr size : Nat) : Bool := decide (addr % 8 = 0) && decide (addr + size ≤ sramSize)

/-! ### Metadata checks (R97 to R99) -/

def nowhere : Nat := 0xFFFF

/-- A failure of the descriptor or of an instruction's addresses: SPARSE_META_INDEX, no block, no segment. -/
def descFault (sub kind : Nat) : SFault :=
  { code := Code.sparseMetaIndex, sub := sub, brow := nowhere, bcol := nowhere, kind := kind, seg := nowhere }

/-- What an instruction asks of its operand: the KIND it allows (none: either), its format, whether it reads
transposed, and for a dot product the inner dimension and columns of B. -/
structure Ask where
  kind  : Option Nat
  fmt   : Fmt
  trans : Bool
  dot   : Option (Nat × Nat)
deriving DecidableEq, Repr

/-- Rows of a block: 4 for S24, 8 for BSR. -/
def Desc.blk (d : Desc) : Nat := if d.kind = s24 then 4 else 8

/-- Rows and columns of A as the instruction reads it. -/
def Desc.rows (d : Desc) (trans : Bool) : Nat := d.blk * (if trans then d.bcols else d.brows)
def Desc.cols (d : Desc) (trans : Bool) : Nat := d.blk * (if trans then d.brows else d.bcols)

/-- Step 1 of R97. -/
def checkDesc (m : Mem) (addr : Nat) (q : Ask) : Except SFault Desc :=
  if inSram addr 32 = false then .error (descFault 0x06 0)
  else
    let d := readDesc m addr
    let bad (sub : Nat) : Except SFault Desc := .error (descFault sub d.kind)
    if (d.kind ≠ s24 ∧ d.kind ≠ bsr) ∨ 6 < d.fmt then bad 0x07
    else if d.rsv ≠ 0 ∨ (d.kind = s24 ∧ (d.nseg ≠ 0 ∨ d.index ≠ 0)) then bad 0x08
    else if d.fmt ≠ fmtCode q.fmt ∨ d.brows = 0 ∨ d.bcols = 0 ∨ (q.trans = true ∧ d.kind ≠ s24) ∨
        (q.kind ≠ none ∧ q.kind ≠ some d.kind) then bad 0x07
    else if inSram d.meta_ d.metaSize = false ∨ inSram d.index d.indexSize = false ∨
        inSram d.value (d.valueSize q.fmt) = false then bad 0x06
    else match q.dot with
      | some (k, n) => if d.cols q.trans ≠ k ∨ 32 < d.rows q.trans * n then bad 0x07 else .ok d
      | none => .ok d

/-- Set bits of a 4-bit mask. -/
def pop4 (v : Nat) : Nat := v % 2 + v / 2 % 2 + v / 4 % 2 + v / 8 % 2

/-- The mask word of S24 block b. -/
def maskOf (m : Mem) (d : Desc) (b : Nat) : Nat := leNat (Mem.read m (d.meta_ + 2 * b) 2)

def rowMask (w r : Nat) : Nat := w / 2 ^ (4 * r) % 16

/-- The column group c of a mask word, as a mask over rows. -/
def colMask (w c : Nat) : Nat :=
  b2n (bit w c) + 2 * b2n (bit w (4 + c)) + 4 * b2n (bit w (8 + c)) + 8 * b2n (bit w (12 + c))

/-- Step 2 of R97 on the blocks from `b` on. -/
def checkS24 (m : Mem) (d : Desc) : Nat → Nat → Option SFault
  | 0, _ => none
  | n + 1, b =>
    let w := maskOf m d b
    let at_ (code : Nat) : SFault :=
      { code := code, sub := 0x01, brow := b / d.bcols, bcol := b % d.bcols, kind := s24, seg := nowhere }
    if (List.range 4).any (fun r => decide (2 < pop4 (rowMask w r))) then some (at_ Code.sparseMetaCount)
    else if (List.range 4).any (fun c => decide (2 < pop4 (colMask w c))) then some (at_ Code.sparseMetaTranspose)
    else checkS24 m d n (b + 1)

/-- Present elements of an S24 operand. -/
def presentS24 (m : Mem) (d : Desc) : Nat :=
  (List.range (d.brows * d.bcols)).foldl (fun a b =>
    let w := maskOf m d b
    a + pop4 (rowMask w 0) + pop4 (rowMask w 1) + pop4 (rowMask w 2) + pop4 (rowMask w 3)) 0

/-- A segment header (R93). -/
structure Seg where
  brow : Nat
  nblk : Nat
  rsv  : Nat
  off  : Nat
deriving DecidableEq, Repr

def segOf (m : Mem) (d : Desc) (i : Nat) : Seg :=
  let w := leNat (Mem.read m (d.meta_ + 8 * i) 8)
  { brow := bits w 15 0, nblk := bits w 23 16 + 1, rsv := bits w 31 24, off := bits w 63 32 }

def indexOf (m : Mem) (d : Desc) (p : Nat) : Nat := leNat (Mem.read m (d.index + 2 * p) 2)

/-- The indices of a segment, from position `p`: the bound, then the strict increase over `last`. -/
def checkIdx (m : Mem) (d : Desc) (seg brow : Nat) : Nat → Nat → Option Nat → Except SFault (Option Nat)
  | 0, _, last => .ok last
  | n + 1, p, last =>
    let x := indexOf m d p
    let bad (sub : Nat) : Except SFault (Option Nat) :=
      .error { code := Code.sparseMetaIndex, sub := sub, brow := brow, bcol := x, kind := bsr, seg := seg }
    if d.bcols ≤ x then bad 0x01
    else if (match last with
        | some l => decide (x ≤ l)
        | none => false) then bad 0x03
    else checkIdx m d seg brow n (p + 1) (some x)

/-- Step 3 of R97 on the segments from `i` on: `total` blocks so far, the previous BROW and last index. -/
def checkBsr (m : Mem) (d : Desc) : Nat → Nat → Nat → Option (Nat × Option Nat) → Except SFault Nat
  | 0, _, total, _ => .ok total
  | n + 1, i, total, prev =>
    let g := segOf m d i
    let bad (sub : Nat) : Except SFault Nat :=
      .error { code := Code.sparseMetaIndex, sub := sub, brow := g.brow, bcol := nowhere, kind := bsr, seg := i }
    if g.rsv ≠ 0 then bad 0x08
    else if d.brows ≤ g.brow then bad 0x02
    else if (match prev with
        | some (b, _) => decide (g.brow < b)
        | none => false) then bad 0x04
    else if g.off ≠ total then bad 0x05
    else if d.nnz < g.off + g.nblk then
      .error { code := Code.sparseMetaCount, sub := 0x02, brow := nowhere, bcol := nowhere, kind := bsr, seg := i }
    else
      let last : Option Nat := match prev with
        | some (b, l) => if b = g.brow then l else none
        | none => none
      match checkIdx m d i g.brow g.nblk g.off last with
      | .error f => .error f
      | .ok l => checkBsr m d n (i + 1) (total + g.nblk) (some (g.brow, l))

/-- The checks of R97, in order. -/
def metaCheck (m : Mem) (addr : Nat) (q : Ask) : Except SFault Desc :=
  match checkDesc m addr q with
  | .error f => .error f
  | .ok d =>
    let countBad : Except SFault Desc :=
      .error { code := Code.sparseMetaCount, sub := 0x02, brow := nowhere, bcol := nowhere, kind := d.kind, seg := nowhere }
    if d.kind = s24 then
      match checkS24 m d (d.brows * d.bcols) 0 with
      | some f => .error f
      | none => if presentS24 m d = d.nnz then .ok d else countBad
    else
      match checkBsr m d d.nseg 0 0 none with
      | .error f => .error f
      | .ok total => if total = d.nnz then .ok d else countBad

/-- The words the check unit reads before it judges any: the descriptor, then the arrays where the descriptor passes
step 1 (R97, R101). DEDUCED (log entry 115). -/
def metaReads (m : Mem) (addr : Nat) (q : Ask) : List Nat :=
  if inSram addr 32 then
    wordsOf addr 32 ++ (match checkDesc m addr q with
      | .ok d => wordsOf d.meta_ d.metaSize ++ wordsOf d.index d.indexSize
      | .error _ => [])
  else []

/-! ### Elements (R89 to R95) -/

/-- The value slot of element (r, c) of an S24 block's mask (R91), when present. -/
def slotOf (w r c : Nat) : Option Nat :=
  let rm := rowMask w r
  if bit rm c then some (2 * r + (if pop4 (rm % 2 ^ c) = 0 then 0 else 1)) else none

/-- The value number of element (r, c) of A as stored, when present. -/
def s24At (m : Mem) (d : Desc) (r c : Nat) : Option Nat :=
  let b := r / 4 * d.bcols + c / 4
  (slotOf (maskOf m d b) (r % 4) (c % 4)).map (fun s => 8 * b + s)

/-- The position of block (br, bc) among the present blocks. -/
def blockAt (m : Mem) (d : Desc) (br bc : Nat) : Option Nat :=
  (List.range d.nseg).findSome? (fun i =>
    let g := segOf m d i
    if g.brow = br then
      (List.range g.nblk).findSome? (fun j => if indexOf m d (g.off + j) = bc then some (g.off + j) else none)
    else none)

def bsrAt (m : Mem) (d : Desc) (r c : Nat) : Option Nat :=
  (blockAt m d (r / 8) (c / 8)).map (fun p => 64 * p + r % 8 * 8 + c % 8)

/-- The value number of element (r, c) of A as the instruction reads it; none is a structural zero. -/
def sparseAt (m : Mem) (d : Desc) (trans : Bool) (r c : Nat) : Option Nat :=
  if d.kind = s24 then (if trans then s24At m d c r else s24At m d r c) else bsrAt m d r c

def sparseElem (m : Mem) (d : Desc) (f : Fmt) (trans : Bool) (r c : Nat) : Option Num :=
  (sparseAt m d trans r c).map (fun i => elemAt m f d.value i)

/-! ### The sparse dot product (R86 to R89, R102 to R108) -/

/-- What R86 and R73 call legal. -/
def legalSparse (op : SparseOp) : Bool :=
  !op.twoSparse && decide (op.n ∈ [1, 2, 4]) && legalPair op.fmtA op.fmtB

def askOf (op : SparseOp) : Ask :=
  { kind := none, fmt := op.fmtA, trans := op.transposed, dot := some (op.k, op.n) }

/-- The path of R102: true is sparse. -/
def sparsePath (t : Tile) (d : Desc) : Bool :=
  let total := (if d.kind = s24 then 16 else 1) * d.brows * d.bcols
  match bits t.sparse.toNat 10 9 with
  | 1 => true
  | 2 => false
  | _ => !(decide (t.sparse.toNat % 512 * total < d.nnz * 256))

/-- Segments of an operand: row segments of BSR, block rows of an S24 operand as the instruction reads it (R104, R108).
DEDUCED (log entry 113). -/
def Desc.segs (d : Desc) (trans : Bool) : Nat := if d.kind = s24 then d.rows trans / 4 else d.nseg

/-- The outputs that a segment adds to, and the indices of the reduction that it covers (R104, R108). -/
def segOuts (m : Mem) (d : Desc) (n g : Nat) : List (Nat × Nat) :=
  let h := if d.kind = s24 then 4 else 8
  let top := if d.kind = s24 then g else (segOf m d g).brow
  (List.range (h * n)).map (fun i => (h * top + i / n, i % n))

def segIndices (m : Mem) (d : Desc) (k g : Nat) : List Nat :=
  if d.kind = s24 then List.range k
  else
    let x := segOf m d g
    (List.range x.nblk).flatMap (fun p => (List.range 8).map (fun j => 8 * indexOf m d (x.off + p) + j))

/-- The products of row r and column c over some indices, added to an accumulator; absent positions add nothing (R89). -/
def sparseOver (m : Mem) (d : Desc) (op : SparseOp) (r c : Nat) (js : List Nat) (a : Acc) : Acc × Bool :=
  js.foldl (fun st j =>
    match sparseElem m d op.fmtA op.transposed r j with
    | some x =>
      let p := st.1.product x (elemAt m op.fmtB op.addrB (c * op.k + j))
      (p.1, st.2 || p.2)
    | none => st) (a, false)

/-- The dense result with structural zeros (R89). -/
def sparseAcc (m : Mem) (d : Desc) (op : SparseOp) (r c : Nat) (a : Acc) : Acc × Bool :=
  sparseOver m d op r c (List.range op.k) a

/-- A product of row r and column c, rounded once; absent positions are +0 (R81, R108). -/
def sparseProd (m : Mem) (d : Desc) (op : SparseOp) (r c j : Nat) : BitVec 32 :=
  match sparseElem m d op.fmtA op.transposed r j with
  | some x => rne32 (Num.mul x (elemAt m op.fmtB op.addrB (c * op.k + j)))
  | none => 0

/-- The fixed tree over the logical index, from the products (R108). -/
def sparseRoot (m : Mem) (op : SparseOp) (r c : Nat) (prod : Nat → BitVec 32) : BitVec 32 :=
  let root := treeSum ((List.range op.k).map prod)
  match op.addend with
  | some a => rne32 (Num.add (decodeFlt .fp32 (codeAt m .fp32 a (r * op.n + c))) (of32 root))
  | none => root

def sparseTree (m : Mem) (d : Desc) (op : SparseOp) (r c : Nat) : BitVec 32 :=
  sparseRoot m op r c (sparseProd m d op r c)

def noPartial : Partial := { accs := [], prods := [] }

/-- What a lane forms of a segment (R108). -/
def segPartial (x : SparseRun) (g : Nat) : Partial :=
  let outs := segOuts x.mem x.desc x.op.n g
  let js := segIndices x.mem x.desc x.op.k g
  if treeFmt x.op.fmtA then
    { accs := []
      prods := outs.flatMap (fun o => js.map (fun j =>
        ((o.1 * x.op.n + o.2) * x.op.k + j, sparseProd x.mem x.desc x.op o.1 o.2 j))) }
  else
    { accs := outs.map (fun o => (o.1 * x.op.n + o.2, (sparseOver x.mem x.desc x.op o.1 o.2 js Acc.zero).1))
      prods := [] }

/-- A lane starts the first of its unstarted segments; a lane with none has nothing to run. -/
def Lane.next (x : SparseRun) (l : Lane) : Lane :=
  match l.todo with
  | g :: r => { l with current := some g, partial_ := segPartial x g, todo := r }
  | [] => { l with current := none, partial_ := noPartial }

/-- The deal (R105). -/
def dealSegs (segs i : Nat) : List Nat :=
  (List.range ((i + 1) * segs / 8 - i * segs / 8)).map (fun j => i * segs / 8 + j)

/-- The starting deal (R105): each lane starts its first segment at once, before any lane that was dealt none asks for
one. DEDUCED (log entry 117). -/
def dealLanes (x : SparseRun) (segs : Nat) : List Lane :=
  (List.range 8).map (fun i =>
    Lane.next x { current := none, partial_ := noPartial, todo := dealSegs segs i, merged := 0 })

/-- Adds one to a field of HRD_TILE_SPARSE_STAT, which holds at its maximum (R115). -/
def Tile.countStat (t : Tile) (hi lo : Nat) : Tile :=
  let v := bits t.sparseStat.toNat hi lo
  { t with sparseStat := BitVec.ofNat 64 (setBits t.sparseStat.toNat hi lo (min (v + 1) (2 ^ (hi + 1 - lo) - 1))) }

/-- The outputs of a sparse instruction, row after row. -/
def sparseOuts (op : SparseOp) (d : Desc) : List (Nat × Nat) :=
  (List.range (d.rows op.transposed * op.n)).map (fun i => (i / op.n, i % op.n))

/-- The dense path (R103): the tile has the whole result. -/
def densePathTile (op : SparseOp) (d : Desc) (t : Tile) : Tile :=
  let t' :=
    if treeFmt op.fmtA then
      t.put op.dst ((sparseOuts op d).flatMap (fun o => leBytes 4 (sparseTree t.sram d op o.1 o.2).toNat))
    else
      (sparseOuts op d).foldl (fun t' o =>
        let i := op.acc + o.1 * op.n + o.2
        let r := sparseAcc t.sram d op o.1 o.2 (t'.acc i)
        (t'.setAcc i r.1).setFlags ⟨r.2, false, false, false⟩) t
  { (t'.countStat 47 24).advance with checked := none }

/-- The end of an instruction on the sparse path, once no lane runs a segment: the tree formats' results are written,
and the tile goes on (R108, R111). -/
def sparseEnd (t : Tile) : Tile :=
  match t.sparseRun with
  | none => t
  | some x =>
    if t.lanes.any (fun l => l.current.isSome) then t
    else
      let t' := if treeFmt x.op.fmtA then
          t.put x.op.dst ((sparseOuts x.op x.desc).flatMap (fun o => leBytes 4
            (sparseRoot x.mem x.op o.1 o.2 (fun j => NatMap.get x.prods 0 ((o.1 * x.op.n + o.2) * x.op.k + j))).toNat))
        else t
      { t'.advance with wait := .none, sparseRun := none }

/-- The sparse path: the segments are dealt, the lanes start, and the tile waits for them (R104, R105).
DEDUCED (log entry 118). -/
def sparsePathTile (op : SparseOp) (d : Desc) (t : Tile) : Tile :=
  let x : SparseRun := { op := op, desc := d, mem := t.sram, steal := bit t.sparse.toNat 11, prods := [] }
  sparseEnd { t.countStat 23 0 with
    lanes := dealLanes x (d.segs op.transposed), sparseRun := some x, wait := .lanes, checked := none }

/-- A sparse dot product whose checks have passed. -/
def sparseTile (op : SparseOp) (d : Desc) (t : Tile) : Tile :=
  if sparsePath t d then sparsePathTile op d t else densePathTile op d t

/-- What a sparse dot product reads beyond its metadata: the value array and B. -/
def sparseReads (op : SparseOp) (d : Desc) : List Nat :=
  wordsOf d.value (d.valueSize op.fmtA) ++ wordsOf op.addrB (tensorBytes op.fmtB (op.n * op.k))

/-- The metadata is read and checked before the first product, and the operands are read after it (R97). -/
def execSparseDot (t : Coord) (op : SparseOp) (s : State) : Result :=
  actTile (fun s => s.tileInstr t.key (legalSparse op) (fun x => metaReads x.sram op.desc (askOf op))
    (fun s => match metaCheck (s.tile t.key).sram op.desc (askOf op) with
      | .error f => s.tileSparseFault t.key f
      | .ok d => s.readStage t.key (sparseReads op d) (fun s => s.updTile t.key (sparseTile op d)))) s

/-- The check unit on the next sparse instruction (R97, R101, R112): a failure faults it; the program
counter stays. -/
def execMetadataCheck (t : Coord) (op : SparseOp) (s : State) : Result :=
  actTile (fun s => s.tileInstr t.key (legalSparse op)
    (fun x => metaReads x.sram op.desc (askOf op))
    (fun s => match metaCheck (s.tile t.key).sram op.desc (askOf op) with
      | .error f => s.tileSparseFault t.key f
      | .ok _ => s.updTile t.key (fun x => { x with checked := some op.desc }))) s

/-! ### Lanes (R105 to R109) -/

/-- The last ceil(r / 2) of a victim's unstarted segments, and what is left of them. -/
def halve (l : List Nat) : List Nat × List Nat := (l.take (l.length / 2), l.drop (l.length / 2))

/-- Asks lanes i + 1 to i + 7, modulo 8, and takes from the first with an unstarted segment (R106).
DEDUCED (log entry 23). -/
def stealFrom (lanes : List Lane) (i : Nat) : Option (Nat × List Nat × List Nat) :=
  ((List.range 7).map (fun j => (i + 1 + j) % 8)).findSome? (fun v =>
    match lanes[v]? with
    | some l => if l.todo.isEmpty then none else some (v, halve l.todo)
    | none => none)

/-- The merge unit adds a segment's partial into the output accumulators exactly, or keeps its products for the tree
(R108, R109). -/
def mergeSeg (x : SparseRun) (p : Partial) (t : Tile) : Tile :=
  let t' := p.accs.foldl (fun t e =>
    let i := x.op.acc + e.1
    (t.setAcc i ((t.acc i).combine e.2)).setFlags ⟨e.2.win, false, false, false⟩) t
  { t' with sparseRun := some { x with prods := p.prods.foldl (fun m e => NatMap.put m 0 e.1 e.2) x.prods } }

/-- Lane i, having merged its segment, goes on: its own list, else a steal, else it retires (R105, R106, R109).
DEDUCED (log entry 23). -/
def laneNext (x : SparseRun) (t : Tile) (i : Nat) (l : Lane) : Tile :=
  if l.todo.isEmpty && x.steal then
    match stealFrom t.lanes i with
    | none => { t with lanes := setAt t.lanes i (l.next x) }
    | some (v, keep, got) =>
      let lanes := t.lanes.modify v (fun y => { y with todo := keep })
      { t with lanes := setAt lanes i ({ l with todo := got }.next x) }.countStat 63 48
  else { t with lanes := setAt t.lanes i (l.next x) }

/-- Lane i finishes its segment: it merges its partial and goes on; the last one ends the instruction (R106 to R109,
R111). -/
def laneDone (t : Tile) (i : Nat) : Tile :=
  match t.sparseRun, t.lanes[i]? with
  | some x, some l =>
    if l.current.isSome then
      sparseEnd (laneNext x (mergeSeg x l.partial_ t) i { l with merged := l.merged + 1 })
    else t
  | _, _ => t

def execSegmentDone (t : Coord) (lane : Fin 8) (s : State) : Result :=
  actTile (fun s => s.updTile t.key (fun x => laneDone x lane.val)) s

/-! ### Building and unpacking (R96, R503) -/

/-- Non-zero under R61: a NaN counts as non-zero. -/
def nonZero (x : Num) : Bool := !x.isZero

/-- Element (r, c) of a dense matrix of rows x cols, row after row without gaps, with zero padding. DESIGN CHOICE
(log entry 11). -/
def denseAt (m : Mem) (f : Fmt) (addr rows cols r c : Nat) : Num :=
  if r < rows ∧ c < cols then elemAt m f addr (r * cols + c) else .fin false 0 0

/-- The element number in a dense matrix, none in the padding. -/
def denseIdx (rows cols r c : Nat) : Option Nat := if r < rows ∧ c < cols then some (r * cols + c) else none

/-- The code of the same value as the unit writes it: the canonical NaN, and no E4M3 negative zero (R61).
DEDUCED (log entry 21). -/
def recode (f : Fmt) (c : Nat) : Nat := (toFlt f .rne false 0 (decodeFlt f c)).1

/-- Writes a tensor whose elements are copied from the elements of another, none being a zero: their codes,
or for a Tine format blocks encoded afresh under R65, which is a conversion of the vector unit in RMODE. DEDUCED
(log entries 21, 114). -/
def copyElems (key : Nat) (t : Tile) (f : Fmt) (src : Nat) (dst : Nat) (es : List (Option Nat)) : Tile :=
  if f.isTine then
    let mode := t.rmode
    let vals := es.map (fun e => match e with
      | some i => tineAt t.sram f src i
      | none => .fin false 0 0)
    let vals := vals ++ List.replicate (roundUp vals.length 128 - vals.length) (.fin false 0 0)
    ((List.range (vals.length / 128)).foldl (fun t' l =>
      putTine t' f mode (fun i => t.rnd key (i % 32)) (dst + l * tineLine f) ((vals.drop (128 * l)).take 128)) t).bumpSeq
      (decide (mode = .sr))
  else
    t.put dst (es.flatMap (fun e => leBytes f.bytes (match e with
      | some i => recode f (codeAt t.sram f src i)
      | none => 0)))

/-- The checks of R503: padded dimensions, alignment, extents. -/
def buildChecks (kind brows bcols : Nat) (addrs : List Nat) (spans : List (Nat × Nat)) : Option SFault :=
  if 65535 < brows ∨ 65535 < bcols then some (descFault 0x07 kind)
  else if addrs.any (fun a => decide (a % 8 ≠ 0)) then some (descFault 0x06 kind)
  else if spans.any (fun e => decide (sramSize < e.1 + e.2)) then some (descFault 0x06 kind)
  else none

/-- The value slots of an S24 operand in order: the element of the dense matrix each holds, if any. -/
def s24Slots (rows cols brows bcols : Nat) (mask : Nat → Nat) : List (Option Nat) :=
  (List.range (brows * bcols)).flatMap (fun b =>
    let w := mask b
    (List.range 8).map (fun s =>
      ((List.range 4).find? (fun c => decide (slotOf w (s / 2) c = some s))).bind
        (fun c => denseIdx rows cols (b / bcols * 4 + s / 2) (b % bcols * 4 + c))))

/-- Mask words, the last 64-bit word padded with zeros. -/
def maskBytes (n : Nat) (mask : Nat → Nat) : List Byte :=
  padTo 8 ((List.range n).flatMap (fun b => leBytes 2 (mask b)))

def maskBits (mask : Nat → Nat) (n : Nat) : Nat :=
  (List.range n).foldl (fun a b =>
    let w := mask b
    a + pop4 (rowMask w 0) + pop4 (rowMask w 1) + pop4 (rowMask w 2) + pop4 (rowMask w 3)) 0

/-- The mask of the non-zero elements of block b of a dense matrix. -/
def denseMask (m : Mem) (op : BuildOp) (bcols b : Nat) : Nat :=
  (List.range 16).foldl (fun a i =>
    a + (if nonZero (denseAt m op.fmt op.src op.rows op.cols (b / bcols * 4 + i / 4) (b % bcols * 4 + i % 4))
      then 2 ^ i else 0)) 0

/-- The first failing group test of S24 compress, block by block (R96). -/
def groupFault (bcols : Nat) (mask : Nat → Nat) : Nat → Nat → Option SFault
  | 0, _ => none
  | n + 1, b =>
    let w := mask b
    let at_ (code sub : Nat) : SFault :=
      { code := code, sub := sub, brow := b / bcols, bcol := b % bcols, kind := s24, seg := nowhere }
    if (List.range 4).any (fun r => decide (2 < pop4 (rowMask w r))) then some (at_ Code.sparseMetaCount 0x03)
    else if (List.range 4).any (fun c => decide (2 < pop4 (colMask w c))) then some (at_ Code.sparseMetaTranspose 0x02)
    else groupFault bcols mask n (b + 1)

/-- Writes an S24 operand for a mask. -/
def putS24 (key : Nat) (op : BuildOp) (brows bcols : Nat) (mask : Nat → Nat) (t : Tile) : Tile :=
  let d : Desc := { kind := s24, fmt := fmtCode op.fmt, rsv := 0, brows := brows, bcols := bcols
                    nnz := maskBits mask (brows * bcols), nseg := 0, meta_ := op.metaA, index := 0, value := op.value }
  let t := copyElems key t op.fmt op.src op.value (s24Slots op.rows op.cols brows bcols mask)
  (t.put op.metaA (maskBytes (brows * bcols) mask)).put op.desc d.bytes

/-- The spans an S24 compress reads and writes. -/
def s24Spans (op : BuildOp) (brows bcols : Nat) : List (Nat × Nat) :=
  let d : Desc := { kind := s24, fmt := 0, rsv := 0, brows := brows, bcols := bcols, nnz := 0, nseg := 0
                    meta_ := 0, index := 0, value := 0 }
  [(op.src, tensorBytes op.fmt (op.rows * op.cols)), (op.desc, 32), (op.metaA, d.metaSize),
   (op.value, d.valueSize op.fmt)]

/-- The checks of R503 need no element; the matrix is read when they have passed, before its groups are tested.
DEDUCED (log entry 115). -/
def execS24Compress (t : Coord) (op : BuildOp) (s : State) : Result :=
  actTile (fun s => s.tileInstr t.key true (fun _ => [])
    (fun s =>
      let br := ceilDiv op.rows 4
      let bc := ceilDiv op.cols 4
      match buildChecks s24 br bc [op.src, op.desc, op.metaA, op.value] (s24Spans op br bc) with
      | some f => s.tileSparseFault t.key f
      | none => s.readStage t.key (wordsOf op.src (tensorBytes op.fmt (op.rows * op.cols))) (fun s =>
        let m := (s.tile t.key).sram
        match groupFault bc (denseMask m op bc) (br * bc) 0 with
        | some f => s.tileSparseFault t.key f
        | none => s.updTile t.key (fun x => (putS24 t.key op br bc (denseMask m op bc) x).advance)))) s

def maskAsk (op : BuildOp) : Ask := { kind := some s24, fmt := op.fmt, trans := false, dot := none }

/-- A mask without the elements of the padding, which is never present (R503). -/
def trimMask (rows cols bcols : Nat) (mask : Nat → Nat) (b : Nat) : Nat :=
  (List.range 16).foldl (fun a i =>
    a + (if bit (mask b) i && (denseIdx rows cols (b / bcols * 4 + i / 4) (b % bcols * 4 + i % 4)).isSome
      then 2 ^ i else 0)) 0

/-- DEDUCED (log entries 19, 115). -/
def execS24MaskedCompress (t : Coord) (op : BuildOp) (s : State) : Result :=
  actTile (fun s => s.tileInstr t.key true (fun x => metaReads x.sram op.descIn (maskAsk op))
    (fun s =>
      let m := (s.tile t.key).sram
      let br := ceilDiv op.rows 4
      let bc := ceilDiv op.cols 4
      match metaCheck m op.descIn (maskAsk op) with
      | .error f => s.tileSparseFault t.key f
      | .ok d =>
        match buildChecks s24 br bc [op.src, op.desc, op.metaA, op.value] (s24Spans op br bc) with
        | some f => s.tileSparseFault t.key f
        | none =>
          if d.brows ≠ br ∨ d.bcols ≠ bc then s.tileSparseFault t.key (descFault 0x07 s24)
          else s.readStage t.key (wordsOf op.src (tensorBytes op.fmt (op.rows * op.cols))) (fun s =>
            s.updTile t.key (fun x =>
              (putS24 t.key op br bc (trimMask op.rows op.cols bc (maskOf m d)) x).advance)))) s

/-- A decompress of one KIND (R96): the dense matrix of whole blocks, row-major, zeros where absent. The values are read
when the checks of R97 and R503 have passed. DEDUCED (log entry 115). -/
def State.decompress (s : State) (key kind : Nat) (op : DecompOp) : State :=
  let q : Ask := { kind := some kind, fmt := op.fmt, trans := false, dot := none }
  s.tileInstr key true (fun x => metaReads x.sram op.desc q)
    (fun s =>
      let m := (s.tile key).sram
      match metaCheck m op.desc q with
      | .error f => s.tileSparseFault key f
      | .ok d =>
        let rows := d.rows false
        let cols := d.cols false
        match buildChecks kind d.brows d.bcols [op.desc, op.dst] [(op.dst, tensorBytes op.fmt (rows * cols))] with
        | some f => s.tileSparseFault key f
        | none => s.readStage key (wordsOf d.value (d.valueSize op.fmt)) (fun s => s.updTile key (fun x =>
            (copyElems key x op.fmt d.value op.dst
              ((List.range (rows * cols)).map (fun i => sparseAt x.sram d false (i / cols) (i % cols)))).advance)))

def execS24Decompress (t : Coord) (op : DecompOp) (s : State) : Result :=
  actTile (fun s => s.decompress t.key s24 op) s

def execBsrDecompress (t : Coord) (op : DecompOp) (s : State) : Result :=
  actTile (fun s => s.decompress t.key bsr op) s

/-- Block columns present in block row br of a dense matrix. -/
def presentBlocks (m : Mem) (op : BuildOp) (bcols br : Nat) : List Nat :=
  (List.range bcols).filter (fun bc => (List.range 64).any (fun i =>
    nonZero (denseAt m op.fmt op.src op.rows op.cols (br * 8 + i / 8) (bc * 8 + i % 8))))

/-- Cuts m present blocks into full segments of L and one shorter one: the segment lengths. -/
def segLens (m l : Nat) : List Nat :=
  (List.range (ceilDiv m l)).map (fun i => min l (m - i * l))

/-- The segment headers, OFFSET running from `off`. -/
def segHeaders : List (Nat × Nat) → Nat → List Byte
  | [], _ => []
  | (br, n) :: r, off => leBytes 8 (br + (n - 1) * 2 ^ 16 + off * 2 ^ 32) ++ segHeaders r (off + n)

/-- The operand that a build writes: its segments as (block row, blocks), and its descriptor (R93, R96). -/
def buildSegs (m : Mem) (op : BuildOp) (br bc : Nat) : List (Nat × Nat) :=
  (List.range br).flatMap (fun r => (segLens (presentBlocks m op bc r).length op.segLen).map (fun n => (r, n)))

def buildDesc (m : Mem) (op : BuildOp) (br bc : Nat) : Desc :=
  { kind := bsr, fmt := fmtCode op.fmt, rsv := 0, brows := br, bcols := bc
    nnz := ((List.range br).map (fun r => (presentBlocks m op bc r).length)).sum
    nseg := (buildSegs m op br bc).length, meta_ := op.metaA, index := op.index, value := op.value }

/-- The spans that a build writes, sized for the blocks present. -/
def bsrSpans (m : Mem) (op : BuildOp) (br bc : Nat) : List (Nat × Nat) :=
  let d := buildDesc m op br bc
  [(op.metaA, d.metaSize), (op.index, d.indexSize), (op.value, d.valueSize op.fmt)]

/-- Writes a BSR operand of the present blocks of a dense matrix. -/
def putBsr (key : Nat) (op : BuildOp) (br bc : Nat) (t : Tile) : Tile :=
  let m := t.sram
  let blocks := (List.range br).flatMap (fun r => (presentBlocks m op bc r).map (fun b => (r, b)))
  let elems := blocks.flatMap (fun e =>
    (List.range 64).map (fun i => denseIdx op.rows op.cols (e.1 * 8 + i / 8) (e.2 * 8 + i % 8)))
  let x := copyElems key t op.fmt op.src op.value elems
  let x := x.put op.index (padTo 8 (blocks.flatMap (fun e => leBytes 2 e.2)))
  (x.put op.metaA (segHeaders (buildSegs m op br bc) 0)).put op.desc (buildDesc m op br bc).bytes

/-- The blocks present are counted before the arrays' extents are checked (R96, R503); all failures of check 3 read the
same. DEDUCED (log entry 115). -/
def execBsrBuild (t : Coord) (op : BuildOp) (s : State) : Result :=
  actTile (fun s => s.tileInstr t.key true (fun _ => [])
    (fun s =>
      let br := ceilDiv op.rows 8
      let bc := ceilDiv op.cols 8
      let fixed := [(op.src, tensorBytes op.fmt (op.rows * op.cols)), (op.desc, 32)]
      match buildChecks bsr br bc [op.src, op.desc, op.metaA, op.index, op.value] fixed with
      | some f => s.tileSparseFault t.key f
      | none => s.readStage t.key (wordsOf op.src (tensorBytes op.fmt (op.rows * op.cols))) (fun s =>
        match buildChecks bsr br bc [] (bsrSpans (s.tile t.key).sram op br bc) with
        | some f => s.tileSparseFault t.key f
        | none => s.updTile t.key (fun x => (putBsr t.key op br bc x).advance)))) s

end Sys2Proof.Machine
end

