-- ==== Sys2Proof/Machine/Time.lean ====
section
/-! DEFINITION. The commands of the time unit (R314 to R350). -/

namespace Sys2Proof.Machine

/-- A step of the time unit changes the time unit, its registers and the events; nothing else. -/
def actTime (f : State → State) (s : State) : Result :=
  let t := f s
  .next { s with regs := t.regs, time := t.time, io := t.io }

def execTick (s : State) : Result := actTime (fun s => if s.timeOn then s.tick else s) s

/-- A pulse of PPS_OUT ends after WIDTH_MS or half the period (R332). -/
def execPpsOutPulseEnd (s : State) : Result :=
  actTime (fun s => if s.time.pulse = true ∧ s.pulseDue = true then s.pulseEnd else s) s

/-- The host reaches the time unit's registers. DEDUCED (log entry 5). -/
def State.timeHost (s : State) : Bool := s.host.linkUp && s.timeOn

def execStep (s : State) : Result := actTime (fun s => if s.timeHost then s.timeCommand 1 0 else s) s
def execSlew (s : State) : Result := actTime (fun s => if s.timeHost then s.timeCommand 2 0 else s) s
def execLoad (hi : BitVec 16) (s : State) : Result := actTime (fun s => if s.timeHost then s.timeCommand 3 hi else s) s
def execAck (s : State) : Result := actTime (fun s => if s.timeHost then s.timeCommand 4 0 else s) s
def execCancel (s : State) : Result := actTime (fun s => if s.timeHost then s.timeCommand 5 0 else s) s

def execTimeCtrlWrite (v : Word) (s : State) : Result :=
  actTime (fun s => if s.timeHost then s.timeCtrl v.toNat else s) s

def execTimeNowRead (s : State) : Result :=
  actTime (fun s =>
    if s.timeHost then
      let r := s.timeNow
      r.1.emit (.read (leBytes 8 r.2.toNat))
    else s) s

def execTimePpsOutNextWrite (v : Word) (s : State) : Result :=
  actTime (fun s => if s.timeHost then s.timeNext v else s) s

/-- The servo reaches an update point (R320, R321): it writes its correction, or stops in host-assisted mode. A
free-running servo has none, nor has one on a stuck PPS_IN (R322, R331). -/
def execServoUpdate (fix : ServoFix) (s : State) : Result :=
  actTime (fun s =>
    if s.timeOn = false ∨ s.servoPoint = false ∨ s.time.stop.isSome = true then s
    else
    let s := s.servoTaken
    if s.assisted 5 then
      let s := s.setTime { s.time with stop := some fix }
      s.postStop (Code.hostStop + 5) Source.time 0 fix.offset.toNat
    else s.applyFix fix) s

/-- 200 ms passed with no ACK: the firmware applies its own correction (R321). -/
def execTimeStopTimeout (s : State) : Result :=
  actTime (fun s =>
    match s.time.stop with
    | some f => (s.setTime { s.time with stop := none }).applyFix f
    | none => s) s

/-- POP removes the head of a transmit timestamp queue; a follower has none (R327, R329). -/
def execPop (n : MacNo) (s : State) : Result :=
  actTime (fun s => if s.timeHost = true ∧ s.macMode n.val ≠ 4 then s.tsqPop n.val else s) s

/-- A pulse of PPS_IN is judged at its active edge, which PPS_IN_POL chooses (R330, R335): a glitch, an edge too early,
or an accepted edge. -/
def execPpsInEdge (e : PpsEdge) (s : State) : Result :=
  actTime (fun s =>
    if s.timeOn = false ∨ e.rising = s.rdb Reg.TIME_CTRL_PPS_IN_POL then s
    else if e.widthNs < 100 then s.count Reg.TIME_PPS_STAT_GLITCH 1
    else if s.time.sincePps.any (fun n => decide (n < 781250000)) then s.count Reg.TIME_PPS_STAT_IGNORED 1
    else
      let s := s.setReg Reg.TIME_PPS_IN s.now64
      let s := (s.wr Reg.TIME_PPS_STAT_CAP_HI (s.devTime.toNat / 2 ^ 64)).wr Reg.TIME_PPS_STAT_NEW 1
      (s.setTime { s.time with sincePps := some 0, stuck := false, edge := true }).timeEvent s.devTime 16) s

/-- PPS_IN has held a level for more than 1.5 s: raised once an episode (R331). -/
def execPpsStuck (high : Bool) (s : State) : Result :=
  actTime (fun s =>
    if s.timeOn = true ∧ s.time.stuck = false then
      (s.setTime { s.time with stuck := true }).post Code.ppsStuck Source.time 0 (b2n high)
    else s) s

/-- The reference is lost; with CLK_SRC 1 the loss is counted (R333). -/
def execRefLoss (s : State) : Result :=
  actTime (fun s =>
    if s.timeOn = true ∧ s.time.refGood = true then
      let s := s.setTime { s.time with refGood := false }
      if s.rdb Reg.TIME_CTRL_CLK_SRC then s.count Reg.TIME_REF_STAT_LOSS 1 else s
    else s) s

/-- The reference has been good for 100 ms: the PLL locks again. -/
def execRefRelock (s : State) : Result :=
  actTime (fun s => if s.timeOn then s.setTime { s.time with refGood := true } else s) s

/-- A pulse of REF10M_IN narrower than 20 ns is ignored and counted. -/
def execRefGlitch (s : State) : Result :=
  actTime (fun s => if s.timeOn then s.count Reg.TIME_REF_STAT_GLITCH 1 else s) s

end Sys2Proof.Machine
end

