-- ==== Sys2Proof/Machine/Dispatch.lean ====
section
/-! DEFINITION. The meaning of each command, one arm per row of the command table. -/

namespace Sys2Proof.Machine

/-- DEDUCED (log entry 8). -/
def exec (i : Instr) (s : State) : Host.Outcome State Fault Refusal :=
  match i with
  | .registerWrite a => Sys2Proof.Machine.execRegisterWrite a s
  | .unsupportedAccess a => Sys2Proof.Machine.execUnsupportedAccess a s
  | .dotProduct t op => Sys2Proof.Machine.execDotProduct t op s
  | .outputConversion t op => Sys2Proof.Machine.execOutputConversion t op s
  | .accumulatorOutput t op => Sys2Proof.Machine.execAccumulatorOutput t op s
  | .accumulatorLoad t op => Sys2Proof.Machine.execAccumulatorLoad t op s
  | .vectorOperation t op => Sys2Proof.Machine.execVectorOperation t op s
  | .tineEncode t op => Sys2Proof.Machine.execTineEncode t op s
  | .sparseDot t op => Sys2Proof.Machine.execSparseDot t op s
  | .metadataCheck t op => Sys2Proof.Machine.execMetadataCheck t op s
  | .segmentDone t lane => Sys2Proof.Machine.execSegmentDone t lane s
  | .s24Compress t op => Sys2Proof.Machine.execS24Compress t op s
  | .s24MaskedCompress t op => Sys2Proof.Machine.execS24MaskedCompress t op s
  | .s24Decompress t op => Sys2Proof.Machine.execS24Decompress t op s
  | .bsrDecompress t op => Sys2Proof.Machine.execBsrDecompress t op s
  | .bsrBuild t op => Sys2Proof.Machine.execBsrBuild t op s
  | .haltInstruction t => Sys2Proof.Machine.execHaltInstruction t s
  | .epochBarrierPoint t => Sys2Proof.Machine.execEpochBarrierPoint t s
  | .sendPacket t op => Sys2Proof.Machine.execSendPacket t op s
  | .readReq t op => Sys2Proof.Machine.execReadReq t op s
  | .arrivalWait t ctr count => Sys2Proof.Machine.execArrivalWait t ctr count s
  | .counterSet t ctr reg value => Sys2Proof.Machine.execCounterSet t ctr reg value s
  | .journalTake t stream dst => Sys2Proof.Machine.execJournalTake t stream dst s
  | .hrdTileStepWrite t step => Sys2Proof.Machine.execHrdTileStepWrite t step s
  | .hrdTileSparseFaultClear t => Sys2Proof.Machine.execHrdTileSparseFaultClear t s
  | .routePacket p => Sys2Proof.Machine.execRoutePacket p s
  | .packetDeliver ix => Sys2Proof.Machine.execPacketDeliver ix s
  | .tileHandshakeTimeout r => Sys2Proof.Machine.execTileHandshakeTimeout r s
  | .bcastForward p => Sys2Proof.Machine.execBcastForward p s
  | .redAccCombine r tree c => Sys2Proof.Machine.execRedAccCombine r tree c s
  | .redTreeNode h c slice => Sys2Proof.Machine.execRedTreeNode h c slice s
  | .collectiveMessageSend group => Sys2Proof.Machine.execCollectiveMessageSend group s
  | .htMessageReceive msg => Sys2Proof.Machine.execHtMessageReceive msg s
  | .routerFailure r => Sys2Proof.Machine.execRouterFailure r s
  | .routePatch h => Sys2Proof.Machine.execRoutePatch h s
  | .release c => Sys2Proof.Machine.execRelease c s
  | .halt c => Sys2Proof.Machine.execHalt c s
  | .barrier c => Sys2Proof.Machine.execBarrier c s
  | .snapshot c => Sys2Proof.Machine.execSnapshot c s
  | .restore c => Sys2Proof.Machine.execRestore c s
  | .resetTiles c => Sys2Proof.Machine.execResetTiles c s
  | .routeRepair c => Sys2Proof.Machine.execRouteRepair c s
  | .drain c => Sys2Proof.Machine.execDrain c s
  | .rollcall c => Sys2Proof.Machine.execRollcall c s
  | .repair c still => Sys2Proof.Machine.execRepair c still s
  | .waitEpochTimer h => Sys2Proof.Machine.execWaitEpochTimer h s
  | .waitEvent h => Sys2Proof.Machine.execWaitEvent h s
  | .sequenceJump h => Sys2Proof.Machine.execSequenceJump h s
  | .sequenceStop h => Sys2Proof.Machine.execSequenceStop h s
  | .windowRead => Sys2Proof.Machine.execWindowRead s
  | .windowWrite v => Sys2Proof.Machine.execWindowWrite v s
  | .windowTimeout write => Sys2Proof.Machine.execWindowTimeout write s
  | .stackRead k ix => Sys2Proof.Machine.execStackRead k ix s
  | .readRsp k => Sys2Proof.Machine.execReadRsp k s
  | .stackWrite k ix => Sys2Proof.Machine.execStackWrite k ix s
  | .mirrorCopy k => Sys2Proof.Machine.execMirrorCopy k s
  | .journalLineWrite pair => Sys2Proof.Machine.execJournalLineWrite pair s
  | .refresh k bank => Sys2Proof.Machine.execRefresh k bank s
  | .scrubRead k => Sys2Proof.Machine.execScrubRead k s
  | .retrainTrigger k ch why temp => Sys2Proof.Machine.execRetrainTrigger k ch why temp s
  | .stknRetrain k ch => Sys2Proof.Machine.execStknRetrain k ch s
  | .retrain k => Sys2Proof.Machine.execRetrain k s
  | .stackStopTimeout k => Sys2Proof.Machine.execStackStopTimeout k s
  | .stknEccAddrClear k => Sys2Proof.Machine.execStknEccAddrClear k s
  | .bar4Read off len => Sys2Proof.Machine.execBar4Read off len s
  | .bar4Write off bytes => Sys2Proof.Machine.execBar4Write off bytes s
  | .start => Sys2Proof.Machine.execStart s
  | .abort => Sys2Proof.Machine.execAbort s
  | .verify => Sys2Proof.Machine.execVerify s
  | .commit => Sys2Proof.Machine.execCommit s
  | .broadcast b => Sys2Proof.Machine.execBroadcast b s
  | .herdLoad => Sys2Proof.Machine.execHerdLoad s
  | .reshaping => Sys2Proof.Machine.execReshaping s
  | .residentReload h => Sys2Proof.Machine.execResidentReload h s
  | .imageRelay at_ bytes => Sys2Proof.Machine.execImageRelay at_ bytes s
  | .fuseProgram slot confirm => Sys2Proof.Machine.execFuseProgram slot confirm s
  | .fuseRevoke slot confirm => Sys2Proof.Machine.execFuseRevoke slot confirm s
  | .frameReceive m f => Sys2Proof.Machine.execFrameReceive m f s
  | .fcsVerdict m => Sys2Proof.Machine.execFcsVerdict m s
  | .queueDeliver m q => Sys2Proof.Machine.execQueueDeliver m q s
  | .pauseFrameReceive m => Sys2Proof.Machine.execPauseFrameReceive m s
  | .pauseExpire m p => Sys2Proof.Machine.execPauseExpire m p s
  | .pauseResend m p => Sys2Proof.Machine.execPauseResend m p s
  | .transmitStart m sub => Sys2Proof.Machine.execTransmitStart m sub s
  | .linkDown m => Sys2Proof.Machine.execLinkDown m s
  | .portTraining m ok => Sys2Proof.Machine.execPortTraining m ok s
  | .portTrainingRetry m => Sys2Proof.Machine.execPortTrainingRetry m s
  | .ext n ctx => Sys2Proof.Machine.execExt n ctx s
  | .metaField n ctx => Sys2Proof.Machine.execMetaField n ctx s
  | .alu n ctx => Sys2Proof.Machine.execAlu n ctx s
  | .adv n ctx => Sys2Proof.Machine.execAdv n ctx s
  | .br n ctx => Sys2Proof.Machine.execBr n ctx s
  | .feat n ctx => Sys2Proof.Machine.execFeat n ctx s
  | .endParse n ctx => Sys2Proof.Machine.execEndParse n ctx s
  | .rateLimitedReport src => Sys2Proof.Machine.execRateLimitedReport src s
  | .evaluate n busy => Sys2Proof.Machine.execEvaluate n busy s
  | .batchWaitExpire model => Sys2Proof.Machine.execBatchWaitExpire model s
  | .batchStream => Sys2Proof.Machine.execBatchStream s
  | .batchComplete => Sys2Proof.Machine.execBatchComplete s
  | .ibexStopTimeout => Sys2Proof.Machine.execIbexStopTimeout s
  | .run model => Sys2Proof.Machine.execRun model s
  | .suspend model => Sys2Proof.Machine.execSuspend model s
  | .validate model => Sys2Proof.Machine.execValidate model s
  | .tick => Sys2Proof.Machine.execTick s
  | .ppsOutPulseEnd => Sys2Proof.Machine.execPpsOutPulseEnd s
  | .step => Sys2Proof.Machine.execStep s
  | .slew => Sys2Proof.Machine.execSlew s
  | .load hi => Sys2Proof.Machine.execLoad hi s
  | .ack => Sys2Proof.Machine.execAck s
  | .cancel => Sys2Proof.Machine.execCancel s
  | .timeCtrlWrite v => Sys2Proof.Machine.execTimeCtrlWrite v s
  | .timeNowRead => Sys2Proof.Machine.execTimeNowRead s
  | .timePpsOutNextWrite v => Sys2Proof.Machine.execTimePpsOutNextWrite v s
  | .servoUpdate fix => Sys2Proof.Machine.execServoUpdate fix s
  | .timeStopTimeout => Sys2Proof.Machine.execTimeStopTimeout s
  | .pop n => Sys2Proof.Machine.execPop n s
  | .ppsInEdge e => Sys2Proof.Machine.execPpsInEdge e s
  | .ppsStuck high => Sys2Proof.Machine.execPpsStuck high s
  | .refLoss => Sys2Proof.Machine.execRefLoss s
  | .refRelock => Sys2Proof.Machine.execRefRelock s
  | .itemArrival pair => Sys2Proof.Machine.execItemArrival pair s
  | .itemAccept pair => Sys2Proof.Machine.execItemAccept pair s
  | .itemDeliver h stream => Sys2Proof.Machine.execItemDeliver h stream s
  | .herdOutput h o => Sys2Proof.Machine.execHerdOutput h o s
  | .outputSent h => Sys2Proof.Machine.execOutputSent h s
  | .replyOutput h => Sys2Proof.Machine.execReplyOutput h s
  | .epochBoundary => Sys2Proof.Machine.execEpochBoundary s
  | .epochAnnounce e => Sys2Proof.Machine.execEpochAnnounce e s
  | .epochCommit group => Sys2Proof.Machine.execEpochCommit group s
  | .rackCommit e => Sys2Proof.Machine.execRackCommit e s
  | .detect h found => Sys2Proof.Machine.execDetect h found s
  | .decide => Sys2Proof.Machine.execDecide s
  | .chamoisRemap => Sys2Proof.Machine.execChamoisRemap s
  | .herdMove bistOk => Sys2Proof.Machine.execHerdMove bistOk s
  | .reload => Sys2Proof.Machine.execReload s
  | .recoveryRestore => Sys2Proof.Machine.execRecoveryRestore s
  | .replay => Sys2Proof.Machine.execReplay s
  | .resume => Sys2Proof.Machine.execResume s
  | .decideStopTimeout => Sys2Proof.Machine.execDecideStopTimeout s
  | .replayStopTimeout => Sys2Proof.Machine.execReplayStopTimeout s
  | .fltAccept => Sys2Proof.Machine.execFltAccept s
  | .fltMove h => Sys2Proof.Machine.execFltMove h s
  | .fltHold => Sys2Proof.Machine.execFltHold s
  | .jrnReplay group => Sys2Proof.Machine.execJrnReplay group s
  | .jrnHold group => Sys2Proof.Machine.execJrnHold group s
  | .handover group => Sys2Proof.Machine.execHandover group s
  | .workerJoin w => Sys2Proof.Machine.execWorkerJoin w s
  | .workerLeave w => Sys2Proof.Machine.execWorkerLeave w s
  | .managerSilence => Sys2Proof.Machine.execManagerSilence s
  | .mgmtWatchdog => Sys2Proof.Machine.execMgmtWatchdog s
  | .ramp => Sys2Proof.Machine.execRamp s
  | .train rs => Sys2Proof.Machine.execTrain rs s
  | .bist failed => Sys2Proof.Machine.execBist failed s
  | .remap => Sys2Proof.Machine.execRemap s
  | .releaseStage => Sys2Proof.Machine.execReleaseStage s
  | .warmStart => Sys2Proof.Machine.execWarmStart s
  | .repairStopTimeout => Sys2Proof.Machine.execRepairStopTimeout s
  | .bringupStopTimeout k => Sys2Proof.Machine.execBringupStopTimeout k s
  | .bringupStop stage => Sys2Proof.Machine.execBringupStop stage s
  | .bruAccept m => Sys2Proof.Machine.execBruAccept m s
  | .retireNow => Sys2Proof.Machine.execRetireNow s
  | .retry m => Sys2Proof.Machine.execRetry m s
  | .go => Sys2Proof.Machine.execGo s
  | .mark px py => Sys2Proof.Machine.execMark px py s
  | .down m => Sys2Proof.Machine.execDown m s
  | .powerEpoch inp => Sys2Proof.Machine.execPowerEpoch inp s
  | .powerStopTimeout => Sys2Proof.Machine.execPowerStopTimeout s
  | .powerAck => Sys2Proof.Machine.execPowerAck s
  | .pwrDomCfgWrite v => Sys2Proof.Machine.execPwrDomCfgWrite v s
  | .vdistLow trips => Sys2Proof.Machine.execVdistLow trips s
  | .vdistRecover => Sys2Proof.Machine.execVdistRecover s
  | .vaonLoss => Sys2Proof.Machine.execVaonLoss s
  | .thermAlertNLow us => Sys2Proof.Machine.execThermAlertNLow us s
  | .thermAlert => Sys2Proof.Machine.execThermAlert s
  | .thermAlertNHigh => Sys2Proof.Machine.execThermAlertNHigh s
  | .trip => Sys2Proof.Machine.execTrip s
  | .coolantMeasure flow tin tout => Sys2Proof.Machine.execCoolantMeasure flow tin tout s
  | .sensorLost input => Sys2Proof.Machine.execSensorLost input s
  | .quiesce => Sys2Proof.Machine.execQuiesce s
  | .calWrite confirm => Sys2Proof.Machine.execCalWrite confirm s
  | .pwrCalDataAccess write => Sys2Proof.Machine.execPwrCalDataAccess write s
  | .submitDoorbell ring prod => Sys2Proof.Machine.execSubmitDoorbell ring prod s
  | .submitEntry ring => Sys2Proof.Machine.execSubmitEntry ring s
  | .transmitDoorbell ring prod => Sys2Proof.Machine.execTransmitDoorbell ring prod s
  | .consWrite ring cons => Sys2Proof.Machine.execConsWrite ring cons s
  | .ringEnable ring irq => Sys2Proof.Machine.execRingEnable ring irq s
  | .eventRecord => Sys2Proof.Machine.execEventRecord s
  | .msixSignal => Sys2Proof.Machine.execMsixSignal s
  | .msixHoldoffExpire src => Sys2Proof.Machine.execMsixHoldoffExpire src s
  | .post m len => Sys2Proof.Machine.execPost m len s
  | .mailboxReply m reply => Sys2Proof.Machine.execMailboxReply m reply s
  | .mailboxExpire m => Sys2Proof.Machine.execMailboxExpire m s
  | .glbExportBaseWrite v => Sys2Proof.Machine.execGlbExportBaseWrite v s
  | .glbExportPtrWrite cons => Sys2Proof.Machine.execGlbExportPtrWrite cons s
  | .harvestPass => Sys2Proof.Machine.execHarvestPass s
  | .harvestStopTimeout => Sys2Proof.Machine.execHarvestStopTimeout s
  | .harvestAccept => Sys2Proof.Machine.execHarvestAccept s
  | .stackAccept k => Sys2Proof.Machine.execStackAccept k s
  | .stackRetrain k ch => Sys2Proof.Machine.execStackRetrain k ch s
  | .stackDown k ch => Sys2Proof.Machine.execStackDown k ch s
  | .stackStart k => Sys2Proof.Machine.execStackStart k s
  | .stackDefer k ms => Sys2Proof.Machine.execStackDefer k ms s
  | .deferExpire k => Sys2Proof.Machine.execDeferExpire k s
  | .glbModeWrite v => Sys2Proof.Machine.execGlbModeWrite v s
  | .coldReset => Sys2Proof.Machine.execColdReset s
  | .warmReset fundamental confirm => Sys2Proof.Machine.execWarmReset fundamental confirm s
  | .herdReset h => Sys2Proof.Machine.execHerdReset h s
  | .portReset m => Sys2Proof.Machine.execPortReset m s
  | .functionLevelReset => Sys2Proof.Machine.execFunctionLevelReset s
  | .getId => Sys2Proof.Machine.execGetId s
  | .getState => Sys2Proof.Machine.execGetState s
  | .getPower => Sys2Proof.Machine.execGetPower s
  | .getCool => Sys2Proof.Machine.execGetCool s
  | .getPwrStatus => Sys2Proof.Machine.execGetPwrStatus s
  | .getEvent => Sys2Proof.Machine.execGetEvent s
  | .setCap w => Sys2Proof.Machine.execSetCap w s
  | .sidebandWarmReset b => Sys2Proof.Machine.execSidebandWarmReset b s
  | .sidebandColdReset b => Sys2Proof.Machine.execSidebandColdReset b s
  | .regAddr off => Sys2Proof.Machine.execRegAddr off s
  | .regRead => Sys2Proof.Machine.execRegRead s
  | .bypass => Sys2Proof.Machine.execBypass s
  | .idcode => Sys2Proof.Machine.execIdcode s
  | .samplePreload pins chain => Sys2Proof.Machine.execSamplePreload pins chain s
  | .extest => Sys2Proof.Machine.execExtest s
  | .clamp => Sys2Proof.Machine.execClamp s
  | .highz => Sys2Proof.Machine.execHighz s
  | .scalarInstruction t op => Sys2Proof.Machine.execScalarInstruction t op s
  | .refreshManagement k => Sys2Proof.Machine.execRefreshManagement k s
  | .retrainComplete k ok => Sys2Proof.Machine.execRetrainComplete k ok s
  | .validateComplete model => Sys2Proof.Machine.execValidateComplete model s
  | .calWriteComplete readBackOk => Sys2Proof.Machine.execCalWriteComplete readBackOk s
  | .coolFaultNHigh lowMs => Sys2Proof.Machine.execCoolFaultNHigh lowMs s
  | .quiesceTimeout => Sys2Proof.Machine.execQuiesceTimeout s
  | .refGlitch => Sys2Proof.Machine.execRefGlitch s
  | .testLogicReset => Sys2Proof.Machine.execTestLogicReset s

end Sys2Proof.Machine
end

