-- ==== Sys2Proof/Safety.lean ====
section
/-! DEFINITION. What counts as a safe state and a safe step of the W1056, and how claims say that a command runs
and what it leaves unchanged. -/

namespace Sys2Proof.Safety

open Sys2Proof.Machine

/-- A step that goes on: neither a fault nor a refusal. -/
def Completes (r : Host.Outcome State Fault Refusal) : Prop := ∃ t, r = .next t

/-- The command answers a next state, and that state has the property. -/
def Runs (i : Instr) (s : State) (P : State → Prop) : Prop := ∃ t, exec i s = .next t ∧ P t

/-- The fuses never go back (R192): a programmed slot keeps its digest, a revoked slot stays revoked, and a
burnt thermometer bit stays burnt. -/
structure FusesGrow (a b : Fuses) : Prop where
  slot0   : a.slot0 = none ∨ b.slot0 = a.slot0
  slot1   : a.slot1 = none ∨ b.slot1 = a.slot1
  slot2   : a.slot2 = none ∨ b.slot2 = a.slot2
  slot3   : a.slot3 = none ∨ b.slot3 = a.slot3
  revoked : a.revoked &&& b.revoked = a.revoked
  thermo  : a.thermo &&& b.thermo = a.thermo

/-- The fields of the state but the queue of commands. -/
inductive Part where
  | regs | locked | tiles | herds | mesh | stks | snaps | pmap | img | fuses | macs | prhs | ibx | time | jrn | flt
  | bru | pwr | host | jtag | io
deriving DecidableEq, Repr

/-- A field is the same in two states. -/
def Part.same (s t : State) : Part → Prop
  | .regs => t.regs = s.regs
  | .locked => t.locked = s.locked
  | .tiles => t.tiles = s.tiles
  | .herds => t.herds = s.herds
  | .mesh => t.mesh = s.mesh
  | .stks => t.stks = s.stks
  | .snaps => t.snaps = s.snaps
  | .pmap => t.pmap = s.pmap
  | .img => t.img = s.img
  | .fuses => t.fuses = s.fuses
  | .macs => t.macs = s.macs
  | .prhs => t.prhs = s.prhs
  | .ibx => t.ibx = s.ibx
  | .time => t.time = s.time
  | .jrn => t.jrn = s.jrn
  | .flt => t.flt = s.flt
  | .bru => t.bru = s.bru
  | .pwr => t.pwr = s.pwr
  | .host => t.host = s.host
  | .jtag => t.jtag = s.jtag
  | .io => t.io = s.io

/-- Nothing but the fields listed differs; the queue of commands is the same as well. -/
def KeepsBut (l : List Part) (s t : State) : Prop := t.pending = s.pending ∧ ∀ p, p ∉ l → p.same s t

/-- Every tile but one is the same. -/
def TilesBut (key : Nat) (s t : State) : Prop := ∀ k, k ≠ key → t.tile k = s.tile k

/-- One tile has become `x`, and nothing else has changed. -/
def TileBecomes (key : Nat) (x : Tile) (s t : State) : Prop :=
  t.tile key = x ∧ TilesBut key s t ∧ KeepsBut [.tiles] s t

/-- Every herd controller but one is the same. -/
def HerdsBut (h : Nat) (s t : State) : Prop := ∀ k, k ≠ h → t.herd k = s.herd k

/-- Every stack but those listed is the same. -/
def StksBut (l : List Nat) (s t : State) : Prop := ∀ k, k ∉ l → t.stk k = s.stk k

/-- Every MAC but one is the same. -/
def MacsBut (n : Nat) (s t : State) : Prop := ∀ k, k ≠ n → t.mac k = s.mac k

/-- Every register holds what it held, but those listed. -/
def RegsBut (l : List Nat) (s t : State) : Prop := ∀ off, off ∉ l → t.reg off = s.reg off

/-- A tile has halted with a fault: its herd is FAULTED with the code, or keeps the fault that it is FAULTED with (R100), and
one record names the tile (R53, R99, R502). Every other tile, herd and part of the state is the same. -/
def TileFaulted (key code detail : Nat) (s t : State) : Prop :=
  (t.tile key).run = .faulted code ∧ TilesBut key s t ∧
    (t.herd (herdOfKey key)).st = .faulted ∧ HerdsBut (herdOfKey key) s t ∧
    ((s.herd (herdOfKey key)).st ≠ .faulted →
      (t.herd (herdOfKey key)).fault = code ∧ (t.herd (herdOfKey key)).stackFault = false) ∧
    ((s.herd (herdOfKey key)).st = .faulted → (t.herd (herdOfKey key)).fault = (s.herd (herdOfKey key)).fault ∧
      (t.herd (herdOfKey key)).stackFault = (s.herd (herdOfKey key)).stackFault) ∧
    t.io.events = s.io.events ++ [{ code := code, stop := false, source := Source.tile, loc := key, stream := none
                                    time := s.now64, detail := BitVec.ofNat 64 detail }] ∧
    t.io.out = s.io.out ∧ KeepsBut [.tiles, .herds, .io] s t

/-- A herd controller at rest: no barrier in progress and no command waiting. -/
def AtRest (s : State) (h : Nat) : Prop := (s.herd h).barrier = none ∧ (s.herd h).queue = []

/-- The segments that a lane holds: the one it runs, then the unstarted ones. -/
def laneSegs (l : Lane) : List Nat := l.current.toList ++ l.todo

/-- Every byte of a memory outside [a, a + n) reads as before. -/
def BytesBut (a n : Nat) (m m' : Mem) : Prop := ∀ x, x < a ∨ a + n ≤ x → Mem.byte m' x = Mem.byte m x

/-- The sequencer of a tile issues its next instruction, and no word of its SRAM holds an error. -/
def Ready (s : State) (key : Nat) : Prop := (s.tile key).active = true ∧ (s.tile key).bad = []

/-- The signed value of a finite number in units of 2^-g. -/
def scaled (g : Nat) : Machine.Num → Int
  | .fin neg m e => sgn neg (m * 2 ^ (e + g).toNat)
  | _ => 0

/-- Byte x lies in the scale bytes or payloads of the Tine blocks of n elements whose line is at `addr` (R64). -/
def inTine (f : Fmt) (addr n x : Nat) : Bool :=
  (List.range (ceilDiv n 16)).any (fun b => decide (x = addr + b) ||
    decide (addr + 8 + b * tinePayload f ≤ x ∧ x < addr + 8 + (b + 1) * tinePayload f))

/-- The bits of a status register that were set are still set. -/
def Sticky (a b : Word) : Prop := a &&& b = a

/-- A register whose write stores fields and does nothing else. -/
def plainReg (off : Nat) : Bool :=
  match blockOf off with
  | some (.glb, _, _) => decide (off ∉ [Reg.GLB_RESET_CTL, Reg.GLB_ASSIST_CMD, Reg.GLB_EVENT_LOST, Reg.GLB_EXPORT_BASE, Reg.GLB_EXPORT_PTR])
  | some (.pwr, _, _) => decide (off ∉ [Reg.PWR_CTRL, Reg.PWR_DOM_CFG, Reg.PWR_CAL_DATA, Reg.PWR_CAL_CTL])
  | some (.time, _, loc) =>
    decide (off ∉ [Reg.TIME_CTRL, Reg.TIME_CMD, Reg.TIME_PPS_OUT_NEXT, Reg.TIME_PPS_OUT_CFG]) && !decide (0x200 ≤ loc ∧ loc < 0x400)
  | some (.mac, _, _) => true
  | some (.prh, n, _) => decide (off ≠ Reg.PRH_FRONT_STATUS n)
  | some (.ibx, _, _) => decide (off ≠ Reg.IBX_CMD)
  | some (.stk, n, _) => decide (off ∉ [Reg.STK_RETRAIN n, Reg.STK_ECC_ADDR n])
  | some (.jrn, _, _) => decide (off ≠ Reg.JRN_CMD)
  | some (.img, _, _) => decide (off ∉ [Reg.IMG_LOAD_CMD, Reg.IMG_FUSE_CMD])
  | some (.bru, _, _) => decide (off ≠ Reg.BRU_CMD)
  | some (.flt, _, _) => decide (off ∉ [Reg.FLT_CMD, Reg.FLT_REMAP])
  | some (.hrd, _, _) => decide (off ∉ [Reg.HRD_WIN_DATA, Reg.HRD_CMD])
  | some (.mbx, _, loc) => decide (loc % 16 ≠ 0)
  | none => false

/-- What a field holds after a write of the bits of `w` that `mask` lets through, under its access type (R18). -/
def written (s : State) (off w mask : Nat) (f : FieldRow) : Nat :=
  let old := bits (s.reg off).toNat f.hi f.lo
  let new := bits (merge (s.reg off).toNat w mask) f.hi f.lo
  match f.acc with
  | .rw => if s.checkOk f.chk new then new else old
  | .rwl => if s.locked = false ∧ s.checkOk f.chk new = true then new else old
  | .w1c => if bit (w &&& mask) f.lo then 0 else old
  | _ => old

/-- Every ring of the directory but one is the same. -/
def RingsBut (k : RingKind) (i : Nat) (s t : State) : Prop :=
  ∀ k' i', ringKey k' i' ≠ ringKey k i → t.ring k' i' = s.ring k' i'

/-- The host reaches the wafer over PCI Express. -/
def Linked (s : State) : Prop := s.host.linkUp = true

end Sys2Proof.Safety
end

