-- ==== Sys2Proof/Certificates/Slice0/Obligations.lean ====
section
/-! DEFINITION. The statements for the provers, by family of commands. -/

open Sys2Proof Sys2Proof.Machine Sys2Proof.Safety

/-! ### The block and its queue -/

/-- A step takes the command at the front of the queue and is that command on the state that holds the rest. -/
def Obligations.StepRunsFrontCommand : Prop :=
  ∀ (s : State) (c : Instr) (rest : List Instr), s.pending = c :: rest → step s = exec c { s with pending := rest }

/-- With no command waiting the block idles, and a step on a queue takes one command off it: the model's choice
(log entry 1). Every step answers a next state. -/
def Obligations.EveryStepCompletes : Prop :=
  (∀ s : State, s.pending = [] → step s = .next s) ∧
    ∀ s : State, ∃ t, step s = .next t ∧ t.pending = s.pending.tail

/-- Whatever the fuses hold, no step takes any of it back: with `f` a record of what was burnt before, an invariant of
every step (R192). -/
def Obligations.FusesNeverGoBack : Prop :=
  ∀ (f : Fuses) (s t : State), FusesGrow f s.fuses → step s = .next t → FusesGrow f t.fuses

/-- What a cold reset leaves where the spec gives the value: T 0 (R314), NEXT_SEQ 1 of every stream (R359), PHASE IDLE
(R196), stage 0 of bring-up, every herd DARK, IDCODE the current instruction of the test port (R482), no image committed
(R193).

The fuses of State.reset are those of a blank part (the model's choice, log entry 2): nothing is burnt. -/
def Obligations.ResetState : Prop :=
  (State.reset.time.t = 0 ∧ (∀ n, (State.reset.jrn.streamSt n).nextSeq = 1) ∧ State.reset.img.phase = .idle ∧
    State.reset.img.committed = none ∧ State.reset.bru.stage = 0 ∧ (∀ h, (State.reset.herd h).st = .dark) ∧
    State.reset.jtag.ir = 0x01 ∧ (∀ off, State.reset.reg off = resetVal off) ∧ State.reset.pending = []) ∧
  (FusesGrow Fuses.blank State.reset.fuses ∧ State.reset.fuses.minSvn = 0 ∧ (∀ k, State.reset.fuses.live k = false))

/-! ### Tile instructions (R50 to R81) -/

/-- Each arithmetic instruction completes on a tile that issues it: the tile becomes what the instruction makes of it, its
program counter goes on, and no other tile and nothing else changes (R50 to R54, R65, R66, R71, R73, R78, R79).

Model's choices and readings it rests on: log entry 11. -/
def Obligations.TileArithmeticRuns : Prop :=
  ∀ (s : State) (c : Coord), Ready s c.key →
    (∀ op : DotOp, legalPair op.fmtA op.fmtB = true →
      Runs (.dotProduct c op) s (TileBecomes c.key (dotTile op (s.tile c.key)).advance s)) ∧
    (∀ op, Runs (.outputConversion c op) s (TileBecomes c.key (convTile c.key op (s.tile c.key)).advance s)) ∧
    (∀ op, Runs (.accumulatorOutput c op) s (TileBecomes c.key (accOutTile c.key op (s.tile c.key)).advance s)) ∧
    (∀ op, Runs (.accumulatorLoad c op) s (TileBecomes c.key (accLoadTile op (s.tile c.key)).advance s)) ∧
    (∀ op, Runs (.vectorOperation c op) s (TileBecomes c.key (vecTile c.key op (s.tile c.key)).advance s)) ∧
    (∀ op, Runs (.tineEncode c op) s (TileBecomes c.key (tineTile c.key op (s.tile c.key)).advance s))

/-- Frame of the arithmetic instructions: the program, the counters, the seed, the mode, the sequencer and the sparse
registers stay; STATUS bits once set stay set; a dot product of a long-accumulator format and a load write accumulators
alone, the others bytes of data SRAM alone (with CLEAR, the accumulators put out). -/
def Obligations.TileArithmeticFrame : Prop :=
  ∀ (key : Nat) (t : Tile),
    let keeps (u : Tile) : Prop := u.prog = t.prog ∧ u.hasProg = t.hasProg ∧ u.ctrs = t.ctrs ∧ u.sregs = t.sregs ∧
      u.arith = t.arith ∧ u.seed = t.seed ∧ u.pc = t.pc ∧ u.run = t.run ∧ u.wait = t.wait ∧ u.ecc = t.ecc ∧
      u.sparse = t.sparse ∧ u.sparseFault = t.sparseFault ∧ u.reads = t.reads ∧ Sticky t.status u.status
    (∀ op : DotOp, keeps (dotTile op t) ∧ (dotTile op t).step = t.step ∧
      (treeFmt op.fmtA = false → (dotTile op t).sram = t.sram ∧
        ∀ i, i < 32 → (∀ j, j < op.rows * op.n → (op.acc + j) % 32 ≠ i) → (dotTile op t).acc i = t.acc i) ∧
      (treeFmt op.fmtA = true → (dotTile op t).accs = t.accs ∧
        BytesBut op.dst (4 * (op.rows * op.n)) t.sram (dotTile op t).sram)) ∧
    (∀ op : ConvOp, keeps (convTile key op t) ∧ (convTile key op t).accs = t.accs ∧
      (op.dst.isTine = false → BytesBut op.addrDst (op.dst.bytes * op.n) t.sram (convTile key op t).sram) ∧
      (op.dst.isTine = true → ∀ x, inTine op.dst op.addrDst op.n x = false →
        Mem.byte (convTile key op t).sram x = Mem.byte t.sram x)) ∧
    (∀ op : AccOutOp, keeps (accOutTile key op t) ∧ (op.clear = false → (accOutTile key op t).accs = t.accs) ∧
      (op.dst.isTine = false → BytesBut op.addr (op.dst.bytes * op.n) t.sram (accOutTile key op t).sram) ∧
      (op.dst.isTine = true → ∀ x, inTine op.dst op.addr op.n x = false →
        Mem.byte (accOutTile key op t).sram x = Mem.byte t.sram x)) ∧
    (∀ op : AccLoadOp, keeps (accLoadTile op t) ∧ (accLoadTile op t).sram = t.sram ∧ (accLoadTile op t).step = t.step ∧
      ∀ i, i % 32 ≠ op.acc % 32 → (accLoadTile op t).acc i = t.acc i) ∧
    (∀ op : VecOp, keeps (vecTile key op t) ∧ (vecTile key op t).accs = t.accs ∧
      BytesBut op.dst (4 * op.n) t.sram (vecTile key op t).sram) ∧
    (∀ op : TineOp, keeps (tineTile key op t) ∧ (tineTile key op t).accs = t.accs ∧
      ∀ x, x ≠ op.line + op.blk → x < op.line + 8 + op.blk * tinePayload op.fmt ∨
          op.line + 8 + (op.blk + 1) * tinePayload op.fmt ≤ x →
        Mem.byte (tineTile key op t).sram x = Mem.byte t.sram x)

/-- Results of the vector unit, of an output conversion and of an accumulator output into a format that is no Tine format:
each lane's code, where the destination lies in data SRAM (R66, R71, R78). -/
def Obligations.VectorResults : Prop :=
  ∀ (key : Nat) (t : Tile) (i : Nat),
    (∀ op : VecOp, i < op.n → op.dst + 4 * op.n ≤ sramSize →
      codeAt (vecTile key op t).sram .fp32 op.dst i =
        (vecLane op.fn (t.mode op.mode) (t.rnd key i) (BitVec.ofNat 32 (codeAt t.sram .fp32 op.a i))
          (BitVec.ofNat 32 (codeAt t.sram .fp32 op.b i)) (BitVec.ofNat 32 (codeAt t.sram .fp32 op.c i))).1 % 2 ^ 32) ∧
    (∀ op : ConvOp, op.dst.isTine = false → i < op.n → op.addrDst + op.dst.bytes * op.n ≤ sramSize →
      codeAt (convTile key op t).sram op.dst op.addrDst i =
        (toFlt op.dst (t.mode op.mode) t.sat (t.rnd key i) (elemAt t.sram op.src op.addrSrc i)).1 % 2 ^ (8 * op.dst.bytes)) ∧
    (∀ op : AccOutOp, op.dst.isTine = false → i < op.n → op.addr + op.dst.bytes * op.n ≤ sramSize →
      codeAt (accOutTile key op t).sram op.dst op.addr i =
        (toFlt op.dst (t.mode op.mode) t.sat (t.rnd key i) (t.acc (op.acc + i)).value).1 % 2 ^ (8 * op.dst.bytes))

/-- The rounding step of R67 on a magnitude that drops bits: RNE takes the nearest, and the even one of two; RTZ cuts
toward zero; SR takes one of the two neighbours, and an exact value itself. -/
def Obligations.RoundingStep : Prop :=
  ∀ (mag drop rnd : Nat), 0 < drop →
    (let k := roundMag mag drop .rne rnd
     2 * (k * 2 ^ drop) ≤ 2 * mag + 2 ^ drop ∧ 2 * mag ≤ 2 * (k * 2 ^ drop) + 2 ^ drop ∧
       ((2 * (k * 2 ^ drop) = 2 * mag + 2 ^ drop ∨ 2 * mag = 2 * (k * 2 ^ drop) + 2 ^ drop) → k % 2 = 0)) ∧
    (let k := roundMag mag drop .rtz rnd
     k * 2 ^ drop ≤ mag ∧ mag < (k + 1) * 2 ^ drop) ∧
    (rnd < 2 ^ 32 →
      (roundMag mag drop .sr rnd = mag / 2 ^ drop ∨ roundMag mag drop .sr rnd = mag / 2 ^ drop + 1) ∧
        (mag % 2 ^ drop = 0 → roundMag mag drop .sr rnd = mag / 2 ^ drop))

/-- A dot product of FP16 and FP8 operands is exact (R73): with every operand finite, the accumulator gains the sum of the
products as an integer multiple of 2^-112, whatever their order of magnitude, and its flags and window bit stay. -/
def Obligations.DotProductIsExact : Prop :=
  ∀ (m : Mem) (op : DotOp) (r c : Nat) (a : Acc),
    op.fmtA ∈ [Fmt.fp16, .e4m3, .e5m2] → op.fmtB ∈ [Fmt.fp16, .e4m3, .e5m2] →
    (∀ j, j < op.k → (elemAt m op.fmtA op.addrA (r * op.k + j)).special = false ∧
      (elemAt m op.fmtB op.addrB (c * op.k + j)).special = false) →
    dotAcc m op r c a =
      ({ a with a := a.a + BitVec.ofInt 192 (((List.range op.k).map (fun j =>
          scaled 56 (elemAt m op.fmtA op.addrA (r * op.k + j)) * scaled 56 (elemAt m op.fmtB op.addrB (c * op.k + j)))).sum) },
       false)

/-- An accumulator leaves the tile as four words, A in the first three and its flags in the fourth, and two partials combine
by adding their A fields modulo 2^192, joining their flags and ORing their window bits (R77, R80). Combining is commutative
and associative, and the empty accumulator changes nothing: the result does not rest on the order of combination (R147). -/
def Obligations.PartialsCombineInAnyOrder : Prop :=
  (∀ x : Acc, ∃ w0 w1 w2 w3 : Word, x.words = [w0, w1, w2, w3] ∧ w0.toNat + w1.toNat * 2 ^ 64 + w2.toNat * 2 ^ 128 = x.a.toNat ∧
    ∀ i, w3.getLsbD i = if i = 0 then x.nan else if i = 1 then x.pinf else if i = 2 then x.ninf else if i = 3 then x.win else false) ∧
    (∀ x y : Acc, let c := Acc.combine x y
      c.a.toNat = (x.a.toNat + y.a.toNat) % 2 ^ 192 ∧ c.win = (x.win || y.win) ∧ c.pinf = (x.pinf || y.pinf) ∧ c.ninf = (x.ninf || y.ninf) ∧
      c.nan = (x.nan || y.nan || ((x.pinf || y.pinf) && (x.ninf || y.ninf)))) ∧
    (∀ x y : Acc, Acc.combine x y = Acc.combine y x) ∧
    (∀ x y z : Acc, Acc.combine (Acc.combine x y) z = Acc.combine x (Acc.combine y z)) ∧
    (∀ x : Acc, (x.pinf = true ∧ x.ninf = true → x.nan = true) → Acc.combine x Acc.zero = x) ∧
    (∀ x : Acc, Acc.ofWords x.words = x)

/-! ### Sparse instructions (R86 to R116, R503) -/

/-- The sparse dot product, the check unit and the instructions that build and unpack operands complete on a tile that
issues them where their checks pass; the tile alone changes (R86, R96, R97, R101, R503).

On the sparse path the tile waits for its lanes after a sparse dot product; on the dense path it has its result and goes
on.

Model's choices and readings it rests on: log entries 19, 118. -/
def Obligations.SparseInstructionsRun : Prop :=
  ∀ (s : State) (c : Coord), Ready s c.key →
    (∀ (op : SparseOp) (d : Desc), legalSparse op = true → metaCheck (s.tile c.key).sram op.desc (askOf op) = .ok d →
      Runs (.sparseDot c op) s (TileBecomes c.key (sparseTile op d (s.tile c.key)) s) ∧
      Runs (.metadataCheck c op) s (TileBecomes c.key { s.tile c.key with checked := some op.desc } s)) ∧
    (∀ op : BuildOp, let m := (s.tile c.key).sram
      let br := ceilDiv op.rows 4
      let bc := ceilDiv op.cols 4
      buildChecks s24 br bc [op.src, op.desc, op.metaA, op.value] (s24Spans op br bc) = none →
      (groupFault bc (denseMask m op bc) (br * bc) 0 = none →
        Runs (.s24Compress c op) s
          (TileBecomes c.key (putS24 c.key op br bc (denseMask m op bc) (s.tile c.key)).advance s)) ∧
      (∀ d, metaCheck m op.descIn (maskAsk op) = .ok d → d.brows = br → d.bcols = bc →
        Runs (.s24MaskedCompress c op) s
          (TileBecomes c.key (putS24 c.key op br bc (trimMask op.rows op.cols bc (maskOf m d)) (s.tile c.key)).advance s))) ∧
    (∀ (op : DecompOp) (d : Desc) (kind : Nat),
      metaCheck (s.tile c.key).sram op.desc { kind := some kind, fmt := op.fmt, trans := false, dot := none } = .ok d →
      buildChecks kind d.brows d.bcols [op.desc, op.dst]
        [(op.dst, tensorBytes op.fmt (d.rows false * d.cols false))] = none →
      let x := copyElems c.key (s.tile c.key) op.fmt d.value op.dst
        ((List.range (d.rows false * d.cols false)).map (fun i =>
          sparseAt (s.tile c.key).sram d false (i / d.cols false) (i % d.cols false)))
      (kind = s24 → Runs (.s24Decompress c op) s (TileBecomes c.key x.advance s)) ∧
      (kind = bsr → Runs (.bsrDecompress c op) s (TileBecomes c.key x.advance s)))

/-- BSR_BUILD completes on a dense matrix whose operand fits: its descriptor, read back, says KIND 2, the format and the
number of block rows and columns, and the tile goes on (R88, R96).

An S24 compress leaves a descriptor that says KIND 1, the format and the block rows and columns (R88, R96).

Model's choices and readings it rests on: log entry 21. -/
def Obligations.BuiltOperands : Prop :=
  (∀ (s : State) (c : Coord) (op : BuildOp), Ready s c.key →
    let m := (s.tile c.key).sram
    let br := ceilDiv op.rows 8
    let bc := ceilDiv op.cols 8
    let blocks := (List.range br).map (presentBlocks m op bc)
    let nnz := (blocks.map List.length).sum
    let nseg := (blocks.map (fun l => ceilDiv l.length op.segLen)).sum
    let pad := 64 * nnz
    buildChecks bsr br bc [op.src, op.desc, op.metaA, op.index, op.value]
      [(op.src, tensorBytes op.fmt (op.rows * op.cols)), (op.desc, 32), (op.metaA, 8 * nseg),
       (op.index, roundUp (2 * nnz) 8),
       (op.value, if op.fmt.isTine then ceilDiv nnz 2 * tineLine op.fmt else pad * op.fmt.bytes)] = none →
    Runs (.bsrBuild c op) s (fun t =>
      (readDesc (t.tile c.key).sram op.desc).kind = bsr ∧ (readDesc (t.tile c.key).sram op.desc).fmt = fmtCode op.fmt ∧
      (readDesc (t.tile c.key).sram op.desc).brows = br ∧ (readDesc (t.tile c.key).sram op.desc).bcols = bc ∧
      (t.tile c.key).pc = (s.tile c.key).advance.pc ∧ (t.tile c.key).accs = (s.tile c.key).accs ∧
      TilesBut c.key s t ∧ KeepsBut [.tiles] s t)) ∧
  (∀ (key : Nat) (op : BuildOp) (br bc : Nat) (mask : Nat → Nat) (t : Tile),
    buildChecks s24 br bc [op.src, op.desc, op.metaA, op.value] (s24Spans op br bc) = none →
    let d := readDesc (putS24 key op br bc mask t).sram op.desc
    d.kind = s24 ∧ d.fmt = fmtCode op.fmt ∧ d.brows = br ∧ d.bcols = bc)

/-- A sparse dot product into accumulators is the dense one with +0 at every absent position, for a B with no infinity
and no NaN (R92, R107): structural zeros add nothing. -/
def Obligations.SparseDotIsDenseDot : Prop :=
  ∀ (m : Mem) (d : Desc) (op : SparseOp) (r c : Nat) (a : Acc),
    (∀ j, j < op.k → (elemAt m op.fmtB op.addrB (c * op.k + j)).special = false) →
    sparseAcc m d op r c a = (List.range op.k).foldl (fun st j =>
      let p := st.1.product ((sparseElem m d op.fmtA op.transposed r j).getD (.fin false 0 0))
        (elemAt m op.fmtB op.addrB (c * op.k + j))
      (p.1, st.2 || p.2)) (a, false)

/-- SEGMENT_DONE: lane i of eight starts with segments floor(i S / 8) to floor((i + 1) S / 8) - 1 and runs them in ascending
order (R105); a lane that has merged its segment goes on with its own list; with none left it asks lanes i + 1 to i + 7, modulo
8, takes the last ceil(r / 2) of the first r unstarted segments it finds, runs them in ascending order and counts the steal, or
retires (R106), unless stealing was off when the instruction began (R109, R114); a started segment never moves, and no
segment is lost or run twice (R107). The partial of the segment is merged exactly into the accumulators of its outputs and
nothing else of them changes (R108, R109). While a lane runs a segment the tile waits; when none does it goes on.

Model's choices and readings it rests on: log entries 23, 117, 118. -/
def Obligations.LanesShareSegments : Prop :=
  (∀ (x : SparseRun) (n : Nat), (dealLanes x n).length = 8 ∧ (dealLanes x n).flatMap laneSegs = List.range n ∧
      ∀ i < 8, ((dealLanes x n)[i]?).map laneSegs = some ((List.range n).filter (fun g => decide (i * n / 8 ≤ g ∧ g < (i + 1) * n / 8)))) ∧
    (∀ (t : Tile) (x : SparseRun) (i g : Nat) (l : Lane), i < 8 → t.lanes.length = 8 → t.sparseRun = some x →
      t.lanes[i]? = some l → l.current = some g →
      (∀ y r, l.todo = y :: r → (laneDone t i).lanes = t.lanes.set i
        { current := some y, partial_ := segPartial x y, todo := r, merged := l.merged + 1 }) ∧
      (l.todo = [] → x.steal = false ∨ (∀ v < 8, ∀ m, t.lanes[v]? = some m → m.todo = []) →
        (laneDone t i).lanes = t.lanes.set i { l with current := none, partial_ := noPartial, merged := l.merged + 1 }) ∧
      (∀ j m, l.todo = [] → x.steal = true → 1 ≤ j → j < 8 →
        (∀ j', 1 ≤ j' → j' < j → ∀ m', t.lanes[(i + j') % 8]? = some m' → m'.todo = []) → t.lanes[(i + j) % 8]? = some m → m.todo ≠ [] →
        (((laneDone t i).lanes[i]?).map laneSegs = some (m.todo.drop (m.todo.length / 2)) ∧
          (laneDone t i).lanes[(i + j) % 8]? = some { m with todo := m.todo.take (m.todo.length / 2) } ∧
          (∀ k, k ≠ i → k ≠ (i + j) % 8 → (laneDone t i).lanes[k]? = t.lanes[k]?) ∧
          bits (laneDone t i).sparseStat.toNat 63 48 = min (bits t.sparseStat.toNat 63 48 + 1) 0xFFFF))) ∧
    (∀ (s : State) (c : Coord) (i : Fin 8),
      Runs (.segmentDone c i) s (TileBecomes c.key (laneDone (s.tile c.key) i.val) s)) ∧
    (∀ (t : Tile) (x : SparseRun) (i g : Nat) (l : Lane), i < 8 → t.sparseRun = some x → t.lanes[i]? = some l →
      l.current = some g →
      let u := laneDone t i
      (u.lanes.flatMap laneSegs ++ [g]).Perm (t.lanes.flatMap laneSegs) ∧
        (u.lanes[i]?).map Lane.merged = some (l.merged + 1) ∧
        (∀ k < 32, u.acc k = (l.partial_.accs.filter (fun e => decide ((x.op.acc + e.1) % 32 = k))).foldl
          (fun a e => Acc.combine a e.2) (t.acc k)) ∧
        (treeFmt x.op.fmtA = false → u.sram = t.sram) ∧
        (treeFmt x.op.fmtA = true → BytesBut x.op.dst (4 * (x.desc.rows x.op.transposed * x.op.n)) t.sram u.sram) ∧
        (u.lanes.any (fun m => m.current.isSome) = true → u.pc = t.pc ∧ u.wait = t.wait) ∧
        (u.lanes.any (fun m => m.current.isSome) = false → u.pc = t.advance.pc ∧ u.wait = .none ∧ u.sparseRun = none))

/-! ### The sequencer (R51, R52, R56, R122, R361, R369) -/

/-- The sequencer's own instructions complete on a tile that issues them, with its herd controller at rest: HALT ends the
program, a barrier point with no barrier asked for is passed (on a herd that is not FAULTED; on a FAULTED one the tile
stops there and stays, R100), a wait goes on or waits, a counter is set or read, a take
waits for its item.

A tile that runs no program, or waits, executes nothing: a command for one of its instructions changes nothing
(log entry 3). -/
def Obligations.SequencerInstructionsRun : Prop :=
  (∀ (s : State) (c : Coord), Ready s c.key →
    let x := s.tile c.key
    (AtRest s (herdOfKey c.key) →
      Runs (.haltInstruction c) s (TileBecomes c.key { x with run := .finished } s) ∧
      Runs (.epochBarrierPoint c) s (TileBecomes c.key
        (if (s.herd (herdOfKey c.key)).st = .faulted then { x.advance with run := .atBarrier } else x.advance) s)) ∧
    (∀ (k : Fin 16) (n : BitVec 32),
      Runs (.arrivalWait c k n) s (TileBecomes c.key
        (if n ≤ NatMap.get x.ctrs 0 k.val then x.advance else { x with wait := .arrival k.val n }) s)) ∧
    (∀ (k r : Fin 16) (v : BitVec 32),
      Runs (.counterSet c k r (some v)) s (fun t => (∀ j, NatMap.get (t.tile c.key).ctrs 0 j =
          if j = k.val then v else NatMap.get x.ctrs 0 j) ∧
        TileBecomes c.key { x.advance with ctrs := (t.tile c.key).ctrs } s t) ∧
      Runs (.counterSet c k r none) s (fun t => (∀ j, (t.tile c.key).sreg j =
          if j = r.val then BitVec.ofNat 64 (NatMap.get x.ctrs 0 k.val).toNat else x.sreg j) ∧
        TileBecomes c.key { x.advance with sregs := (t.tile c.key).sregs } s t)) ∧
    (∀ (n : StreamNo) (d : BitVec 16),
      Runs (.journalTake c n d) s (TileBecomes c.key { x with wait := .take n.val d.toNat } s))) ∧
  (∀ (s : State) (c : Coord), (s.tile c.key).active = false →
    exec (.haltInstruction c) s = .next s ∧ exec (.epochBarrierPoint c) s = .next s ∧
    (∀ op, exec (.dotProduct c op) s = .next s) ∧ (∀ op, exec (.outputConversion c op) s = .next s) ∧
    (∀ op, exec (.accumulatorOutput c op) s = .next s) ∧ (∀ op, exec (.accumulatorLoad c op) s = .next s) ∧
    (∀ op, exec (.vectorOperation c op) s = .next s) ∧ (∀ op, exec (.tineEncode c op) s = .next s) ∧
    (∀ op, exec (.sparseDot c op) s = .next s) ∧ (∀ op, exec (.metadataCheck c op) s = .next s) ∧
    (∀ op, exec (.s24Compress c op) s = .next s) ∧ (∀ op, exec (.s24MaskedCompress c op) s = .next s) ∧
    (∀ op, exec (.s24Decompress c op) s = .next s) ∧ (∀ op, exec (.bsrDecompress c op) s = .next s) ∧
    (∀ op, exec (.bsrBuild c op) s = .next s) ∧ (∀ op, exec (.sendPacket c op) s = .next s) ∧
    (∀ op, exec (.readReq c op) s = .next s) ∧ (∀ k n, exec (.arrivalWait c k n) s = .next s) ∧
    (∀ k r v, exec (.counterSet c k r v) s = .next s) ∧ (∀ n d, exec (.journalTake c n d) s = .next s) ∧
    (∀ op, exec (.scalarInstruction c op) s = .next s))

/-- Each scalar instruction that is not reserved completes: a load reads eight bytes of data SRAM, a store writes them and
nothing else, a store into program SRAM does nothing, a jump sets the program counter, a register read or write reaches
the tile register, and an operation of two registers writes one register with a free value (R50, R51, R57, R502; the
result of the operation is free, log entry 20).

Model's choices and readings it rests on: log entries 12, 20. -/
def Obligations.ScalarInstructionsRun : Prop :=
  ∀ (s : State) (c : Coord), Ready s c.key →
    let x := s.tile c.key
    (∀ dst a b, Runs (.scalarInstruction c (.alu dst a b)) s (fun t =>
      (∀ j, j ≠ dst.val → (t.tile c.key).sreg j = x.sreg j) ∧
        TileBecomes c.key { x.advance with sregs := (t.tile c.key).sregs } s t)) ∧
    (∀ dst addr, Runs (.scalarInstruction c (.load dst addr)) s (fun t =>
      (∀ j, (t.tile c.key).sreg j = if j = dst.val then BitVec.ofNat 64 (leNat (sramRead x.sram addr 8)) else x.sreg j) ∧
        TileBecomes c.key { x.advance with sregs := (t.tile c.key).sregs } s t)) ∧
    (∀ src addr, addr + 8 ≤ sramSize → Runs (.scalarInstruction c (.store src addr)) s (fun t =>
      leNat (Mem.read (t.tile c.key).sram addr 8) = (x.sreg src.val).toNat ∧
        BytesBut addr 8 x.sram (t.tile c.key).sram ∧ (t.tile c.key).accs = x.accs ∧ (t.tile c.key).sregs = x.sregs ∧
        (t.tile c.key).pc = x.advance.pc ∧ TilesBut c.key s t ∧ KeepsBut [.tiles] s t)) ∧
    (∀ src addr, Runs (.scalarInstruction c (.storeProgram src addr)) s (TileBecomes c.key x.advance s)) ∧
    (∀ target, Runs (.scalarInstruction c (.jump target)) s (TileBecomes c.key { x with pc := target % 2048 } s)) ∧
    (∀ dst off, Runs (.scalarInstruction c (.readReg dst off)) s (fun t =>
      (∀ j, (t.tile c.key).sreg j = if j = dst.val then (x.readReg off.toNat).2 else x.sreg j) ∧
        TileBecomes c.key { (x.readReg off.toNat).1.advance with sregs := (t.tile c.key).sregs } s t)) ∧
    (∀ src off, Runs (.scalarInstruction c (.writeReg src off)) s
      (TileBecomes c.key (x.writeReg off.toNat (x.sreg src.val) fullMask).advance s))

/-- A SEND_PACKET of a kind that a tile may send and a READ_REQ below the eighth put one packet into the sender's router
and let the program go on; its payload is words of data SRAM, or accumulators of four words each (R80). A READ_REQ, by
whichever instruction it is sent, counts as outstanding, and while eight are it waits (R120, R123, R124, R155).

Model's choices and readings it rests on: log entry 12. -/
def Obligations.PacketsAreSent : Prop :=
  ∀ (s : State) (c : Coord), Ready s c.key →
    let x := s.tile c.key
    let at_ := s.physOf c.key
    let sent (p : Packet) (y : Tile) (t : State) : Prop :=
      t.tile c.key = y ∧ TilesBut c.key s t ∧ KeepsBut [.tiles, .mesh] s t ∧
      t.mesh = { s.mesh with flights := s.mesh.flights ++ [
        { pkt := p, loc := .router at_.1 at_.2 .local_, poisoned := false }] }
    let pktOf (op : SendOp) (ws : List Word) : Packet :=
      { dx := op.dx.toNat, dy := op.dy.toNat, edge := op.edge, kind := op.kind.toNat, addr := op.addr.toNat
        ctr := op.ctr.toNat, tag := op.tag.toNat, src := .tile c.key, payload := ws }
    let askOf (op : ReadOp) : Packet :=
      { dx := op.stack.val, dy := 0, edge := true, kind := 0x1, addr := op.dst.toNat, ctr := op.ctr.toNat
        tag := op.tag.toNat, src := .tile c.key, payload := [BitVec.ofNat 64 (op.addr.toNat + op.lines.toNat * 2 ^ 40)] }
    let read (p : Packet) : Tile := { x.advance with reads := x.reads ++ [⟨p.tag, false⟩], wait := .none }
    let words (op : SendOp) (ws : List Word) : Prop :=
      match op.src with
      | .sram a => ws = (List.range op.len.toNat).map (fun i => BitVec.ofNat 64 (leNat (sramRead x.sram (a + 8 * i) 8)))
      | .accs first => ws.length = op.len.toNat ∧
          ∀ i, i < op.len.toNat → ws[i]? = (x.acc (first.val + i / 4)).words[i % 4]?
    (∀ (op : SendOp) (ws : List Word), tileKind op.kind.toNat = true → words op ws →
      (op.kind ≠ 1 → Runs (.sendPacket c op) s (sent (pktOf op ws) x.advance)) ∧
      (op.kind = 1 → x.reads.length < 8 → Runs (.sendPacket c op) s (sent (pktOf op ws) (read (pktOf op ws)))) ∧
      (op.kind = 1 → 8 ≤ x.reads.length →
        Runs (.sendPacket c op) s (TileBecomes c.key { x with wait := .readSlot (pktOf op ws) } s))) ∧
    (∀ op : ReadOp,
      (x.reads.length < 8 → Runs (.readReq c op) s (sent (askOf op) (read (askOf op)))) ∧
      (8 ≤ x.reads.length → Runs (.readReq c op) s (TileBecomes c.key { x with wait := .readSlot (askOf op) } s)))

/-! ### Faults of a tile and its registers (R53, R57, R99, R100, R116, R502) -/

/-- An illegal instruction, a sparse operand that fails its check and a double-bit error halt the tile, put its herd in
FAULTED and raise one record, and nothing else changes (the herd controller at rest). The record of an illegal
instruction holds the instruction index and word; a sparse fault register that holds no fault takes this one.

A window write of HRD_TILE_STEP sets STEP and clears SEQ, and one of VALID clears HRD_TILE_SPARSE_FAULT; where the
tile's herd is DARK or absent the write is dropped and WIN_ERR is set (R57, R68, R116, R144).

Model's choices and readings it rests on: log entries 10, 22. -/
def Obligations.TileFaultsAndRegisters : Prop :=
  (∀ (s : State) (c : Coord), AtRest s (herdOfKey c.key) →
    let x := s.tile c.key
    let illegal := x.pc % 2048 + x.instrWord * 2 ^ 32
    (Ready s c.key →
      (∀ op : DotOp, legalPair op.fmtA op.fmtB = false →
        Runs (.dotProduct c op) s (TileFaulted c.key Code.tileIllegalInstr illegal s)) ∧
      Runs (.scalarInstruction c .reserved) s (TileFaulted c.key Code.tileIllegalInstr illegal s) ∧
      (∀ op : SendOp, tileKind op.kind.toNat = false →
        Runs (.sendPacket c op) s (TileFaulted c.key Code.tileIllegalInstr illegal s)) ∧
      (∀ op : SparseOp, legalSparse op = false →
        Runs (.sparseDot c op) s (TileFaulted c.key Code.tileIllegalInstr illegal s)) ∧
      (∀ (op : SparseOp) (f : SFault), legalSparse op = true → metaCheck x.sram op.desc (askOf op) = .error f →
        Runs (.sparseDot c op) s (fun t => TileFaulted c.key f.code
            (f.brow + f.bcol * 2 ^ 16 + f.sub * 2 ^ 32 + f.kind * 2 ^ 40 + f.seg * 2 ^ 48) s t ∧
          (t.tile c.key).sram = x.sram ∧ (t.tile c.key).accs = x.accs ∧ (t.tile c.key).pc = x.pc ∧
          (t.tile c.key).sparseFault = (if bit x.sparseFault.toNat 24 then x.sparseFault
            else BitVec.ofNat 64 (f.code + f.sub * 2 ^ 16 + 2 ^ 24 + f.brow * 2 ^ 32 + f.bcol * 2 ^ 48))))) ∧
    (x.readReg 0x138).2 = x.sparseFault ∧
    (x.active = true → NatMap.find x.bad (sramWords + x.pc / 2) = some 2 →
      Runs (.haltInstruction c) s (TileFaulted c.key Code.tileEccUncorr 0 s))) ∧
  (∀ (s : State) (c : Coord),
    let x := s.tile c.key
    let h := herdOfKey c.key
    ((s.herd h).st ≠ .dark → s.herdPresent h = true →
      (∀ v : BitVec 32, Runs (.hrdTileStepWrite c v) s
        (TileBecomes c.key { x with step := BitVec.ofNat 64 v.toNat } s)) ∧
      Runs (.hrdTileSparseFaultClear c) s (TileBecomes c.key { x with sparseFault := 0 } s)) ∧
    ((s.herd h).st = .dark ∨ s.herdPresent h = false →
      (∀ v : BitVec 32, Runs (.hrdTileStepWrite c v) s (fun t =>
        t.rd Reg.HRD_CMD_STATUS_WIN_ERR = 1 ∧ RegsBut [Reg.HRD_CMD_STATUS] s t ∧ KeepsBut [.regs] s t)) ∧
      Runs (.hrdTileSparseFaultClear c) s (fun t =>
        t.rd Reg.HRD_CMD_STATUS_WIN_ERR = 1 ∧ RegsBut [Reg.HRD_CMD_STATUS] s t ∧ KeepsBut [.regs] s t)))

/-! ### Registers (R17 to R21) -/

/-- A 64-bit or 32-bit write of a register that only stores fields: each field takes the written bits under its access
type, within its accepted values, a 32-bit write reaching its half alone; nothing else changes (R18, R19).

Model's choices and readings it rests on: log entry 51. -/
def Obligations.RegisterWriteStoresFields : Prop :=
  ∀ (s : State) (off : BitVec 26) (r : RegRow) (i : Nat), Linked s → plainReg off.toNat = true → off.toNat % 8 = 0 →
    rowAt off.toNat = some (r, i) → s.blkOn off.toNat = true →
    let stored (w mask : Nat) (t : State) : Prop := RegsBut [off.toNat] s t ∧ KeepsBut [.regs] s t ∧
      ∀ f ∈ r.fields, bits (t.reg off.toNat).toNat f.hi f.lo = written s off.toNat w mask f
    (∀ v, Runs (.registerWrite (.write64 off v)) s (stored v.toNat (2 ^ 64 - 1))) ∧
      (∀ v, Runs (.registerWrite (.write32 off v)) s (stored v.toNat (2 ^ 32 - 1))) ∧
      (∀ v, Runs (.registerWrite (.write32 (off + 4) v)) s (stored (v.toNat * 2 ^ 32) ((2 ^ 32 - 1) * 2 ^ 32)))

/-- A 64-bit read of a register returns its value and clears its RC fields and no other; a 32-bit read returns one half
and clears nothing (R18, R19). TIME_NOW, PWR_CAL_DATA and HRD_WIN_DATA, which do more, have statements of their own.

Model's choices and readings it rests on: log entry 51. -/
def Obligations.RegisterReads : Prop :=
  ∀ (s : State) (off : BitVec 26), Linked s → off.toNat % 8 = 0 →
    off.toNat ∉ [Reg.TIME_NOW, Reg.PWR_CAL_DATA, Reg.HRD_WIN_DATA] →
    (s.blkOn off.toNat = true → Runs (.registerWrite (.read64 off)) s (fun t =>
      t.io.out = s.io.out ++ [.read (leBytes 8 (s.peek off.toNat))] ∧ t.io.events = s.io.events ∧
      (∀ f ∈ rcFields off.toNat, bits (t.reg off.toNat).toNat f.hi f.lo = 0) ∧
      (∀ r i, rowAt off.toNat = some (r, i) → ∀ f ∈ r.fields, f.acc ≠ .rc →
        bits (t.reg off.toNat).toNat f.hi f.lo = bits (s.reg off.toNat).toNat f.hi f.lo) ∧
      RegsBut [off.toNat] s t ∧ KeepsBut [.regs, .io] s t)) ∧
    (∀ b : Bool, Runs (.registerWrite (.read32 (if b then off + 4 else off))) s (fun t =>
      t.io.out = s.io.out ++ [.read (leBytes 4 (if b then s.peek off.toNat / 2 ^ 32 else s.peek off.toNat % 2 ^ 32))] ∧
      t.io.events = s.io.events ∧ KeepsBut [.io] s t))

/-- A BAR0 offset that no register occupies, and a register of a block whose domain is dark, read as 0 and take no write
(R20, R27, R428).

Model's choices and readings it rests on: log entry 50. -/
def Obligations.NoRegisterNoEffect : Prop :=
  ∀ (s : State) (off : BitVec 26) (v : Word), Linked s → off.toNat % 8 = 0 →
    (rowAt off.toNat).isNone = true ∨ s.blkOn off.toNat = false →
    exec (.registerWrite (.write64 off v)) s = .next s ∧
      Runs (.registerWrite (.read32 off)) s (fun t =>
        t.io.out = s.io.out ++ [.read [0, 0, 0, 0]] ∧ t.io.events = s.io.events ∧ KeepsBut [.io] s t) ∧
      Runs (.registerWrite (.read64 off)) s (fun t =>
        t.io.out = s.io.out ++ [.read [0, 0, 0, 0, 0, 0, 0, 0]] ∧ t.io.events = s.io.events ∧ RegsBut [] s t ∧
        KeepsBut [.regs, .io] s t)

/-- Three kinds of access complete without effect: a write of these kinds changes nothing, a read of these kinds returns
all zeros and clears nothing (R19). Without the PCI Express link no host command has any effect (R400). -/
def Obligations.UnsupportedAccesses : Prop :=
  (∀ (s : State) (a : BadAccess), Linked s → a.write = true → exec (.unsupportedAccess a) s = .next s) ∧
    (∀ (s : State) (a : BadAccess), Linked s → a.write = false → Runs (.unsupportedAccess a) s (fun t =>
      t.io.out = s.io.out ++ [.read (List.replicate (a.bits / 8) 0)] ∧ t.io.events = s.io.events ∧ KeepsBut [.io] s t)) ∧
    (∀ s : State, s.host.linkUp = false →
      (∀ a, exec (.registerWrite a) s = .next s) ∧ (∀ a, exec (.unsupportedAccess a) s = .next s) ∧
      (∀ n p, exec (.submitDoorbell n p) s = .next s) ∧ (∀ n p, exec (.transmitDoorbell n p) s = .next s) ∧
      (∀ r c, exec (.consWrite r c) s = .next s) ∧ (∀ r q, exec (.ringEnable r q) s = .next s) ∧
      (∀ m n, exec (.post m n) s = .next s) ∧ (∀ v, exec (.glbModeWrite v) s = .next s) ∧
      (∀ h, exec (.herdReset h) s = .next s) ∧ (∀ m, exec (.portReset m) s = .next s))

/-- BAR2 outside the ring directory holds bytes: a write of ring space changes the bytes it covers and nothing else, a
read returns them, and the part of BAR2 that is assigned to nothing reads 0 and takes no write (R463).

Ring indexes: a doorbell moves PROD of a ring the host produces where the ring would hold no more than its size, a
CONS write moves CONS of a ring the host consumes forward by no more than PROD - CONS, and any other write is ignored;
EN is set where the record is complete (R465, R466). No other ring and nothing else changes.

Model's choices and readings it rests on: log entry 54. -/
def Obligations.BytesAndRings : Prop :=
  (∀ (s : State) (off : BitVec 30) (bytes : List Byte), Linked s →
    (0x100_0000 ≤ off.toNat → off.toNat + bytes.length ≤ 2 ^ 30 → Runs (.registerWrite (.bar2Write off bytes)) s (fun t =>
      Mem.read t.host.bar2 off.toNat bytes.length = bytes ∧ BytesBut off.toNat bytes.length s.host.bar2 t.host.bar2 ∧
      t.host = { s.host with bar2 := t.host.bar2 } ∧ KeepsBut [.host] s t)) ∧
    (0x100_0000 ≤ off.toNat → ∀ n, Runs (.registerWrite (.bar2Read off n)) s (fun t =>
      t.io.out = s.io.out ++ [.read (Mem.read s.host.bar2 off.toNat n)] ∧ t.io.events = s.io.events ∧ KeepsBut [.io] s t)) ∧
    (0x19_4040 ≤ off.toNat → off.toNat < 0x20_0000 → exec (.registerWrite (.bar2Write off bytes)) s = .next s ∧
      ∀ n, Runs (.registerWrite (.bar2Read off n)) s (fun t =>
        t.io.out = s.io.out ++ [.read (List.replicate n 0)] ∧ t.io.events = s.io.events ∧ KeepsBut [.io] s t))) ∧
  (∀ s : State, Linked s →
    let only (k : RingKind) (i : Nat) (r : Ring) (t : State) : Prop := t.ring k i = r ∧ RingsBut k i s t ∧
      t.host = { s.host with rings := t.host.rings } ∧ KeepsBut [.host] s t
    (∀ (n : Fin 4096) p, Runs (.submitDoorbell n p) s (only .submit n
      (let r := s.ring .submit n
       if (p - r.cons).toNat ≤ r.size then { r with prod := p } else r))) ∧
    (∀ (n : Fin 256) p, Runs (.transmitDoorbell n p) s (only .transmit n
      (let r := s.ring .transmit n
       if (p - r.cons).toNat ≤ r.size then { r with prod := p } else r))) ∧
    (∀ (r : RingId) c, r.wf = true → Runs (.consWrite r c) s (only r.kind r.idx
      (let x := s.ring r.kind r.idx
       if r.kind ≠ .submit ∧ r.kind ≠ .transmit ∧ (c - x.cons).toNat ≤ x.held then { x with cons := c } else x))) ∧
    (∀ (r : RingId) irq, r.wf = true → Runs (.ringEnable r irq) s (fun t =>
      only r.kind r.idx (t.ring r.kind r.idx) t ∧
      let x := s.ring r.kind r.idx
      (t.ring r.kind r.idx).en = (x.en || s.ringValid r.kind (if r.kind = .event then x else { x with irq := irq })) ∧
      (t.ring r.kind r.idx).irq = (if r.kind = .event then x.irq else irq) ∧
      (t.ring r.kind r.idx).prod = x.prod ∧ (t.ring r.kind r.idx).cons = x.cons)))

/-! ### Rings, mailboxes, messages, harvest (R465 to R478) -/

/-- Mailboxes: POST takes a length of 1 to 32,768 while BUSY is 0 and sets REJECTED otherwise; a reply to a request that
the firmware holds sets REPLY and RLEN, clears BUSY and signals vector 2 + m; 2 s without one set EXPIRED and clear BUSY,
and a reply that comes later is discarded, as is one pending across a restart of the firmware (R471).

Event records and messages: the oldest event goes into the event ring and asks for vector 0 (with STOP, vector 1 as
well), or is counted in GLB_EVENT_LOST where the ring is full; a source's message goes out at once or is held back within
1 us of its last one, and goes out when that time has passed (R466, R472, R473, R487). -/
def Obligations.MailboxesAndMessages : Prop :=
  (∀ (s : State) (m : MailNo),
    let busy (t : State) : Nat := t.rd (Reg.MBX_STAT_BUSY m)
    (Linked s → ∀ len : BitVec 17,
      (busy s = 0 ∧ 1 ≤ len.toNat ∧ len.toNat ≤ 32768 → Runs (.post m len) s (fun t => busy t = 1 ∧
        NatMap.find t.host.mailLen m = some len.toNat ∧ RegsBut [Reg.MBX_STAT m] s t ∧ KeepsBut [.regs, .host] s t)) ∧
      (¬(busy s = 0 ∧ 1 ≤ len.toNat ∧ len.toNat ≤ 32768) → Runs (.post m len) s (fun t => busy t = busy s ∧
        t.rd (Reg.MBX_STAT_REJECTED m) = 1 ∧ RegsBut [Reg.MBX_STAT m] s t ∧ KeepsBut [.regs] s t))) ∧
    (busy s = 1 → (NatMap.find s.host.mailLen m).isSome = true → s.pdOn 90 = true →
      ∀ reply : List Byte, reply.length ≤ 32768 → Runs (.mailboxReply m reply) s (fun t => busy t = 0 ∧
        t.rd (Reg.MBX_STAT_REPLY m) = 1 ∧ t.rd (Reg.MBX_STAT_RLEN m) = reply.length ∧
        t.io.out = s.io.out ++ [.msix (2 + m)] ∧ t.io.events = s.io.events ∧
        Mem.read t.host.bar2 (m * 0x1_0000 + 0x8000) reply.length = reply ∧
        RegsBut [Reg.MBX_STAT m] s t ∧ KeepsBut [.regs, .host, .io] s t)) ∧
    (busy s = 0 ∨ NatMap.find s.host.mailLen m = none → ∀ reply, exec (.mailboxReply m reply) s = .next s) ∧
    (busy s = 1 → Runs (.mailboxExpire m) s (fun t => busy t = 0 ∧ t.rd (Reg.MBX_STAT_EXPIRED m) = 1 ∧
      NatMap.find t.host.mailLen m = none ∧ RegsBut [Reg.MBX_STAT m] s t ∧ KeepsBut [.regs, .host] s t)) ∧
    Runs .mgmtWatchdog s (fun t => NatMap.find t.host.mailLen m = none)) ∧
  ((∀ (s : State) (e : Event) (rest : List Event), s.io.events = e :: rest → (s.ring .event 0).full = false →
    Runs .eventRecord s (fun t => t.io.events = rest ∧ (t.ring .event 0).prod = (s.ring .event 0).prod + 1 ∧
      (t.ring .event 0).cons = (s.ring .event 0).cons ∧ .event ∈ t.host.msixQ ∧ (e.stop = true → .stop ∈ t.host.msixQ) ∧
      t.host.bar2 = Mem.write s.host.bar2 ((s.ring .event 0).entry .event (s.ring .event 0).prod) e.bytes ∧
      t.io.out = s.io.out ∧ KeepsBut [.host, .io] s t)) ∧
  (∀ (s : State) (e : Event) (rest : List Event), s.io.events = e :: rest → (s.ring .event 0).full = true →
    Runs .eventRecord s (fun t => t.io.events = rest ∧ (t.ring .event 0) = (s.ring .event 0) ∧
      t.host.bar2 = s.host.bar2 ∧ t.rd Reg.GLB_EVENT_LOST_COUNT = min (s.rd Reg.GLB_EVENT_LOST_COUNT + 1) 0xFFFF_FFFF ∧
      t.rd Reg.GLB_EVENT_LOST_LAST_CODE = e.code % 2 ^ 16 ∧ t.rd Reg.GLB_EVENT_LOST_VALID = 1 ∧
      RegsBut [Reg.GLB_EVENT_LOST] s t ∧ KeepsBut [.regs, .host, .io] s t)) ∧
  (∀ (s : State) (m : MsixSrc) (rest : List MsixSrc), s.host.msixQ = m :: rest →
    (s.host.limited.any (fun e => decide (e.1 = m)) = false → Runs .msixSignal s (fun t =>
      t.host.msixQ = rest ∧ t.io.out = s.io.out ++ [.msix (s.vector m)] ∧ (m, false) ∈ t.host.limited ∧
      t.io.events = s.io.events ∧ KeepsBut [.host, .io] s t)) ∧
    (s.host.limited.any (fun e => decide (e.1 = m)) = true → Runs .msixSignal s (fun t =>
      t.host.msixQ = rest ∧ (m, true) ∈ t.host.limited ∧ t.host.limited.length = s.host.limited.length ∧
      KeepsBut [.host] s t))) ∧
  (∀ (s : State) (m : MsixSrc), Runs (.msixHoldoffExpire m) s (fun t =>
    ((m, true) ∈ s.host.limited → t.io.out = s.io.out ++ [.msix (s.vector m)] ∧ (m, false) ∈ t.host.limited) ∧
    ((m, true) ∉ s.host.limited → t.io.out = s.io.out ∧ ∀ b, (m, b) ∉ t.host.limited) ∧
    (∀ m' b, m' ≠ m → ((m', b) ∈ t.host.limited ↔ (m', b) ∈ s.host.limited)) ∧ t.io.events = s.io.events ∧
    KeepsBut [.host, .io] s t)))

/-- The counter harvest: a pass adds each RC counter of a powered block to its total in BAR2, clears it and counts itself;
in host-assisted mode it stops first, with code 0x0B09, and the stop's timeout runs the pass, while ACCEPT skips it (R477, R478,
R488).

The export ring: its place may be written while it is empty, and CONS moves forward by no more than PROD - CONS, any
other write being ignored (R470, R490). GLB_MODE takes the nine mode bits and nothing else (R475).

Model's choices and readings it rests on: log entry 101. -/
def Obligations.HarvestExportAndModes : Prop :=
  ((∀ s : State, s.pdOn 90 = true → s.assisted 8 = false → exec .harvestPass s = .next s.harvestAll) ∧
    (∀ s : State, s.host.harvestStop = true →
      exec .harvestStopTimeout s = .next (s.setHost { s.host with harvestStop := false }).harvestAll ∧
      (Linked s → exec .harvestAccept s = .next (s.setHost { s.host with harvestStop := false }))) ∧
    (∀ s : State, s.pdOn 90 = true → s.assisted 8 = true → s.host.harvestStop = false → Runs .harvestPass s (fun t =>
      t.host = { s.host with harvestStop := true } ∧
      t.io.events = s.io.events ++ [{ code := 0x0B09, stop := true, source := Source.glb, loc := 0, stream := none, time := s.now64, detail := Config.stopDetail 8 [s.now64.toNat] }] ∧
      KeepsBut [.host, .io] s t)) ∧
    (∀ s : State, let t := s.harvestAll
      KeepsBut [.regs, .host] s t ∧
      t.rd Reg.GLB_HARVEST_PASSES = (s.rd Reg.GLB_HARVEST_PASSES + 1) % 2 ^ 32 ∧
      ∀ off ∈ harvestRegs, s.blkOn off = true → ∀ e ∈ (rcFields off).zipIdx,
        bits (t.reg off).toNat e.1.hi e.1.lo = 0 ∧
        leNat (Mem.read t.host.bar2 (0x20_0000 + 2 * (off - 0x40_0000) + 8 * e.2) 8) =
          (leNat (Mem.read s.host.bar2 (0x20_0000 + 2 * (off - 0x40_0000) + 8 * e.2) 8) +
            bits (s.reg off).toNat e.1.hi e.1.lo) % 2 ^ 64)) ∧
  (∀ s : State, Linked s → s.jrn.exportQ = [] →
    (∀ v, s.exportIdle = false → exec (.glbExportBaseWrite v) s = .next s) ∧
    (∀ v : Word, s.exportIdle = true → Runs (.glbExportBaseWrite v) s (fun t =>
      t.rd Reg.GLB_EXPORT_BASE_ADDR = bits v.toNat 63 12 ∧ RegsBut [Reg.GLB_EXPORT_BASE] s t ∧ KeepsBut [.regs] s t)) ∧
    (∀ c : BitVec 32, let cons := BitVec.ofNat 32 (s.rd Reg.GLB_EXPORT_PTR_CONS)
      let prod := BitVec.ofNat 32 (s.rd Reg.GLB_EXPORT_PTR_PROD)
      Runs (.glbExportPtrWrite c) s (fun t =>
        t.rd Reg.GLB_EXPORT_PTR_CONS = (if (c - cons).toNat ≤ (prod - cons).toNat then c.toNat else s.rd Reg.GLB_EXPORT_PTR_CONS) ∧
        t.rd Reg.GLB_EXPORT_PTR_PROD = s.rd Reg.GLB_EXPORT_PTR_PROD ∧
        RegsBut [Reg.GLB_EXPORT_PTR] s t ∧ KeepsBut [.regs] s t)) ∧
    (∀ v : Word, Runs (.glbModeWrite v) s (fun t => t.rd Reg.GLB_MODE_MODE = v.toNat % 512 ∧
      RegsBut [Reg.GLB_MODE] s t ∧ KeepsBut [.regs] s t)))

/-! ### Sideband and test port (R481, R482) -/

/-- The sideband reads put out the register's eight bytes and clear nothing, GET_EVENT the latest error or fatal record;
SET_CAP writes CAP_W within its range (R481).

The test port: each instruction is loaded; EXTEST, CLAMP and HIGHZ hold the pins where BRU_STATUS reads STAGE 0 and
act as BYPASS otherwise, the others give them back; IDCODE shifts out 0x1105_60B7 (R482).

Model's choices and readings it rests on: log entry 53. -/
def Obligations.SidebandAndTestPort : Prop :=
  (∀ s : State,
    let tells (c : Instr) (bytes : List Byte) : Prop := Runs c s (fun t =>
      t.io.out = s.io.out ++ [.side bytes] ∧ t.io.events = s.io.events ∧ KeepsBut [.io] s t)
    tells .getId (leBytes 8 (s.peek Reg.GLB_ID)) ∧ tells .getState (leBytes 8 (s.peek Reg.BRU_STATUS)) ∧
    tells .getPower (leBytes 8 (s.peek Reg.PWR_MEAS)) ∧ tells .getCool (leBytes 8 (s.peek Reg.PWR_COOL)) ∧
    tells .getPwrStatus (leBytes 8 (s.peek Reg.PWR_STATUS)) ∧ tells .getEvent s.host.severe ∧
    (s.host.sideAddr.toNat ∉ [Reg.TIME_NOW, Reg.PWR_CAL_DATA, Reg.HRD_WIN_DATA] →
      tells .regRead (leBytes 8 (s.peek s.host.sideAddr.toNat))) ∧
    (∀ off, Runs (.regAddr off) s (fun t => t.host = { s.host with sideAddr := off } ∧ KeepsBut [.host] s t)) ∧
    (∀ w : BitVec 16, Runs (.setCap w) s (fun t => t.rd Reg.PWR_CTRL_CAP_W =
        (if s.capFloor ≤ w.toNat ∧ w.toNat ≤ 24000 then w.toNat else s.rd Reg.PWR_CTRL_CAP_W) ∧
      t.rd Reg.PWR_CTRL_FORCE_MIN = s.rd Reg.PWR_CTRL_FORCE_MIN ∧ RegsBut [Reg.PWR_CTRL] s t ∧ KeepsBut [.regs] s t))) ∧
  (∀ s : State,
    let j := s.jtag
    let held (n : Nat) : Nat := if bits (s.peek Reg.BRU_STATUS) 2 0 = 0 then n else 0
    let leaves (c : Instr) (j' : Jtag) (out : List Out) : Prop := Runs c s (fun t =>
      t.jtag = j' ∧ t.io.out = s.io.out ++ out ∧ t.io.events = s.io.events ∧ KeepsBut [.jtag, .io] s t)
    leaves .bypass { j with ir := 0xFF, pins := 0 } [.jtag [false]] ∧
    (∃ bs, leaves .idcode { j with ir := 0x01, pins := 0 } [.jtag bs] ∧ bs.length = 32 ∧
      ∀ i, i < 32 → bs[i]? = some (Nat.testBit 0x1105_60B7 i)) ∧
    (∀ pins chain, leaves (.samplePreload pins chain) { ir := 0x02, chain := chain, pins := 0 } [.jtag pins]) ∧
    leaves .extest { j with ir := 0x03, pins := held 1 } [] ∧ leaves .clamp { j with ir := 0x04, pins := held 2 } [] ∧
    leaves .highz { j with ir := 0x05, pins := held 3 } [] ∧ leaves .testLogicReset { j with ir := 0x01, pins := 0 } [])

/-! ### Herd commands (R140 to R145, R368 to R373, R413 to R415) -/

/-- Commands of the loader, the firmware and the fault controller to one herd, its controller at rest, in a state that
R142 lets them run in: RELEASE starts every tile program, and the herd is FAULTED again where a tile stands halted by a
fault of its own (R100); HALT stops every running one, RESET_TILES puts every tile back to its reset values but for program
SRAM, ROUTE_REPAIR gives the herd's routers their generated tables again, around what is bypassed now (R135), ROLLCALL
holds the OR of the tiles' missing segments and REPAIR leaves those that the repair did not land. No tile of another herd,
no other herd and nothing else changes.

Model's choices and readings it rests on: log entries 30, 36, 120. -/
def Obligations.HerdCommandsRun : Prop :=
  ∀ (s : State) (c : HerdCmd), c.all = false → c.src ∈ [CmdSrc.loader, .firmware, .fault] → AtRest s c.herd →
    let h : Nat := c.herd
    let x := s.herd h
    let tiles (f : Tile → Tile) (t : State) : Prop :=
      ∀ k, t.tile k = if herdOfKey k = h then f (s.tile k) else s.tile k
    (x.st = .loaded ∨ x.st = .halted ∨ (x.st = .faulted ∧ x.stackFault = true) → Runs (.release c) s (fun t =>
      ((s.mapTiles h Tile.go).tileFault h = none → (t.herd h).st = .running ∧ (t.herd h).fault = 0) ∧
      (∀ code, (s.mapTiles h Tile.go).tileFault h = some code → (t.herd h).st = .faulted ∧ (t.herd h).fault = code) ∧
      (t.herd h).stackFault = false ∧ (t.herd h).atEpoch = none ∧
      (x.st = .loaded → (t.herd h).relTaken = x.taken ∧ (t.herd h).relOutseq = x.outseq ∧ (t.herd h).committed = false) ∧
      (x.st ≠ .faulted → t.stks = s.stks) ∧ tiles Tile.go t ∧ HerdsBut h s t ∧ KeepsBut [.tiles, .herds, .stks] s t)) ∧
    (x.st = .running → Runs (.halt c) s (fun t => (t.herd h).st = .halted ∧ (t.herd h).atEpoch = none ∧
      tiles (fun y => if y.run = .running then { y with run := .halted } else y) t ∧ HerdsBut h s t ∧
      KeepsBut [.tiles, .herds] s t)) ∧
    (x.st = .loaded ∨ x.st = .halted ∨ x.st = .faulted ∨ (c.src = .loader ∧ x.st ≠ .running) →
      Runs (.resetTiles c) s (fun t => (t.herd h).st = .loaded ∧ (t.herd h).fault = 0 ∧ (t.herd h).atEpoch = none ∧
        tiles Tile.clear t ∧ HerdsBut h s t ∧ KeepsBut [.tiles, .herds] s t)) ∧
    (x.st = .loaded ∨ x.st = .halted ∨ x.st = .faulted → Runs (.routeRepair c) s (fun t =>
      (∀ px py, px < 1089 → t.router px py = (if pherdAt px py = s.pherd h then
        { s.router px py with herdTab := [], localTab := [], edgeTab := []
                              bad := (s.router px py).bad.filter (fun e => decide (2112 ≤ e.1)) } else s.router px py)) ∧
      t.mesh = { s.mesh with routers := t.mesh.routers
                             gens := NatMap.ins s.mesh.gens (s.pherd h) { all := t.bypassList, herd := [] } } ∧ HerdsBut h s t ∧ (t.herd h).st = x.st ∧
      KeepsBut [.mesh, .herds] s t)) ∧
    (x.st = .loaded ∨ (c.src = .loader ∧ x.st ≠ .running) → Runs (.rollcall c) s (fun t =>
      (t.herd h).missing = s.missingOf (s.pherd h) c.arg.toNat ∧ (t.herd h).st = x.st ∧ HerdsBut h s t ∧
      KeepsBut [.herds] s t)) ∧
    (∀ still, x.st = .loaded → c.src ≠ .loader → Runs (.repair c still) s (fun t =>
      t.bru = { s.bru with missing := repairLeft (fun k => decide (herdOfPos k = s.pherd h)) still s.bru.copies s.bru.missing } ∧
      (t.herd h).st = x.st ∧ HerdsBut h s t ∧ KeepsBut [.herds, .bru] s t)) ∧
    (∀ still, x.st ≠ .running → c.src = .loader → s.bru.missing ≠ [] → s.bru.round < 2 → s.bru.stops = [] →
      s.assisted 1 = false → Runs (.repair c still) s (fun t =>
        t.bru = { s.bru with missing := repairLeft (fun _ => true) still s.bru.copies s.bru.missing, round := s.bru.round + 1 } ∧
        RegsBut [Reg.BRU_BCAST_STAT] s t ∧ KeepsBut [.regs, .bru] s t))

/-- BARRIER and DRAIN on a running herd at rest: the herd waits for its tiles, and is HALTED at the epoch's barrier once
every tile counts as being there and, for DRAIN, no collective of the herd that was open at the request still is; a tile
that reaches its barrier point while a barrier is asked for halts there, and the last one completes it (R142, R150, R369,
R507).

SNAPSHOT of a herd HALTED at a barrier writes slot E mod 2 with what the herd and its tiles hold and clears the
slot's dirty bits; its copy is written with it where the partner serves, and the home stack owes it until then (R162, R371).
RESTORE of an epoch whose snapshot can be read makes the herd HALTED at that barrier with what the slot holds, the tiles'
accumulators, counters, scalar registers and program counters among it (R142, R369 to R373); one of a re-shaped herd without
a readable snapshot makes it LOADED (R204).

Model's choices and readings it rests on: log entries 30, 31, 33, 34, 37. -/
def Obligations.BarriersAndSnapshots : Prop :=
  (∀ s : State,
    (∀ (c : HerdCmd) (drain : Bool), c.all = false → c.src ∈ [CmdSrc.loader, .firmware, .fault] → AtRest s c.herd →
      (s.herd c.herd).st = .running →
      let h : Nat := c.herd
      let e := fullEpoch s.jrn.epoch c.arg.toNat
      let met := s.allAtBarrier h = true ∧ (drain = false ∨ s.openColls h = [])
      let cmd : Instr := if drain then .drain c else .barrier c
      (¬met → Runs cmd s (fun t => (t.herd h).st = .running ∧ (t.herd h).barrier = some ⟨e, drain, c.src⟩ ∧
        (drain = true → (t.herd h).drainOpen = s.openColls h) ∧ HerdsBut h s t ∧ KeepsBut [.herds] s t)) ∧
      (met → s.homeLost h = false → Runs cmd s (fun t => (t.herd h).st = .halted ∧ (t.herd h).barrier = none ∧
        (t.herd h).atEpoch = some e ∧ (t.herd h).drained = drain ∧ HerdsBut h s t ∧ KeepsBut [.herds] s t))) ∧
    (∀ (c : Coord) (b : Barrier), Ready s c.key → (s.herd (herdOfKey c.key)).barrier = some b → b.src = .firmware →
      (s.herd (herdOfKey c.key)).queue = [] → (s.herd (herdOfKey c.key)).st = .running →
      let h := herdOfKey c.key
      let there := { (s.tile c.key).advance with run := .atBarrier }
      let s' := s.setTile c.key there
      (s'.allAtBarrier h = false → Runs (.epochBarrierPoint c) s (TileBecomes c.key there s)) ∧
      (s'.allAtBarrier h = true → b.drain = false ∨ s.collectiveOpen h = false → s.homeLost h = false → Runs (.epochBarrierPoint c) s (fun t =>
        t.tile c.key = there ∧ TilesBut c.key s t ∧ (t.herd h).st = .halted ∧ (t.herd h).barrier = none ∧
        (t.herd h).atEpoch = some b.epoch ∧ HerdsBut h s t ∧ KeepsBut [.tiles, .herds] s t)))) ∧
  (∀ (s : State) (c : HerdCmd), c.all = false → c.src ∈ [CmdSrc.loader, .firmware, .fault] → AtRest s c.herd →
    let h : Nat := c.herd
    let x := s.herd h
    (∀ b, x.st = .halted → x.atEpoch = some b → s.snapReach h = true →
      let e := fullEpoch b c.arg.toNat
      let home := s.homeStack h
      let alone := decide ((s.stk home).st = .down ∨ (s.stk (partner home)).st = .down)
      Runs (.snapshot c) s (fun t =>
        (t.snap (snapKey h e)).epoch = e ∧ (t.snap (snapKey h e)).valid = true ∧ (t.snap (snapKey h e)).copied = alone ∧
        (alone = false → .snap (snapKey h e) ∈ (t.stk home).copies) ∧ (alone = true → t.stks = s.stks) ∧
        t.stk home = { s.stk home with copies := (t.stk home).copies } ∧ StksBut [home] s t ∧
        (t.snap (snapKey h e)).taken = x.taken ∧ (t.snap (snapKey h e)).outseq = x.outseq ∧
        (t.snap (snapKey h e)).seqPos = x.seqPos ∧
        (t.snap (snapKey h e)).tiles.map TileSnap.key = (s.tiles.filter (fun q => decide (herdOfKey q.1 = h))).map Prod.fst ∧
        (∀ k, k ≠ snapKey h e → t.snap k = s.snap k) ∧
        (∀ k, t.tile k = if herdOfKey k = h then (s.tile k).snapClean (e % 2) else s.tile k) ∧
        (t.herd h).st = .halted ∧ (t.herd h).snapAll.getLsbD (e % 2) = false ∧ HerdsBut h s t ∧
        KeepsBut [.tiles, .herds, .stks, .snaps] s t)) ∧
    (x.st = .halted ∨ x.st = .faulted →
      let e := fullEpoch s.jrn.epoch c.arg.toNat
      let p := s.snap (snapKey h e)
      (s.snapReadable h e = false → x.reshaped = true → Runs (.restore c) s (fun t =>
        (t.herd h).st = .loaded ∧ (t.herd h).fault = 0 ∧ HerdsBut h s t ∧ KeepsBut [.tiles, .herds] s t)) ∧
      (s.snapReadable h e = true → Runs (.restore c) s (fun t =>
        (t.herd h).st = .halted ∧ (t.herd h).atEpoch = some e ∧ (t.herd h).epoch = e ∧ (t.herd h).taken = p.taken ∧
        (t.herd h).outseq = p.outseq ∧ (t.herd h).seqPos = p.seqPos ∧ HerdsBut h s t ∧
        ((p.tiles.map TileSnap.key).Nodup → ∀ q ∈ p.tiles, (t.tile q.key).sram = q.data ∧ (t.tile q.key).accs = q.accs ∧
          (t.tile q.key).ctrs = q.ctrs ∧ (t.tile q.key).sregs = q.sregs ∧ (t.tile q.key).pc = q.pc ∧
          (t.tile q.key).step = q.step ∧ (t.tile q.key).prog = (s.tile q.key).prog) ∧
        (∀ k, herdOfKey k ≠ h → k ∉ p.tiles.map TileSnap.key → t.tile k = s.tile k) ∧
        t.flt.held = s.flt.held.filter (fun g => decide (g ≠ s.groupOf h)) ∧ KeepsBut [.tiles, .herds, .jrn, .flt] s t))))

/-- A host command while one is in progress sets REJECTED and does nothing else; otherwise, to one herd at rest, it ends
at once with DONE set, PENDING clear and, in a state that R142 does not give it, FAIL set with CODE 0 (R142, R145).

Model's choices and readings it rests on: log entry 35. -/
def Obligations.HostHerdCommands : Prop :=
  ∀ (s : State) (c : HerdCmd) (still : List (Nat × Nat)), Linked s → c.src = .host →
    let h : Nat := c.herd
    let st := (s.herd h).st
    let ops : List (Nat × Instr × Bool) := [(1, .release c, decide (st = .loaded ∨ st = .halted) ||
        (decide (st = .faulted) && (s.herd h).stackFault)), (2, .halt c, decide (st = .running)),
      (6, .resetTiles c, decide (st = .loaded ∨ st = .halted ∨ st = .faulted)),
      (7, .routeRepair c, decide (st = .loaded ∨ st = .halted ∨ st = .faulted)), (9, .rollcall c, decide (st = .loaded)),
      (10, .repair c still, decide (st = .loaded))]
    (∀ e ∈ ops, s.rd Reg.HRD_CMD_STATUS_PENDING = 1 → Runs e.2.1 s (fun t => t.rd Reg.HRD_CMD_STATUS_REJECTED = 1 ∧
      RegsBut [Reg.HRD_CMD_STATUS] s t ∧ KeepsBut [.regs] s t)) ∧
    (∀ e ∈ ops, s.rd Reg.HRD_CMD_STATUS_PENDING = 0 → c.all = false → AtRest s h → s.hostCmdOpen = false →
      Runs e.2.1 s (fun t => t.rd Reg.HRD_CMD_STATUS_PENDING = 0 ∧ t.rd Reg.HRD_CMD_STATUS_DONE = 1 ∧
        t.rd Reg.HRD_CMD_STATUS_OPCODE = e.1 ∧ t.rd Reg.HRD_CMD_STATUS_CODE = 0 ∧
        t.rd Reg.HRD_CMD_STATUS_FAIL = (if e.2.2 then 0 else 1) ∧
        (e.2.2 = false → t.rd Reg.HRD_CMD_STATUS_HX = h % 32 ∧ t.rd Reg.HRD_CMD_STATUS_HY = h / 32 ∧
          t.tiles = s.tiles ∧ (t.herd h).st = st) ∧
        RegsBut [Reg.HRD_CMD_STATUS] s t ∧ HerdsBut h s t))

/-- A herd's sequence runs its word only: the opcodes that wait, jump and stop move its position and nothing else, and a
command of the sequence does nothing while the word at the position is another's (R143).

The window reaches the tile register that HRD_WIN_ADDR selects: a read puts out its value and clears an RC register
at the tile, a write writes it under its access types; for a herd that is DARK or absent a read gives all ones, a write is
dropped and WIN_ERR is set; so it is for an access that does not complete in time (R144).

Model's choices and readings it rests on: log entry 32. -/
def Obligations.HerdSequencesAndWindow : Prop :=
  (∀ (s : State) (h : HerdNo),
    let x := s.herd h
    let only (y : Herd) (t : State) : Prop := t.herd h = y ∧ HerdsBut h s t ∧ KeepsBut [.herds] s t
    (∀ a p, x.seqArg 0x80 = some a → x.timer = true → x.seqPos = some p →
      Runs (.waitEpochTimer h) s (only { x with timer := false, seqEpoch := true, seqPos := some (p + 1) })) ∧
    (∀ a p, x.seqArg 0x81 = some a → x.seqPos = some p → Runs (.waitEvent h) s (only { x with seqPos := some (p + 1) })) ∧
    (∀ a, x.seqArg 0x82 = some a → Runs (.sequenceJump h) s (only { x with seqPos := some a })) ∧
    (∀ a, x.seqArg 0x83 = some a → Runs (.sequenceStop h) s (only { x with seqPos := none })) ∧
    (∀ (c : HerdCmd), c.herd = h → c.src = .sequence →
      (x.seqArg 1 = none → exec (.release c) s = .next s) ∧ (x.seqArg 2 = none → exec (.halt c) s = .next s) ∧
      (x.seqArg 4 = none → exec (.snapshot c) s = .next s) ∧ (x.seqArg 5 = none → exec (.restore c) s = .next s)) ∧
    (∀ (c : HerdCmd) a p, c.herd = h → c.src = .sequence → x.seqArg 2 = some a → x.seqPos = some p → x.st = .running →
      Runs (.halt c) s (fun t => (t.herd h).st = .halted ∧ (t.herd h).seqPos = some (p + 1) ∧ HerdsBut h s t ∧
        KeepsBut [.tiles, .herds] s t))) ∧
  (∀ s : State, Linked s →
    let x := s.tile s.winTile
    let err (t : State) : Prop := t.rd Reg.HRD_CMD_STATUS_WIN_ERR = 1 ∧ RegsBut [Reg.HRD_CMD_STATUS] s t
    (s.winDark = false → s.rdb Reg.HRD_WIN_ADDR_CTRL = false →
      Runs .windowRead s (fun t => t.io.out = s.io.out ++ [.read (leBytes 8 (x.readReg s.winOff).2.toNat)] ∧
        t.tile s.winTile = (x.readReg s.winOff).1 ∧ TilesBut s.winTile s t ∧ KeepsBut [.tiles, .io] s t) ∧
      ∀ v, Runs (.windowWrite v) s (TileBecomes s.winTile (x.writeReg s.winOff v fullMask) s)) ∧
    (s.winDark = true →
      Runs .windowRead s (fun t => t.io.out = s.io.out ++ [.read (List.replicate 8 0xFF)] ∧ err t ∧
        KeepsBut [.regs, .io] s t) ∧
      ∀ v, Runs (.windowWrite v) s (fun t => err t ∧ KeepsBut [.regs] s t)) ∧
    Runs (.windowTimeout false) s (fun t => t.io.out = s.io.out ++ [.read (List.replicate 8 0xFF)] ∧ err t ∧
      KeepsBut [.regs, .io] s t) ∧
    Runs (.windowTimeout true) s (fun t => err t ∧ KeepsBut [.regs] s t))

/-! ### The mesh and its collectives (R117 to R139, R146 to R148) -/

/-- A router sends a packet on when its turn has come, by the output that its table gives, or straight through where it is
bypassed: to the end of the neighbour's input, to the local tile, to the herd controller or to an edge port's block; a packet
to a reserved edge port is discarded and counted, one whose entry is invalid is discarded, counted and reported (R125, R128
to R132). An error of one bit on the way is corrected, and one of two bits poisons the packet (R53, R117). A packet waits
while the oldest of its channel is another, while the buffer behind its output has no room, and while a packet of a channel
that the output serves first can go (R125, R126). Nothing but the mesh, the number of draws and the record changes.

A router that waits too long reports it once and keeps waiting; one that fails loses the packets in it and is set to
bypass unless its herd must move; a ROUTE_PATCH for the herd that moves points the map at the reserve herd's row and takes
every written entry for the herd out of the routers (R119, R132, R134, R136, R379).

Model's choices and readings it rests on: log entries 26, 111, 124. -/
def Obligations.PacketsAreRouted : Prop :=
  (∀ (s : State) (i : Nat) (err : LinkErr) (f : Flight) (px py : Nat) (inp : Port), s.mesh.flights[i]? = some f →
    f.loc = .router px py inp → s.bypassed px py = true ∨ NatMap.find (s.router px py).bad (s.routeEntry px py f.pkt) = none →
    let out : Option Nat := if s.bypassed px py then straight inp
      else if treeKind f.pkt.kind then none else some (s.lookup px py f.pkt)
    let turn : Bool := if s.bypassed px py then s.isHead f && s.hasCredit px py (out.getD 0) f.pkt else s.hasTurn f
    let cmd := Instr.routePacket ⟨i, err⟩
    let moves (g : Flight) (l : Loc) : Prop := Runs cmd s (fun t =>
      t.mesh.flights = dropAt s.mesh.flights i ++ [{ g with loc := l }] ∧ t.mesh.edgeDiscards = s.mesh.edgeDiscards ∧
      t.io.events = s.io.events ∧ t.io.out = s.io.out ∧ KeepsBut [.mesh, .io] s t)
    (out = none → exec cmd s = .next s) ∧
    (turn = false → exec cmd s = .next s) ∧
    (turn = true →
      (∀ o x y, out = some o → o < 4 → s.childAt px py o = some (x, y) →
        moves (f.over err s.io.draws) (.router x y (enters o))) ∧
      (∀ k, out = some 4 → s.tileAt px py = some k → moves f (.tile (keyX k) (keyY k))) ∧
      (∀ h, out = some 5 → s.lherd (pherdAt px py) = some h → moves f (.herd h)) ∧
      (out = some 6 → (boundaryStack px py).isSome = true → f.pkt.edge = true → f.pkt.dx ≤ 0x25 →
        moves f (.edge f.pkt.dx (routerKey px py))) ∧
      (out = some 6 → (boundaryStack px py).isSome = true → f.pkt.edge = true → 0x25 < f.pkt.dx → Runs cmd s (fun t =>
        t.mesh.flights = dropAt s.mesh.flights i ∧ t.mesh.edgeDiscards = s.mesh.edgeDiscards + 1 ∧ KeepsBut [.mesh] s t)) ∧
      (out = some 7 → Runs cmd s (fun t => t.mesh.flights = dropAt s.mesh.flights i ∧
        (t.router px py).discards = (s.router px py).discards + 1 ∧
        t.io.events = s.io.events ++ [{ code := Code.tileHandshakeTimeout, stop := false, source := Source.tile
                                        loc := s.locOf px py, stream := none, time := s.now64, detail := 0 }] ∧
        t.io.out = s.io.out ∧ KeepsBut [.mesh, .io] s t))) ∧
    (∀ g ∈ s.mesh.flights, ∀ gi : Port, g.loc = .router px py gi → s.canLeave g = true → s.bypassed px py = false →
      s.lookup px py f.pkt ∈ s.wants g → vcRank g.pkt.vc < vcRank f.pkt.vc → exec cmd s = .next s) ∧
    (∀ d, f.over .clean d = f ∧ f.over .single d = f ∧ f.over .double d = { f with poisoned := true })) ∧
  (∀ s : State,
    (∀ r : Phys, s.mesh.flights.any (fun f => f.atRouter r.x r.y) = true →
      ((s.router r.x r.y).timedOut = false → Runs (.tileHandshakeTimeout r) s (fun t =>
        (t.router r.x r.y).timedOut = true ∧ t.mesh.flights = s.mesh.flights ∧
        t.io.events = s.io.events ++ [{ code := Code.tileHandshakeTimeout, stop := false, source := Source.tile
                                        loc := s.locOf r.x r.y, stream := none, time := s.now64, detail := 0 }] ∧
        KeepsBut [.mesh, .io] s t)) ∧
      ((s.router r.x r.y).timedOut = true → exec (.tileHandshakeTimeout r) s = .next s)) ∧
    (∀ r : Phys, Runs (.routerFailure r) s (fun t =>
      t.mesh.flights = s.mesh.flights.filter (fun f => !(f.atRouter r.x r.y)) ∧
      (t.router r.x r.y).bypass = ((s.router r.x r.y).bypass || !(herdBreaking r.x r.y || s.besideBypass r.x r.y)) ∧
      (∀ px py, routerKey px py ≠ routerKey r.x r.y → t.router px py = s.router px py) ∧
      t.mesh.gens = s.mesh.gens ∧ t.mesh.genAll = s.mesh.genAll ∧ KeepsBut [.mesh] s t)) ∧
    (∀ (h : HerdNo) (row : Nat), s.flt.moveTo = some row → s.flt.herd = h → Runs (.routePatch h) s (fun t =>
      t.pherd h = row * 33 + 32 ∧ (∀ g, g ≠ h.val → t.pherd g = s.pherd g) ∧
      (∀ px py, NatMap.find (t.router px py).herdTab h = none) ∧ t.flt.moveTo = none ∧
      t.rd Reg.FLT_COUNT_MOVES = min (s.rd Reg.FLT_COUNT_MOVES + 1) Reg.FLT_COUNT_MOVES.max ∧
      t.io.events = s.io.events ++ [{ code := Code.herdMoved, stop := false, source := Source.flt, loc := 0
                                      stream := none, time := s.now64, detail := BitVec.ofNat 64 (h + row * 2 ^ 10) }] ∧
      t.tiles = s.tiles ∧ t.herds = s.herds ∧ t.mesh.flights = s.mesh.flights ∧
      KeepsBut [.regs, .mesh, .bru, .flt, .io] s t)) ∧
    (∀ (h : HerdNo), s.flt.moveTo = none ∨ s.flt.herd ≠ h → exec (.routePatch h) s = .next s))

/-- The generated route to a place goes one hop nearer at every router that no bypass bends, and ends there (R135,
R187).

Model's choices and readings it rests on: log entry 25. -/
def Obligations.RoutesMakeProgress : Prop :=
  ∀ (px py x lo hi here : Nat), px < 1089 → py < 1056 → x < 1089 → lo ≤ hi → hi < 1056 →
    let away (q : Nat × Nat) : Nat := (max q.1 x - min q.1 x) + (if q.2 < lo then lo - q.2 else q.2 - hi)
    (px = x ∧ lo ≤ py ∧ py ≤ hi → toward [] px py x lo hi here = here) ∧
    (¬(px = x ∧ lo ≤ py ∧ py ≤ hi) → ∃ q, neighbour px py (toward [] px py x lo hi here) = some q ∧
      away q + 1 = away (px, py))

/-- A packet is delivered at its destination: a WRITE, READ_RSP, BCAST or GATHER writes data SRAM from its word address
and raises its arrival counter by its length, at a tile that waits for neither; a poisoned one commits nothing and is
reported; a subtree result and a piece enter the collectives engine, or wait while their herd drains; a port that discards
counts the packet (R117, R122, R123, R146, R148, R150, R206).

Model's choices and readings it rests on: log entries 27, 111, 122, 126. -/
def Obligations.PacketsAreDelivered : Prop :=
  ∀ (s : State) (i : Nat) (f : Flight), s.mesh.flights[i]? = some f →
    let gone := { s.mesh with flights := dropAt s.mesh.flights i }
    (∀ x y, f.loc = .tile x y → s.localDiscards (herdOfKey (tileKey x y)) = false →
      let key := tileKey x y
      let t0 := s.tile key
      (f.poisoned = false → f.pkt.kind ∈ [0x0, 0x2, 0x3, 0x6] → t0.wait = .none → Runs (.packetDeliver i) s (fun t =>
        t.mesh = gone ∧ TilesBut key s t ∧
        (t.tile key).sram = (t0.put (f.pkt.addr * 8) (wordBytes f.pkt.payload)).sram ∧
        (∀ j, NatMap.get (t.tile key).ctrs 0 j = if j = f.pkt.ctr
          then NatMap.get t0.ctrs 0 j + BitVec.ofNat 32 f.pkt.payload.length else NatMap.get t0.ctrs 0 j) ∧
        (t.tile key).reads = (if f.pkt.kind = 0x2 then dropRead t0.reads f.pkt.tag else t0.reads) ∧
        (t.tile key).pc = t0.pc ∧ (t.tile key).run = t0.run ∧ (t.tile key).accs = t0.accs ∧
        (t.tile key).sregs = t0.sregs ∧ KeepsBut [.tiles, .mesh] s t)) ∧
      (f.poisoned = true → f.pkt.kind ≠ 0x2 → Runs (.packetDeliver i) s (fun t => t.mesh = gone ∧
        t.io.events = s.io.events ++ [{ code := Code.tileEccUncorr, stop := false, source := Source.tile, loc := key
                                        stream := none, time := s.now64, detail := 0 }] ∧
        KeepsBut [.mesh, .io] s t)) ∧
      (f.poisoned = true → f.pkt.kind = 0x2 → AtRest s (herdOfKey key) → Runs (.packetDeliver i) s (fun t => t.mesh = gone ∧
        (t.tile key).run = .stackFault ∧ (t.tile key).sram = t0.sram ∧ TilesBut key s t ∧
        (t.herd (herdOfKey key)).st = .faulted ∧ HerdsBut (herdOfKey key) s t ∧ KeepsBut [.tiles, .herds, .mesh, .io] s t))) ∧
    (∀ x y, f.loc = .tile x y → s.localDiscards (herdOfKey (tileKey x y)) = true →
      vcOf f.pkt.kind = some 2 ∨ vcOf f.pkt.kind = some 3 → Runs (.packetDeliver i) s (fun t => t.mesh = gone ∧
        t.rd Reg.IMG_DISCARD_COUNT = min (s.rd Reg.IMG_DISCARD_COUNT + 1) Reg.IMG_DISCARD_COUNT.max ∧
        RegsBut [Reg.IMG_DISCARD_COUNT.off] s t ∧ KeepsBut [.regs, .mesh] s t)) ∧
    (∀ h j, f.loc = .herd h → f.poisoned = false → s.sliceOf (f.pkt.tag / 4) f.pkt.herd = some j →
      let coll := f.pkt.tag / 4
      (s.contributionWaits f.pkt.herd coll = false →
        (f.pkt.kind = 0x5 → Runs (.packetDeliver i) s (fun t => t.mesh = { gone with nodes := s.mesh.nodes ++
            [{ herd := h, coll := coll, slice := j, width := 1, addr := f.pkt.addr, ctr := f.pkt.ctr, tag := f.pkt.tag
               sent := false, values := f.pkt.payload.flatMap fp32Of }] } ∧ KeepsBut [.mesh] s t)) ∧
        (f.pkt.kind = 0x6 → s.mesh.gathers.any (fun g => decide (g.herd = h ∧ g.coll = coll ∧ g.slice = j)) = false →
          Runs (.packetDeliver i) s (fun t => t.mesh = { gone with gathers := s.mesh.gathers ++
            [{ herd := h, coll := coll, slice := j, words := f.pkt.payload, addr := f.pkt.addr, ctr := f.pkt.ctr
               tag := f.pkt.tag, sent := 0 }] } ∧ KeepsBut [.mesh] s t))) ∧
      (s.contributionWaits f.pkt.herd coll = true → f.pkt.kind = 0x5 ∨ f.pkt.kind = 0x6 →
        exec (.packetDeliver i) s = .next s))

/-- Trees: a broadcast packet goes whole from its parent input to every child of its router once each has room and its turn
has come, and to the local tile; a router with the partials of all its children forwards one packet, their combination, to its parent; the engine forms the node of
two neighbouring subtree results and gives the root out as the result; and the combination of partials of n accumulators
does not depend on their order (R80, R82, R139, R146 to R148).

Model's choices and readings it rests on: log entries 29, 121, 124, 126, 127. -/
def Obligations.TreesAndCollectives : Prop :=
  (∀ (s : State) (i : Nat) (f : Flight) (px py : Nat) (inp : Port), s.mesh.flights[i]? = some f →
    f.loc = .router px py inp → s.bypassed px py = false → f.pkt.vc = 1 →
    NatMap.find (s.router px py).bad (2112 + f.pkt.tree) = none →
    let e := s.bcastEntry px py f.pkt.tree
    let outs := (List.range 4).filter (fun o => bit e o)
    let kids := outs.filterMap (fun o => (s.childAt px py o).map (fun q => (o, q)))
    ∀ err : LinkErr, let g := f.over err s.io.draws
      (e / 32 % 8 = inp.code → s.hasTurn f = true → kids.length = outs.length ∧
        (∀ k ∈ kids, s.bufWords k.2.1 k.2.2 (enters k.1) 1 + f.pkt.words ≤ 65) ∧ Runs (.bcastForward ⟨i, err⟩) s (fun t =>
          t.mesh.flights = dropAt s.mesh.flights i ++ kids.map (fun k => { g with loc := .router k.2.1 k.2.2 (enters k.1) }) ++
            (if bit e 4 then ((s.tileAt px py).map (fun k => { f with loc := .tile (keyX k) (keyY k) })).toList else []) ∧
          t.io.events = s.io.events ∧ t.io.out = s.io.out ∧ KeepsBut [.mesh, .io] s t)) ∧
      (e / 32 % 8 ≠ inp.code ∨ s.hasTurn f = false → exec (.bcastForward ⟨i, err⟩) s = .next s)) ∧
  (∀ (s : State) (r : Phys) (tree : Fin 4) (coll : Fin 64) (op : CollOp) (got : List Flight) (f : Flight) (q : Nat × Nat),
    let e := s.bcastEntry r.x r.y tree
    let kids := (List.range 5).filter (fun o => bit e o)
    s.bypassed r.x r.y = false → got.head? = some f → e / 32 % 8 < 4 → s.childAt r.x r.y (e / 32 % 8) = some q →
    kids.map (fun o => s.mesh.flights.find? (fun f => f.partialAt r.x r.y tree coll (childInput o) &&
      !(s.contributionWaits f.pkt.herd coll))) = got.map some →
    Runs (.redAccCombine r tree ⟨coll, op⟩) s (fun t =>
      t.mesh.flights = got.foldl List.erase s.mesh.flights ++
        [{ pkt := { f.pkt with payload := combineAll (got.map (fun g => g.pkt.payload)) }
           loc := .router q.1 q.2 (enters (e / 32 % 8)), poisoned := false }] ∧ KeepsBut [.mesh] s t)) ∧
  (∀ (s : State) (h : HerdNo) (coll : Fin 64) (slice : Nat) (op : CollOp) (a b : RedNode),
    op = .allReduce ∨ op = .reduceScatter ∨ (∃ m, op = .reduce m) →
    s.mesh.nodes.find? (fun n => decide (n.herd = h.val ∧ n.coll = coll.val ∧ n.slice = slice)) = some a →
    slice % (2 * a.width) = 0 → slice + a.width < s.slices coll → 0 < a.width →
    s.mesh.nodes.find? (fun n => decide (n.herd = h.val ∧ n.coll = coll.val ∧ n.slice = slice + a.width ∧ n.width = a.width)) = some b →
    Runs (.redTreeNode h ⟨coll, op⟩ slice) s (fun t => (∃ vs : List (BitVec 32),
        vs.length = max a.values.length b.values.length ∧
        (∀ j, j < vs.length → vs[j]? = some (rne32 (Machine.Num.add (of32 (nthD a.values j 0)) (of32 (nthD b.values j 0))))) ∧
        t.mesh.nodes = (s.mesh.nodes.erase a).erase b ++ [{ a with width := 2 * a.width, values := vs, sent := false }]) ∧
      t.mesh.flights = s.mesh.flights ∧ KeepsBut [.mesh] s t)) ∧
  (∀ (n : Nat) (l l' : List (List Word)), l.Perm l' → (∀ w ∈ l, w.length = 4 * n) → 2 ≤ l.length →
    combineAll l = combineAll l')

/-! ### Stacks (R152 to R179, R476, R506) -/

/-- A stack controller checks each request of the mesh whole: it queues an allowed read and an allowed write, and performs
the write at once where nothing else waits; it answers any other read with zeros and drops any other write, and counts both
with their source. A write to a line of an earlier request waits behind it. A read of correct lines, when its turn has come,
is answered at the requester's ADDR and CTR with its TAG (R155, R156, R159, R164, R179).

BAR4: through an open aperture the host reads and writes the bytes of allowed lines in place; a closed aperture reads
zeros and takes no write, and an access that is not allowed does the same and is counted once (R462, R506, R179).

Model's choices and readings it rests on: log entries 28, 39, 43, 129. -/
def Obligations.StackRequests : Prop :=
  (∀ (s : State) (k : StkNo),
    let x := s.stk k
    let idle : Prop := x.st = .service ∧ x.reqs = [] ∧ x.copies = [] ∧ x.retraining = none ∧
      s.journalFirst k = false ∧ s.copyReady k = false
    (∀ (i : Nat) (f : Flight) (link : Nat), s.mesh.flights[i]? = some f → f.loc = .edge k link → f.poisoned = false →
      let w := (nthD f.pkt.payload 0 0).toNat
      let addr := w % 2 ^ 37
      let may (wr : Bool) (n : Nat) : Prop := addr % 64 = 0 ∧ 1 ≤ n ∧ ∃ r, s.regionAt k addr (64 * n) = some r ∧
        s.allowed k r addr wr f.pkt.src = true ∧ s.allowed k r (addr + 64 * n - 1) wr f.pkt.src = true
      let gone : Mesh := { s.mesh with flights := dropAt s.mesh.flights i }
      let refused (t : State) : Prop :=
        t.rd (Reg.STK_REFUSED_COUNT k) = min (s.rd (Reg.STK_REFUSED_COUNT k) + 1) 0xFFFF_FFFF ∧
        t.rd (Reg.STK_REFUSED_SOURCE k) = f.pkt.src.code.2 % 2 ^ 20 ∧
        t.rd (Reg.STK_REFUSED_SRC_KIND k) = f.pkt.src.code.1 ∧ RegsBut [Reg.STK_REFUSED k] s t
      (f.pkt.kind = 0x1 →
        let lines := bits w 44 40
        let zeros : Packet := { dx := 0, dy := 0, edge := false, kind := 0x2, addr := f.pkt.addr, ctr := f.pkt.ctr
                                tag := f.pkt.tag, payload := List.replicate (8 * lines) 0, src := .block k }
        (f.pkt.payload.length = 1 ∧ may false lines → Runs (.stackRead k i) s (fun t =>
          t.stk k = { x with reqs := x.reqs ++ [{ src := f.pkt.src, input := link, kind := .read, addr := addr, lines := lines
                                                  dst := f.pkt.addr, ctr := f.pkt.ctr, tag := f.pkt.tag }] } ∧
          StksBut [k.val] s t ∧ t.mesh = gone ∧ KeepsBut [.mesh, .stks] s t)) ∧
        (¬(f.pkt.payload.length = 1 ∧ may false lines) →
          (∀ key, f.pkt.src = .tile key → Runs (.stackRead k i) s (fun t => refused t ∧ ∃ px py,
            t.mesh.flights = gone.flights ++ [{ pkt := { zeros with dx := keyX key, dy := keyY key }
                                                loc := .router px py .edge, poisoned := false }] ∧
            KeepsBut [.regs, .mesh] s t)) ∧
          (∀ h, f.pkt.src = .herd h → Runs (.stackRead k i) s (fun t => refused t ∧
            t.mesh.flights = gone.flights ++ [{ pkt := { zeros with dx := h % 32 * 32, dy := h / 32 * 32 }
                                                loc := .herd h, poisoned := false }] ∧
            KeepsBut [.regs, .mesh] s t)))) ∧
      (f.pkt.kind = 0x0 → x.st = .service →
        let n := (f.pkt.payload.length - 1) / 8
        let q : StkReq := { src := f.pkt.src, input := link, kind := .write (wordBytes f.pkt.payload.tail), addr := addr
                            lines := n, dst := 0, ctr := 0, tag := 0 }
        let fits : Prop := (f.pkt.payload.length - 1) % 8 = 0 ∧ n ≤ 31 ∧ may true n
        (fits → idle → Runs (.stackWrite k i) s (fun t =>
          Mem.read (t.stk k).mem addr (64 * n) = f.pkt.payload.tail.flatMap (fun v => leBytes 8 v.toNat) ∧
          BytesBut addr (64 * n) x.mem (t.stk k).mem ∧
          (∀ b, b ∈ (t.stk k).bad ↔ b ∈ x.bad ∧ ¬(addr / 64 ≤ b ∧ b < addr / 64 + n)) ∧
          ((s.stk (partner k)).st ≠ .down → ∀ j < n, (s.copyAddr k (addr / 64 + j)).isSome = true →
            ∃ bs, .line (addr / 64 + j) bs ∈ (t.stk k).copies) ∧
          (t.stk k).st = .service ∧ (t.stk k).reqs = [] ∧ StksBut [k.val] s t ∧ t.mesh = gone ∧
          KeepsBut [.mesh, .stks] s t)) ∧
        (fits → (∃ r ∈ x.reqs, r.meets q = true) → Runs (.stackWrite k i) s (fun t =>
          t.stk k = { x with reqs := x.reqs ++ [q] } ∧ StksBut [k.val] s t ∧ t.mesh = gone ∧ KeepsBut [.mesh, .stks] s t)) ∧
        (¬fits → Runs (.stackWrite k i) s (fun t => refused t ∧ t.mesh = gone ∧ KeepsBut [.regs, .mesh] s t)))) ∧
    (∀ (i : Nat) (q : StkReq) (key : Nat), s.pick k = some (.req i) → x.reqs[i]? = some q → q.kind = .read →
      q.src = .tile key → q.addr % 64 = 0 → x.st = .service → s.journalFirst k = false →
      (∀ l, q.addr / 64 ≤ l → l < q.addr / 64 + q.lines → l ∉ x.bad ∧ l ∉ x.corr ∧ l ∉ x.odie) →
      Runs (.readRsp k) s (fun t =>
        t.stk k = { x with reqs := dropAt x.reqs i, served := some q.input, openRows := (t.stk k).openRows
                           hits := (t.stk k).hits } ∧
        StksBut [k.val] s t ∧ KeepsBut [.mesh, .stks] s t ∧
        ∃ g px py, t.mesh.flights = s.mesh.flights ++ [g] ∧ g.loc = .router px py .edge ∧ g.poisoned = false ∧
          g.pkt.kind = 0x2 ∧ g.pkt.edge = false ∧ tileKey g.pkt.dx g.pkt.dy = key ∧ g.pkt.addr = q.dst ∧ g.pkt.ctr = q.ctr ∧
          g.pkt.tag = q.tag ∧ g.pkt.payload.flatMap (fun v => leBytes 8 v.toNat) = Mem.read x.mem q.addr (64 * q.lines)))) ∧
  (∀ (s : State) (off : BitVec 36) (k addr len : Nat), Linked s →
    let r4 := Instr.bar4Read off len
    let x := s.stk k
    let lines := (addr % 64 + len + 63) / 64
    let refused (t : State) : Prop :=
      t.rd (Reg.STK_REFUSED_COUNT k) = min (s.rd (Reg.STK_REFUSED_COUNT k) + 1) 0xFFFF_FFFF ∧
      t.rd (Reg.STK_REFUSED_SOURCE k) = 0x25 ∧ t.rd (Reg.STK_REFUSED_SRC_KIND k) = 2 ∧ RegsBut [Reg.STK_REFUSED k] s t
    let may (wr : Bool) : Prop := ∃ r, s.regionAt k (addr / 64 * 64) (64 * lines) = some r ∧
      s.allowed k r addr wr (.block 0x25) = true ∧ s.allowed k r (addr / 64 * 64 + 64 * lines - 1) wr (.block 0x25) = true
    let clear (j : Nat) : Prop := ∃ r, s.regionAt k ((addr + j) / 64 * 64) 64 = some r ∧ s.openLayout k r (addr + j) = false
    (s.bar4Map off.toNat = some (k, addr) → 1 ≤ len → x.st = .service → x.bad = [] → x.corr = [] → x.odie = [] →
      x.reqs = [] → x.copies = [] → x.retraining = none → s.journalFirst k = false → s.copyReady k = false →
      (may false → (∀ j < len, clear j) → Runs r4 s (fun t =>
        t.io.out = s.io.out ++ [.read (Mem.read x.mem addr len)] ∧ t.io.events = s.io.events ∧ (t.stk k).mem = x.mem ∧
        (t.stk k).reqs = [] ∧ StksBut [k] s t ∧ KeepsBut [.stks, .io] s t)) ∧
      (∀ bytes : List Byte, bytes.length = len → may true → Runs (.bar4Write off bytes) s (fun t =>
        Mem.read (t.stk k).mem addr len = bytes ∧ BytesBut addr len x.mem (t.stk k).mem ∧ (t.stk k).reqs = [] ∧
        StksBut [k] s t ∧ KeepsBut [.stks] s t))) ∧
    (s.bar4Map off.toNat = none →
      Runs r4 s (fun t => t.io.out = s.io.out ++ [.read (List.replicate len 0)] ∧ t.io.events = s.io.events ∧
        KeepsBut [.io] s t) ∧
      (∀ bytes : List Byte, bytes.length = len → exec (.bar4Write off bytes) s = .next s)) ∧
    (1 ≤ len → s.bar4Map off.toNat = some (k, addr) →
      (¬may false → Runs r4 s (fun t => t.io.out = s.io.out ++ [.read (List.replicate len 0)] ∧
        t.io.events = s.io.events ∧ refused t ∧ KeepsBut [.regs, .io] s t)) ∧
      (¬may true → ∀ bytes : List Byte, bytes.length = len →
        Runs (.bar4Write off bytes) s (fun t => refused t ∧ KeepsBut [.regs] s t))))

/-- Copies, the journal's double write, refresh and the scrubber: a copy lands at the partner when its turn comes there, and
is dropped where the partner is down; a journal line lands in both stacks of its pair, or in the one that is left, and a
control block is valid when its last line has; a scrub read, with nothing else to do, corrects, rewrites an uncorrectable
line from its copy, or posts it and leaves it, and moves on; a refresh closes the rows of its bank (R152, R161 to R164, R166,
R167, R173, R176, R177, R365).

Model's choices and readings it rests on: log entries 40, 43, 44, 129. -/
def Obligations.StackUpkeep : Prop :=
  ∀ (s : State) (k : StkNo),
    let x := s.stk k
    let p := partner k
    (∀ l bs rest, x.copies = .line l bs :: rest →
      ((s.stk p).st = .down → Runs (.mirrorCopy k) s (fun t => t.stk k = { x with copies := rest } ∧ StksBut [k.val] s t ∧
        KeepsBut [.stks] s t)) ∧
      (∀ a, (s.stk p).st = .service → s.journalFirst p = false → s.pick p = some .copy → s.copyAddr k l = some a →
        Runs (.mirrorCopy k) s (fun t => t.stk k = { x with copies := rest } ∧
          Mem.read (t.stk p).mem (a / 64 * 64) 64 = slice bs 0 64 ∧ BytesBut (a / 64 * 64) 64 (s.stk p).mem (t.stk p).mem ∧
          a / 64 ∉ (t.stk p).bad ∧ StksBut [k.val, p] s t ∧ KeepsBut [.stks] s t)) ∧
      ((s.stk p).st ≠ .down → (s.stk p).st ≠ .service → exec (.mirrorCopy k) s = .next s)) ∧
    (∀ key rest, x.copies = .snap key :: rest → (s.stk p).st = .service → s.journalFirst p = false →
      s.pick p = some .copy → Runs (.mirrorCopy k) s (fun t => t.stk k = { x with copies := rest } ∧
        t.snap key = { s.snap key with copied := true } ∧ (∀ j, j ≠ key → t.snap j = s.snap j) ∧
        StksBut [k.val, p] s t ∧ KeepsBut [.stks, .snaps] s t)) ∧
    (∀ n : Fin 8,
      let pr := s.jrn.pair n
      let up (j : Nat) : Prop := (s.stk j).st = .service
      let down (j : Nat) : Prop := (s.stk j).st = .down
      let becomes (y : Pair) (t : State) : Prop := t.jrn.pair n = y ∧
        (∀ q, q ≠ n.val → t.jrn.pair q = s.jrn.pair q) ∧ t.jrn = { s.jrn with pairs := t.jrn.pairs }
      (∀ l bs rest, pr.lineQ = .log l bs :: rest → s.journalHeld n (.log l bs) = false →
        let at_ (r : Region) : Nat := r.lo + 2 ^ 20 + 64 * (l % logLines)
        let holds (j : Nat) (t : State) : Prop := ∀ r, s.regionOf j 7 = some r →
          Mem.read (t.stk j).mem (at_ r) 64 = slice bs 0 64 ∧ BytesBut (at_ r) 64 (s.stk j).mem (t.stk j).mem
        let gone (t : State) : Prop := becomes (Pair.settled { pr with lineQ := rest }) t ∧ KeepsBut [.stks, .jrn] s t
        (up n → up (n.val + 8) → Runs (.journalLineWrite n) s (fun t =>
          holds n t ∧ holds (n.val + 8) t ∧ StksBut [n.val, n.val + 8] s t ∧ gone t)) ∧
        (up n → down (n.val + 8) → Runs (.journalLineWrite n) s (fun t => holds n t ∧ StksBut [n.val] s t ∧ gone t)) ∧
        (down n → up (n.val + 8) → Runs (.journalLineWrite n) s (fun t =>
          holds (n.val + 8) t ∧ StksBut [n.val + 8] s t ∧ gone t))) ∧
      (∀ b c m rest, pr.lineQ = .ctl b c m :: rest → up n → up (n.val + 8) →
        (m ≤ 1 → Runs (.journalLineWrite n) s (fun t => (if b then (t.jrn.pair n).ctlA else (t.jrn.pair n).ctlB) = { c with valid := true } ∧
          (t.jrn.pair n).tail = c.tail ∧ (t.jrn.pair n).lineQ = rest ∧ becomes (t.jrn.pair n) t ∧ KeepsBut [.jrn] s t)) ∧
        (1 < m → Runs (.journalLineWrite n) s (fun t =>
          (if b then (t.jrn.pair n).ctlA else (t.jrn.pair n).ctlB).valid = false ∧
          (t.jrn.pair n).lineQ = .ctl b c (m - 1) :: rest ∧ becomes (t.jrn.pair n) t ∧ KeepsBut [.jrn] s t))) ∧
      ((s.stk n).st ≠ .service → (s.stk (n.val + 8)).st ≠ .service → exec (.journalLineWrite n) s = .next s)) ∧
    (x.st = .service ∨ x.st = .training →
      let counted (t : State) : Prop := t.stk k = { x with refreshes := x.refreshes + 1, hot := decide (85 < x.temp)
                                                           openRows := (t.stk k).openRows, hits := (t.stk k).hits } ∧
        StksBut [k.val] s t ∧ KeepsBut [.stks] s t
      (∀ b : Fin 48, Runs (.refresh k b) s (fun t => counted t ∧
        ∀ j, NatMap.find (t.stk k).openRows j = if x.st = .training ∨ j % 48 = b.val then none else NatMap.find x.openRows j)) ∧
      Runs (.refreshManagement k) s (fun t => counted t ∧ (t.stk k).openRows = x.openRows)) ∧
    (x.st = .service → s.rd (Reg.STK_CTRL_SCRUB_EN k) = 1 → s.journalFirst k = false → s.pick k = none →
      x.retraining = none → ∀ r, s.regionAt k (x.scrubPos * 64) 64 = some r →
      let l := x.scrubPos
      let moved (n : Nat) (t : State) : Prop := (t.stk k).scrubPos = (l + 1) % stackLines ∧ StksBut [k.val] s t ∧
        t.rd (Reg.STK_ECC_COUNT_ODIE_CORR k) = min (s.rd (Reg.STK_ECC_COUNT_ODIE_CORR k) + b2n (x.odie.contains l)) (2 ^ 24 - 1) ∧
        t.rd (Reg.STK_ECC_COUNT_CTRL_CORR k) = min (s.rd (Reg.STK_ECC_COUNT_CTRL_CORR k) + b2n (x.corr.contains l)) (2 ^ 24 - 1) ∧
        t.rd (Reg.STK_ECC_COUNT_CTRL_UNCORR k) = min (s.rd (Reg.STK_ECC_COUNT_CTRL_UNCORR k) + n) (2 ^ 16 - 1) ∧
        RegsBut [Reg.STK_ECC_COUNT k, Reg.STK_ECC_ADDR k] s t
      let first (ok : Nat) (t : State) : Prop := s.rd (Reg.STK_ECC_ADDR_VALID k) = 0 →
        t.rd (Reg.STK_ECC_ADDR_ADDR k) = l * 64 % 2 ^ 37 ∧ t.rd (Reg.STK_ECC_ADDR_TYPE k) = r.typ % 16 ∧
        t.rd (Reg.STK_ECC_ADDR_COPY_OK k) = ok ∧ t.rd (Reg.STK_ECC_ADDR_VALID k) = 1
      (l ∉ x.bad → Runs (.scrubRead k) s (fun t => moved 0 t ∧ (t.stk k).mem = x.mem ∧ l ∉ (t.stk k).corr ∧
        l ∉ (t.stk k).odie ∧ (t.stk k).bad = x.bad ∧ KeepsBut [.regs, .stks] s t)) ∧
      (l ∈ x.bad → ∀ a, s.mirrorAddr k r (l * 64) = some a → (s.stk p).st = .service → a / 64 ∉ (s.stk p).bad →
        a / 64 ∉ (s.stk p).corr → a / 64 ∉ (s.stk p).odie →
        Runs (.scrubRead k) s (fun t => moved 1 t ∧ first 1 t ∧ l ∉ (t.stk k).bad ∧
          Mem.read (t.stk k).mem (l * 64) 64 = Mem.read (s.stk p).mem (a / 64 * 64) 64 ∧
          BytesBut (l * 64) 64 x.mem (t.stk k).mem ∧ KeepsBut [.regs, .stks] s t)) ∧
      (l ∈ x.bad → s.mirrorAddr k r (l * 64) = none → Runs (.scrubRead k) s (fun t => moved 1 t ∧ first 0 t ∧
        (t.stk k).bad = x.bad ∧ (t.stk k).mem = x.mem ∧
        t.io.events = s.io.events ++ [{ code := Code.stackEccUncorr, stop := false, source := Source.stk, loc := k, stream := none, time := s.now64, detail := BitVec.ofNat 64 (l * 64 + r.typ * 2 ^ 37 + 3 * 2 ^ 42) }] ∧
        KeepsBut [.regs, .stks, .io] s t))) ∧
    (Linked s → s.pdOn (66 + k.val) = true → Runs (.stknEccAddrClear k) s (fun t => t.reg (Reg.STK_ECC_ADDR k) = 0 ∧
      RegsBut [Reg.STK_ECC_ADDR k] s t ∧ KeepsBut [.regs] s t))

/-- Retraining: a trigger queues its channel once, in channel order: the host's write, a move of the temperature by
RETRAIN_DT since the channel was last trained, 64 corrections of the channel within 1 s; one channel of a stack retrains at a
time; in host-assisted mode the stack stops before it, and START, DEFER or the timeout answers; the stop after cold training
is answered by ACCEPT, RETRAIN or DOWN; a channel that fails takes its stack down (R169 to R171, R174, R178, R476).

Model's choices and readings it rests on: log entry 42. -/
def Obligations.StackTraining : Prop :=
  ∀ (s : State) (k : StkNo) (ch : Fin 32),
    let x := s.stk k
    let only (y : Stk) (t : State) : Prop := t.stk k = y ∧ StksBut [k.val] s t ∧ KeepsBut [.stks] s t
    let starts (c : Nat) (y : Stk) : Stk := { y with retraining := some c, lastCh := c }
    let downs (c : Nat) (host : Bool) (t : State) : Prop := (t.stk k).st = .down ∧ (t.stk k).retraining = none ∧
      (t.stk k).chDown = x.chDown ||| BitVec.ofNat 32 (2 ^ c) ∧ (t.stk k).mem = x.mem ∧ StksBut [k.val] s t ∧
      (∃ more, t.io.events = s.io.events ++ { code := Code.stackChannelDown, stop := false, source := Source.stk, loc := k, stream := none, time := s.now64, detail := BitVec.ofNat 64 (k.val + c * 2 ^ 4 + b2n host * 2 ^ 9) } :: more) ∧
      KeepsBut [.stks, .ibx, .jrn, .io] s t
    let queues (y : Stk) (t : State) : Prop :=
      (∀ c, c ∈ (t.stk k).retrainQ.map Prod.fst ↔ c = ch.val ∨ c ∈ x.retrainQ.map Prod.fst) ∧
      ((x.retrainQ.map Prod.fst).Pairwise (· < ·) → ((t.stk k).retrainQ.map Prod.fst).Pairwise (· < ·)) ∧
      t.stk k = { y with retrainQ := (t.stk k).retrainQ } ∧ StksBut [k.val] s t ∧ KeepsBut [.stks] s t
    let calm : Prop := s.assisted 3 = false ∨ x.retraining ≠ none ∨ x.stops ≠ []
    let moved (n : Nat) : Bool :=
      decide (s.rd (Reg.STK_CTRL_RETRAIN_DT k) ≤ max (x.trainedAt ch) (n % 256) - min (x.trainedAt ch) (n % 256))
    let erred : Prop := ∃ old, (NatMap.get x.corrAt [] ch)[63]? = some old ∧ s.devTime.toNat ≤ old + 1_000_000_000
    let auto : Prop := s.rd (Reg.STK_CTRL_RETRAIN_AUTO k) = 1
    (x.st = .service → x.queued ch = false → calm → (Linked s → Runs (.stknRetrain k ch) s (queues x)) ∧
      (∀ n, Runs (.retrainTrigger k ch .host n) s (queues x)) ∧
      (auto → erred → ∀ n, Runs (.retrainTrigger k ch .errors n) s (queues x)) ∧
      (auto → ∀ n, moved n = true → Runs (.retrainTrigger k ch .temperature n) s (queues { x with temp := n % 256 }))) ∧
    (¬(auto ∧ erred) → ∀ n, exec (.retrainTrigger k ch .errors n) s = .next s) ∧
    (∀ n, ¬(auto ∧ moved n = true) →
      Runs (.retrainTrigger k ch .temperature n) s (only { x with temp := n % 256 })) ∧
    (x.queued ch = true → exec (.stknRetrain k ch) s = .next s) ∧
    (Linked s → x.st = .service → s.assisted 3 = true → x.retraining = none → x.stops = [] → x.deferred = [] →
      x.retrainQ = [] → Runs (.stknRetrain k ch) s (fun t =>
        t.stk k = { x with stops := [{ kind := 1, ch := ch, why := .host, failed := 0 }] } ∧ StksBut [k.val] s t ∧
        t.io.events = s.io.events ++ [{ code := 0x0B04, stop := true, source := Source.stk, loc := k, stream := none, time := s.now64, detail := BitVec.ofNat 64 (k.val + ch.val * 2 ^ 4 + 2 ^ 9 + 2 * 2 ^ 10 + x.margin * 2 ^ 12) }] ∧
        KeepsBut [.stks, .io] s t)) ∧
    (∀ c w rest, x.retrainQ = (c, w) :: rest → x.st = .service → x.stops = [] →
      (x.retraining = none → s.assisted 3 = false → Runs (.retrain k) s (only (starts c { x with retrainQ := rest }))) ∧
      (x.retraining = none → s.assisted 3 = true → Runs (.retrain k) s (fun t =>
        t.stk k = { x with retrainQ := rest, stops := [{ kind := 1, ch := c, why := w, failed := 0 }] } ∧
        StksBut [k.val] s t ∧ (∃ e, t.io.events = s.io.events ++ [e] ∧ e.code = 0x0B04 ∧ e.stop = true) ∧
        KeepsBut [.stks, .io] s t)) ∧
      (x.retraining ≠ none → exec (.retrain k) s = .next s)) ∧
    (∀ c, x.retraining = some c →
      (x.stops = [] → x.retrainQ = [] → Runs (.retrainComplete k true) s
        (only { x with retraining := none, chTemp := NatMap.ins x.chTemp c x.temp })) ∧
      (x.stops = [] → Runs (.retrainComplete k false) s (downs c false)) ∧
      (∀ st rest ok, x.stops = st :: rest → st.kind = 0 → Runs (.retrainComplete k ok) s (fun t =>
        ∃ fl : BitVec 32, only { x with retraining := none, stops := { st with failed := fl } :: rest } t ∧
          ∀ i, fl.getLsbD i = if i = c ∧ i < 32 then !ok else st.failed.getLsbD i))) ∧
    (∀ st rest, x.stops = st :: rest →
      (st.kind = 0 → st.failed = 0 →
        let up : Stk := { x with stops := rest, st := .service, retraining := none, trainTemp := x.temp, chTemp := [], corrAt := [] }
        Runs (.stackStopTimeout k) s (only up) ∧ (Linked s → Runs (.stackAccept k) s (only up))) ∧
      (st.kind = 0 → ∀ i < 32, st.failed = BitVec.ofNat 32 (2 ^ i) → Runs (.stackStopTimeout k) s (downs i false) ∧
        (Linked s → Runs (.stackAccept k) s (downs i false))) ∧
      (Linked s → st.kind = 0 → Runs (.stackRetrain k ch) s (only (starts ch x)) ∧
        Runs (.stackDown k ch) s (fun t => (t.stk k).st = .down ∧ (t.stk k).stops = rest ∧ (t.stk k).mem = x.mem ∧
          (∀ i, i < 32 → (t.stk k).chDown.getLsbD i = (x.chDown.getLsbD i || decide (i = ch.val) || st.failed.getLsbD i)) ∧
          StksBut [k.val] s t ∧ KeepsBut [.stks, .ibx, .jrn, .io] s t)) ∧
      (st.kind = 1 → Runs (.stackStopTimeout k) s (only (starts st.ch { x with stops := rest })) ∧
        (Linked s → Runs (.stackStart k) s (only (starts st.ch { x with stops := rest }))) ∧
        (Linked s → ∀ ms : BitVec 10, (1 ≤ ms.toNat ∧ ms.toNat ≤ 1000 → x.retrainQ = [] → Runs (.stackDefer k ms) s
            (only { x with stops := rest, deferred := x.deferred ++ [(st.ch, st.why)] })) ∧
          (¬(1 ≤ ms.toNat ∧ ms.toNat ≤ 1000) → exec (.stackDefer k ms) s = .next s)))) ∧
    (x.stops = [] → exec (.stackStopTimeout k) s = .next s ∧ exec (.stackAccept k) s = .next s ∧
      exec (.stackRetrain k ch) s = .next s ∧ exec (.stackDown k ch) s = .next s ∧ exec (.stackStart k) s = .next s ∧
      ∀ ms, exec (.stackDefer k ms) s = .next s) ∧
    (∀ c w rest, x.deferred = (c, w) :: rest → x.retraining = none →
      Runs (.deferExpire k) s (only (starts c { x with deferred := rest })))

/-! ### The image loader and the fuses (R180 to R207) -/

/-- The fuse commands: a slot takes its digest only while no image has been committed since the last cold reset and while it is
blank and unrevoked; a slot is revoked, but for the last one that is programmed and unrevoked; a command that breaks these
conditions, or its key, sets FUSE_FAIL and changes nothing else. MIN_SVN counts the bits of the 64-bit thermometer (R192). -/
def Obligations.FuseCommands : Prop :=
  ∀ s : State,
    (∀ (k : Fin 4) (c : BitVec 16), Linked s →
      let answered (done fail : Nat) (t : State) : Prop := t.rd Reg.IMG_KEY_STATUS_FUSE_DONE = done ∧
        t.rd Reg.IMG_KEY_STATUS_FUSE_FAIL = fail ∧ RegsBut [Reg.IMG_KEY_STATUS] s t
      let may : Prop := c = 0xA5F0 ∧ s.img.everCommitted = false ∧ s.fuses.slot k = none ∧ s.fuses.isRevoked k = false
      let last : Prop := s.fuses.live k = true ∧ ∀ j : Fin 4, j ≠ k → s.fuses.live j = false
      (may → Runs (.fuseProgram k c) s (fun t => answered 1 0 t ∧ t.fuses.slot k = some s.fuseData ∧
        (∀ j : Fin 4, j ≠ k → t.fuses.slot j = s.fuses.slot j) ∧ t.fuses.revoked = s.fuses.revoked ∧
        t.fuses.thermo = s.fuses.thermo ∧ KeepsBut [.regs, .fuses] s t)) ∧
      (¬may → Runs (.fuseProgram k c) s (fun t => answered 0 1 t ∧ KeepsBut [.regs] s t)) ∧
      (c = 0xA5F0 ∧ ¬last → Runs (.fuseRevoke k c) s (fun t => answered 1 0 t ∧
        (∀ j : Fin 4, t.fuses.isRevoked j = (decide (j = k) || s.fuses.isRevoked j)) ∧
        (∀ j : Fin 4, t.fuses.slot j = s.fuses.slot j) ∧ t.fuses.thermo = s.fuses.thermo ∧ KeepsBut [.regs, .fuses] s t)) ∧
      (¬(c = 0xA5F0 ∧ ¬last) → Runs (.fuseRevoke k c) s (fun t => answered 0 1 t ∧ KeepsBut [.regs] s t))) ∧
    s.fuses.minSvn = ((List.range 64).filter (fun i => s.fuses.thermo.getLsbD i)).length ∧
    (∀ t : State, exec .coldReset s = .next t → t.img.everCommitted = false)

/-- START and ABORT, a relayed part of an image, and the reload of a resident entry: what each does when its conditions hold,
and what it leaves otherwise; while a load runs, the host writes nothing into the staging area (R195, R196, R201). The
manager sends a part of an image to a worker while it holds a credit of it (R44, R46).

Model's choices and readings it rests on: log entries 66, 70, 106. -/
def Obligations.LoadCommands : Prop :=
  ∀ s : State,
    let clean : Prop := ∀ k, (s.stk k).bad = [] ∧ (s.stk k).corr = [] ∧ (s.stk k).odie = []
    (Linked s → (s.img.phase = .idle ∨ s.img.phase = .done →
      Runs .start s (fun t => t.img = { s.img with phase := .verify, loading := none } ∧ KeepsBut [.img] s t)) ∧
      (¬(s.img.phase = .idle ∨ s.img.phase = .done) → Runs .start s (fun t => t.rd Reg.IMG_LOAD_STATUS_REJECTED = 1 ∧
        RegsBut [Reg.IMG_LOAD_STATUS] s t ∧ KeepsBut [.regs] s t)) ∧
      (s.img.phase = .verify → Runs .abort s (fun t => t.img = { s.img with phase := .idle, loading := none } ∧
        KeepsBut [.img] s t)) ∧
      (s.img.phase ≠ .verify → exec .abort s = .next s)) ∧
    (s.img.phase ≠ .idle → s.img.phase ≠ .done → ∀ (r : Region) (a : Nat), 0xF_C000_0000 ≤ a → a < 0x10_0000_0000 →
      s.allowed 0 r a true (.block 0x25) = false) ∧
    (∀ (w : Fin 256) (off : Nat) (bytes : List Byte),
      (s.role = 2 → s.waferIndex = w.val → off % 64 = 0 → bytes.length % 64 = 0 → off + bytes.length ≤ 2 ^ 30 →
        s.loadBusy = false → (s.stk 0).st = .service → Runs (.imageRelay ⟨w, off⟩ bytes) s (fun t =>
          Mem.read (t.stk 0).mem (stagingBase + off) bytes.length = bytes ∧
          BytesBut (stagingBase + off) bytes.length (s.stk 0).mem (t.stk 0).mem ∧ StksBut [0] s t ∧ KeepsBut [.stks] s t)) ∧
      (s.role = 2 → s.loadBusy = true → exec (.imageRelay ⟨w, off⟩ bytes) s = .next s) ∧
      (s.role = 1 → s.htOn = true → bytes.length ≤ 2 ^ 32 →
        (0 < (s.peer w).credits → Runs (.imageRelay ⟨w, off⟩ bytes) s (fun t => ∃ q : Word,
          let msg : HtMsg := { peer := w, seq := q, body := .image off bytes }
          (t.peer w).unacked = (s.peer w).unacked ++ [(s.htTakes, msg)] ∧ (t.peer w).credits = (s.peer w).credits - 1 ∧
          (∀ v, v ≠ w.val → t.peer v = s.peer v) ∧
          (∀ m, (t.mac m).ht = (s.mac m).ht ++ (if m = s.htTakes ∧ m < 16 then [.msg msg] else [])) ∧
          KeepsBut [.macs, .jrn] s t)) ∧
        ((s.peer w).credits = 0 → exec (.imageRelay ⟨w, off⟩ bytes) s = .next s))) ∧
    (clean → s.bru.warm = true → s.bru.stage = 3 → s.bru.waitImage = false →
      (s.residentOk = true → exec (.residentReload none) s = .next s) ∧
      (s.residentOk = false → Runs (.residentReload none) s (fun t => t.bru = { s.bru with waitImage := true } ∧
        t.io.events.map Event.code = s.io.events.map Event.code ++ [Code.imageCrc] ∧ KeepsBut [.bru, .io] s t))) ∧
    (∀ h : HerdNo, clean → (s.stk (s.homeStack h)).st = .service → s.flt.st = .reload → h.val ∈ s.flt.reload → AtRest s h →
      let l := (s.herdEntry h).sects
      ((s.herdEntry h).bad ≠ none → Runs (.residentReload (some h)) s (fun t =>
        (t.herd h).st = .faulted ∧ (t.herd h).fault = Code.imageCrc ∧ HerdsBut h s t ∧
        t.io.events.map Event.code = s.io.events.map Event.code ++ [Code.imageCrc] ∧ KeepsBut [.herds, .io] s t)) ∧
      ((s.herdEntry h).bad = none → Runs (.residentReload (some h)) s (fun t =>
        (t.herd h).st = .loaded ∧ (t.herd h).hasProg = (sectOf l SecType.tilePrograms h).isSome ∧
        (t.herd h).seq = ((sectOf l SecType.herdSeq h).map seqWords).getD [] ∧ HerdsBut h s t ∧
        (∀ p, sectOf l SecType.tilePrograms h = some p → ∀ x y, x < 32 → y < 32 →
          let u := t.tile (tileKey (h % 32 * 32 + x) (h / 32 * 32 + y))
          let b := (nthD p (8 + y * 32 + x) 0).toNat
          u.hasProg = decide (b ≠ 0xFE) ∧ u.run = .fresh ∧ u.pc = 0 ∧
          (b < 0xFE → u.prog = Mem.write [] 0 (slice p (fld p (1032 + 8 * b) 4) (fld p (1036 + 8 * b) 4))) ∧
          (b = 0xFF → u.prog = Mem.write [] 0 s.bru.fw)) ∧
        t.io = s.io ∧ KeepsBut [.tiles, .herds, .mesh] s t)))

/-- VERIFY accepts only what the fuses authorise: the image that a load goes on with is, whole, the signed span that the
staging area holds; the key that signed it has its digest in a programmed, unrevoked slot; its SVN is at least MIN_SVN; each
section's payload has its CRC; and PHASE goes on by the image's kind. A rejected image ends the load in IDLE, with FAIL and
one event record (R192 to R194).

Model's choices and readings it rests on: log entries 60, 61, 62. -/
def Obligations.OnlyAuthenticImagesPass : Prop :=
  ∀ s : State, s.img.phase = .verify →
    (s.stk 0).st = .service → (s.stk 0).bad = [] → (s.stk 0).corr = [] → (s.stk 0).odie = [] →
    let mem := (s.stk 0).mem
    let size := fld (Mem.read mem stagingBase 256) 0x10 8
    let sig := Mem.read mem (stagingBase + size) 128
    let img := Mem.read mem stagingBase size
    (∃ g : Image, Runs .verify s (fun t =>
      t.img = { s.img with phase := if g.whole then .commit else .herdLoad, loading := some g, shaped := false } ∧ KeepsBut [.img] s t) ∧
      s.fuses.live g.slot = true ∧ s.fuses.slot g.slot = some (digestBits (sha512 (slice sig 0 32))) ∧
      Ed.verify (slice sig 0 32) (sha512 img) (slice sig 32 64) = true ∧ g.digest = digestBits (sha512 img) ∧
      s.fuses.minSvn ≤ g.svn ∧ (∀ x ∈ g.sects, crc32c x.payload = x.crc) ∧
      g.whole = decide (fld img 0x06 2 = 1) ∧ (g.whole = false → s.img.committed ≠ none)) ∨
    (∃ code sub, Runs .verify s (fun t => t.img = { s.img with phase := .idle, loading := none } ∧
      t.rd Reg.IMG_LOAD_STATUS_FAIL = 1 ∧ t.rd Reg.IMG_LOAD_STATUS_CODE = code ∧ t.rd Reg.IMG_LOAD_STATUS_SUB = sub ∧
      RegsBut [Reg.IMG_LOAD_STATUS] s t ∧ t.io.events.map Event.code = s.io.events.map Event.code ++ [code] ∧
      KeepsBut [.regs, .img, .io] s t) ∧
      (code = Code.imageAuth ∨ code = Code.imageCrc ∨ code = Code.imageTarget) ∧ 1 ≤ sub ∧ sub ≤ 9)

/-- What a load installs. COMMIT, once no parse context is in use, makes the verified whole image the committed one: its
digest, slot and SVN, what its resident copies hold and its partition map, the lock of the RWL fields; with ADVANCE_SVN its
SVN is burnt; snapshots stay of use only to an image of the same digest. BROADCAST starts the management cores and gives the
common firmware to every powered tile; HERD_LOAD ends the load. A partial load puts its targets in RESHAPING, with the
sections that it carries in their resident entries and their snapshots void, and then loads each from its entry and ends; it
leaves every other herd, with its tiles, its resident entry and its snapshots, as they were (R186, R193, R197 to R206, R412).

Model's choices and readings it rests on: log entries 66, 67, 68, 69. -/
def Obligations.LoadsInstall : Prop :=
  (∀ (s : State) (g : Image), s.img.phase = .commit → s.img.loading = some g → s.contextsFree = true →
    (∀ p, sectOf g.sects SecType.registerInit 0 = some p → ∀ r ∈ recsOf 16 p, fld r 0 4 % 8 = 0 ∧ plainReg (fld r 0 4) = true) →
    let role := ((sectOf g.sects SecType.role 0).getD [])
    let same : Prop := s.img.committed.map Committed.digest = some g.digest
    let told (l : List Sect) : List (Nat × Nat × Nat × BitVec 32) := l.map (fun x => (x.typ, x.inst, x.payload.length, x.crc))
    let kept (l : List ResSect) : List (Nat × Nat × Nat × BitVec 32) := l.map (fun x => (x.typ, x.inst, x.size, x.crc))
    Runs .commit s (fun t => t.img.phase = .broadcast ∧
      t.img.committed = some { digest := g.digest, svn := g.svn, slot := g.slot, role := fld role 0 1, index := fld role 2 2 } ∧
      t.img.everCommitted = true ∧
      kept t.img.resident = told (g.sects.filter (fun x => decide (x.scope = 0 ∨ x.scope = 2))) ∧
      (∀ h < 1024, kept (NatMap.get t.img.herdRes ResEntry.none h).sects =
        told (g.sects.filter (fun x => decide (x.scope = 1 ∧ x.inst = h)))) ∧
      t.locked = true ∧ t.pmap = (sectOf g.sects SecType.partitionMap 0).map pmapOf ∧
      t.fuses = (if g.advance then s.fuses.advance g.svn else s.fuses) ∧ t.flt.st = .idle ∧ t.flt.held = [] ∧
      t.bru.waitImage = false ∧ (s.bru.frozen = true ∧ s.bru.stage = 3 → t.bru.stage = 4) ∧
      (same → t.snaps = s.snaps ∧ t.herds = s.herds ∧ t.jrn.committed = s.jrn.committed) ∧
      (¬same → t.snaps = [] ∧ t.jrn.committed = [] ∧ ∀ h, (t.herd h).committed = false ∧ (t.herd h).st = (s.herd h).st) ∧
      t.tiles = s.tiles ∧ t.jtag = s.jtag ∧ t.pending = s.pending)) ∧
  (∀ s : State, s.contextsFree = false → exec .commit s = .next s) ∧
  (∀ (n : Nat) (f : Fuses), f.minSvn ≤ n → n ≤ 63 → (f.advance n).minSvn = n ∧ (f.advance n).revoked = f.revoked ∧
    ∀ k, (f.advance n).slot k = f.slot k) ∧
  (∀ (s : State) (missed : List (Nat × Nat)), s.mayBroadcast = true →
    let fw := (s.residentSect SecType.commonTileFw 0).getD []
    Runs (.broadcast ⟨missed, []⟩) s (fun t => t.bru.fw = fw ∧ t.bru.bcastNo = (s.bru.bcastNo + 1) % 256 ∧ t.bru.bcastOn = true ∧
      t.bru.round = 0 ∧ t.bru.copies = [] ∧ (missed = [] → t.bru.missing = []) ∧
      (∀ k, NatMap.get t.bru.missing 0 k ≠ 0 → s.takesBcast k = true ∧ ∃ e ∈ missed, e.1 = k) ∧
      (∀ p, s.residentSect SecType.mgmtFw 0 = some p → t.bru.mgmt.mem = Mem.write [] 0 p ∧
        t.bru.mgmt.cores = [⟨0, 0⟩, ⟨0, 1⟩, ⟨0, 2⟩, ⟨0, 3⟩]) ∧
      t.rd Reg.BRU_BCAST_STAT_NUMBER = t.bru.bcastNo ∧ t.rd Reg.BRU_BCAST_STAT_MISSING = t.bru.missing.length % 2 ^ 21 ∧
      RegsBut [Reg.BRU_BCAST_STAT] s t ∧ KeepsBut [.regs, .bru] s t)) ∧
  (∀ s : State, s.mayBroadcast = false → ∀ b, exec (.broadcast b) s = .next s) ∧
  (∀ s : State, s.mayHerdLoad = true → Runs .herdLoad s (fun t =>
    (s.img.phase = .broadcast → t.img = { s.img with phase := .done, loading := none } ∧ t.rd Reg.IMG_LOAD_STATUS_DONE = 1) ∧
    (s.img.phase ≠ .broadcast → t.img = s.img) ∧ t.bru.stage = (if s.bru.stage = 7 then 7 else 6) ∧
    t.bru.release = decide (s.bru.stage = 7) ∧ t.bru.bcastOn = false ∧ t.host = s.host ∧ t.pmap = s.pmap ∧
    t.fuses = s.fuses ∧ t.macs = s.macs ∧ t.time = s.time ∧ t.pending = s.pending)) ∧
  (∀ (s : State) (g : Image), s.img.phase = .herdLoad → s.img.loading = some g → (∀ h ∈ g.targets, h < 1024) →
    let others (t : State) : Prop := ∀ h, h ∉ g.targets → t.herd h = s.herd h ∧
      NatMap.get t.img.herdRes ResEntry.none h = NatMap.get s.img.herdRes ResEntry.none h ∧
      (∀ e, t.snap (snapKey h e) = s.snap (snapKey h e)) ∧ ∀ k, herdOfKey k = h → t.tile k = s.tile k
    (s.img.shaped = false → Runs .reshaping s (fun t => t.img.phase = .herdLoad ∧ t.img.shaped = true ∧
      t.img.loading = some g ∧ t.img.committed = s.img.committed ∧ t.fuses = s.fuses ∧ t.pmap = s.pmap ∧ t.tiles = s.tiles ∧
      (∀ h ∈ g.targets, (t.herd h).st = .reshaping ∧ (t.herd h).reshaped = true ∧
        (∀ e, (t.snap (snapKey h e)).valid = false) ∧
        (∀ x ∈ g.sects, x.scope = 1 → x.inst = h → ∃ e ∈ (NatMap.get t.img.herdRes ResEntry.none h).sects,
          e.typ = x.typ ∧ e.size = x.payload.length ∧ e.crc = x.crc)) ∧ others t)) ∧
    (s.img.shaped = true → g.autoRelease = false →
      (∀ k, (s.stk k).bad = [] ∧ (s.stk k).corr = [] ∧ (s.stk k).odie = []) →
      (∀ h ∈ g.targets, (s.stk (s.homeStack h)).st = .service ∧
        ∀ x ∈ (s.herdEntry h).sects, x.typ = SecType.tileInit → checkInit x.payload = true) →
      Runs .reshaping s (fun t => t.img.phase = .done ∧ t.img.loading = none ∧ t.rd Reg.IMG_LOAD_STATUS_DONE = 1 ∧
        t.img.committed = s.img.committed ∧ t.fuses = s.fuses ∧ t.pmap = s.pmap ∧
        (∀ h ∈ g.targets, (s.herd h).st = .reshaping →
          ((s.herdEntry h).bad = none → (t.herd h).st = .loaded) ∧
          ((s.herdEntry h).bad ≠ none → (t.herd h).st = .faulted ∧ (t.herd h).fault = Code.imageCrc)) ∧ others t)))

/-! ### Frame MACs (R208 to R234, R285 to R289, R404, R405) -/

/-- A received frame is turned away during COMMIT and a quiesce; a control frame, one not addressed here, and those of the
fixed matches never reach a queue; any other goes to the queue that the filter rules choose, in cells from the queue's
reserve or the shared pool, or is dropped whole and counted; a DEST 1 frame takes a parse context as well, or is not scored
(R212, R215 to R223, R242, R243). What the lanes of a MAC of the gang corrected counts at that MAC (R209, R233).

Model's choices and readings it rests on: log entries 48, 75. -/
def Obligations.FramesAreReceived : Prop :=
  ∀ (s : State) (m : MacNo) (w : WireFrame), s.macUp m = true → (s.mac m).rx = none →
    let f := s.rxFrame m w
    let open_ : Prop := s.img.phase ≠ .commit ∧ s.pwr.quiesce = false ∧ f.etype ≠ 0x8808 ∧ s.daOk m w.bytes = true
    let rx (way : RxWay) (g : Frame) (t : State) : Prop := (t.mac m).rx = some { frame := g, way := way, dest1 := false } ∧
      (t.mac m).nextId = (s.mac m).nextId + 1 ∧ (t.mac m).queues = (s.mac m).queues ∧ MacsBut m s t
    let counted (i : Nat) (t : State) : Prop :=
      t.rd (Reg.MAC_STAT_COUNT m i) = min (s.rd (Reg.MAC_STAT_COUNT m i) + 1) (2 ^ 48 - 1)
    let dropped (q : Nat) (t : State) : Prop :=
      t.rd (Reg.MAC_QUEUE_STAT_DROPS m q) = min (s.rd (Reg.MAC_QUEUE_STAT_DROPS m q) + 1) 0xFFFF_FFFF
    let fecs : List Nat := w.fec.flatMap (fun c =>
      [Reg.MAC_STAT c.mac Reg.FEC_CORR_CW, Reg.MAC_STAT c.mac Reg.FEC_UNCORR_CW, Reg.MAC_STAT c.mac Reg.FEC_SYMBOLS])
    let regs (l : List Nat) (t : State) : Prop := RegsBut (l ++ fecs) s t ∧ KeepsBut [.regs, .macs] s t
    let runs (P : State → Prop) : Prop := Runs (.frameReceive m w) s P
    (s.img.phase = .commit ∨ s.pwr.quiesce = true → runs (fun t => rx .disabled f t ∧ counted Reg.RX_OVERFLOW_DROP t ∧
      regs [Reg.MAC_STAT m Reg.RX_OVERFLOW_DROP] t)) ∧
    (s.img.phase ≠ .commit → s.pwr.quiesce = false → f.etype = 0x8808 → runs (fun t => rx .control f t ∧ regs [] t)) ∧
    (s.img.phase ≠ .commit → s.pwr.quiesce = false → f.etype ≠ 0x8808 → s.daOk m w.bytes = false →
      runs (fun t => rx .dropDa f t ∧ counted Reg.RX_DA_DROP t ∧ regs [Reg.MAC_STAT m Reg.RX_DA_DROP] t)) ∧
    (open_ → s.isHt w.bytes = true → runs (fun t => rx .ht f t ∧ regs [] t)) ∧
    (open_ → s.isHt w.bytes = false → s.rd (Reg.MAC_CTRL_PTP_MGMT m) = 1 → isPtp w.bytes = true →
      runs (fun t => rx .ptp f t ∧ regs [] t)) ∧
    (open_ → s.isHt w.bytes = false → s.rd (Reg.MAC_CTRL_PTP_MGMT m) = 0 ∨ isPtp w.bytes = false →
      let q := s.chooseQueue m w.bytes f.prio
      let dest := s.rd (Reg.MAC_QUEUE_CFG_DEST m q)
      let fb := s.rd (Reg.MAC_QUEUE_CFG_FALLBACK m q)
      let k := ceilDiv f.slen 256
      (dest = 0 → runs (fun t => rx .disabled { f with queue := q } t ∧ dropped q t ∧ regs [Reg.MAC_QUEUE_STAT m q] t)) ∧
      (1 < dest → runs (fun t =>
        (rx .queued { f with queue := q, cellQ := q, cells := k } t ∧ t.queueUsed m q = s.queueUsed m q + k ∧ regs [] t ∨
          rx .overflow { f with queue := q, cellQ := q } t ∧ t.queueUsed m q = s.queueUsed m q ∧ counted Reg.RX_OVERFLOW_DROP t ∧
            dropped q t ∧ regs [Reg.MAC_STAT m Reg.RX_OVERFLOW_DROP, Reg.MAC_QUEUE_STAT m q] t ∧
            s.minCells m q < s.queueUsed m q + k) ∧
        (∀ q', q' ≠ q → t.queueUsed m q' = s.queueUsed m q'))) ∧
      (dest = 1 → runs (fun t => (∃ g way, (t.mac m).rx = some { frame := g, way := way, dest1 := true } ∧
          g.id = f.id ∧ g.queue = q ∧ g.cellQ = fb ∧ (way = .queued ∧ g.cells = k ∨ way = .overflow ∧ g.cells = 0)) ∧
        (∀ c, (List.range (s.ctxCount m)).find? (fun c => (s.ctx m c).isNone) = some c →
          t.ctx m c = some (Ctx.start { f with queue := q, bytes := w.bytes } (s.rd (Reg.MAC_QUEUE_CFG_ARG m q)) false) ∧
          t.scoreOf m f.id = .parsing) ∧
        ((List.range (s.ctxCount m)).find? (fun c => (s.ctx m c).isNone) = none → t.scoreOf m f.id = .fallback 1 ∧
          (t.prh m).ctxs = (s.prh m).ctxs) ∧ MacsBut m s t ∧ KeepsBut [.regs, .macs, .prhs, .io] s t))) ∧
    (∀ c : FecCount, w.fec = [c] → c.mac.val ∈ s.gangOf m →
      let more (i n : Nat) (t : State) : Prop :=
        t.rd (Reg.MAC_STAT_COUNT c.mac i) = min (s.rd (Reg.MAC_STAT_COUNT c.mac i) + n) (2 ^ 48 - 1)
      runs (fun t => more Reg.FEC_CORR_CW c.corr t ∧ more Reg.FEC_UNCORR_CW c.uncorr t ∧ more Reg.FEC_SYMBOLS c.symbols t))

/-- At its verdict a frame is counted in exactly one counter; a good one, or a bad one that its queue delivers (no DEST 2
queue does, R294), joins its queue in the order of tails, and any other gives its cells back. The queue's first frame goes to its destination: a receive
ring's next entry, unless the ring is full, or the journal, unless it takes no item (R212 to R214, R219 to R222, R356,
R466, R469).

Model's choices and readings it rests on: log entries 8, 135. -/
def Obligations.FramesAreDelivered : Prop :=
  (∀ (s : State) (m : MacNo) (x : RxNow), (s.mac m).rx = some x →
    let f := x.frame
    let kinds := [Reg.RX_FRAMES_OK, Reg.RX_FCS_ERR, Reg.RX_RUNT, Reg.RX_OVERSIZE, Reg.RX_PCS_ERR, Reg.RX_TRUNC]
    let kind := if f.len < 64 then Reg.RX_RUNT else if f.trunc then Reg.RX_TRUNC else if f.pcsErr then Reg.RX_PCS_ERR
      else if f.oversize then Reg.RX_OVERSIZE else if f.fcsErr then Reg.RX_FCS_ERR else Reg.RX_FRAMES_OK
    let counted (t : State) : Prop := (t.mac m).rx = none ∧ MacsBut m s t ∧ ∀ i ∈ kinds, t.rd (Reg.MAC_STAT_COUNT m i) =
      (if i = kind then min (s.rd (Reg.MAC_STAT_COUNT m i) + 1) (2 ^ 48 - 1) else s.rd (Reg.MAC_STAT_COUNT m i))
    (x.dest1 = false → x.way = .queued →
      let takes : Prop := f.good = true ∨ (64 ≤ f.len ∧ s.rd (Reg.MAC_QUEUE_CFG_BAD_DELIVER m f.queue) = 1 ∧
        s.rd (Reg.MAC_QUEUE_CFG_DEST m f.queue) ≠ 2)
      (takes → Runs (.fcsVerdict m) s (fun t => counted t ∧
        NatMap.get (t.mac m).queues [] f.queue = insertFrame (NatMap.get (s.mac m).queues [] f.queue) f ∧
        (∀ q, q ≠ f.queue → NatMap.get (t.mac m).queues [] q = NatMap.get (s.mac m).queues [] q) ∧
        (t.mac m).used = (s.mac m).used ∧ KeepsBut [.regs, .macs] s t)) ∧
      (¬takes → Runs (.fcsVerdict m) s (fun t => counted t ∧ (t.mac m).queues = (s.mac m).queues ∧
        t.queueUsed m f.cellQ = s.queueUsed m f.cellQ - f.cells ∧ KeepsBut [.regs, .macs] s t))) ∧
    (x.dest1 = false → x.way = .dropDa ∨ x.way = .overflow ∨ x.way = .disabled → Runs (.fcsVerdict m) s (fun t => counted t ∧
      (t.mac m).queues = (s.mac m).queues ∧ (t.mac m).used = (s.mac m).used ∧ KeepsBut [.regs, .macs] s t)) ∧
    (x.dest1 = false → x.way = .control → be16 f.bytes (14 + 4 * f.tags) = 1 → Runs (.fcsVerdict m) s (fun t => counted t ∧
      t.rd (Reg.MAC_STAT_COUNT m Reg.RX_PAUSE) = min (s.rd (Reg.MAC_STAT_COUNT m Reg.RX_PAUSE) + 1) (2 ^ 48 - 1) ∧
      (t.mac m).ctl = (s.mac m).ctl ++ (if f.good then [{ mask := 0, quanta := [be16 f.bytes (14 + 4 * f.tags + 2)] }] else []) ∧
      KeepsBut [.regs, .macs] s t)) ∧
    (x.dest1 = true → (s.scoreOf m f.id = .parsing ∨ s.scoreOf m f.id = .handed) → Runs (.fcsVerdict m) s (fun t => counted t ∧
      (t.mac m).held = (s.mac m).held ++ [f] ∧ (t.prh m).scores = (s.prh m).scores ∧
      (∀ e ∈ (t.prh m).ctxs, e.2.frame.id = f.id → e.2.tail = true) ∧ KeepsBut [.regs, .macs, .prhs] s t)) ∧
    (∀ r, x.dest1 = true → s.scoreOf m f.id = .fallback r → f.good = true → 0 < f.cells → Runs (.fcsVerdict m) s (fun t =>
      counted t ∧ t.scoreOf m f.id = .none ∧ NatMap.get (t.mac m).queues [] f.cellQ =
        insertFrame (NatMap.get (s.mac m).queues [] f.cellQ) { f with queue := f.cellQ, reason := r } ∧
      KeepsBut [.regs, .macs, .prhs] s t))) ∧
  (∀ (s : State) (m : MacNo) (q : Fin 16) (f : Frame) (rest : List Frame), NatMap.get (s.mac m).queues [] q = f :: rest →
    s.mayPrecede m q f.id = false → s.macPowered m = true →
    let dest := s.rd (Reg.MAC_QUEUE_CFG_DEST m q)
    let arg := s.rd (Reg.MAC_QUEUE_CFG_ARG m q)
    let gone (t : State) : Prop := NatMap.get (t.mac m).queues [] q = rest ∧ MacsBut m s t ∧
      t.queueUsed m f.cellQ = s.queueUsed m f.cellQ - f.cells ∧
      RegsBut [Reg.MAC_QUEUE_STAT m q, Reg.MAC_STAT m Reg.RX_BAD_DELIVERED] s t
    let x := s.ring .receive arg
    (dest = 4 → x.full = false → 32 + f.bytes.length ≤ x.bytes .receive → Runs (.queueDeliver m q) s (fun t => gone t ∧
      t.ring .receive arg = { x with prod := x.prod + 1 } ∧
      t.host.bar2 = Mem.write s.host.bar2 (x.entry .receive x.prod) (rxEntry m f) ∧
      t.rd (Reg.MAC_QUEUE_STAT_FRAMES m q) = min (s.rd (Reg.MAC_QUEUE_STAT_FRAMES m q) + 1) 0xFFFF_FFFF ∧
      KeepsBut [.regs, .macs, .host] s t)) ∧
    (dest = 4 → x.full = false → x.bytes .receive < 32 + f.bytes.length → Runs (.queueDeliver m q) s (fun t => gone t ∧
      t.rd (Reg.MAC_QUEUE_STAT_DROPS m q) = min (s.rd (Reg.MAC_QUEUE_STAT_DROPS m q) + 1) 0xFFFF_FFFF ∧
      KeepsBut [.regs, .macs] s t)) ∧
    (dest = 4 → x.full = true → exec (.queueDeliver m q) s = .next s) ∧
    (dest = 3 → s.pairTakes (s.streamPair arg) = true → Runs (.queueDeliver m q) s (fun t => gone t ∧
      (t.jrn.pair (s.streamPair arg)).arriving = (s.jrn.pair (s.streamPair arg)).arriving ++ [{ stream := arg, src := m * 16 + q, tag := 0, payload := f.bytes, reinject := none, ring := none, out := none, peer := none }] ∧
      KeepsBut [.regs, .macs, .jrn] s t)) ∧
    (dest = 3 → s.pairTakes (s.streamPair arg) = false → exec (.queueDeliver m q) s = .next s))

/-- Pauses and the transmit side: a received pause holds the priorities it names and the MAC honours; at a frame boundary
flow-control frames go first, then retracts, then replies in the order built (a held one only after its good verdict), then
the herd transport; every frame is padded, closed with its FCS and counted, and one longer than MAX_LEN is dropped (R226 to
R229, R285 to R288).

Links: a lost link cuts what is being sent and received, raises LINK_DOWN, trains again and is up with LINK_RETRAIN; a
failed training is tried again after 1 s; in host-assisted mode of SerDes training each end of a training stops; a port that
does not train is up when its PCS aligns (R208, R230, R404, R405, R417). What the herd transport has waiting on a lost port
goes to the next one that is up (R355).

Model's choices and readings it rests on: log entries 77, 106, 134. -/
def Obligations.FramesAndLinks : Prop :=
  ((∀ (s : State) (m : MacNo),
    (∀ c rest, (s.mac m).ctl = c :: rest →
      let runs (P : (Nat → Nat) → Prop) : Prop := Runs (.pauseFrameReceive m) s (fun t =>
        (t.mac m) = { s.mac m with ctl := rest, paused := (t.mac m).paused } ∧ MacsBut m s t ∧ KeepsBut [.macs] s t ∧
        P (NatMap.get (t.mac m).paused 0))
      let old := NatMap.get (s.mac m).paused 0
      let honor := s.rd (Reg.MAC_PFC_CFG_RX_HONOR m)
      let mode := s.rd (Reg.MAC_PFC_CFG_FC_MODE m)
      (∀ quanta, mode = 1 → c.quanta = [quanta] → runs (fun p => ∀ i, p i = if i = 0 ∧ bit honor 0 = true then quanta else old i)) ∧
      (mode = 2 → c.quanta.length = 8 → runs (fun p =>
        ∀ i, p i = if i < 8 ∧ bit honor i = true ∧ c.mask.getLsbD i = true then nthD c.quanta i 0 else old i)) ∧
      (mode = 0 → runs (fun p => p = old))) ∧
    (∀ p : Fin 8, Runs (.pauseExpire m p) s (fun t => (t.mac m) = { s.mac m with paused := (t.mac m).paused } ∧
        (∀ i, NatMap.get (t.mac m).paused 0 i = if i = p.val then 0 else NatMap.get (s.mac m).paused 0 i) ∧ MacsBut m s t ∧
        KeepsBut [.macs] s t) ∧
      ((s.mac m).xoff.getLsbD p = true → Runs (.pauseResend m p) s (fun t => (t.mac m) = { s.mac m with
          fcOut := (s.mac m).fcOut ++ [(BitVec.ofNat 8 (2 ^ p.val), s.rd (Reg.MAC_PFC_CFG_PAUSE_QUANTA m))] } ∧
        MacsBut m s t ∧ KeepsBut [.macs] s t)) ∧
      ((s.mac m).xoff.getLsbD p = false → exec (.pauseResend m p) s = .next s))) ∧
  (∀ (s : State) (m : MacNo) (sub : BitVec 16), s.macUp m = true → s.img.phase ≠ .commit →
    let x := s.mac m
    let p := s.prh m
    let free (bs : List Byte) : Prop := s.isPaused m (s.txPrio m bs) = false
    let sends (bs : List Byte) : Prop :=
      ((wireOf bs).length ≤ s.rd (Reg.MAC_CTRL_MAX_LEN m) → Runs (.transmitStart m sub) s (fun t =>
        t.io.out = s.io.out ++ [.frame m (wireOf bs)] ∧ (t.mac m).sending = true ∧ MacsBut m s t ∧
        t.rd (Reg.MAC_STAT_COUNT m Reg.TX_FRAMES) = min (s.rd (Reg.MAC_STAT_COUNT m Reg.TX_FRAMES) + 1) (2 ^ 48 - 1) ∧
        t.rd (Reg.MAC_STAT_COUNT m Reg.TX_BYTES) = min (s.rd (Reg.MAC_STAT_COUNT m Reg.TX_BYTES) + (wireOf bs).length) (2 ^ 48 - 1) ∧
        KeepsBut [.regs, .macs, .prhs, .io] s t)) ∧
      (s.rd (Reg.MAC_CTRL_MAX_LEN m) < (wireOf bs).length → Runs (.transmitStart m sub) s (fun t => t.io = s.io ∧
        t.rd (Reg.MAC_STAT_COUNT m Reg.TX_OVERSIZE_DROP) = min (s.rd (Reg.MAC_STAT_COUNT m Reg.TX_OVERSIZE_DROP) + 1) (2 ^ 48 - 1) ∧
        KeepsBut [.regs, .macs, .prhs] s t))
    (∀ mask quanta rest, x.fcOut = (mask, quanta) :: rest → sends (s.flowFrame m mask quanta)) ∧
    (∀ b n rest, x.fcOut = [] → p.retracts = (b, n) :: rest → free b → sends b) ∧
    (∀ r rest, x.fcOut = [] → p.retracts = [] → p.replies = r :: rest → r.hold = false ∨ r.good = some true → free r.bytes →
      sends r.bytes) ∧
    (∀ u rest, x.fcOut = [] → p.retracts = [] → (p.replies = [] ∨ ∃ r l, p.replies = r :: l ∧ r.hold = true ∧ r.good ≠ some true) →
      x.ht = .frame u :: rest → u.tsMode = 0 → free u.bytes → sends u.bytes) ∧
    (∀ u rest, x.fcOut = [] → p.retracts = [] → p.replies = [] → x.ht = .msg u :: rest →
      s.isPaused m (s.rd (Reg.MAC_CTRL_TX_DEF_PRIO m)) = false → Runs (.transmitStart m sub) s (fun t =>
        t.io.out = s.io.out ++ [.ht m u] ∧ t.mac m = { x with ht := rest, sending := true } ∧ MacsBut m s t ∧
        t.io.events = s.io.events ∧ KeepsBut [.macs, .io] s t)) ∧
    (x.fcOut = [] → p.retracts = [] → p.replies = [] → x.ht = [] → (∀ i < 256, s.txRingReady m i = false) →
      Runs (.transmitStart m sub) s (fun t => (t.mac m) = { x with sending := false } ∧ MacsBut m s t ∧ KeepsBut [.macs] s t))) ∧
  (∀ (s : State) (m : MacNo) (sub : BitVec 16), s.img.phase = .commit ∨ s.macUp m = false → exec (.transmitStart m sub) s = .next s) ∧
  (∀ bs : List Byte, ∃ b, wireOf bs = b ++ fcs b ∧ 60 ≤ b.length ∧ (fcs b).length = 4 ∧ b.take bs.length = bs)) ∧
  (∀ (s : State) (m : MacNo),
    let x := s.mac m
    let raises (code : Nat) (t : State) : Prop := t.io.events = s.io.events ++
      [{ code := code, stop := false, source := Source.mac, loc := m, stream := none, time := s.now64, detail := 0 }]
    (s.macUp m = true → Runs (.linkDown m) s (fun t => raises Code.linkDown t ∧ (t.mac m).up = false ∧ (t.mac m).training = true ∧
      (t.mac m).lost = true ∧ (t.mac m).sending = false ∧ (∀ r, (t.mac m).rx = some r → r.frame.trunc = true) ∧
      (t.mac m).queues = x.queues ∧ (∀ k, k ≠ m.val → t.mac k = { s.mac k with ht := (t.mac k).ht }) ∧
      t.rd (Reg.MAC_STAT_COUNT m Reg.TX_ABORT) = min (s.rd (Reg.MAC_STAT_COUNT m Reg.TX_ABORT) + b2n x.sending) (2 ^ 48 - 1) ∧
      KeepsBut [.regs, .macs, .jrn, .io] s t)) ∧
    (s.macUp m = false → exec (.linkDown m) s = .next s) ∧
    (x.training = true → s.leads m = true → s.macPowered m = true →
      (s.linkTrains m = false ∨ s.assisted 2 = false → Runs (.portTraining m true) s (fun t =>
        t.mac m = { x with up := true, training := false, retry := false, lost := false, ht := (t.mac m).ht } ∧ MacsBut m s t ∧
        (x.lost = true → raises Code.linkRetrain t) ∧ (x.lost = false → t.io.events = s.io.events) ∧ KeepsBut [.macs, .jrn, .io] s t)) ∧
      (s.linkTrains m = false → exec (.portTraining m false) s = .next s) ∧
      (s.linkTrains m = true → s.assisted 2 = false → Runs (.portTraining m false) s (fun t =>
        t.mac m = { x with training := false, retry := true } ∧ MacsBut m s t ∧ KeepsBut [.macs] s t)) ∧
      (s.linkTrains m = true → s.assisted 2 = true → ∀ ok, Runs (.portTraining m ok) s (fun t => t.mac m = { x with training := false } ∧ MacsBut m s t ∧
        t.bru = { s.bru with stops := s.bru.stops ++ [.serdes m ok] } ∧
        t.io.events = s.io.events ++ [{ code := 0x0B03, stop := true, source := Source.bru, loc := 0, stream := none, time := s.now64, detail := BitVec.ofNat 64 (m.val + b2n ok * 16) }] ∧
        KeepsBut [.macs, .bru, .io] s t))) ∧
    (x.retry = true → x.down = false → Runs (.portTrainingRetry m) s (fun t =>
      t.mac m = { x with retry := false, training := true } ∧ MacsBut m s t ∧ KeepsBut [.macs] s t)) ∧
    (x.retry = false ∨ x.down = true → exec (.portTrainingRetry m) s = .next s))

/-! ### Pronghorn: parsing, features, scores (R241 to R293) -/

/-- Each parse instruction makes of its context what its opcode says: EXT waits for bytes that may still come and sets ABSENT
for those that cannot; META, ALU, ADV, BR and FEAT; an absent register that steers control refuses the frame with cause 4;
END with PASS leaves the frame unscored, END hands its feature vector on or refuses the frame (R242 to R250, R254 to
R257).

Model's choices and readings it rests on: log entry 79. -/
def Obligations.ParseInstructionsRun : Prop :=
  ∀ (s : State) (n : MacNo) (c : Fin 16) (x : Ctx), s.ctx n c = some x → s.macPowered n = true →
    let w := s.rd (Reg.PRH_FRONT_PROG_INSTR n x.pc)
    let horizon := s.rd (Reg.PRH_FRONT_CTRL_HORIZON n)
    let goes (i : Instr) (y : Ctx) : Prop := Runs i s (fun t => t.ctx n c = some y ∧
      (∀ k, k ≠ c.val → t.ctx n k = s.ctx n k) ∧ (t.prh n) = { s.prh n with ctxs := (t.prh n).ctxs } ∧
      (∀ k, k ≠ n.val → t.prh k = s.prh k) ∧ KeepsBut [.prhs] s t)
    let r (i : Nat) : PVal := x.reg i
    let imm : PVal := ⟨BitVec.ofNat 32 (w / 2 ^ 32), false⟩
    let counts (i : Nat) (k : Nat) (t : State) : Prop :=
      t.rd (Reg.PRH_STAT_FRONT_COUNT n i) = min (s.rd (Reg.PRH_STAT_FRONT_COUNT n i) + k) (Reg.PRH_STAT_FRONT_COUNT n i).max
    let falls (reason : Nat) (t : State) : Prop := t.ctx n c = none ∧ (s.heldFrame n x.frame.id = none →
        t.scoreOf n x.frame.id = .fallback reason) ∧
      ∀ g, s.heldFrame n x.frame.id = some g → g.good = true → 0 < g.cells → t.heldFrame n x.frame.id = none ∧
        NatMap.get (t.mac n).queues [] g.cellQ =
          insertFrame (NatMap.get (s.mac n).queues [] g.cellQ) { g with queue := g.cellQ, reason := reason }
    let refused (idx cause : Nat) (t : State) : Prop := falls 2 t ∧ counts Reg.INVALID_REJECT 1 t ∧
      t.rd (Reg.PRH_FRONT_STATUS_LAST_FEAT n) = idx % 64 ∧ t.rd (Reg.PRH_FRONT_STATUS_LAST_CAUSE n) = cause % 8 ∧
      t.rd (Reg.PRH_FRONT_STATUS_LAST_VALID n) = 1 ∧ KeepsBut [.regs, .macs, .prhs, .io] s t
    (w % 64 = 1 →
      let width := bits w 13 12 + 1
      let off := if bit w 10 then min (x.cur.toNat + bits w 23 16) 0xFFFF_FFFF else bits w 23 16
      let bs := slice x.frame.bytes off width
      let v : Nat := (if bit w 11 then leNat bs else beNat bs) >>> bits w 28 24
      let e : BitVec 32 := if bit w 14 then (BitVec.ofNat (bits w 34 29) v).signExtend 32 else (BitVec.ofNat (bits w 34 29) v).setWidth 32
      let puts (p : PVal) : Prop := goes (.ext n c)
        ((if bit w 15 then (x.setReg (bits w 9 6) p).setSlot (bits w 40 35) p else x.setReg (bits w 9 6) p).next)
      (horizon < off + width → puts ⟨0, true⟩) ∧
      (off + width ≤ horizon → x.frame.len < off + width → x.tail = true → puts ⟨0, true⟩) ∧
      (off + width ≤ horizon → x.frame.len < off + width → x.tail = false → exec (.ext n c) s = .next s) ∧
      (off + width ≤ horizon → off + width ≤ x.frame.len → puts ⟨e, false⟩)) ∧
    (w % 64 = 2 → goes (.metaField n c) (x.setReg (bits w 9 6) ⟨BitVec.ofNat 32 (x.metaVal (bits w 13 10)), false⟩).next) ∧
    (w % 64 = 3 →
      let a := r (bits w 13 10)
      let b := if bit w 18 then imm else r (bits w 17 14)
      goes (.alu n c) (x.setReg (bits w 9 6)
        ⟨aluFn (bits w 22 19) a.v b.v, (decide (bits w 22 19 ≠ 10) && a.absent) || b.absent⟩).next) ∧
    (w % 64 = 4 →
      let a := r (bits w 13 10)
      let adds (k : Nat) : Prop := goes (.adv n c) { x with cur := BitVec.ofNat 32 (min (x.cur.toNat + k) 0xFFFF_FFFF) }.next
      (bit w 14 = false → adds (w / 2 ^ 32 % 2 ^ 32)) ∧
      (bit w 14 = true → a.absent = false → adds (w / 2 ^ 32 % 2 ^ 32 + a.v.toNat * 2 ^ bits w 16 15)) ∧
      (bit w 14 = true → a.absent = true → Runs (.adv n c) s (refused x.pc 4))) ∧
    (w % 64 = 5 →
      let a := r (bits w 9 6)
      let b := if bit w 14 then imm else r (bits w 13 10)
      let cond := bits w 17 15
      (cond = 6 → goes (.br n c) { x with pc := bits w 23 18 }) ∧
      (cond ≠ 6 → a.absent = false → b.absent = false →
        goes (.br n c) (if brCond cond a.v b.v then { x with pc := bits w 23 18 } else x.next)) ∧
      (cond ≠ 6 → (a.absent = true ∨ b.absent = true) → Runs (.br n c) s (refused x.pc 4))) ∧
    (w % 64 = 6 → goes (.feat n c) (x.setSlot (bits w 21 16) (r (bits w 13 10))).next) ∧
    (w % 64 = 7 →
      (bit w 6 = true → Runs (.endParse n c) s (fun t => falls 1 t ∧ counts Reg.NS_PASS 1 t ∧
        RegsBut [Reg.PRH_STAT_FRONT n Reg.NS_PASS] s t ∧ KeepsBut [.regs, .macs, .prhs] s t)) ∧
      (∀ i e m, bit w 6 = false → s.features n x.slots (s.rd (Reg.PRH_FRONT_CTRL_NFEAT n)) [] false = .refused i e m →
        Runs (.endParse n c) s (refused i e)) ∧
      (∀ b m, bit w 6 = false → s.features n x.slots (s.rd (Reg.PRH_FRONT_CTRL_NFEAT n)) [] false = .vector b m →
        b.length = s.rd (Reg.PRH_FRONT_CTRL_NFEAT n) ∧ Runs (.endParse n c) s (fun t => t.ctx n c = none ∧
          (t.prh n).handed = (s.prh n).handed ++ [{ frame := x.frame, ens := x.ens, bins := b }] ∧
          counts Reg.VECTORS_OUT 1 t ∧ counts Reg.MAPPED (b2n m) t ∧
          RegsBut [Reg.PRH_STAT_FRONT n Reg.VECTORS_OUT, Reg.PRH_STAT_FRONT n Reg.MAPPED] s t ∧ KeepsBut [.regs, .prhs] s t)))

/-- Evaluation of the next vector: no ensemble, no free leaf-table port, a score in the escalation band, a bad verdict and a
full reply queue each keep the frame from a reply, and are counted; otherwise the reply of the template and the scores is
queued under the next sequence number, held where HOLD_FCS asks for it. A report that has waited its second is posted with
its count (R257, R273 to R288).

Features and trees: a bin is below its feature's cardinality; a path through a tree ends at one of its leaves; a
fixed-point score does not depend on the order of the trees (R251, R254, R255, R271, R272, R276). -/
def Obligations.VectorsAreScored : Prop :=
  ((∀ (s : State) (n : MacNo) (busy : List Bool) (v : Vec) (rest : List Vec), (s.prh n).handed = v :: rest →
    s.macPowered n = true →
    let p := s.prh n
    let id := v.frame.id
    let runs (P : State → Prop) : Prop := Runs (.evaluate n busy) s (fun t => (t.prh n).handed = rest ∧ P t)
    let counts (i : Nat) (t : State) : Prop :=
      t.rd (Reg.PRH_STAT_EVAL_COUNT n i) = min (s.rd (Reg.PRH_STAT_EVAL_COUNT n i) + 1) (Reg.PRH_STAT_EVAL_COUNT n i).max ∧
      RegsBut [Reg.PRH_STAT_EVAL n i] s t
    let falls (reason : Nat) (t : State) : Prop := (t.prh n).replies = p.replies ∧ (t.prh n).seq = p.seq ∧
      (s.heldFrame n id = none → t.scoreOf n id = .fallback reason) ∧ KeepsBut [.regs, .macs, .prhs, .io] s t
    (NatMap.find p.ens v.ens = none → runs (falls 1)) ∧
    (∀ e, NatMap.find p.ens v.ens = some e → s.portFree n busy = false → runs (fun t => falls 1 t ∧ counts Reg.NS_BUSY t)) ∧
    (∀ e, NatMap.find p.ens v.ens = some e → s.portFree n busy = true →
      let outs := (List.range e.nout).map (fun o => scoreOut e.trees v.bins e.nout o e.fixed (nthD e.base o 0))
      let band := (nthD outs 0 (.fp 0)).inBand (BitVec.ofNat 32 (s.rd (Reg.PRH_ESC_LO n v.frame.queue)))
        (BitVec.ofNat 32 (s.rd (Reg.PRH_ESC_HI n v.frame.queue)))
      (band = true → runs (fun t => falls 3 t ∧ counts Reg.ESCALATED t)) ∧
      (band = false → s.verdictOf n id = some false → runs (fun t => (t.prh n).replies = p.replies ∧ counts Reg.REPLY_CANCELLED t ∧
        (t.prh n).seq = p.seq ∧ KeepsBut [.regs, .macs, .prhs] s t)) ∧
      (band = false → s.verdictOf n id ≠ some false → 16 ≤ p.queued → runs (fun t => falls 1 t ∧ counts Reg.NS_TXFULL t)) ∧
      (band = false → s.verdictOf n id ≠ some false → p.queued < 16 → p.retracts.length < 16 → runs (fun t =>
        (t.prh n).seq = p.seq + 1 ∧ (t.prh n).replies = p.replies ++ [{ bytes := buildReply e.template v.frame.bytes (fun _ => 0) v.frame.len outs e.frac p.seq, seq := p.seq, frameId := id, slot := v.ens, tags := fld e.template 2 1, hold := s.rdb (Reg.MAC_QUEUE_CFG_HOLD_FCS n v.frame.queue), good := s.verdictOf n id, paused := false, ibex := false }] ∧
        (s.heldFrame n id = none → t.scoreOf n id = .replied) ∧ KeepsBut [.macs, .prhs] s t)))) ∧
  (∀ (s : State) (src : ReportSrc) (l : Lim), s.io.lims.find? (fun l => decide (l.src = src)) = some l →
    (l.count = 0 → Runs (.rateLimitedReport src) s (fun t => t.io = { s.io with lims := t.io.lims } ∧
      t.io.lims.find? (fun l => decide (l.src = src)) = none ∧ KeepsBut [.io] s t)) ∧
    (l.count ≠ 0 → Runs (.rateLimitedReport src) s (fun t => t.io.events = (s.postReport src l.count l.detail).io.events ∧
      t.io.events.length = s.io.events.length + 1 ∧
      t.io.lims.find? (fun l => decide (l.src = src)) = some { l with count := 0 } ∧ KeepsBut [.io] s t)))) ∧
  ((∀ (s : State) (n : Nat) (slots : NatMap PVal) (k : Nat) (b : List Nat) (m : Bool),
    s.features n slots k [] false = .vector b m → b.length = k ∧
      ∀ i < k, (s.desc n i).kind ≠ 3 → nthD b i 0 < (s.desc n i).ecard) ∧
  (∀ (vec nodes : List Nat) (d : Nat), walkTree vec nodes d 0 0 < 2 ^ d) ∧
  (∀ (trees trees' : List Tree) (vec : List Nat) (nout o : Nat) (base : BitVec 32), trees.Perm trees' →
    scoreOut trees vec nout o true base = scoreOut trees' vec nout o true base))

/-- The Ibex streamer: a batch closes after BATCH_WAIT, and each time the streamer stops in host-assisted mode; RUN or the
timeout ends a stop; the oldest closed batch streams, or the one RUN chose; at its end every vector is answered under the next
sequence number. SUSPEND and VALIDATE make a model absent and check it (R294 to R301, R310).

Model's choices and readings it rests on: log entries 5, 101, 136, 137. -/
def Obligations.IbexStreams : Prop :=
  ∀ (s : State) (k : ModelNo),
    let x := s.ibx
    let only (y : Ibx) (t : State) : Prop := t.ibx = y ∧ KeepsBut [.ibx] s t
    (∀ b, x.opened.find? (fun c => decide (c.model = k.val)) = some b →
      let y := { x with opened := x.opened.filter (fun c => decide (c.model ≠ k.val)), closed := x.closed ++ [b] }
      (s.assisted 7 = false → Runs (.batchWaitExpire k) s (only y)) ∧
      (s.assisted 7 = true → Runs (.batchWaitExpire k) s (fun t => t.ibx = { y with stops := x.stops + 1 } ∧
        t.io.events = s.io.events ++ [{ code := 0x0B08, stop := true, source := Source.ibx, loc := 0, stream := none, time := s.now64, detail := Config.stopDetail 7 [k.val, b.vecs.length] }] ∧
        KeepsBut [.ibx, .io] s t))) ∧
    (∀ b m, x.streaming = none → x.waitsHost = false →
      (x.chosen = none ∧ x.closed.head? = some b ∨ x.chosen = some b.model ∧ x.closed.find? (fun c => decide (c.model = b.model)) = some b) →
      x.model? b.model = some m →
      (m.st = .ready → (∀ d ∈ m.shards, let q := s.stk d.stack; q.st = .service ∧ q.bad = [] ∧ q.corr = [] ∧ q.odie = []) →
        Runs .batchStream s (fun t => t.ibx.streaming = some b ∧ t.ibx.lost = false ∧ t.ibx.chosen = none ∧
          t.ibx.lastModel = b.model ∧ t.ibx.closed.length + 1 = x.closed.length ∧ t.ibx.models = x.models ∧ KeepsBut [.ibx] s t)) ∧
      (m.st ≠ .ready → Runs .batchStream s (fun t => t.ibx.streaming = some b ∧ t.ibx.lost = true ∧ KeepsBut [.ibx] s t))) ∧
    (x.streaming.isSome = true ∨ x.waitsHost = true → exec .batchStream s = .next s) ∧
    (∀ b m q v, x.streaming = some b → x.lost = false → x.model? b.model = some m →
      Runs .batchComplete s (fun t => t.ibx.streaming = none ∧ t.ibx.closed = x.closed ∧ t.ibx.models = x.models ∧
        t.ibx.seq = x.seq + BitVec.ofNat 32 (b.vecs.filter (fun q => q.bins.isSome)).length ∧
        t.rd (Reg.IBX_STAT_COUNT Reg.IBX_BATCHES) = min (s.rd (Reg.IBX_STAT_COUNT Reg.IBX_BATCHES) + 1) (Reg.IBX_STAT_COUNT Reg.IBX_BATCHES).max ∧
        (b.vecs = [q] → q.bins = some v →
          let outs := (List.range m.nout).map (fun o => scoreOut (s.modelTrees m) v m.nout o m.fixed (nthD m.base o 0))
          (t.prh q.mac).replies = (s.prh q.mac).replies ++ [{ bytes := buildReply m.template q.frame.bytes (Config.ibexCopyByte q.frame.ts) q.frame.len outs m.frac x.seq, seq := x.seq, frameId := q.frame.id, slot := 0, tags := fld m.template 2 1, hold := false, good := some true, paused := false, ibex := true }]) ∧
        KeepsBut [.regs, .prhs, .ibx] s t)) ∧
    (∀ b rest, 0 < x.stops → x.chosen = none → x.closed = b :: rest →
      Runs .ibexStopTimeout s (only { x with stops := x.stops - 1, chosen := some b.model })) ∧
    (x.waitsHost = false ∨ x.closed = [] → exec .ibexStopTimeout s = .next s) ∧
    (Linked s → (∃ b ∈ x.closed, b.model = k.val) → Runs (.run k) s (only
      { x with stops := if x.chosen = none then x.stops - 1 else x.stops, chosen := some k.val })) ∧
    ((∀ b ∈ x.closed, b.model ≠ k.val) → exec (.run k) s = .next s) ∧
    (∀ m, Linked s → x.model? k = some m →
      (m.st = .ready ∨ m.st = .validating → Runs (.suspend k) s (fun t => t.ibx.model? k = some { m with st := .absent } ∧
        (∀ j, j ≠ k.val → t.ibx.model? j = x.model? j) ∧ t.ibx = { x with models := t.ibx.models } ∧ KeepsBut [.ibx, .io] s t)) ∧
      (m.st = .absent ∨ m.st = .none → exec (.suspend k) s = .next s) ∧
      (m.st ≠ .none → Runs (.validate k) s (fun t => t.ibx.model? k = some { m with st := .validating } ∧
        (∀ j, j ≠ k.val → t.ibx.model? j = x.model? j) ∧ t.ibx = { x with models := t.ibx.models } ∧ KeepsBut [.ibx] s t))) ∧
    (∀ m, x.model? k = some m → m.st = .validating →
      (∀ d ∈ m.shards, let q := s.stk d.stack; q.st = .service ∧ q.bad = [] ∧ q.corr = [] ∧ q.odie = []) →
      Runs (.validateComplete k) s (fun t => t.ibx.model? k = some { m with st := if m.shards.all (fun d => decide (crc32c (Mem.read (s.stk d.stack).mem d.addr d.size) = d.crc)) then .ready else .absent } ∧
        (∀ j, j ≠ k.val → t.ibx.model? j = x.model? j) ∧ KeepsBut [.ibx] s t))

/-! ### The time unit (R314 to R345) -/

/-- Device time and its commands: a tick adds the increment and, in servo mode, the rate's part and what the slew limit lets
through of the slew that remains; a pulse falls due when device time reaches NEXT and ends after WIDTH_MS or half the period;
the command written first lands after the increment. The writes, the servo's update points, its correction and its stop, the transmit timestamp queues, the active edge
of PPS_IN and the reference (R314 to R322, R327, R329 to R335, R340, R341, R344).

Model's choices and readings it rests on: log entries 5, 47, 131, 132. -/
def Obligations.DeviceTimeRuns : Prop :=
  ∀ s : State, s.pdOn 92 = true →
    let x := s.time
    let inc : Int := s.rd Reg.TIME_INC_INC
    let rate : Int := (BitVec.ofNat 32 (s.rd Reg.TIME_RATE_SLEW_RATE)).toInt
    let lim : Int := s.rd Reg.TIME_RATE_SLEW_SLEW * 2 ^ 8
    let servo := s.rd Reg.TIME_CTRL_MODE
    let period := s.rd Reg.TIME_PPS_OUT_CFG_PERIOD_NS * 2 ^ 16
    let pps := s.rd Reg.TIME_CTRL_PPS_OUT_EN
    let quiet : State := { s with time := { x with cmds := [] } }
    let pol := s.rdb Reg.TIME_CTRL_PPS_OUT_POL
    let lasted : Prop := 25 * min (s.rd Reg.TIME_PPS_OUT_CFG_WIDTH_MS * 1000000) (s.rd Reg.TIME_PPS_OUT_CFG_PERIOD_NS / 2) ≤ 16 * x.pulseAge
    (x.cmds = [] → Runs .tick s (fun t =>
      (servo = 0 → t.time.t = x.t + BitVec.ofInt 112 inc ∧ t.time.rem = x.rem) ∧
      (servo = 1 → ∃ sl : Int, t.time.t = x.t + BitVec.ofInt 112 (inc + inc * rate / 2 ^ 40 + sl) ∧ t.time.rem = x.rem - sl ∧
        -lim ≤ sl ∧ sl ≤ lim ∧ (-lim ≤ x.rem ∧ x.rem ≤ lim → sl = x.rem) ∧ (lim < x.rem → sl = lim) ∧ (x.rem < -lim → sl = -lim)) ∧
      (pps = 1 ∧ x.next.toNat ≤ t.devTime.toNat → t.time.pulse = true ∧ t.time.pulseAge = 0 ∧
        t.time.next = x.next + BitVec.ofNat 80 period ∧
        (x.pulse = false → t.io.out = s.io.out ++ [.pps (!pol)]) ∧
        (x.pulse = true → ¬lasted → t.io.out = s.io.out) ∧
        (x.pulse = true → lasted → t.io.out = s.io.out ++ [.pps pol, .pps (!pol)])) ∧
      (¬(pps = 1 ∧ x.next.toNat ≤ t.devTime.toNat) → t.time.next = x.next ∧ t.time.pulseAge = x.pulseAge + 1 ∧
        (x.pulse = true ∧ lasted → t.time.pulse = false ∧ t.io.out = s.io.out ++ [.pps pol]) ∧
        (¬(x.pulse = true ∧ lasted) → t.time.pulse = x.pulse ∧ t.io.out = s.io.out)) ∧
      t.time.cmds = [] ∧ t.time.edge = x.edge ∧ t.time.stop = x.stop ∧ t.io.events = s.io.events ∧
      KeepsBut [.time, .io] s t)) ∧
    (∀ c rest, x.cmds = c :: rest → pps = 0 → ∃ u, exec .tick quiet = .next u ∧ Runs .tick s (fun t =>
      t.io = u.io ∧ KeepsBut [.time] u t ∧ t.time = { (match c with
        | .step adj => { u.time with t := u.time.t + BitVec.ofInt 112 (adj.toInt * 2 ^ 32) }
        | .slew adj => { u.time with rem := adj.toInt * 2 ^ 32 }
        | .load hi adj => { u.time with t := BitVec.ofNat 112 ((hi.toNat * 2 ^ 64 + adj.toNat) * 2 ^ 32) }
        | .cancel => { u.time with rem := 0 }
        | .ack => { u.time with stop := none }) with cmds := rest })) ∧
    (x.pulse = true → lasted → Runs .ppsOutPulseEnd s (fun t => t.time = { x with pulse := false } ∧
      t.io.out = s.io.out ++ [.pps pol] ∧ t.io.events = s.io.events ∧ KeepsBut [.time, .io] s t)) ∧
    (x.pulse = false ∨ ¬lasted → exec .ppsOutPulseEnd s = .next s) ∧
    (Linked s →
      let adj : Word := BitVec.ofNat 64 (s.rd Reg.TIME_ADJ_ADJ)
      let queues (i : Instr) (c : TimeCmd) : Prop := Runs i s (fun t => t.time = { x with cmds := x.cmds ++ [c] } ∧ KeepsBut [.time] s t)
      queues .step (.step adj) ∧ (servo = 1 → queues .slew (.slew adj)) ∧ (servo = 0 → exec .slew s = .next s) ∧
      (∀ hi, queues (.load hi) (.load hi adj)) ∧ queues .cancel .cancel ∧
      queues .ack .ack ∧
      Runs .timeNowRead s (fun t => t.time = { x with nowHi := BitVec.ofNat 16 (s.devTime.toNat / 2 ^ 64) } ∧
        t.io.out = s.io.out ++ [.read (leBytes 8 (s.devTime.toNat % 2 ^ 64))] ∧ t.io.events = s.io.events ∧ KeepsBut [.time, .io] s t) ∧
      (∀ v : Word, pps = 0 → Runs (.timePpsOutNextWrite v) s (fun t =>
        t.time = { x with next := BitVec.ofNat 80 (x.nextHi.toNat * 2 ^ 64 + v.toNat) } ∧ KeepsBut [.time] s t)) ∧
      (∀ v : Word, Runs (.timeCtrlWrite v) s (fun t => t.reg Reg.TIME_CTRL = BitVec.ofNat 64 (v.toNat % 32) ∧
        RegsBut [Reg.TIME_CTRL] s t ∧ t.time.t = x.t ∧
        t.time.rem = (if servo = 1 ∧ bit v.toNat 0 = false then 0 else x.rem) ∧
        t.io.out = s.io.out ++ (if t.ppsPin = s.ppsPin then [] else [.pps t.ppsPin]) ∧
        (bit v.toNat 3 = false → t.time.pulse = false ∧ t.time.next = x.next) ∧
        (bit v.toNat 3 = true → s.devTime.toNat < x.next.toNat → t.time.next = x.next) ∧
        (bit v.toNat 3 = true → x.next.toNat ≤ s.devTime.toNat → 0 < period → s.devTime.toNat + period < 2 ^ 80 →
          s.devTime.toNat < t.time.next.toNat ∧ t.time.next.toNat ≤ s.devTime.toNat + period ∧
          (t.time.next.toNat - x.next.toNat) % period = 0) ∧ KeepsBut [.regs, .time, .io] s t)) ∧
      (∀ n : MacNo, s.macMode n ≠ 4 → Runs (.pop n) s (fun t =>
        NatMap.get t.time.tsq [] n = (NatMap.get x.tsq [] n).tail ∧ (∀ k, k ≠ n.val → NatMap.get t.time.tsq [] k = NatMap.get x.tsq [] k) ∧
        t.time = { x with tsq := t.time.tsq } ∧ KeepsBut [.time] s t)) ∧
      (∀ n : MacNo, s.macMode n = 4 → exec (.pop n) s = .next s)) ∧
    (let fixes (f : ServoFix) (y : TimeU) (t : State) : Prop :=
        t.rd Reg.TIME_INC_INC = (if f.inc = 0 then s.rd Reg.TIME_INC_INC else f.inc.toNat) ∧
        t.rd Reg.TIME_RATE_SLEW_RATE = f.rate.toNat ∧
        t.rd Reg.TIME_RATE_SLEW_SLEW = f.slew.toNat ∧ t.rd Reg.TIME_ADJ_ADJ = f.adj.toNat ∧
        RegsBut [Reg.TIME_INC, Reg.TIME_RATE_SLEW, Reg.TIME_ADJ] s t ∧
        t.time = { y with cmds := x.cmds ++ (match f.cmd with
          | .correct =>
            if x.stepLimit.toNat < f.offset.toInt.natAbs then [.step f.adj] else if servo = 1 then [.slew f.adj] else []
          | .load hi => [.load hi f.adj]
          | .cancel => [.cancel]
          | .none => []) } ∧
        KeepsBut [.regs, .time] s t
     let point : Prop := (x.servo = 1 ∧ x.edge = true ∧ x.stuck = false) ∨ x.servo = 2 ∨
       (x.servo = 3 ∧ ∃ e ∈ x.path, e.1 = x.servoMac)
     let taken : TimeU := { x with
       edge := if x.servo = 1 then false else x.edge
       path := if x.servo = 3 then x.path.filter (fun e => decide (e.1 ≠ x.servoMac)) else x.path }
     (∀ f : ServoFix, point → x.stop = none →
       (s.assisted 5 = false → Runs (.servoUpdate f) s (fixes f taken)) ∧
       (s.assisted 5 = true → Runs (.servoUpdate f) s (fun t => t.time = { taken with stop := some f } ∧
         t.io.events = s.io.events ++ [{ code := 0x0B06, stop := true, source := Source.time, loc := 0, stream := none, time := s.now64, detail := f.offset }] ∧
         KeepsBut [.time, .io] s t))) ∧
     (∀ f : ServoFix, ¬point ∨ x.stop ≠ none → exec (.servoUpdate f) s = .next s) ∧
     (∀ f : ServoFix, x.stop = some f → Runs .timeStopTimeout s (fixes f { x with stop := none })) ∧
     (x.stop = none → exec .timeStopTimeout s = .next s)) ∧
    (∀ width, exec (.ppsInEdge ⟨s.rdb Reg.TIME_CTRL_PPS_IN_POL, width⟩) s = .next s) ∧
    (let active := !s.rdb Reg.TIME_CTRL_PPS_IN_POL
    (∀ width, width < 100 → Runs (.ppsInEdge ⟨active, width⟩) s (fun t =>
      t.rd Reg.TIME_PPS_STAT_GLITCH = min (s.rd Reg.TIME_PPS_STAT_GLITCH + 1) 0xFFFF ∧ RegsBut [Reg.TIME_PPS_STAT] s t ∧ KeepsBut [.regs] s t)) ∧
    (∀ width n, 100 ≤ width → x.sincePps = some n → n < 781250000 → Runs (.ppsInEdge ⟨active, width⟩) s (fun t =>
      t.rd Reg.TIME_PPS_STAT_IGNORED = min (s.rd Reg.TIME_PPS_STAT_IGNORED + 1) 0xFFFF ∧ RegsBut [Reg.TIME_PPS_STAT] s t ∧ KeepsBut [.regs] s t)) ∧
    (∀ width, 100 ≤ width → (∀ n, x.sincePps = some n → 781250000 ≤ n) → Runs (.ppsInEdge ⟨active, width⟩) s (fun t =>
      t.rd Reg.TIME_PPS_IN_CAP = s.devTime.toNat % 2 ^ 64 ∧ t.rd Reg.TIME_PPS_STAT_CAP_HI = s.devTime.toNat / 2 ^ 64 ∧
      t.rd Reg.TIME_PPS_STAT_NEW = 1 ∧
      t.time = { x with sincePps := some 0, stuck := false, edge := true, events := t.time.events } ∧
      t.time.events.length = x.events.length + 1 ∧ (∀ e, e ∈ t.time.events ↔ e ∈ x.events ∨ e = ⟨s.devTime, 16⟩) ∧
      RegsBut [Reg.TIME_PPS_IN, Reg.TIME_PPS_STAT] s t ∧ KeepsBut [.regs, .time] s t))) ∧
    (∀ high, (x.stuck = false → Runs (.ppsStuck high) s (fun t => t.time = { x with stuck := true } ∧
        t.io.events = s.io.events ++ [{ code := Code.ppsStuck, stop := false, source := Source.time, loc := 0, stream := none, time := s.now64, detail := BitVec.ofNat 64 (b2n high) }] ∧
        KeepsBut [.time, .io] s t)) ∧
      (x.stuck = true → exec (.ppsStuck high) s = .next s)) ∧
    (x.refGood = true → Runs .refLoss s (fun t => t.time = { x with refGood := false } ∧
      t.rd Reg.TIME_REF_STAT_LOSS = min (s.rd Reg.TIME_REF_STAT_LOSS + s.rd Reg.TIME_CTRL_CLK_SRC) 0xFFFF_FFFF ∧
      RegsBut [Reg.TIME_REF_STAT] s t ∧ KeepsBut [.regs, .time] s t)) ∧
    Runs .refRelock s (fun t => t.time = { x with refGood := true } ∧ KeepsBut [.time] s t) ∧
    Runs .refGlitch s (fun t => t.rd Reg.TIME_REF_STAT_GLITCH = min (s.rd Reg.TIME_REF_STAT_GLITCH + 1) 0xFFFF_FFFF ∧
      RegsBut [Reg.TIME_REF_STAT] s t ∧ KeepsBut [.regs] s t)

/-! ### The work journal (R351 to R375, R384 to R386, R468) -/

/-- Items and outputs: a submit entry is taken in or refused with its STATUS; a whole item takes its stream's next sequence
number as its record is written, and JOURNAL_FULL is raised where the log has no room; it is accepted, and acknowledged with
its number, only when every line of its record has landed; the lowest accepted item above TAKEN goes to the tile that waits
for it. An output counts up OUTSEQ, is discarded at or below SENT, and a herd whose ring is full stalls (R35, R356 to R361,
R363, R364, R468).

Model's choices and readings it rests on: log entries 59, 82, 83, 84. -/
def Obligations.ItemsAndOutputs : Prop :=
  (∀ (s : State) (ring : Fin 4096) (e : List Byte), s.ringFront .submit ring = some e → s.pdOn 93 = true →
    s.ringBusy ring = false →
    let r := s.ring .submit ring
    let a := r.entry .submit r.cons
    let n := fld e 0 2
    let re := bit (fld e 2 1) 0
    let len := fld e 4 4
    let answers (status : Byte) : Prop := Runs (.submitEntry ring) s (fun t => t.ring .submit ring = { r with cons := r.cons + 1 } ∧
      Mem.byte t.host.bar2 (a + 3) = status ∧ Mem.read t.host.bar2 (a + 24) 8 = leBytes 8 s.now64.toNat ∧
      (∀ x, x ≠ a + 3 → x < a + 24 ∨ a + 32 ≤ x → Mem.byte t.host.bar2 x = Mem.byte s.host.bar2 x) ∧ KeepsBut [.host] s t)
    (s.stream n = none → answers 3) ∧
    (∀ st, s.stream n = some st → re = false → (st.kind ≠ 1 ∨ st.arg ≠ ring.val) → answers 3) ∧
    (∀ st, s.stream n = some st → (re = true ∨ (st.kind = 1 ∧ st.arg = ring.val)) →
      (st.maxItem < len ∨ e.length < len + 32 → answers 2) ∧
      (len ≤ st.maxItem → len + 32 ≤ e.length →
        (s.pairTakes (s.streamPair n) = false → exec (.submitEntry ring) s = .next s) ∧
        (s.pairTakes (s.streamPair n) = true → Runs (.submitEntry ring) s (fun t =>
          (t.jrn.pair (s.streamPair n)).arriving = (s.jrn.pair (s.streamPair n)).arriving ++
            [{ stream := n, src := ring, tag := BitVec.ofNat 64 (fld e 8 8), payload := slice e 32 len, reinject := if re then some (fld e 16 8) else none, ring := some ring.val, out := none, peer := none }] ∧
          KeepsBut [.jrn] s t))))) ∧
  (∀ (s : State) (p : Fin 8) (it : Item), (s.jrn.pair p).arriving.find? s.numbers = some it →
    let x := s.jrn.pair p
    let next := (s.jrn.streamSt it.stream).nextSeq
    let r := s.itemRec x it next
    (s.dupOut x it = true → Runs (.itemArrival p) s (fun t => t.jrn.pair p = { x with arriving := x.arriving.erase it } ∧
      (∀ h q, it.peer = none → it.out = some (h, q) → t.macs = s.macs ∧ t.mesh = s.mesh ∧
        t.jrn.outs = s.jrn.outs.map (fun y => if y.herd = h ∧ y.outseq = q then { y with left := true } else y)) ∧
      KeepsBut [.jrn, .macs, .mesh] s t)) ∧
    (s.dupOut x it = false → s.pairTakes p = false → exec (.itemArrival p) s = .next s) ∧
    (s.dupOut x it = false → s.pairTakes p = true → it.reinject = none →
      (x.room r.lines = true → s.exports = false → Runs (.itemArrival p) s (fun t =>
        t.jrn.pair p = { x with arriving := x.arriving.erase it, head := x.head + r.lines, lineQ := x.lineQ ++ r.queue, writing := x.writing ++ [(r, some it)] } ∧
        t.jrn.streamSt it.stream = { s.jrn.streamSt it.stream with nextSeq := next + 1 } ∧
        (∀ n, n ≠ it.stream → t.jrn.streamSt n = s.jrn.streamSt n) ∧ (∀ q, q ≠ p.val → t.jrn.pair q = s.jrn.pair q) ∧
        KeepsBut [.jrn] s t)) ∧
      (x.room r.lines = false → Runs (.itemArrival p) s (fun t => t.jrn.pair p = { x with full := true } ∧
        t.io.events = s.io.events ++ [{ code := Code.journalFull, stop := false, source := Source.jrn, loc := 0, stream := none, time := s.now64, detail := BitVec.ofNat 64 p.val }] ∧
        KeepsBut [.jrn, .io] s t)))) ∧
  (∀ (s : State) (p : Fin 8) (r : Rec) (it : Item) (rest : List (Rec × Option Item)), (s.jrn.pair p).writing = (r, some it) :: rest →
    (s.recComplete (s.jrn.pair p) r = false → exec (.itemAccept p) s = .next s) ∧
    (∀ n, s.recComplete (s.jrn.pair p) r = true → it.ring = some n → it.peer = none → it.out = none →
      let a := (s.ring .submit n).entry .submit (s.ring .submit n).cons
      Runs (.itemAccept p) s (fun t =>
        t.jrn.pair p = ({ s.jrn.pair p with writing := rest, recs := (s.jrn.pair p).recs ++ [r] } : Pair).settled ∧
        t.ring .submit n = { s.ring .submit n with cons := (s.ring .submit n).cons + 1 } ∧ Mem.byte t.host.bar2 (a + 3) = 1 ∧
        Mem.read t.host.bar2 (a + 16) 8 = leBytes 8 r.seq ∧ KeepsBut [.jrn, .host] s t))) ∧
  (∀ (s : State) (x : Pair) (r : Rec), s.recComplete x r = true →
    ∀ l bs, JLine.log l bs ∈ x.lineQ → l < r.pos ∨ r.pos + r.lines ≤ l) ∧
  (∀ (s : State) (h : HerdNo) (n : StreamNo) (st : Stream) (key dst : Nat) (r : Rec), s.stream n = some st →
    s.taker h n = some (key, dst) → s.nextItem n (NatMap.get (s.herd h).taken 0 n) = some r →
    (st.target = h.val → (s.herd h).st = .running → s.stoppedAt n r.seq = false → Runs (.itemDeliver h n) s (fun t =>
      t.tile key = { (((s.tile key).put (dst * 8) r.payload).advance) with wait := .none } ∧ TilesBut key s t ∧
      NatMap.get (t.herd h).taken 0 n = r.seq ∧ t.herd h = { s.herd h with taken := (t.herd h).taken } ∧ HerdsBut h s t ∧
      KeepsBut [.tiles, .herds] s t)) ∧
    (st.target ≠ h.val ∨ (s.herd h).st ≠ .running ∨ s.stoppedAt n r.seq = true → exec (.itemDeliver h n) s = .next s) ∧
    r.stream = n.val ∧ NatMap.get (s.herd h).taken 0 n < r.seq ∧
    (∀ q ∈ (s.jrn.pair (s.streamPair n)).recs, q.typ = 1 → q.stream = n.val → NatMap.get (s.herd h).taken 0 n < q.seq → r.seq ≤ q.seq)) ∧
  (∀ (s : State) (h : HerdNo), (s.herd h).st = .running →
    let q := (s.herd h).outseq + 1
    let emits (o : HerdOut) (left : Bool) (t : State) : Prop := t.herd h = { s.herd h with outseq := q } ∧ HerdsBut h s t ∧
      t.jrn.outs = s.jrn.outs ++ [{ herd := h, outseq := q, out := o, left := left }]
    let c := s.ring .completion h
    (∀ o, s.outRefused h o = false → q ≤ NatMap.get s.jrn.sent 0 h → Runs (.herdOutput h o) s (fun t =>
      t.herd h = { s.herd h with outseq := q } ∧ HerdsBut h s t ∧ KeepsBut [.herds] s t)) ∧
    (NatMap.get s.jrn.sent 0 h < q →
      (∀ tag payload, c.full = false → 32 + payload.length ≤ c.bytes .completion → Runs (.herdOutput h (.completion tag payload)) s (fun t =>
        emits (.completion tag payload) true t ∧ t.ring .completion h = { c with prod := c.prod + 1 } ∧
        t.host.bar2 = Mem.write s.host.bar2 (c.entry .completion c.prod) (s.completion h q tag payload) ∧
        KeepsBut [.herds, .jrn, .host] s t)) ∧
      (∀ tag payload, c.full = false → c.bytes .completion < 32 + payload.length → Runs (.herdOutput h (.completion tag payload)) s (fun t =>
        emits (.completion tag payload) true t ∧ KeepsBut [.herds, .jrn] s t)) ∧
      (∀ tag payload, c.full = true → exec (.herdOutput h (.completion tag payload)) s = .next s) ∧
      (∀ n payload, s.outRefused h (.stream n payload) = false →
        (s.pairTakes (s.streamPair n) = true → Runs (.herdOutput h (.stream n payload)) s (fun t => emits (.stream n payload) false t ∧
          (t.jrn.pair (s.streamPair n)).arriving = (s.jrn.pair (s.streamPair n)).arriving ++
            [{ stream := n, src := h, tag := 0, payload := payload, reinject := none, ring := none, out := some (h.val, q), peer := none }] ∧
          KeepsBut [.herds, .jrn] s t)) ∧
        (s.pairTakes (s.streamPair n) = false → exec (.herdOutput h (.stream n payload)) s = .next s)) ∧
      (∀ w n payload, s.outRefused h (.wafer w n payload) = false →
        (s.htOn = true → 0 < (s.peer w).credits → Runs (.herdOutput h (.wafer w n payload)) s (fun t => emits (.wafer w n payload) false t ∧
          (t.peer w).credits = (s.peer w).credits - 1 ∧ (t.peer w).unacked = (s.peer w).unacked ++ [(s.htTakes,
            { peer := w, seq := BitVec.ofNat 64 (NatMap.get (s.peer w).txSeq 1 n), body := .work n h (BitVec.ofNat 64 q) payload })] ∧
          NatMap.get (t.peer w).txSeq 1 n = NatMap.get (s.peer w).txSeq 1 n + 1 ∧ KeepsBut [.herds, .jrn, .macs] s t)) ∧
        (s.htOn = false ∨ (s.peer w).credits = 0 → exec (.herdOutput h (.wafer w n payload)) s = .next s)) ∧
      (∀ n seq frame, Runs (.herdOutput h (.reply n seq frame)) s (fun t => emits (.reply n seq frame) false t ∧ KeepsBut [.herds, .jrn] s t)))) ∧
  (∀ (s : State) (h : HerdNo) (o : OutW), s.jrn.outs.find? (fun o => decide (o.herd = h.val)) = some o →
    (o.left = true → Runs (.outputSent h) s (fun t =>
      NatMap.get t.jrn.sent 0 h = max o.outseq (NatMap.get s.jrn.sent 0 h) ∧ t.jrn.outs = s.jrn.outs.erase o ∧
      KeepsBut [.regs, .jrn, .io] s t)) ∧
    (o.left = false → exec (.outputSent h) s = .next s)) ∧
  (∀ (s : State) (h : HerdNo) (o : OutW) (n : StreamNo) (seq : Word) (frame : List Byte) (st : Stream),
    s.jrn.outs.find? (fun o => decide (o.herd = h.val ∧ o.left = false) && isReply o.out) = some o → o.out = .reply n seq frame →
    s.stream n = some st →
    let gone (t : State) : Prop :=
      t.jrn.outs = s.jrn.outs.map (fun x => if x.herd = h.val ∧ x.outseq = o.outseq then { x with left := true } else x)
    (∀ src, NatMap.find s.jrn.srcs (n * 2 ^ 64 + seq.toNat) = some src → st.kind = 2 → 14 ≤ frame.length →
      let m := s.macLeader (replyMacOf st src)
      ((s.mac m).up = true → Runs (.replyOutput h) s (fun t =>
        (t.mac m).ht = (s.mac m).ht ++ [.frame { bytes := frame, tsMode := 0, tsId := 0, ref := 0 }] ∧ MacsBut m s t ∧
        gone t ∧ KeepsBut [.macs, .jrn] s t)) ∧
      ((s.mac m).up = false → exec (.replyOutput h) s = .next s)) ∧
    (NatMap.find s.jrn.srcs (n * 2 ^ 64 + seq.toNat) = none ∨ st.kind ≠ 2 → Runs (.replyOutput h) s (fun t =>
      gone t ∧ KeepsBut [.jrn] s t)))

/-- Epochs: a boundary counts EPOCH up and reaches every RUNNING herd; an epoch commits for a group only when each of its
herds has its snapshot whole in both copies, and then retires what the snapshots cover and writes the other control block; a worker
takes the manager's boundaries, and commits nothing once the manager has been silent (R365 to R369, R372, R375, R384,
R386).

Model's choices and readings it rests on: log entry 86. -/
def Obligations.EpochsCommit : Prop :=
  ∀ s : State,
    let e := s.jrn.epoch + 1
    let run := (s.herds.filter (fun x => decide (x.2.st = .running))).map Prod.fst
    let quiet : Prop := s.jrn.streams = [] ∧ s.flt.st ≠ .exhausted
    (s.role = 0 → run = [] → Runs .epochBoundary s (fun t => t.jrn = { s.jrn with epoch := e, silent := false } ∧ KeepsBut [.jrn] s t)) ∧
    (∀ h, s.role = 0 → run = [h] → quiet → (s.herd h).barrier = none → (s.herd h).timer = false →
      ((s.herd h).seqPos.isSome = true → Runs .epochBoundary s (fun t => t.jrn.epoch = e ∧
        t.herd h = { s.herd h with epoch := e, timer := true } ∧ HerdsBut h s t ∧ KeepsBut [.herds, .jrn] s t)) ∧
      ((s.herd h).seqPos = none → (s.herd h).st = .running → (s.herd h).queue = [] → s.allAtBarrier h = false →
        Runs .epochBoundary s (fun t => t.jrn.epoch = e ∧ (t.herd h).st = .running ∧
          (t.herd h).barrier = some { epoch := e, drain := false, src := .sequence } ∧ (t.herd h).queue.map QCmd.op = [4, 1] ∧
          HerdsBut h s t ∧ KeepsBut [.herds, .jrn] s t))) ∧
    (s.role = 2 → exec .epochBoundary s = .next s) ∧
    (∀ n : Word, s.role = 2 → run = [] → s.waferIndex ∉ s.jrn.leaving → Runs (.epochAnnounce n) s (fun t =>
      t.jrn = { s.jrn with epoch := n.toNat, silent := false } ∧ KeepsBut [.jrn] s t)) ∧
    (∀ n, s.role ≠ 2 → exec (.epochAnnounce n) s = .next s) ∧
    (∀ g : Fin 256,
      let hs := s.commitHerds g s.jrn.epoch
      (s.jrn.silent = true ∨ (∃ h ∈ hs, s.hasSnapshot h s.jrn.epoch = false) → exec (.epochCommit g) s = .next s) ∧
      (s.jrn.silent = false → NatMap.get s.jrn.committed 0 g < s.jrn.epoch → hs ≠ [] →
        (∀ h ∈ hs, s.hasSnapshot h s.jrn.epoch = true) → s.role ≠ 2 → s.flt.planned = none →
        Runs (.epochCommit g) s (fun t => NatMap.get t.jrn.committed 0 g = s.jrn.epoch ∧
          (∀ k, k ≠ g.val → NatMap.get t.jrn.committed 0 k = NatMap.get s.jrn.committed 0 k) ∧
          (∀ h ∈ hs, (t.herd h).committed = true) ∧
          (∀ x ∈ s.jrn.streams, x.2.target ∈ hs → NatMap.get (s.snap (snapKey x.2.target s.jrn.epoch)).taken 0 x.1 ≤ (t.jrn.streamSt x.1).retired) ∧
          (∀ n, (s.jrn.streamSt n).retired ≤ (t.jrn.streamSt n).retired ∧ (t.jrn.streamSt n).nextSeq = (s.jrn.streamSt n).nextSeq) ∧
          (∀ h ∈ hs, let x := s.jrn.pair (pairOf (s.homeStack h))
            let y := t.jrn.pair (pairOf (s.homeStack h))
            y.lastA = !x.lastA ∧ y.ctlA = x.ctlA ∧ y.ctlB = x.ctlB ∧ ∃ q c, y.lineQ = x.lineQ ++ q ++ [.ctl (!x.lastA) c ctlLines] ∧
              c.epoch = s.jrn.epoch) ∧ KeepsBut [.regs, .herds, .jrn, .io] s t))) ∧
    (∀ n : Word, s.role = 2 → Runs (.rackCommit n) s (fun t => t.jrn.rackEpoch = n.toNat ∧
      t.jrn.retained = s.jrn.retained.filter (fun r => r.1.all (fun k => decide (n.toNat < k))) ∧ t.jrn.joining = [] ∧ t.jrn.leaving = [] ∧
      (∀ w, w ∈ t.jrn.members ↔ (w ∈ s.jrn.members ∧ w ∉ s.jrn.leaving) ∨ w ∈ s.jrn.joining) ∧ KeepsBut [.jrn] s t)) ∧
    (∀ n : Word, s.role = 1 → (∃ w ∈ s.jrn.members, (s.peer w).reported < n.toNat) → exec (.rackCommit n) s = .next s) ∧
    (∀ w : Fin 256, s.role = 1 → (w.val ∉ s.jrn.joining → Runs (.workerJoin w) s (fun t =>
        t.jrn = { s.jrn with joining := s.jrn.joining ++ [w.val] } ∧ KeepsBut [.jrn] s t)) ∧
      (w.val ∉ s.jrn.leaving → Runs (.workerLeave w) s (fun t =>
        t.jrn = { s.jrn with leaving := s.jrn.leaving ++ [w.val] } ∧ KeepsBut [.jrn] s t))) ∧
    (s.role = 2 → Runs .managerSilence s (fun t => t.jrn = { s.jrn with silent := true } ∧ KeepsBut [.jrn] s t))

/-- The herd transport: a message whose number in its stream its receiver holds is discarded and acknowledged again;
acknowledgements and credits do what they say; a work message joins its WAFER stream; bytes of an image go into a worker's
staging area, but while a load runs they are not taken. The rim sender of a group sends the next chunk of the wafer's partial
to each other wafer while it holds a credit of each (R44 to R46, R149, R195, R196, R351, R355, R375).

Model's choices and readings it rests on: log entries 77, 106. -/
def Obligations.HerdTransport : Prop :=
  (∀ (s : State) (m : HtMsg), s.htOn = true →
    let w := m.peer.val
    let p := s.peer w
    let id := (htChan m.body, m.seq.toNat)
    let others (t : State) : Prop := ∀ k, k ≠ w → t.peer k = s.peer k
    let ack : HtMsg := { peer := m.peer, seq := BitVec.ofNat 64 s.jrn.epoch, body := .ack (htChan m.body) m.seq }
    let sends (l : List HtMsg) (t : State) : Prop := MacsBut s.htTakes s t ∧
      t.mac s.htTakes = { s.mac s.htTakes with ht := (s.mac s.htTakes).ht ++ (if s.htTakes < 16 then l.map HtTx.msg else []) }
    (htSequenced m.body = true → s.htWaits m.body = false → id ∈ p.seen → Runs (.htMessageReceive m) s (fun t =>
      sends [ack] t ∧ KeepsBut [.macs] s t)) ∧
    (∀ n, m.body = .credit n → s.mesh.owed = [] → Runs (.htMessageReceive m) s (fun t =>
      t.peer w = { p with credits := p.credits + n } ∧ others t ∧ KeepsBut [.jrn] s t)) ∧
    (∀ c q, m.body = .ack c q → s.mesh.owed = [] →
      let mine (u : Nat × HtMsg) : Bool := decide (htChan u.2.body = c ∧ u.2.seq = q)
      Runs (.htMessageReceive m) s (fun t =>
        t.peer w = { p with unacked := p.unacked.filter (fun u => !(mine u)) } ∧ others t ∧
        (p.unacked.filter mine = [] → t.jrn.outs = s.jrn.outs) ∧
        (∀ k n h q' payload, p.unacked.filter mine = [(k, { peer := m.peer, seq := q, body := .work n h q' payload })] →
          t.jrn.outs = s.jrn.outs.map (fun x => if x.herd = h.val ∧ x.outseq = q'.toNat then { x with left := true } else x)) ∧
        t.jrn.retained.length = s.jrn.retained.length ∧ KeepsBut [.jrn] s t)) ∧
    (∀ e, m.body = .commitReport e → s.role = 1 → id ∉ p.seen → s.mesh.owed = [] → Runs (.htMessageReceive m) s (fun t =>
      t.peer w = { p with seen := p.seen ++ [id], reported := max p.reported e.toNat } ∧ others t ∧ sends [ack] t ∧
      KeepsBut [.jrn, .macs] s t)) ∧
    (∀ n h q payload st, m.body = .work n h q payload → id ∉ p.seen → s.stream n = some st → st.kind = 4 → st.arg = w → s.mesh.owed = [] →
      payload.length ≤ st.maxItem → Runs (.htMessageReceive m) s (fun t =>
        (t.jrn.pair (s.streamPair n)).arriving = (s.jrn.pair (s.streamPair n)).arriving ++
          [{ stream := n, src := w, tag := 0, payload := payload, reinject := none, ring := none, out := some ((w + 1) * 1024 + h.val, q.toNat), peer := some (w, m.seq.toNat) }] ∧
        t.peer w = { p with seen := p.seen ++ [id] } ∧ others t ∧ KeepsBut [.jrn] s t)) ∧
    (∀ g ws, m.body = .collPart g ws → id ∉ p.seen → NatMap.find s.mesh.groups g = none → s.htTakes < 16 → s.mesh.owed = [] →
      s.mesh.early.any (fun e => decide (e.1 = w ∧ e.2.1 = g.val)) = false →
      Runs (.htMessageReceive m) s (fun t => t.mesh = { s.mesh with early := s.mesh.early ++ [(w, g.val, ws)] } ∧
        sends [ack, { peer := m.peer, seq := 0, body := .credit 1 }] t ∧
        t.peer w = { p with seen := p.seen ++ [id] } ∧ others t ∧ KeepsBut [.mesh, .jrn, .macs] s t)) ∧
    (∀ off bytes, m.body = .image off bytes →
      (s.loadBusy = true → exec (.htMessageReceive m) s = .next s) ∧
      (s.loadBusy = false → id ∉ p.seen → s.htTakes < 16 → s.mesh.owed = [] → ¬(off % 64 = 0 ∧ stagingBase + off + bytes.length ≤ stagingEnd) →
        Runs (.htMessageReceive m) s (fun t => sends [ack, { peer := m.peer, seq := 0, body := .credit 1 }] t ∧
          t.peer w = { p with seen := p.seen ++ [id] } ∧ others t ∧ KeepsBut [.jrn, .macs] s t)))) ∧
  (∀ (s : State) (m : HtMsg), s.htOn = false → exec (.htMessageReceive m) s = .next s) ∧
  (∀ (s : State) (g : Fin 64) (q : Group) (w : Fin 256) (p : CollPart), NatMap.find s.mesh.groups g = some q →
    s.otherWafers q = [w.val] → q.sender ≠ 0xFFFF → s.htOn = true →
    ((s.peer w).credits = 0 → exec (.collectiveMessageSend g) s = .next s) ∧
    (0 < (s.peer w).credits → s.mesh.parts.find? (fun p => decide (p.group = g.val ∧ p.sent < p.words.length)) = some p →
      s.mesh.early = [] → s.mesh.owed = [] →
      let chunk := (p.words.drop p.sent).take (2 ^ q.chunk / 8)
      let seq := NatMap.get (s.peer w).txSeq 1 (groupChan g)
      let msg : HtMsg := { peer := w, seq := BitVec.ofNat 64 seq, body := .collPart g chunk }
      (s.retains q.sender (8 * chunk.length) = false → exec (.collectiveMessageSend g) s = .next s) ∧
      (s.retains q.sender (8 * chunk.length) = true → Runs (.collectiveMessageSend g) s (fun t =>
        (t.peer w).credits = (s.peer w).credits - 1 ∧ NatMap.get (t.peer w).txSeq 1 (groupChan g) = seq + 1 ∧
        (t.peer w).unacked = (s.peer w).unacked ++ [(s.htTakes, msg)] ∧ (∀ k, k ≠ w.val → t.peer k = s.peer k) ∧
        (s.htTakes < 16 → (t.mac s.htTakes).ht = (s.mac s.htTakes).ht ++ [.msg msg]) ∧
        (0 < (NatMap.get s.jrn.retain (0, 0) q.sender).2 → t.jrn.retained = s.jrn.retained ++ [(none, msg)]) ∧
        t.mesh = { s.mesh with parts := s.mesh.parts.map (fun x => if x = p then { x with sent := x.sent + chunk.length } else x) } ∧
        KeepsBut [.mesh, .jrn, .macs] s t))))

/-! ### Recovery (R376 to R382, R384, R397, R398) -/

/-- DETECT isolates the group of the herd and puts the herd in FAULTED, or only the herd where every probe answers or no
reserve is left; a fault of another group waits. DECIDE takes the spare of R378, stops for the host in host-assisted mode of
tile remap, and exhausts when nothing is left; REMAP, MOVE, and the answers to the stop do what they say (R376 to R379, R381,
R382, R397, R398).

Model's choices and readings it rests on: log entries 88, 89, 101. -/
def Obligations.FaultsAreRepaired : Prop :=
  (∀ (s : State) (h : HerdNo) (f : Failed), AtRest s h →
    let code := if (s.herd h).fault ≠ 0 then (s.herd h).fault else Code.tileHandshakeTimeout
    let stalls (found : Option Failed) : Prop := Runs (.detect h found) s (fun t =>
      t.herd h = (if (s.herd h).st = .faulted then s.herd h else { s.herd h with st := .faulted, fault := code, stackFault := false }) ∧
      HerdsBut h s t ∧ KeepsBut [.herds] s t)
    stalls none ∧ (s.flt.st = .exhausted → stalls (some f)) ∧
    (s.flt.st ≠ .idle → s.flt.st ≠ .exhausted → s.flt.group ≠ s.groupOf h → Runs (.detect h (some f)) s (fun t =>
      t.flt = { s.flt with queue := s.flt.queue ++ [(h.val, some f)] } ∧ KeepsBut [.flt] s t)) ∧
    (s.flt.st = .idle → (s.herd h).st = .running → s.groupHerds (s.groupOf h) = [h.val] → Runs (.detect h (some f)) s (fun t =>
      (t.herd h).st = .faulted ∧ (t.herd h).fault = code ∧ (t.herd h).taken = (s.herd h).taken ∧
      (t.herd h).outseq = (s.herd h).outseq ∧ HerdsBut h s t ∧
      (∀ k, t.tile k = if herdOfKey k = h.val ∧ (s.tile k).run = .running then { s.tile k with run := .halted } else s.tile k) ∧
      t.bru = { s.bru with failed := s.bru.failed ++ [f] } ∧
      t.flt = { s.flt with st := .decide, herd := h, group := s.groupOf h, failed := [f], reload := [h.val], choice := none, stop := false, moveTo := none, atFault := s.groupMarks (s.groupOf h) } ∧
      KeepsBut [.tiles, .herds, .bru, .flt] s t))) ∧
  (∀ (s : State) (f : Failed) (rest : List Failed), s.flt.st = .decide → s.flt.stop = false → s.flt.failed = f :: rest →
    let goes (c : Choice) : Prop := c ≠ .move ∨ s.reserveNext.isSome = true
    (s.spareChoice f = none → Runs .decide s (fun t =>
      t.flt = { s.flt with failed := rest, choice := none, st := if rest.isEmpty then .reload else .decide } ∧ KeepsBut [.bru, .flt] s t)) ∧
    (∀ c, s.spareChoice f = some c → goes c → s.assisted 0 = true → Runs .decide s (fun t =>
      t.flt = { s.flt with choice := some c, stop := true } ∧
      t.io.events = s.io.events ++ [{ code := Code.hostStop, stop := true, source := Source.flt, loc := 0, stream := none, time := s.now64, detail := Config.stopDetail 0 (choiceHolds (s.failedHerd f) c f) }] ∧
      KeepsBut [.flt, .io] s t)) ∧
    (∀ c, s.spareChoice f = some c → goes c → s.assisted 0 = false → Runs .decide s (fun t =>
      t.flt = { s.flt with choice := some c, stop := false, st := if c = .move then .move else .remap } ∧ KeepsBut [.flt] s t)) ∧
    (∀ h e, s.spareChoice f = some .move → s.reserveNext = none → s.flt.atFault.map Prod.fst = [h] →
      e = NatMap.get s.jrn.committed 0 s.flt.group → (s.herd h).committed = true → s.snapReadable h e = true → Runs .decide s (fun t =>
        t.flt.st = .exhausted ∧ t.rd Reg.FLT_STATUS_EXHAUSTED = 1 ∧ (t.herd h).st = .halted ∧ (t.herd h).atEpoch = some e ∧
        t.io.events = s.io.events ++ [{ code := Code.remapExhausted, stop := false, source := Source.flt, loc := 0, stream := none, time := s.now64, detail := BitVec.ofNat 64 (s.flt.herd + f.at_.x * 2 ^ 10 + f.at_.y * 2 ^ 21) }] ∧
        KeepsBut [.regs, .tiles, .herds, .jrn, .flt, .io] s t))) ∧
  (∀ s : State, (s.flt.st ≠ .decide ∨ s.flt.stop = true → exec .decide s = .next s) ∧
    (s.flt.st ≠ .remap → exec .chamoisRemap s = .next s) ∧ (∀ m, s.flt.st ≠ .move → exec (.herdMove m) s = .next s) ∧
    (s.flt.stop = false → exec .decideStopTimeout s = .next s ∧ exec .fltAccept s = .next s ∧ exec .fltHold s = .next s)) ∧
  (∀ (s : State) (c : Choice), s.flt.st = .decide → s.flt.stop = true → s.flt.choice = some c → Linked s →
    let takes (i : Instr) (c : Choice) : Prop := Runs i s (fun t =>
      t.flt = { s.flt with choice := some c, stop := false, st := if c = .move then .move else .remap } ∧ KeepsBut [.flt] s t)
    (c ≠ .move ∨ s.reserveNext.isSome = true → takes .decideStopTimeout c ∧ takes .fltAccept c) ∧
    (∀ h, s.reserveNext.isSome = true → takes (.fltMove h) .move) ∧
    (s.flt.queue = [] → Runs .fltHold s (fun t => t.flt = { s.flt with st := .idle, held := s.flt.held ++ [s.flt.group], failed := [], reload := [], choice := none, stop := false, atFault := [], moveTo := none, missed := [], byReset := false } ∧
      KeepsBut [.flt] s t))) ∧
  (∀ (s : State) (h : HerdNo), s.flt.stop = false → Linked s → Runs (.fltMove h) s (fun t =>
    t.flt = { s.flt with planned := some h.val } ∧ KeepsBut [.flt] s t)) ∧
  (∀ (s : State) (c : Choice) (f : Failed) (rest : List Failed), s.flt.st = .remap → s.flt.choice = some c → s.flt.failed = f :: rest →
    let h := s.failedHerd f
    let ph := failHerd f
    Runs .chamoisRemap s (fun t =>
      (c = .rowSkip → t.hmap ph = { s.hmap ph with skipTile := NatMap.ins (s.hmap ph).skipTile (f.at_.y % 33) (f.at_.x % 33) }) ∧
      (c = .herdRow → t.hmap ph = { s.hmap ph with skipRow := f.at_.y % 33 }) ∧ (∀ q, q ≠ ph → t.hmap q = s.hmap q) ∧
      (f.elem = .router → (t.router f.at_.x f.at_.y).bypass = true) ∧
      (∀ k, herdOfPos k = s.pherd h → let r := NatMap.get t.mesh.routers Router.reset k
        r.herdTab = [] ∧ r.localTab = [] ∧ r.edgeTab = [] ∧ r.bcast = (NatMap.get s.mesh.routers Router.reset k).bcast) ∧
      t.mesh = { s.mesh with routers := t.mesh.routers, gens := t.mesh.gens } ∧
      NatMap.find t.mesh.gens (s.pherd h) = some { all := t.bypassList, herd := [] } ∧
      (∀ q, q ≠ s.pherd h → NatMap.find t.mesh.gens q = NatMap.find s.mesh.gens q) ∧
      t.flt = { s.flt with failed := rest, choice := none, st := if rest.isEmpty then .reload else .decide } ∧
      t.rd Reg.FLT_COUNT_REMAPS = min (s.rd Reg.FLT_COUNT_REMAPS + 1) 0xFFFF ∧ t.rd Reg.FLT_REMAP_HERD = h % 1024 ∧
      t.rd Reg.FLT_REMAP_KIND = c.kind ∧ t.rd Reg.FLT_REMAP_PX = f.at_.x % 33 ∧ t.rd Reg.FLT_REMAP_PY = f.at_.y % 33 ∧
      t.rd Reg.FLT_REMAP_VALID = 1 ∧ RegsBut [Reg.FLT_COUNT, Reg.FLT_REMAP] s t ∧ KeepsBut [.regs, .mesh, .bru, .flt] s t)) ∧
  (∀ (s : State) (row : Nat), s.flt.st = .move → s.flt.moveTo = none → s.reserveNext = some row → s.pwr.doms.length = 96 →
    (∀ missed, s.pherd s.flt.herd ≠ reserveHerd row → Runs (.herdMove ⟨true, missed⟩) s (fun t =>
      t.flt = { s.flt with usedRows := s.flt.usedRows ++ [row], moveTo := some row, missed := s.flt.missed ++ missed } ∧ t.pdOn (pdOfPherd (reserveHerd row)) = true ∧
      (t.hmap (s.pherd s.flt.herd)).retired = true ∧ t.hmap (reserveHerd row) = (s.herdMap (reserveHerd row)).getD HMap.plain ∧
      t.bru.map.moved = s.bru.map.moved ∧ KeepsBut [.bru, .flt, .pwr] s t)) ∧
    (∀ missed, s.flt.failed ≠ [] → Runs (.herdMove ⟨false, missed⟩) s (fun t =>
      t.flt = { s.flt with usedRows := s.flt.usedRows ++ [row], st := .decide, choice := none } ∧ KeepsBut [.flt, .pwr] s t)))

/-- RELOAD puts each failed herd in LOADED, or in FAULTED where its resident entry is damaged; a tile of a reserve herd that has
not taken the firmware goes back to DECIDE; RESTORE takes the group to its committed snapshot, and stops for the host in host-assisted mode of journal replay; REPLAY releases it, and RESUME ends the
recovery once every herd has caught up. The replay stop is answered by REPLAY, HOLD, HANDOVER or its time-out (R373, R377,
R380, R382, R385, R395, R398).

Model's choices and readings it rests on: log entries 66, 82, 101, 120, 133. -/
def Obligations.HerdsAreReplayed : Prop :=
  let ended (x : Flt) : Flt := { x with st := .idle, failed := [], reload := [], choice := none, stop := false, atFault := [], moveTo := none, missed := [], byReset := false }
  (∀ (s : State) (h : HerdNo), s.flt.st = .reload → s.flt.reload = [h.val] → s.pherd h % 33 ≠ 32 →
    (∀ k, (s.stk k).bad = [] ∧ (s.stk k).corr = [] ∧ (s.stk k).odie = []) → (s.stk (s.homeStack h)).st = .service →
    Runs .reload s (fun t => t.flt = { s.flt with st := .restore, missed := [] } ∧ HerdsBut h s t ∧
      ((s.herdEntry h).bad = none → (∀ x ∈ (s.herdEntry h).sects, x.typ = SecType.tileInit → checkInit x.payload = true) →
        (t.herd h).st = .loaded) ∧
      ((s.herdEntry h).bad ≠ none → AtRest s h → (t.herd h).st = .faulted ∧ (t.herd h).fault = Code.imageCrc) ∧
      KeepsBut [.regs, .tiles, .herds, .mesh, .flt, .io] s t)) ∧
  (∀ s : State,
    (s.flt.st ≠ .reload → exec .reload s = .next s) ∧
    (s.flt.st = .reload → s.reserveMissed ≠ [] → Runs .reload s (fun t =>
      t.flt = { s.flt with st := .decide, failed := missFails s.reserveMissed, choice := none, missed := [] } ∧
      t.bru = { s.bru with failed := s.bru.failed ++ missFails s.reserveMissed } ∧ KeepsBut [.regs, .bru, .flt, .io] s t))) ∧
  (∀ (s : State) (h : HerdNo), s.flt.st = .restore → s.jrn.stop = none → s.flt.atFault.map Prod.fst = [h.val] →
    (s.reloadFailed = true → s.flt.queue = [] → Runs .recoveryRestore s (fun t => t.flt = ended s.flt ∧ KeepsBut [.flt] s t)) ∧
    (s.reloadFailed = false → (s.herd h).committed = true →
      let e := NatMap.get s.jrn.committed 0 s.flt.group
      let p := s.snap (snapKey h e)
      let held := s.flt.held.filter (fun g => decide (g ≠ s.groupOf h))
      s.snapReadable h e = true → Runs .recoveryRestore s (fun t =>
        (t.herd h).st = .halted ∧ (t.herd h).atEpoch = some e ∧ (t.herd h).taken = p.taken ∧ (t.herd h).outseq = p.outseq ∧ HerdsBut h s t ∧
        (∀ q, p.tiles = [q] → (t.tile q.key).sram = q.data ∧ (t.tile q.key).pc = q.pc ∧ (t.tile q.key).accs = q.accs ∧
          (t.tile q.key).ctrs = q.ctrs ∧ (t.tile q.key).prog = (s.tile q.key).prog) ∧
        (s.assisted 6 = false → t.flt = { s.flt with st := .replay, held := held } ∧ t.jrn.stop = none ∧ t.io = s.io) ∧
        (s.assisted 6 = true → t.flt = { s.flt with held := held } ∧ t.jrn.stop = some s.flt.group ∧
          t.io.events = s.io.events ++ [{ code := Code.hostStop + 6, stop := true, source := Source.jrn, loc := 0, stream := none, time := s.now64, detail := Config.stopDetail 6 [s.now64.toNat] }]) ∧
        KeepsBut [.tiles, .herds, .jrn, .flt, .io] s t))) ∧
  (∀ (s : State) (h : HerdNo), s.flt.st = .replay → s.flt.atFault.map Prod.fst = [h.val] → s.mesh.groups = [] → AtRest s h →
    (s.herd h).st = .halted → (s.mapTiles h Tile.go).tileFault h = none → Runs .replay s (fun t =>
      t.herd h = { s.herd h with st := .running, fault := 0, stackFault := false, atEpoch := none, drained := false } ∧ HerdsBut h s t ∧
      (∀ k, t.tile k = if herdOfKey k = h.val then (s.tile k).go else s.tile k) ∧ t.flt = { s.flt with st := .resume } ∧
      KeepsBut [.tiles, .herds, .flt] s t)) ∧
  (∀ s : State, s.flt.st = .resume →
    (s.flt.atFault.all s.caughtUp = true → s.flt.queue = [] → Runs .resume s (fun t => t.flt = ended s.flt ∧
      t.rd Reg.FLT_COUNT_RECOVERIES = min (s.rd Reg.FLT_COUNT_RECOVERIES + 1) 0xFFFF ∧ RegsBut [Reg.FLT_COUNT] s t ∧ KeepsBut [.regs, .flt] s t)) ∧
    (s.flt.atFault.all s.caughtUp = false → exec .resume s = .next s)) ∧
  (∀ (s : State) (g : Fin 256), Linked s → s.pdOn 93 = true →
    let goesOn (i : Instr) : Prop := Runs i s (fun t => t.jrn = { s.jrn with stop := none } ∧
      t.flt = (if s.flt.st = .restore then { s.flt with st := .replay } else s.flt) ∧ KeepsBut [.jrn, .flt] s t)
    (s.jrn.stop = some g.val → goesOn (.jrnReplay g) ∧ goesOn .replayStopTimeout ∧
      (s.flt.st = .restore → s.flt.group = g.val → s.flt.queue = [] → Runs (.jrnHold g) s (fun t =>
        t.jrn = { s.jrn with stop := none } ∧ t.flt = ended s.flt ∧ KeepsBut [.jrn, .flt] s t))) ∧
    (s.jrn.stop ≠ some g.val → exec (.jrnReplay g) s = .next s ∧ exec (.jrnHold g) s = .next s ∧
      ∀ n st, s.jrn.streams.filter (fun x => decide (s.groupOf x.2.target = g.val)) = [(n, st)] →
        let p := s.streamPair n
        let x := s.jrn.pair p
        let r := s.mark p 4 n 0 (s.jrn.streamSt n).retired
        x.room 1 = true → s.exports = false → Runs (.handover g) s (fun t =>
          t.jrn.pair p = { x with head := x.head + 1, lineQ := x.lineQ ++ r.queue, writing := x.writing ++ [(r, none)] } ∧
          (∀ q, q ≠ p → t.jrn.pair q = s.jrn.pair q) ∧ KeepsBut [.jrn] s t)) ∧
    (s.jrn.stop = none → exec .replayStopTimeout s = .next s))

/-! ### Bring-up (R399 to R427) -/

/-- The stages: RAMP switches every domain on in its turn and brings the host link up, TRAIN puts the stacks into service, BIST
records what failed and bypasses failed routers, REMAP computes and freezes the map, a warm start takes the resident image up
again or waits for one, RELEASE releases the herds that hold a program. A stage that may not start leaves the wafer as it is,
and a stop asked for is made before its stage (R399 to R401, R403, R404, R406 to R411, R417, R418, R424, R442, R448).

Model's choices and readings it rests on: log entries 26, 91, 92. -/
def Obligations.StagesOfBringUp : Prop :=
  (∀ s : State, (s.mayStart 0 = false → exec .ramp s = .next s) ∧
    (s.mayStart 0 = true → s.waitsCool = true → Runs .ramp s (fun t => t.host = { s.host with linkUp := true } ∧
      t.pwr.waitCool = true ∧ KeepsBut [.host, .pwr] s t)) ∧
    (s.mayStart 0 = true → s.waitsCool = false → Runs .ramp s (fun t => t.host = { s.host with linkUp := true } ∧
      t.bru = { s.bru with stage := 1 } ∧ t.jtag = { s.jtag with pins := 0 } ∧ t.pwr.waitCool = false ∧
      (∀ d, d < 96 → d < s.pwr.doms.length → t.pdOn d = true) ∧
      (s.bru.warm = false → s.pwr.flashBad = none → calWhy (Mem.read s.pwr.flash 0 16384) ≠ 0 → t.pwr.calState = 2 ∧ t.pwr.calDefault = true) ∧
      KeepsBut [.bru, .host, .jtag, .pwr, .time] s t))) ∧
  (∀ s : State, s.mayStart 1 = true → s.stks.any (fun e => decide (e.2.st = .training)) = false →
    (∀ rs, s.bru.trained = true → Runs (.train rs) s (fun t =>
      t.bru = { s.bru with stage := if s.bru.warm = true ∧ s.bru.wantBist = false then 3 else 2 } ∧ KeepsBut [.bru] s t)) ∧
    (s.bru.trained = false → s.bru.warm = false → s.assisted 3 = false → Runs (.train []) s (fun t =>
      t.bru = { s.bru with stage := 2, trained := true } ∧ (∀ k, k < 16 → (t.stk k).st = .service ∧ (t.stk k).mem = (s.stk k).mem) ∧
      KeepsBut [.stks, .bru] s t)) ∧
    (s.bru.trained = false → s.bru.warm = false → s.assisted 3 = true → Runs (.train []) s (fun t =>
      t.bru = { s.bru with trained := true } ∧ (∀ k, k < 16 → (t.stk k).st = .training ∧ (t.stk k).stops = [{ kind := 0, ch := 0, why := .host, failed := 0 }]) ∧
      KeepsBut [.stks, .bru, .io] s t))) ∧
  (∀ (s : State) (fs : List Failed), s.mayStart 2 = true → (∀ f ∈ fs, f.at_.x < 1089 ∧ f.at_.y < 1056) →
    s.bru.bistRecords + fs.length ≤ 4096 → Runs (.bist fs) s (fun t =>
      t.bru = { s.bru with stage := 3, failed := (s.bru.failed ++ fs).eraseDups, bistRecords := s.bru.bistRecords + fs.length } ∧
      t.io.events = s.io.events ++ fs.map (fun f => { code := Code.tileBistFail, stop := false, source := Source.herd, loc := (s.lherd (failHerd f)).getD 0, stream := none, time := s.now64, detail := BitVec.ofNat 64 (f.at_.x + f.at_.y * 2 ^ 11 + elemCode f.elem * 2 ^ 22) }) ∧
      (∀ f ∈ fs, f.elem = .router → (t.router f.at_.x f.at_.y).bypass = true) ∧
      t.rd Reg.BRU_BIST_SUM_TILES_FAILED = min (positions fs (fun e => decide (e ≠ .controller))) 0x1F_FFFF ∧
      t.rd Reg.BRU_BIST_SUM_ROUTERS_BYPASSED = min (positions fs (fun e => decide (e = .router))) 0xFFF ∧
      RegsBut [Reg.BRU_BIST_SUM] s t ∧ KeepsBut [.regs, .mesh, .bru, .io] s t)) ∧
  (∀ s : State, s.mayStart 3 = true → s.bru.warm = false → s.bru.frozen = false → s.bru.draft = none →
    let m := s.startMap
    (s.assisted 0 = true → Runs .remap s (fun t => t.bru = { s.bru with draft := some m, stops := s.bru.stops ++ [.remap] } ∧
      t.io.events = s.io.events ++ [{ code := Code.hostStop, stop := true, source := Source.bru, loc := 0, stream := none, time := s.now64, detail := BitVec.ofNat 64 (s.failedTiles + min (m.moved.length + m.absent.length) 63 * 2 ^ 21) }] ∧
      KeepsBut [.bru, .io] s t)) ∧
    (s.assisted 0 = false → Runs .remap s (fun t =>
      t.bru = { s.bru with map := m, frozen := true, waitImage := !s.img.committed.isSome, stage := if s.img.committed.isSome then 4 else 3 } ∧
      t.rd Reg.BRU_BIST_SUM_HERDS_MOVED = min m.moved.length 63 ∧
      (m.absent = [] → t.io = s.io) ∧ (m.absent ≠ [] → t.rd Reg.BRU_STATUS_EXHAUSTED = 1) ∧ KeepsBut [.regs, .bru, .flt, .io] s t))) ∧
  (∀ s : State, s.mayStart 3 = true → s.bru.warm = true → s.bru.waitImage = false →
    (s.residentOk = false → Runs .warmStart s (fun t => t.bru = { s.bru with waitImage := true } ∧
      KeepsBut [.regs, .stks, .jrn, .bru, .io] s t)) ∧
    (s.residentOk = true → Runs .warmStart s (fun t => t.bru.stage = 4 ∧ t.locked = true ∧ t.fuses = s.fuses ∧ t.pending = s.pending))) ∧
  (∀ s : State, s.presentHerds.filter (fun h => (s.herd h).hasProg) = [] →
    (s.mayStart 6 = true → Runs .releaseStage s (fun t =>
      t.bru = { s.bru with stage := 7, everDone := true, elapsed := (s.devTime.toNat - s.bru.since) / 65536 / 1000000 } ∧
      t.rd Reg.BRU_STATUS_DONE = 1 ∧ RegsBut [Reg.BRU_STATUS] s t ∧ KeepsBut [.regs, .bru, .pwr] s t))) ∧
  (∀ (s : State) (h : HerdNo), s.bru.stage = 7 → s.bru.release = true → s.presentHerds.filter (fun h => (s.herd h).hasProg) = [h.val] →
    (s.herd h).st = .loaded → (s.mapTiles h Tile.go).tileFault h = none → Runs .releaseStage s (fun t => t.bru = { s.bru with release := false } ∧
      t.herd h = { s.herd h with st := .running, fault := 0, stackFault := false, atEpoch := none, drained := false, relTaken := (s.herd h).taken, relOutseq := (s.herd h).outseq, committed := false } ∧
      HerdsBut h s t ∧ (∀ k, t.tile k = if herdOfKey k = h.val then (s.tile k).go else s.tile k) ∧ KeepsBut [.tiles, .herds, .bru] s t)) ∧
  (∀ (s : State) (n : Fin 8),
    let stops (x : BruStop) (d : Nat) (t : State) : Prop := t.bru.stops = s.bru.stops ++ [x] ∧ t.bru.stage = s.bru.stage ∧
      t.io.events = s.io.events ++ [{ code := Code.bringupStop, stop := true, source := Source.bru, loc := 0, stream := none, time := s.now64, detail := BitVec.ofNat 64 d }] ∧
      KeepsBut [.bru, .io] s t
    (s.bru.stageNow ≠ n.val → exec (.bringupStop n) s = .next s) ∧
    (s.bru.stageNow = n.val → s.bru.stops = [] → s.bru.stopAt.contains n.val = true → Runs (.bringupStop n) s (fun t => stops (.stopAt n) n t ∧ t.bru.stopAt.contains n.val = false)) ∧
    (s.bru.stageNow = n.val → n = 6 → s.bru.stops = [] → s.bru.stopAt.contains n.val = false → s.bru.hold = true →
      Runs (.bringupStop n) s (fun t => stops .holdRelease 14 t ∧ t.bru.hold = false)))

/-- The stops of bring-up are answered by the host's commands or by the passing of their time: the remap stop ends with the
map frozen, or is worked out again with a tile marked; a broadcast repair stop goes on to the next round, or ends with every
tile that misses a segment retired; a port at its stop comes up, trains again or stays down; a stage stop ends. A watchdog
restart of the management cores discards the replies still pending (R387, R405, R414, R415, R417, R423, R425, R474).

Model's choices and readings it rests on: log entries 56, 104, 105. -/
def Obligations.BringUpStops : Prop :=
  (∀ s : State, s.bru.stops = [] → (∀ m, exec (.bruAccept m) s = .next s ∧ exec (.retry m) s = .next s ∧ exec (.down m) s = .next s) ∧
    exec .retireNow s = .next s ∧ exec .go s = .next s ∧ (∀ x y, exec (.mark x y) s = .next s) ∧
    exec .repairStopTimeout s = .next s ∧ ∀ k, exec (.bringupStopTimeout k) s = .next s) ∧
  (∀ (s : State) (rest : List BruStop), Linked s → s.pdOn 95 = true →
    (∀ d m, s.bru.stops = .remap :: rest → s.bru.draft = some d → d.absent = [] →
      let frozen (i : Instr) : Prop := Runs i s (fun t =>
        t.bru = { s.bru with stops := rest, map := d, draft := none, frozen := true, waitImage := !s.img.committed.isSome, stage := if s.img.committed.isSome then 4 else 3 } ∧
        t.flt = { s.flt with usedRows := d.moved.map (fun e => e.2 / 33) } ∧ t.rd Reg.BRU_BIST_SUM_HERDS_MOVED = min d.moved.length 63 ∧
        KeepsBut [.regs, .bru, .flt] s t)
      frozen (.bruAccept m) ∧ frozen (.bringupStopTimeout .remap)) ∧
    (∀ x y : BitVec 11, s.bru.stops = .remap :: rest → x.toNat < 1089 → y.toNat < 1056 → Runs (.mark x y) s (fun t =>
      let failed := s.bru.failed ++ [{ at_ := ⟨x.toNat, y.toNat⟩, elem := .tile }]
      t.bru = { s.bru with failed := failed, draft := some (State.startMap { s with bru := { s.bru with failed := failed } }) } ∧ KeepsBut [.bru] s t)) ∧
    (∀ r n, s.bru.stops = .repair r n :: rest →
      let goesOn (i : Instr) : Prop := Runs i s (fun t => t.bru = { s.bru with stops := rest } ∧ KeepsBut [.bru] s t)
      let retires (i : Instr) : Prop := Runs i s (fun t => t.bru.stops = rest ∧ t.bru.missing = [] ∧
        t.bru.failed = s.bru.failed ++ s.bru.missing.map (fun e => { at_ := ⟨e.1 % 1089, e.1 / 1089⟩, elem := .tile }) ∧
        (∃ l, t.io.events = s.io.events ++ s.bru.missing.map (fun e => { code := Code.tileFwMissing, stop := false, source := Source.herd, loc := (s.lherd (herdOfPos e.1)).getD 0, stream := none, time := s.now64, detail := BitVec.ofNat 64 (e.1 % 1089 + e.1 / 1089 * 2 ^ 11 + e.2 * 2 ^ 22) }) ++ l) ∧
        t.rd Reg.BRU_BCAST_STAT_RETIRED = min (s.rd Reg.BRU_BCAST_STAT_RETIRED + s.bru.missing.length) 0x1F_FFFF ∧
        t.rd Reg.BRU_BCAST_STAT_MISSING = 0 ∧ KeepsBut [.regs, .bru, .flt, .io] s t)
      retires .retireNow ∧ (s.bru.round < 3 → goesOn .repairStopTimeout ∧ ∀ m, goesOn (.retry m)) ∧
      (3 ≤ s.bru.round → retires .repairStopTimeout ∧ ∀ m, retires (.retry m))) ∧
    (∀ (m : MacNo) (ok : Bool), s.bru.stops = .serdes m ok :: rest → (s.mac m).lost = false →
      let becomes (i : Instr) (x : MacSt) : Prop := Runs i s (fun t => t.mac m = { x with ht := (t.mac m).ht } ∧
        (s.jrn.peers = [] → (t.mac m).ht = (s.mac m).ht) ∧ MacsBut m s t ∧ t.bru = { s.bru with stops := rest } ∧
        t.io.events = s.io.events ∧ KeepsBut [.macs, .bru, .jrn, .io] s t)
      let x := if ok then { s.mac m with up := true, training := false, retry := false, lost := false } else { s.mac m with training := false, retry := true }
      becomes (.bruAccept m) x ∧ becomes (.bringupStopTimeout (.serdes m)) x ∧ becomes (.retry m) { s.mac m with training := true } ∧
      becomes (.down m) { s.mac m with training := false, retry := false, down := true } ∧
      (∀ n, n ≠ m → exec (.bruAccept n) s = .next s ∧ exec (.retry n) s = .next s ∧ exec (.down n) s = .next s)) ∧
    (∀ n : Fin 8, s.bru.stops = .stopAt n :: rest ∨ s.bru.stops = .holdRelease :: rest → Runs .go s (fun t =>
      t.bru = { s.bru with stops := rest } ∧ KeepsBut [.bru] s t)) ∧
    (∀ n : Fin 8, s.bru.stops = .stopAt n :: rest → Runs (.bringupStopTimeout (.stopAt n)) s (fun t =>
      t.bru = { s.bru with stops := rest } ∧ KeepsBut [.bru] s t))) ∧
  (∀ s : State, Runs .mgmtWatchdog s (fun t => t.host = { s.host with restarts := s.host.restarts + 1, mailLen := [] } ∧
    (∃ src, t.io.events = s.io.events ++ [{ code := Code.mgmtWatchdog, stop := false, source := src, loc := 0, stream := none, time := s.now64, detail := BitVec.ofNat 64 (min (s.host.restarts + 1) 0xFFFF) }]) ∧
    (s.bru.mgmt.cores = [] → t.bru = s.bru) ∧
    (s.bru.mgmt.cores ≠ [] → t.bru = { s.bru with mgmt := Mgmt.start s.bru.mgmt.mem }) ∧ KeepsBut [.host, .bru, .io] s t))

/-! ### Power, cooling and calibration (R428 to R459) -/

/-- A boundary of the arbiter: the requests are latched, the grant worked out at the last boundary comes into force, and the
new ones are worked out within the budget. Where the FLOORs fit, the grants together stay within the budget, and otherwise
every domain gets its FLOOR; each powered domain gets its FLOOR at least, and no more than it wants above it; a dark one
gets nothing; and a class gets more than its FLOORs only where every class above it has all that it wants (R432, R434 to
R436).

Model's choices and readings it rests on: log entry 95. -/
def Obligations.GrantsFitTheBudget : Prop :=
  ∀ (s : State) (inp : PowerIn), Runs (.powerEpoch inp) s (fun t =>
    let b := 4 * s.budget inp.pStk inp.pFix
    let want (x y : Dom) : Nat := max x.floor (min y.req (min y.capd (x.next + s.pwr.ramp)))
    t.pwr.doms.length = s.pwr.doms.length ∧
    ((t.pwr.doms.map Dom.next).sum : Int) ≤ max b s.floorSum ∧
    (∀ (d : Nat) (x y : Dom), s.pwr.doms[d]? = some x → t.pwr.doms[d]? = some y →
      y.on = x.on ∧ y.floor = x.floor ∧ y.prio = x.prio ∧
      (x.on = true → y.req = min (nthD inp.req d 0) 0x1FFF ∧ y.grant = (if s.floorsOnly then x.floor else x.next) ∧
        x.floor ≤ y.next ∧ y.next ≤ want x y ∧ (s.floorsOnly = true ∨ b ≤ s.floorSum → y.next = x.floor)) ∧
      (x.on = false → y.next = 0)) ∧
    (∀ (d e : Nat) (x y x' y' : Dom), s.pwr.doms[d]? = some x → t.pwr.doms[d]? = some y → s.pwr.doms[e]? = some x' →
      t.pwr.doms[e]? = some y' → x.on = true → x'.on = true → x.prio < x'.prio → y.next < want x y → y'.next = x'.floor))

/-- What else a boundary of the arbiter does: it measures, drives the alert pin and keeps the thermal ceilings; and the commands
of host-assisted power policy: a write of a domain's policy, and the end of a stop (R432, R440, R441, R446, R452, R456). A
boundary also carries the errors that have arisen in stored words (the model's choice, log entry 108).

The calibration block: a WRITE with the key of a buffer that passes R448 starts the overwrite, and another fails with its
reason; the overwrite ends with the flash holding the buffer, or corrupt; the window reads and writes the word that it selects
and steps on (R447 to R449, R458, R459).

Model's choices and readings it rests on: log entries 97, 99, 100, 108, 119, 138. -/
def Obligations.PolicyAndCalibration : Prop :=
  ((∀ (s : State) (inp : PowerIn), Runs (.powerEpoch inp) s (fun t =>
    t.pwr.budgetW = (s.budget inp.pStk inp.pFix).toNat ∧
    (∀ (d : Nat) (x y : Dom), s.pwr.doms[d]? = some x → t.pwr.doms[d]? = some y →
      let temp := s.reading inp d
      y.temp = min temp 0xFF ∧
      (x.on = true → y.volt ≤ 18 ∨ x.vmax > 18) ∧ (pdFixed d = true → y.throttle = true → x.on = false) ∧
      (pdElastic d = true → s.pwr.tTarget ≤ temp → y.capd = max x.floor (x.capd - s.pwr.thermStep)) ∧
      (pdElastic d = true → temp < s.pwr.tTarget → s.pwr.tTarget < temp + s.pwr.tHyst → y.capd = x.capd) ∧
      (pdElastic d = true → temp < s.pwr.tTarget → temp + s.pwr.tHyst ≤ s.pwr.tTarget → y.capd = min x.ceil (x.capd + s.pwr.thermStep)) ∧
      (pdElastic d = false → y.capd = x.ceil)) ∧
    t.pwr.alertOut = (if s.pwr.alertOut then !((s.stackTemps inp).cool (t.pwr.doms.map Dom.temp))
      else (s.stackTemps inp).hot (t.pwr.doms.map Dom.temp)) ∧
    (∀ (k : StkNo) (x : Nat), inp.stk[k.val]? = some x → s.pdOn (66 + k) = true → (t.stk k).temp = x % 256) ∧
    (∀ k : Nat, (inp.stk[k]? = none ∨ s.pdOn (66 + k) = false → (t.stk k).temp = (s.stk k).temp) ∧
      (inp.upsets = [] → t.stk k = { s.stk k with temp := (t.stk k).temp })) ∧
    t.rd Reg.PWR_MEAS_P_DIST_W = min inp.pDist 0xFFFF ∧ t.rd Reg.PWR_MEAS_P_STK_W = min inp.pStk 0xFFF ∧
    t.rd Reg.PWR_MEAS_P_FIX_W = min inp.pFix 0x3FF ∧ RegsBut [Reg.PWR_MEAS, Reg.PWR_STATUS] s t ∧
    KeepsBut [.regs, .tiles, .mesh, .stks, .pwr, .io] s t ∧ (inp.upsets = [] → KeepsBut [.regs, .stks, .pwr, .io] s t))) ∧
  (∀ (s : State) (inp : PowerIn), inp.stk = [] →
    (∀ (c : Coord) (w : Fin 6144) (n : Nat), inp.upsets = [.sram c w n] → s.herdPresent (herdOfKey c.key) = true → Runs (.powerEpoch inp) s (fun t =>
      NatMap.get (t.tile c.key).bad 0 w = NatMap.get (s.tile c.key).bad 0 w + n ∧
      t.tile c.key = { s.tile c.key with bad := (t.tile c.key).bad } ∧
      (∀ j, j ≠ w.val → NatMap.get (t.tile c.key).bad 0 j = NatMap.get (s.tile c.key).bad 0 j) ∧ TilesBut c.key s t ∧ t.mesh = s.mesh ∧ t.stks = s.stks)) ∧
    (∀ (k : StkNo) (l : Nat), inp.upsets = [.line k l .uncorr] → l < stackLines → (s.stk k).st ≠ .off → Runs (.powerEpoch inp) s (fun t =>
      l ∈ (t.stk k).bad ∧ t.stk k = { s.stk k with bad := (t.stk k).bad } ∧ StksBut [k.val] s t ∧ t.tiles = s.tiles ∧ t.mesh = s.mesh))) ∧
  (∀ s : State, Runs .powerStopTimeout s (fun t => t.pwr = { s.pwr with stop := false } ∧ KeepsBut [.pwr] s t) ∧
    (Linked s → Runs .powerAck s (fun t => t.pwr = { s.pwr with stop := false } ∧ KeepsBut [.pwr] s t))) ∧
  (∀ (s : State) (v : Word), Linked s →
    let d := s.rd Reg.PWR_DOM_SEL_DOMAIN
    (s.assisted 4 = false ∨ pdFixed d = true → exec (.pwrDomCfgWrite v) s = .next s) ∧
    (∀ x, s.assisted 4 = true → pdFixed d = false → s.pwr.doms[d]? = some x → Runs (.pwrDomCfgWrite v) s (fun t =>
      (∃ y, t.pwr.doms[d]? = some y ∧ y.ceil = (if x.floor ≤ bits v.toNat 12 0 then bits v.toNat 12 0 else x.ceil) ∧
        y.prio = bits v.toNat 14 13 ∧ y.weight = (if 1 ≤ bits v.toNat 22 15 then bits v.toNat 22 15 else x.weight) ∧
        y.vmax = (if bits v.toNat 27 23 ≤ 18 then bits v.toNat 27 23 else x.vmax) ∧ y.floor = x.floor ∧ y.grant = x.grant ∧ y.next = x.next) ∧
      (∀ e, e ≠ d → t.pwr.doms[e]? = s.pwr.doms[e]?) ∧ t.pwr = { s.pwr with doms := t.pwr.doms } ∧ KeepsBut [.pwr] s t)))) ∧
  ((∀ (s : State) (c : BitVec 16), Linked s →
    let fails (why : Nat) : Prop := Runs (.calWrite c) s (fun t => t.pwr = s.pwr ∧ t.rd Reg.PWR_CAL_CTL_FAIL = 1 ∧
      t.rd Reg.PWR_CAL_CTL_FAIL_WHY = why ∧ RegsBut [Reg.PWR_CAL_CTL] s t ∧ KeepsBut [.regs] s t)
    let why := calWhy (Mem.read s.pwr.wbuf 0 16384)
    (s.pwr.calBusy = true ∨ c ≠ 0x5A3C → fails 6) ∧
    (s.pwr.calBusy = false → c = 0x5A3C → why ≠ 0 → fails why) ∧
    (s.pwr.calBusy = false → c = 0x5A3C → why = 0 → Runs (.calWrite c) s (fun t => t.pwr = { s.pwr with calBusy := true } ∧
      t.rd Reg.PWR_CAL_CTL_DONE = 0 ∧ t.rd Reg.PWR_CAL_CTL_FAIL = 0 ∧ RegsBut [Reg.PWR_CAL_CTL] s t ∧ KeepsBut [.regs, .pwr] s t))) ∧
  (∀ s : State, (s.pwr.calBusy = false → ∀ ok, exec (.calWriteComplete ok) s = .next s) ∧
    (s.pwr.calBusy = true → Runs (.calWriteComplete true) s (fun t =>
        t.pwr = { s.pwr with calBusy := false, flash := t.pwr.flash, flashBad := none } ∧
        bit (fld (Mem.read t.pwr.flash 6 2) 0 2) 0 = false ∧
        (bit (fld (Mem.read s.pwr.wbuf 6 2) 0 2) 0 = false → t.pwr.flash = s.pwr.wbuf) ∧ t.rd Reg.PWR_CAL_CTL_DONE = 1 ∧ KeepsBut [.regs, .pwr] s t) ∧
      Runs (.calWriteComplete false) s (fun t => t.pwr.calBusy = false ∧ t.pwr.flashBad.isSome = true ∧ t.rd Reg.PWR_CAL_CTL_FAIL = 1 ∧
        t.rd Reg.PWR_CAL_CTL_FAIL_WHY = 5 ∧ KeepsBut [.regs, .pwr, .io] s t))) ∧
  (∀ s : State, Linked s →
    let w := s.rd Reg.PWR_CAL_ADDR_WORD
    let steps (t : State) : Prop := t.rd Reg.PWR_CAL_ADDR_WORD = (if s.rdb Reg.PWR_CAL_ADDR_AUTOINC then (w + 1) % 2048 else w) ∧
      t.rd Reg.PWR_CAL_ADDR_BUF = s.rd Reg.PWR_CAL_ADDR_BUF ∧ RegsBut [Reg.PWR_CAL_ADDR] s t
    (∀ v : Word, s.rdb Reg.PWR_CAL_ADDR_BUF = true → Runs (.pwrCalDataAccess (some v)) s (fun t => steps t ∧
      Mem.read t.pwr.wbuf (8 * w) 8 = leBytes 8 v.toNat ∧ BytesBut (8 * w) 8 s.pwr.wbuf t.pwr.wbuf ∧
      t.pwr = { s.pwr with wbuf := t.pwr.wbuf } ∧ KeepsBut [.regs, .pwr] s t)) ∧
    (∀ v : Word, s.rdb Reg.PWR_CAL_ADDR_BUF = false → Runs (.pwrCalDataAccess (some v)) s (fun t => steps t ∧ KeepsBut [.regs] s t)) ∧
    (∀ bs, (s.rdb Reg.PWR_CAL_ADDR_BUF = true ∧ bs = Mem.read s.pwr.wbuf (8 * w) 8) ∨
      (s.rdb Reg.PWR_CAL_ADDR_BUF = false ∧ s.pwr.calBusy = true ∧ bs = List.replicate 8 0) ∨
      (s.rdb Reg.PWR_CAL_ADDR_BUF = false ∧ s.pwr.calBusy = false ∧ s.pwr.flashBad = none ∧ bs = Mem.read s.pwr.flash (8 * w) 8) →
      Runs (.pwrCalDataAccess none) s (fun t => steps t ∧ t.io.out = s.io.out ++ [.read bs] ∧ KeepsBut [.regs, .io] s t))))

/-- The alarms: VDIST, the alert pin, the trip, the coolant's sensors and COOL_FAULT_N, each with its record, its counter and
what it makes of the grants or of the wafer (R430, R441 to R445, R453, R457).

Model's choices and readings it rests on: log entries 57, 97, 98. -/
def Obligations.AlarmsAndCooling : Prop :=
  (∀ s : State, Runs .vdistRecover s (fun t => t.pwr = { s.pwr with vdistLow := false } ∧ KeepsBut [.pwr] s t) ∧
    Runs (.vdistLow false) s (fun t => t.pwr = { s.pwr with vdistLow := true } ∧ KeepsBut [.pwr, .io] s t) ∧
    Runs (.vdistLow true) s (fun t => t.pwr.tripped = true)) ∧
  (∀ (s : State) (us : Nat), (s.pwr.alertLow = true → exec (.thermAlertNLow us) s = .next s) ∧
    (s.pwr.alertLow = false → us < 10 → Runs (.thermAlertNLow us) s (fun t =>
      t.rd Reg.PWR_ALERT_STAT_ALERT_GLITCH = min (s.rd Reg.PWR_ALERT_STAT_ALERT_GLITCH + 1) 0xFFFF ∧
      RegsBut [Reg.PWR_ALERT_STAT] s t ∧ KeepsBut [.regs] s t)) ∧
    (s.pwr.alertLow = false → 10 ≤ us → Runs (.thermAlertNLow us) s (fun t => t.pwr = { s.pwr with alertLow := true, alertSecs := 0 } ∧
      t.rd Reg.PWR_ALERT_STAT_ALERTS = min (s.rd Reg.PWR_ALERT_STAT_ALERTS + 1) 0xFFFF ∧
      (∃ d, t.io.events = s.io.events ++ [{ code := Code.thermAlert, stop := false, source := Source.pwr, loc := 0, stream := none, time := s.now64, detail := d }] ∧
        d.getLsbD 0 = s.pwr.alertOut ∧ d.getLsbD 1 = true ∧ d.getLsbD 2 = false) ∧
      RegsBut [Reg.PWR_ALERT_STAT] s t ∧ KeepsBut [.regs, .pwr, .io] s t))) ∧
  (∀ s : State, (s.pwr.alertLow = false → exec .thermAlert s = .next s) ∧
    (s.pwr.alertLow = true → Runs .thermAlert s (fun t => t.pwr = { s.pwr with alertSecs := min (s.pwr.alertSecs + 1) 0xFFFF } ∧
      t.io.events.length = s.io.events.length + 1 ∧ KeepsBut [.pwr, .io] s t)) ∧
    (s.pwr.alertOut = true → exec .thermAlertNHigh s = .next s) ∧
    (s.pwr.alertOut = false → Runs .thermAlertNHigh s (fun t => t.pwr = { s.pwr with alertLow := false } ∧ KeepsBut [.pwr] s t))) ∧
  (∀ s : State, (s.pwr.tripped = true → exec .trip s = .next s) ∧ (s.pwr.quiesce = false → exec .quiesceTimeout s = .next s) ∧
    let downs (i : Instr) : Prop := Runs i s (fun t => t.pwr.tripped = true ∧
      (∀ d x y, s.pwr.doms[d]? = some x → t.pwr.doms[d]? = some y → (d = 90 ∨ d = 91 ∨ d = 92 → y = x) ∧
        (d ≠ 90 → d ≠ 91 → d ≠ 92 → y.on = false ∧ y.grant = 0)) ∧
      (∀ k, (t.stk k).st ≠ .service) ∧ t.tiles = [] ∧ t.host.linkUp = s.host.linkUp ∧ t.bru = s.bru ∧ t.pmap = s.pmap ∧
      t.fuses = s.fuses ∧ t.img.committed = s.img.committed ∧ t.img.resident = s.img.resident ∧
      ((∀ k, (s.stk k).copies = []) → t.snaps = s.snaps))
    (s.pwr.tripped = false → downs .trip) ∧ (s.pwr.quiesce = true → downs .quiesceTimeout)) ∧
  (∀ (s : State) (flow tin tout : Nat) (g : Nat × Nat × Nat), s.pwr.lost = 0 → s.pwr.derated = false →
    let bad : Prop := 45 * s.pwr.tempSlope + s.pwr.tempF0 < tin ∨ 60 * flow < 36 * s.pwr.flowK
    let shows (t : State) : Prop := t.rd Reg.PWR_COOL_FLOW = min (600 * flow / s.pwr.flowK) 0xFFFF ∧
      (s.pwr.tempF0 ≤ tin → t.rd Reg.PWR_COOL_TIN = min (10 * (tin - s.pwr.tempF0) / s.pwr.tempSlope) 0xFFF) ∧
      (s.pwr.tempF0 ≤ tout → t.rd Reg.PWR_COOL_TOUT = min (10 * (tout - s.pwr.tempF0) / s.pwr.tempSlope) 0xFFF) ∧
      t.rd Reg.PWR_ALERT_STAT_COOL_GLITCH = min (s.rd Reg.PWR_ALERT_STAT_COOL_GLITCH + (g.1 + g.2.1 + g.2.2)) 0xFFFF ∧
      RegsBut [Reg.PWR_COOL, Reg.PWR_ALERT_STAT] s t
    (¬bad → Runs (.coolantMeasure ⟨flow, g.1⟩ ⟨tin, g.2.1⟩ ⟨tout, g.2.2⟩) s (fun t => shows t ∧ t.pwr = s.pwr ∧ KeepsBut [.regs, .pwr] s t)) ∧
    (bad → Runs (.coolantMeasure ⟨flow, g.1⟩ ⟨tin, g.2.1⟩ ⟨tout, g.2.2⟩) s (fun t => shows t ∧ t.pwr = { s.pwr with derated := true, gates := 0, goodGates := 0 } ∧
      t.io.events = s.io.events ++ [{ code := Code.coolFault, stop := false, source := Source.pwr, loc := 0, stream := none, time := s.now64, detail := BitVec.ofNat 64 (2 + min (t.rd Reg.PWR_COOL_FLOW) 1023 * 2 ^ 2 + t.rd Reg.PWR_COOL_TIN * 2 ^ 12) }] ∧
      KeepsBut [.regs, .pwr, .io] s t))) ∧
  (∀ (s : State) (i : Fin 3), Runs (.sensorLost i) s (fun t => t.pwr.lost = s.pwr.lost ||| BitVec.ofNat 3 (2 ^ i.val) ∧ t.pwr.derated = true ∧
    (s.pwr.derated = false → t.io.events.length = s.io.events.length + 1) ∧ KeepsBut [.pwr, .io] s t)) ∧
  (∀ s : State, (s.pwr.tripped = true ∨ s.pwr.quiesce = true → Runs .quiesce s (fun t => t.pwr = { s.pwr with coolLow := true } ∧ KeepsBut [.pwr] s t)) ∧
    (s.pwr.tripped = false → s.pwr.quiesce = false → s.herds = [] → Runs .quiesce s (fun t =>
      t.pwr = { s.pwr with coolLow := true, quiesce := true } ∧ t.rd Reg.PWR_STATUS_COOL_FAULT = 1 ∧
      t.jrn = { s.jrn with closed := true, epoch := s.jrn.epoch + 1, silent := false } ∧
      t.io.events = s.io.events ++ [{ code := Code.coolFault, stop := false, source := Source.pwr, loc := 0, stream := none, time := s.now64, detail := BitVec.ofNat 64 (1 + min (s.rd Reg.PWR_COOL_FLOW) 1023 * 2 ^ 2 + s.rd Reg.PWR_COOL_TIN * 2 ^ 12) }] ∧
      KeepsBut [.regs, .pwr, .jrn, .io] s t)) ∧
    (∀ ms, ms < 50 → Runs (.coolFaultNHigh ms) s (fun t =>
      t.rd Reg.PWR_ALERT_STAT_COOL_GLITCH = min (s.rd Reg.PWR_ALERT_STAT_COOL_GLITCH + 1) 0xFFFF ∧ KeepsBut [.regs] s t)) ∧
    (∀ ms, 50 ≤ ms → Runs (.coolFaultNHigh ms) s (fun t => t.pwr = { s.pwr with coolLow := false } ∧ KeepsBut [.pwr] s t)))

/-! ### Resets (R172, R284, R359, R387, R411, R418, R419, R430, R442, R471, R479 to R481, R484) -/

/-- The resets. A cold reset, by POR_N, by VAON or by its sideband key, leaves the fuses and the calibration flash and its cause,
and everything else as State.reset has it. A warm reset, fundamental or with the key of its register or of its sideband command,
goes into a start with the link down, the tiles, the rings and the lock cleared, every switched domain but PD92 dark, and keeps
the journal's epochs, the snapshots, the image and the calibration; a wrong key does nothing (R359, R387, R418, R479, R481,
R484).

Model's choices and readings it rests on: log entries 53, 85, 91, 98. -/
def Obligations.ColdAndWarmResets : Prop :=
  ∀ s : State,
    let cold (cause : Nat) (i : Instr) : Prop := Runs i s (fun t =>
      t = { State.reset with fuses := s.fuses, pending := s.pending, pwr := { Pwr.reset with flash := s.pwr.flash, flashBad := t.pwr.flashBad }, host := { HostIf.reset with lastCause := cause }, io := { Io.reset with out := s.io.out, draws := s.io.draws + 1 } } ∧
      (s.pwr.calBusy = false → t.pwr.flashBad = s.pwr.flashBad) ∧ (s.pwr.calBusy = true → t.pwr.flashBad.isSome = true))
    let warm (cause : Nat) (i : Instr) : Prop := Runs i s (fun t =>
      t.host.lastCause = (if s.pwr.tripped then 6 else cause) ∧ t.host.linkUp = false ∧ t.host.bar2 = [] ∧ t.host.rings = [] ∧ t.host.mailLen = [] ∧
      t.locked = false ∧ t.tiles = [] ∧ t.pwr.tripped = false ∧ t.pwr.quiesce = false ∧ t.bru.stage = 0 ∧
      (∀ d x y, s.pwr.doms[d]? = some x → t.pwr.doms[d]? = some y → (d = 92 → y = x) ∧ (d ≠ 92 → y.on = false)) ∧
      (∀ off, 0x10_0000 ≤ off → off < 0x30_0000 → t.reg off = s.reg off) ∧
      (∀ off, off < 0x10_0000 ∨ 0x30_0000 ≤ off → t.reg off = resetVal off) ∧
      (∀ h, (t.herd h).st = .dark ∧ (t.herd h).queue = [] ∧ (t.herd h).relTaken = (s.herd h).relTaken) ∧
      (∀ k, ((s.stk k).st = .service → (t.stk k).st = .selfRefresh) ∧ ((s.stk k).st = .down → (t.stk k).st = .down ∧ (t.stk k).chDown = (s.stk k).chDown) ∧
        (t.stk k).reqs = [] ∧ (t.stk k).copies = [] ∧
        ((∀ j, (s.stk j).copies = [] ∧ (s.stk j).reqs = []) → (t.stk k).mem = (s.stk k).mem)) ∧
      ((s.jrn.pairs.map Prod.fst).Nodup → ∀ p, (t.jrn.pair p).recs = (s.jrn.pair p).recs ++ (s.jrn.pair p).found.map Prod.fst ∧
        (t.jrn.pair p).arriving = [] ∧ (t.jrn.pair p).writing = [] ∧ (t.jrn.pair p).lineQ = []) ∧
      (∀ n, (t.jrn.streamSt n).nextSeq ≤ (s.jrn.streamSt n).nextSeq) ∧
      ((∀ e ∈ s.jrn.pairs, e.2.writing = []) → t.jrn.committed = s.jrn.committed ∧ (∀ h, (t.herd h).committed = (s.herd h).committed) ∧
        ∀ n, (t.jrn.streamSt n).retired = (s.jrn.streamSt n).retired ∧ (t.jrn.streamSt n).nextSeq = (s.jrn.streamSt n).nextSeq) ∧
      t.jrn.epoch = s.jrn.epoch ∧ t.jrn.outs = [] ∧ t.jrn.sent = s.jrn.sent ∧
      ((∀ j, (s.stk j).copies = []) → t.snaps = s.snaps) ∧ t.pmap = s.pmap ∧
      t.time = { s.time with stop := none, edge := false, path := [], events := [] } ∧ t.pwr.flash = s.pwr.flash ∧ t.pwr.calState = s.pwr.calState ∧
      (s.runsCold = true → t.img.committed = none ∧ t.bru.warm = false ∧ t.bru.frozen = false) ∧
      (s.runsCold = false → t.img.committed = s.img.committed ∧ t.img.resident = s.img.resident ∧ t.bru.map = s.bru.map ∧ t.bru.warm = true ∧ t.bru.frozen = true ∧
        ∀ f ∈ s.bru.failed, f ∈ t.bru.failed) ∧
      t.fuses = s.fuses ∧ t.pending = s.pending)
    cold 0 .coldReset ∧ cold 1 .vaonLoss ∧ cold 2 (.sidebandColdReset 0x5A) ∧
    (∀ c, warm 3 (.warmReset true c)) ∧ (Linked s → warm 4 (.warmReset false 0xC3E1)) ∧ warm 5 (.sidebandWarmReset 0xA5) ∧
    (∀ b, b ≠ 0x5A → exec (.sidebandColdReset b) s = .next s) ∧ (∀ b, b ≠ 0xA5 → exec (.sidebandWarmReset b) s = .next s) ∧
    (∀ c, c ≠ 0xC3E1 ∨ s.host.linkUp = false → exec (.warmReset false c) s = .next s)

/-- A herd reset clears the tiles of its herd and starts the RELOAD of the herd in its group's recovery; a port reset clears the
link and its queues and keeps the counters, the registers and the herd transport's frames, counts the frames of its parse
contexts as not scored, puts the sequence numbers of replies back to 0, and trains again where the port leads; both join a start in progress. A function-level reset puts the mailboxes back and nothing else (R284, R377, R405, R471,
R479, R480).

Model's choices and readings it rests on: log entry 90. -/
def Obligations.SmallResets : Prop :=
  (∀ (s : State) (h : HerdNo), Linked s → s.bru.stage = 7 → s.flt.st = .idle → (s.herd h).st = .running → AtRest s h →
    s.groupHerds (s.groupOf h) = [h.val] → Runs (.herdReset h) s (fun t =>
      t.herd h = { s.herd h with st := .loaded, fault := 0, stackFault := false, atEpoch := none, drained := false, snapAll := 3 } ∧ HerdsBut h s t ∧
      (∀ k, t.tile k = if herdOfKey k = h.val then { Tile.reset with prog := (s.tile k).prog, hasProg := (s.tile k).hasProg, bad := (s.tile k).bad.filter (fun e => decide (5120 ≤ e.1)) } else s.tile k) ∧
      t.flt = { s.flt with st := .reload, herd := h, group := s.groupOf h, failed := [], reload := [h.val], choice := none, stop := false, moveTo := none, atFault := s.groupMarks (s.groupOf h), byReset := true } ∧
      KeepsBut [.tiles, .herds, .flt] s t)) ∧
  (∀ (s : State) (m : MacNo), Linked s → s.bru.stage = 7 → s.gangOf m = [m.val] → s.jrn.peers = [] → (∀ x ∈ (s.mac m).ht, ∃ f, x = .frame f) → Runs (.portReset m) s (fun t =>
    t.mac m = { MacSt.reset with ht := (s.mac m).ht, nextRing := (s.mac m).nextRing, nextId := (s.mac m).nextId, training := s.leads m && s.macPowered m } ∧
    MacsBut m s t ∧ t.prh m = { Prh.reset with ens := (s.prh m).ens } ∧ (∀ k, k ≠ m.val → t.prh k = s.prh k) ∧
    t.time = { s.time with tsq := NatMap.del s.time.tsq m } ∧ t.ibx = { s.ibx with seq := 0 } ∧
    t.rd (Reg.PRH_STAT_FRONT_COUNT m Reg.NS_NO_CONTEXT) = min (s.rd (Reg.PRH_STAT_FRONT_COUNT m Reg.NS_NO_CONTEXT) + (s.prh m).ctxs.length) (Reg.PRH_STAT_FRONT_COUNT m Reg.NS_NO_CONTEXT).max ∧
    RegsBut [Reg.PRH_STAT_FRONT m Reg.NS_NO_CONTEXT] s t ∧ KeepsBut [.regs, .macs, .prhs, .ibx, .time] s t)) ∧
  (∀ s : State, s.bru.stage < 7 → (∀ h, exec (.herdReset h) s = .next s) ∧ (∀ m, exec (.portReset m) s = .next s)) ∧
  (∀ s : State, Runs .functionLevelReset s (fun t =>
    (∀ off, 0x300_0000 ≤ off → off < 0x310_0000 → t.reg off = resetVal off) ∧ (∀ off, off < 0x300_0000 ∨ 0x310_0000 ≤ off → t.reg off = s.reg off) ∧
    (∀ a, a < 0x10_0000 → Mem.byte t.host.bar2 a = 0) ∧ (∀ a, 0x10_0000 ≤ a → Mem.byte t.host.bar2 a = Mem.byte s.host.bar2 a) ∧
    t.host = { s.host with mailLen := [], bar2 := t.host.bar2 } ∧ KeepsBut [.regs, .host] s t))
end

