-- ==== Sys2Proof/Laws/Map.lean ====
section
/-! SUPPORT. Lemmas of the sparse tables and byte memories: what a read gives after a write, and that every
operation keeps the canonical form. -/

namespace Sys2Proof.Laws

open Sys2Proof.Machine

variable {α : Type}

/-! ### A read after a write -/

theorem NatMap.find_ins (m : NatMap α) (k : Nat) (v : α) (j : Nat) :
    NatMap.find (NatMap.ins m k v) j = if j = k then some v else NatMap.find m j := by
  induction m with
  | nil => simp [NatMap.ins, NatMap.find, eq_comm]
  | cons e r ih =>
    obtain ⟨k', v'⟩ := e
    by_cases h1 : k < k'
    · by_cases hj : j = k
      · simp [NatMap.ins, h1, NatMap.find, hj]
      · simp [NatMap.ins, h1, NatMap.find, hj, Ne.symm hj]
    · by_cases h2 : k = k'
      · subst h2
        by_cases hj : j = k
        · simp [NatMap.ins, NatMap.find, hj]
        · simp [NatMap.ins, NatMap.find, hj, Ne.symm hj]
      · by_cases hj : k' = j
        · subst hj; simp [NatMap.ins, h1, h2, NatMap.find, Ne.symm h2]
        · simp [NatMap.ins, h1, h2, NatMap.find, hj, ih]

theorem NatMap.find_del (m : NatMap α) (k j : Nat) :
    NatMap.find (NatMap.del m k) j = if j = k then none else NatMap.find m j := by
  induction m with
  | nil => simp [NatMap.del, NatMap.find]
  | cons e r ih =>
    obtain ⟨k', v'⟩ := e
    by_cases h : k' = k
    · subst h
      by_cases hj : j = k'
      · subst hj; simpa [NatMap.del] using ih
      · simp [NatMap.del, ih, hj, NatMap.find, Ne.symm hj]
    · by_cases hj : k' = j
      · subst hj; simp [NatMap.del, h, NatMap.find]
      · simp [NatMap.del, h, NatMap.find, hj, ih]

variable [DecidableEq α]

@[simp] theorem NatMap.get_put (m : NatMap α) (d : α) (k : Nat) (v : α) (j : Nat) :
    NatMap.get (NatMap.put m d k v) d j = if j = k then v else NatMap.get m d j := by
  unfold NatMap.get NatMap.put
  by_cases hv : v = d
  · by_cases hj : j = k <;> simp [hv, NatMap.find_del, hj]
  · by_cases hj : j = k <;> simp [hv, NatMap.find_ins, hj]

/-- What a selective map lists: the function's value where the key is selected, for a function that keeps the
default. -/
theorem NatMap.get_mapIf (m : NatMap α) (d : α) (sel : Nat → Bool) (f : α → α) (hf : f d = d) (j : Nat) :
    NatMap.get (NatMap.mapIf d sel f m) d j = if sel j then f (NatMap.get m d j) else NatMap.get m d j := by
  induction m with
  | nil => simp [NatMap.mapIf, NatMap.get, NatMap.find, hf]
  | cons e r ih =>
    obtain ⟨k, v⟩ := e
    rw [NatMap.mapIf, NatMap.get_put]
    by_cases h : j = k
    · subst h; simp [NatMap.get, NatMap.find]
    · rw [if_neg h, ih]
      simp only [NatMap.get, NatMap.find, if_neg (Ne.symm h)]


@[simp] theorem Mem.byte_store (m : Mem) (a : Nat) (b : Byte) (x : Nat) :
    Mem.byte (Mem.store m a b) x = if x = a then b else Mem.byte m x :=
  NatMap.get_put ..

/-- A byte after bytes have been written. -/
theorem Mem.byte_write (bs : List Byte) (m : Mem) (a x : Nat) :
    Mem.byte (Mem.write m a bs) x = if a ≤ x ∧ x < a + bs.length then (bs[x - a]?).getD 0 else Mem.byte m x := by
  induction bs generalizing m a with
  | nil => simp [Mem.write]
  | cons b bs ih =>
    simp only [Mem.write, ih, Mem.byte_store, List.length_cons]
    by_cases h1 : a + 1 ≤ x ∧ x < a + 1 + bs.length
    · rw [if_pos h1, if_pos (by omega)]
      have : x - a = (x - (a + 1)) + 1 := by omega
      rw [this, List.getElem?_cons_succ]
    · rw [if_neg h1]
      by_cases h2 : x = a
      · subst h2; simp
      · rw [if_neg h2, if_neg (by omega)]

theorem Mem.read_eq (m : Mem) (a n : Nat) : Mem.read m a n = (List.range n).map (fun i => Mem.byte m (a + i)) := by
  induction n generalizing a with
  | zero => rfl
  | succ n ih =>
    rw [Mem.read, ih, List.range_succ_eq_map, List.map_cons, List.map_map]
    refine congrArg₂ _ rfl (List.map_congr_left fun i _ => ?_)
    simp only [Function.comp, Nat.succ_eq_add_one]
    congr 1; omega

@[simp] theorem Mem.read_length (m : Mem) (a n : Nat) : (Mem.read m a n).length = n := by simp [Mem.read_eq]

@[simp] theorem leBytes_length (n v : Nat) : (leBytes n v).length = n := by
  induction n generalizing v with
  | zero => rfl
  | succ n ih => simp [leBytes, ih]

/-- Little-endian bytes give their number back, cut to their width. -/
theorem leNat_leBytes (n v : Nat) : leNat (leBytes n v) = v % 256 ^ n := by
  induction n generalizing v with
  | zero => simp [leBytes, leNat, Nat.mod_one]
  | succ n ih =>
    simp only [leBytes, leNat, ih, BitVec.toNat_ofNat]
    have e : (256 : Nat) ^ (n + 1) = 256 * 256 ^ n := pow_succ' 256 n
    rw [e, Nat.mod_mul]

/-! ### The canonical form -/

theorem NatMap.okFrom_mono (d : α) {lo lo' : Nat} (h : lo' ≤ lo) {m : NatMap α}
    (hm : NatMap.okFrom d lo m = true) : NatMap.okFrom d lo' m = true := by
  cases m with
  | nil => rfl
  | cons e r =>
    simp only [NatMap.okFrom, Bool.and_eq_true, decide_eq_true_eq] at hm ⊢
    exact ⟨⟨le_trans h hm.1.1, hm.1.2⟩, hm.2⟩

theorem NatMap.ok_ins (d : α) (m : NatMap α) (lo k : Nat) (v : α) (hv : v ≠ d) (hk : lo ≤ k)
    (hm : NatMap.okFrom d lo m = true) : NatMap.okFrom d lo (NatMap.ins m k v) = true := by
  induction m generalizing lo with
  | nil => simp [NatMap.ins, NatMap.okFrom, hv, hk]
  | cons e r ih =>
    obtain ⟨k', v'⟩ := e
    have hm' := hm
    simp only [NatMap.okFrom, Bool.and_eq_true, decide_eq_true_eq] at hm
    by_cases h1 : k < k'
    · simp [NatMap.ins, h1, NatMap.okFrom, hk, hv, hm.1.2, hm.2]
    · by_cases h2 : k = k'
      · subst h2; simp [NatMap.ins, NatMap.okFrom, hk, hv, hm.2]
      · simp only [NatMap.ins, h1, h2, if_false, NatMap.okFrom, Bool.and_eq_true, decide_eq_true_eq]
        exact ⟨hm.1, ih (k' + 1) (by omega) hm.2⟩

theorem NatMap.ok_filter (d : α) (p : Nat × α → Bool) (m : NatMap α) (lo : Nat)
    (hm : NatMap.okFrom d lo m = true) : NatMap.okFrom d lo (m.filter p) = true := by
  induction m generalizing lo with
  | nil => rfl
  | cons e r ih =>
    obtain ⟨k', v'⟩ := e
    simp only [NatMap.okFrom, Bool.and_eq_true, decide_eq_true_eq] at hm
    by_cases h : p (k', v') = true
    · simp only [List.filter_cons, h, if_true, NatMap.okFrom, Bool.and_eq_true, decide_eq_true_eq]
      exact ⟨hm.1, ih _ hm.2⟩
    · simp only [List.filter_cons, h]
      exact NatMap.okFrom_mono d (by omega) (ih _ hm.2)

omit [DecidableEq α] in
theorem NatMap.del_eq_filter (m : NatMap α) (k : Nat) :
    NatMap.del m k = m.filter (fun e => decide (e.1 ≠ k)) := by
  induction m with
  | nil => rfl
  | cons e r ih =>
    obtain ⟨k', v'⟩ := e
    by_cases h : k' = k <;> simp [NatMap.del, h, ih]

theorem NatMap.ok_put (d : α) (m : NatMap α) (k : Nat) (v : α) (hm : NatMap.ok d m = true) :
    NatMap.ok d (NatMap.put m d k v) = true := by
  unfold NatMap.put
  split
  · rw [NatMap.del_eq_filter]; exact NatMap.ok_filter d _ m 0 hm
  · rename_i hv; exact NatMap.ok_ins d m 0 k v hv (Nat.zero_le _) hm

/-! ### Memory: every operation keeps the canonical form -/

theorem Memory.wf_empty : Memory.wf [] = true := rfl

theorem Memory.wf_store (m : Mem) (a : Nat) (b : Byte) (h : Memory.wf m = true) :
    Memory.wf (Mem.store m a b) = true := NatMap.ok_put _ m a b h

theorem Memory.wf_write (bs : List Byte) (m : Mem) (a : Nat) (h : Memory.wf m = true) :
    Memory.wf (Mem.write m a bs) = true := by
  induction bs generalizing m a with
  | nil => exact h
  | cons b bs ih => exact ih _ _ (Memory.wf_store m a b h)

theorem Memory.wf_clear (m : Mem) (a n : Nat) (h : Memory.wf m = true) :
    Memory.wf (Mem.clear m a n) = true := Memory.wf_write _ m a h

theorem Memory.wf_below (m : Mem) (a : Nat) (h : Memory.wf m = true) :
    Memory.wf (Mem.below m a) = true := NatMap.ok_filter _ _ m 0 h

theorem Memory.wf_outside (m : Mem) (a b : Nat) (h : Memory.wf m = true) :
    Memory.wf (Mem.outside m a b) = true := NatMap.ok_filter _ _ m 0 h

theorem NatMap.okFrom_ne (d : α) {lo : Nat} {m : NatMap α} (h : NatMap.okFrom d lo m = true) :
    ∀ c ∈ m, c.2 ≠ d := by
  induction m generalizing lo with
  | nil => simp
  | cons e r ih =>
    obtain ⟨k', v'⟩ := e
    simp only [NatMap.okFrom, Bool.and_eq_true, decide_eq_true_eq] at h
    intro c hc
    rcases List.mem_cons.mp hc with rfl | hc
    · exact h.1.2
    · exact ih h.2 c hc

/-- What a snapshot slot keeps of a tile's memory (R371). -/
theorem Memory.wf_merge (f : Nat → Bool) (new old : Mem) (hn : Memory.wf new = true) (ho : Memory.wf old = true) :
    Memory.wf (mergeMem f new old) = true := by
  have base : Memory.wf (old.filter (fun c => !(f c.1))) = true := NatMap.ok_filter _ _ old 0 ho
  have hne : ∀ c ∈ new.filter (fun c => f c.1), c.2 ≠ (0 : Byte) := fun c hc =>
    NatMap.okFrom_ne _ hn c (List.mem_of_mem_filter hc)
  unfold mergeMem
  generalize new.filter (fun c => f c.1) = l at hne
  generalize old.filter (fun c => !(f c.1)) = m at base
  induction l generalizing m with
  | nil => exact base
  | cons c l ih =>
    exact ih (fun x hx => hne x (List.mem_cons_of_mem _ hx)) _
      (NatMap.ok_ins _ m 0 c.1 c.2 (hne c List.mem_cons_self) (Nat.zero_le _) base)

end Sys2Proof.Laws
end

