-- ==== Sys2Proof/Laws/Fields.lean ====
section
/-! SUPPORT. Register fields: what a field reads as after a field or a register has been written. -/

namespace Sys2Proof.Laws

open Sys2Proof.Machine

/-- A number cut at the two ends of a field. -/
theorem bits_split (v hi lo : Nat) (h : lo ≤ hi) :
    v = v / 2 ^ (hi + 1) * 2 ^ (hi + 1) + bits v hi lo * 2 ^ lo + v % 2 ^ lo := by
  have e : (2 : Nat) ^ (hi + 1) = 2 ^ (hi + 1 - lo) * 2 ^ lo := by rw [← pow_add]; congr 1; omega
  have h1 := Nat.div_add_mod v (2 ^ lo)
  have h2 := Nat.div_add_mod (v / 2 ^ lo) (2 ^ (hi + 1 - lo))
  have h3 : v / 2 ^ (hi + 1) = v / 2 ^ lo / 2 ^ (hi + 1 - lo) := by
    rw [Nat.div_div_eq_div_mul, e, mul_comm]
  unfold bits
  rw [Nat.shiftRight_eq_div_pow, h3, e]
  calc v = 2 ^ lo * (v / 2 ^ lo) + v % 2 ^ lo := h1.symm
    _ = 2 ^ lo * (2 ^ (hi + 1 - lo) * (v / 2 ^ lo / 2 ^ (hi + 1 - lo)) + v / 2 ^ lo % 2 ^ (hi + 1 - lo)) + v % 2 ^ lo := by
        rw [h2]
    _ = _ := by ring

/-- A field written: the bits above it, the new field, the bits below it. -/
theorem setBits_split (v hi lo x : Nat) (h : lo ≤ hi) :
    setBits v hi lo x = v / 2 ^ (hi + 1) * 2 ^ (hi + 1) + x % 2 ^ (hi + 1 - lo) * 2 ^ lo + v % 2 ^ lo := by
  have := bits_split v hi lo h
  unfold setBits
  omega

theorem mid_lt (hi lo x y : Nat) (h : lo ≤ hi) (hx : x < 2 ^ (hi + 1 - lo)) (hy : y < 2 ^ lo) :
    x * 2 ^ lo + y < 2 ^ (hi + 1) := by
  have e : (2 : Nat) ^ (hi + 1) = 2 ^ (hi + 1 - lo) * 2 ^ lo := by rw [← pow_add]; congr 1; omega
  rw [e]
  have : (x + 1) * 2 ^ lo ≤ 2 ^ (hi + 1 - lo) * 2 ^ lo := Nat.mul_le_mul_right _ hx
  nlinarith

theorem setBits_lt {v hi lo x : Nat} (h : lo ≤ hi) (hh : hi < 64) (hv : v < 2 ^ 64) :
    setBits v hi lo x < 2 ^ 64 := by
  rw [setBits_split v hi lo x h]
  have e : (2 : Nat) ^ 64 = 2 ^ (63 - hi) * 2 ^ (hi + 1) := by rw [← pow_add]; congr 1; omega
  have hm := mid_lt hi lo (x % 2 ^ (hi + 1 - lo)) (v % 2 ^ lo) h (Nat.mod_lt _ (by positivity)) (Nat.mod_lt _ (by positivity))
  have hq : v / 2 ^ (hi + 1) < 2 ^ (63 - hi) := Nat.div_lt_of_lt_mul (by rw [mul_comm, ← e]; exact hv)
  rw [e]
  have : (v / 2 ^ (hi + 1) + 1) * 2 ^ (hi + 1) ≤ 2 ^ (63 - hi) * 2 ^ (hi + 1) := Nat.mul_le_mul_right _ hq
  nlinarith

/-- The field itself. -/
theorem bits_setBits (v hi lo x : Nat) (h : lo ≤ hi) :
    bits (setBits v hi lo x) hi lo = x % 2 ^ (hi + 1 - lo) := by
  have e : (2 : Nat) ^ (hi + 1) = 2 ^ (hi + 1 - lo) * 2 ^ lo := by rw [← pow_add]; congr 1; omega
  rw [setBits_split v hi lo x h]
  unfold bits
  rw [Nat.shiftRight_eq_div_pow, e]
  have : v / (2 ^ (hi + 1 - lo) * 2 ^ lo) * (2 ^ (hi + 1 - lo) * 2 ^ lo) + x % 2 ^ (hi + 1 - lo) * 2 ^ lo + v % 2 ^ lo
      = v % 2 ^ lo + (v / (2 ^ (hi + 1 - lo) * 2 ^ lo) * 2 ^ (hi + 1 - lo) + x % 2 ^ (hi + 1 - lo)) * 2 ^ lo := by ring
  rw [this, Nat.add_mul_div_right _ _ (by positivity), Nat.div_eq_of_lt (Nat.mod_lt _ (by positivity)), zero_add,
    add_comm, Nat.add_mul_mod_self_right, Nat.mod_mod]

/-- A field above it. -/
theorem bits_setBits_above (v hi lo x hi' lo' : Nat) (h : lo ≤ hi) (ha : hi < lo') :
    bits (setBits v hi lo x) hi' lo' = bits v hi' lo' := by
  have hd : setBits v hi lo x / 2 ^ lo' = v / 2 ^ lo' := by
    have e : (2 : Nat) ^ lo' = 2 ^ (hi + 1) * 2 ^ (lo' - (hi + 1)) := by rw [← pow_add]; congr 1; omega
    have hm := mid_lt hi lo (x % 2 ^ (hi + 1 - lo)) (v % 2 ^ lo) h (Nat.mod_lt _ (by positivity)) (Nat.mod_lt _ (by positivity))
    rw [e, ← Nat.div_div_eq_div_mul, ← Nat.div_div_eq_div_mul]
    congr 1
    rw [setBits_split v hi lo x h, add_assoc, add_comm, Nat.add_mul_div_right _ _ (by positivity), Nat.div_eq_of_lt hm, zero_add]
  unfold bits
  rw [Nat.shiftRight_eq_div_pow, Nat.shiftRight_eq_div_pow, hd]

/-- A field below it. -/
theorem bits_setBits_below (v hi lo x hi' lo' : Nat) (h : lo ≤ hi) (h' : lo' ≤ hi') (hb : hi' < lo) :
    bits (setBits v hi lo x) hi' lo' = bits v hi' lo' := by
  have hmod : setBits v hi lo x % 2 ^ (hi' + 1) = v % 2 ^ (hi' + 1) := by
    have e1 : (2 : Nat) ^ (hi + 1) = 2 ^ (hi + 1 - lo) * 2 ^ lo := by rw [← pow_add]; congr 1; omega
    have e2 : (2 : Nat) ^ lo = 2 ^ (lo - (hi' + 1)) * 2 ^ (hi' + 1) := by rw [← pow_add]; congr 1; omega
    have key : setBits v hi lo x =
        v % 2 ^ lo + (v / 2 ^ (hi + 1) * 2 ^ (hi + 1 - lo) + x % 2 ^ (hi + 1 - lo)) * 2 ^ (lo - (hi' + 1)) * 2 ^ (hi' + 1) := by
      rw [setBits_split v hi lo x h, e1, mul_assoc _ (2 ^ (lo - (hi' + 1))), ← e2]; ring
    rw [key, Nat.add_mul_mod_self_right, Nat.mod_mod_of_dvd]
    exact ⟨2 ^ (lo - (hi' + 1)), by rw [e2]; ring⟩
  have tail (n : Nat) : n / 2 ^ lo' % 2 ^ (hi' + 1 - lo') = n % 2 ^ (hi' + 1) / 2 ^ lo' := by
    have e : (2 : Nat) ^ (hi' + 1) = 2 ^ lo' * 2 ^ (hi' + 1 - lo') := by rw [← pow_add]; congr 1; omega
    rw [e, Nat.mod_mul_right_div_self]
  unfold bits
  rw [Nat.shiftRight_eq_div_pow, Nat.shiftRight_eq_div_pow, tail, tail, hmod]

/-! ### On the state -/

@[simp] theorem reg_setReg (s : State) (a b : Nat) (w : Word) :
    (s.setReg a w).reg b = if b = a then w else s.reg b := by
  by_cases h : b = a
  · subst h; simp [State.reg, State.setReg]
  · simp only [State.reg, State.setReg, NatMap.get, NatMap.put, h, if_false]
    split <;> simp [NatMap.find_del, NatMap.find_ins, h]

theorem reg_wr (s : State) (f : Fld) (v b : Nat) :
    (s.wr f v).reg b = if b = f.off then BitVec.ofNat 64 (setBits (s.reg f.off).toNat f.hi f.lo v) else s.reg b :=
  reg_setReg ..

theorem toNat_wr (s : State) (f : Fld) (v : Nat) (h : f.lo ≤ f.hi) (hh : f.hi < 64) :
    ((s.wr f v).reg f.off).toNat = setBits (s.reg f.off).toNat f.hi f.lo v := by
  rw [reg_wr, if_pos rfl, BitVec.toNat_ofNat]
  exact Nat.mod_eq_of_lt (setBits_lt h hh (s.reg f.off).isLt)

/-- A field reads as it was written, cut to its width. -/
theorem rd_wr (s : State) (f : Fld) (v : Nat) (h : f.lo ≤ f.hi) (hh : f.hi < 64) :
    (s.wr f v).rd f = v % 2 ^ (f.hi + 1 - f.lo) := by
  unfold State.rd
  rw [toNat_wr s f v h hh, bits_setBits _ _ _ _ h]

/-- A write of one field leaves every other field. -/
theorem rd_wr_other (s : State) (f g : Fld) (v : Nat) (h : f.lo ≤ f.hi) (hh : f.hi < 64) (hg : g.lo ≤ g.hi)
    (hd : g.off ≠ f.off ∨ f.hi < g.lo ∨ g.hi < f.lo) : (s.wr f v).rd g = s.rd g := by
  unfold State.rd
  by_cases ho : g.off = f.off
  · rw [ho, toNat_wr s f v h hh]
    rcases hd with hd | hd | hd
    · exact absurd ho hd
    · exact bits_setBits_above _ _ _ _ _ _ h hd
    · exact bits_setBits_below _ _ _ _ _ _ h hg hd
  · rw [reg_wr, if_neg ho]

/-- A counter holds at its largest value. -/
theorem rd_count (s : State) (f : Fld) (n : Nat) (h : f.lo ≤ f.hi) (hh : f.hi < 64) :
    (s.count f n).rd f = min (s.rd f + n) f.max := by
  unfold State.count
  rw [rd_wr _ _ _ h hh, Nat.mod_eq_of_lt]
  have : 0 < 2 ^ (f.hi + 1 - f.lo) := by positivity
  unfold Fld.max
  omega

theorem rd_count_other (s : State) (f g : Fld) (n : Nat) (h : f.lo ≤ f.hi) (hh : f.hi < 64) (hg : g.lo ≤ g.hi)
    (hd : g.off ≠ f.off ∨ f.hi < g.lo ∨ g.hi < f.lo) : (s.count f n).rd g = s.rd g :=
  rd_wr_other s f g _ h hh hg hd

end Sys2Proof.Laws
end

