-- ==== Sys2Proof/Laws/State.lean ====
section
/-! SUPPORT. What each named update of the state does to each of its fields: one lemma per field and update. -/

namespace Sys2Proof.Laws

open Sys2Proof.Machine


/-! ### setReg -/

@[simp] theorem setReg_locked (s : State) (off : Nat) (w : Word) : (s.setReg off w).locked = s.locked := rfl
@[simp] theorem setReg_tiles (s : State) (off : Nat) (w : Word) : (s.setReg off w).tiles = s.tiles := rfl
@[simp] theorem setReg_herds (s : State) (off : Nat) (w : Word) : (s.setReg off w).herds = s.herds := rfl
@[simp] theorem setReg_mesh (s : State) (off : Nat) (w : Word) : (s.setReg off w).mesh = s.mesh := rfl
@[simp] theorem setReg_stks (s : State) (off : Nat) (w : Word) : (s.setReg off w).stks = s.stks := rfl
@[simp] theorem setReg_snaps (s : State) (off : Nat) (w : Word) : (s.setReg off w).snaps = s.snaps := rfl
@[simp] theorem setReg_pmap (s : State) (off : Nat) (w : Word) : (s.setReg off w).pmap = s.pmap := rfl
@[simp] theorem setReg_img (s : State) (off : Nat) (w : Word) : (s.setReg off w).img = s.img := rfl
@[simp] theorem setReg_fuses (s : State) (off : Nat) (w : Word) : (s.setReg off w).fuses = s.fuses := rfl
@[simp] theorem setReg_macs (s : State) (off : Nat) (w : Word) : (s.setReg off w).macs = s.macs := rfl
@[simp] theorem setReg_prhs (s : State) (off : Nat) (w : Word) : (s.setReg off w).prhs = s.prhs := rfl
@[simp] theorem setReg_ibx (s : State) (off : Nat) (w : Word) : (s.setReg off w).ibx = s.ibx := rfl
@[simp] theorem setReg_time (s : State) (off : Nat) (w : Word) : (s.setReg off w).time = s.time := rfl
@[simp] theorem setReg_jrn (s : State) (off : Nat) (w : Word) : (s.setReg off w).jrn = s.jrn := rfl
@[simp] theorem setReg_flt (s : State) (off : Nat) (w : Word) : (s.setReg off w).flt = s.flt := rfl
@[simp] theorem setReg_bru (s : State) (off : Nat) (w : Word) : (s.setReg off w).bru = s.bru := rfl
@[simp] theorem setReg_pwr (s : State) (off : Nat) (w : Word) : (s.setReg off w).pwr = s.pwr := rfl
@[simp] theorem setReg_host (s : State) (off : Nat) (w : Word) : (s.setReg off w).host = s.host := rfl
@[simp] theorem setReg_jtag (s : State) (off : Nat) (w : Word) : (s.setReg off w).jtag = s.jtag := rfl
@[simp] theorem setReg_io (s : State) (off : Nat) (w : Word) : (s.setReg off w).io = s.io := rfl
@[simp] theorem setReg_pending (s : State) (off : Nat) (w : Word) : (s.setReg off w).pending = s.pending := rfl

/-! ### wr -/

@[simp] theorem wr_locked (s : State) (f : Fld) (v : Nat) : (s.wr f v).locked = s.locked := rfl
@[simp] theorem wr_tiles (s : State) (f : Fld) (v : Nat) : (s.wr f v).tiles = s.tiles := rfl
@[simp] theorem wr_herds (s : State) (f : Fld) (v : Nat) : (s.wr f v).herds = s.herds := rfl
@[simp] theorem wr_mesh (s : State) (f : Fld) (v : Nat) : (s.wr f v).mesh = s.mesh := rfl
@[simp] theorem wr_stks (s : State) (f : Fld) (v : Nat) : (s.wr f v).stks = s.stks := rfl
@[simp] theorem wr_snaps (s : State) (f : Fld) (v : Nat) : (s.wr f v).snaps = s.snaps := rfl
@[simp] theorem wr_pmap (s : State) (f : Fld) (v : Nat) : (s.wr f v).pmap = s.pmap := rfl
@[simp] theorem wr_img (s : State) (f : Fld) (v : Nat) : (s.wr f v).img = s.img := rfl
@[simp] theorem wr_fuses (s : State) (f : Fld) (v : Nat) : (s.wr f v).fuses = s.fuses := rfl
@[simp] theorem wr_macs (s : State) (f : Fld) (v : Nat) : (s.wr f v).macs = s.macs := rfl
@[simp] theorem wr_prhs (s : State) (f : Fld) (v : Nat) : (s.wr f v).prhs = s.prhs := rfl
@[simp] theorem wr_ibx (s : State) (f : Fld) (v : Nat) : (s.wr f v).ibx = s.ibx := rfl
@[simp] theorem wr_time (s : State) (f : Fld) (v : Nat) : (s.wr f v).time = s.time := rfl
@[simp] theorem wr_jrn (s : State) (f : Fld) (v : Nat) : (s.wr f v).jrn = s.jrn := rfl
@[simp] theorem wr_flt (s : State) (f : Fld) (v : Nat) : (s.wr f v).flt = s.flt := rfl
@[simp] theorem wr_bru (s : State) (f : Fld) (v : Nat) : (s.wr f v).bru = s.bru := rfl
@[simp] theorem wr_pwr (s : State) (f : Fld) (v : Nat) : (s.wr f v).pwr = s.pwr := rfl
@[simp] theorem wr_host (s : State) (f : Fld) (v : Nat) : (s.wr f v).host = s.host := rfl
@[simp] theorem wr_jtag (s : State) (f : Fld) (v : Nat) : (s.wr f v).jtag = s.jtag := rfl
@[simp] theorem wr_io (s : State) (f : Fld) (v : Nat) : (s.wr f v).io = s.io := rfl
@[simp] theorem wr_pending (s : State) (f : Fld) (v : Nat) : (s.wr f v).pending = s.pending := rfl

/-! ### count -/

@[simp] theorem count_locked (s : State) (f : Fld) (n : Nat) : (s.count f n).locked = s.locked := rfl
@[simp] theorem count_tiles (s : State) (f : Fld) (n : Nat) : (s.count f n).tiles = s.tiles := rfl
@[simp] theorem count_herds (s : State) (f : Fld) (n : Nat) : (s.count f n).herds = s.herds := rfl
@[simp] theorem count_mesh (s : State) (f : Fld) (n : Nat) : (s.count f n).mesh = s.mesh := rfl
@[simp] theorem count_stks (s : State) (f : Fld) (n : Nat) : (s.count f n).stks = s.stks := rfl
@[simp] theorem count_snaps (s : State) (f : Fld) (n : Nat) : (s.count f n).snaps = s.snaps := rfl
@[simp] theorem count_pmap (s : State) (f : Fld) (n : Nat) : (s.count f n).pmap = s.pmap := rfl
@[simp] theorem count_img (s : State) (f : Fld) (n : Nat) : (s.count f n).img = s.img := rfl
@[simp] theorem count_fuses (s : State) (f : Fld) (n : Nat) : (s.count f n).fuses = s.fuses := rfl
@[simp] theorem count_macs (s : State) (f : Fld) (n : Nat) : (s.count f n).macs = s.macs := rfl
@[simp] theorem count_prhs (s : State) (f : Fld) (n : Nat) : (s.count f n).prhs = s.prhs := rfl
@[simp] theorem count_ibx (s : State) (f : Fld) (n : Nat) : (s.count f n).ibx = s.ibx := rfl
@[simp] theorem count_time (s : State) (f : Fld) (n : Nat) : (s.count f n).time = s.time := rfl
@[simp] theorem count_jrn (s : State) (f : Fld) (n : Nat) : (s.count f n).jrn = s.jrn := rfl
@[simp] theorem count_flt (s : State) (f : Fld) (n : Nat) : (s.count f n).flt = s.flt := rfl
@[simp] theorem count_bru (s : State) (f : Fld) (n : Nat) : (s.count f n).bru = s.bru := rfl
@[simp] theorem count_pwr (s : State) (f : Fld) (n : Nat) : (s.count f n).pwr = s.pwr := rfl
@[simp] theorem count_host (s : State) (f : Fld) (n : Nat) : (s.count f n).host = s.host := rfl
@[simp] theorem count_jtag (s : State) (f : Fld) (n : Nat) : (s.count f n).jtag = s.jtag := rfl
@[simp] theorem count_io (s : State) (f : Fld) (n : Nat) : (s.count f n).io = s.io := rfl
@[simp] theorem count_pending (s : State) (f : Fld) (n : Nat) : (s.count f n).pending = s.pending := rfl

/-! ### setTile -/

@[simp] theorem setTile_regs (s : State) (k : Nat) (x : Tile) : (s.setTile k x).regs = s.regs := rfl
@[simp] theorem setTile_locked (s : State) (k : Nat) (x : Tile) : (s.setTile k x).locked = s.locked := rfl
@[simp] theorem setTile_herds (s : State) (k : Nat) (x : Tile) : (s.setTile k x).herds = s.herds := rfl
@[simp] theorem setTile_mesh (s : State) (k : Nat) (x : Tile) : (s.setTile k x).mesh = s.mesh := rfl
@[simp] theorem setTile_stks (s : State) (k : Nat) (x : Tile) : (s.setTile k x).stks = s.stks := rfl
@[simp] theorem setTile_snaps (s : State) (k : Nat) (x : Tile) : (s.setTile k x).snaps = s.snaps := rfl
@[simp] theorem setTile_pmap (s : State) (k : Nat) (x : Tile) : (s.setTile k x).pmap = s.pmap := rfl
@[simp] theorem setTile_img (s : State) (k : Nat) (x : Tile) : (s.setTile k x).img = s.img := rfl
@[simp] theorem setTile_fuses (s : State) (k : Nat) (x : Tile) : (s.setTile k x).fuses = s.fuses := rfl
@[simp] theorem setTile_macs (s : State) (k : Nat) (x : Tile) : (s.setTile k x).macs = s.macs := rfl
@[simp] theorem setTile_prhs (s : State) (k : Nat) (x : Tile) : (s.setTile k x).prhs = s.prhs := rfl
@[simp] theorem setTile_ibx (s : State) (k : Nat) (x : Tile) : (s.setTile k x).ibx = s.ibx := rfl
@[simp] theorem setTile_time (s : State) (k : Nat) (x : Tile) : (s.setTile k x).time = s.time := rfl
@[simp] theorem setTile_jrn (s : State) (k : Nat) (x : Tile) : (s.setTile k x).jrn = s.jrn := rfl
@[simp] theorem setTile_flt (s : State) (k : Nat) (x : Tile) : (s.setTile k x).flt = s.flt := rfl
@[simp] theorem setTile_bru (s : State) (k : Nat) (x : Tile) : (s.setTile k x).bru = s.bru := rfl
@[simp] theorem setTile_pwr (s : State) (k : Nat) (x : Tile) : (s.setTile k x).pwr = s.pwr := rfl
@[simp] theorem setTile_host (s : State) (k : Nat) (x : Tile) : (s.setTile k x).host = s.host := rfl
@[simp] theorem setTile_jtag (s : State) (k : Nat) (x : Tile) : (s.setTile k x).jtag = s.jtag := rfl
@[simp] theorem setTile_io (s : State) (k : Nat) (x : Tile) : (s.setTile k x).io = s.io := rfl
@[simp] theorem setTile_pending (s : State) (k : Nat) (x : Tile) : (s.setTile k x).pending = s.pending := rfl

/-! ### updTile -/

@[simp] theorem updTile_regs (s : State) (k : Nat) (f : Tile → Tile) : (s.updTile k f).regs = s.regs := rfl
@[simp] theorem updTile_locked (s : State) (k : Nat) (f : Tile → Tile) : (s.updTile k f).locked = s.locked := rfl
@[simp] theorem updTile_herds (s : State) (k : Nat) (f : Tile → Tile) : (s.updTile k f).herds = s.herds := rfl
@[simp] theorem updTile_mesh (s : State) (k : Nat) (f : Tile → Tile) : (s.updTile k f).mesh = s.mesh := rfl
@[simp] theorem updTile_stks (s : State) (k : Nat) (f : Tile → Tile) : (s.updTile k f).stks = s.stks := rfl
@[simp] theorem updTile_snaps (s : State) (k : Nat) (f : Tile → Tile) : (s.updTile k f).snaps = s.snaps := rfl
@[simp] theorem updTile_pmap (s : State) (k : Nat) (f : Tile → Tile) : (s.updTile k f).pmap = s.pmap := rfl
@[simp] theorem updTile_img (s : State) (k : Nat) (f : Tile → Tile) : (s.updTile k f).img = s.img := rfl
@[simp] theorem updTile_fuses (s : State) (k : Nat) (f : Tile → Tile) : (s.updTile k f).fuses = s.fuses := rfl
@[simp] theorem updTile_macs (s : State) (k : Nat) (f : Tile → Tile) : (s.updTile k f).macs = s.macs := rfl
@[simp] theorem updTile_prhs (s : State) (k : Nat) (f : Tile → Tile) : (s.updTile k f).prhs = s.prhs := rfl
@[simp] theorem updTile_ibx (s : State) (k : Nat) (f : Tile → Tile) : (s.updTile k f).ibx = s.ibx := rfl
@[simp] theorem updTile_time (s : State) (k : Nat) (f : Tile → Tile) : (s.updTile k f).time = s.time := rfl
@[simp] theorem updTile_jrn (s : State) (k : Nat) (f : Tile → Tile) : (s.updTile k f).jrn = s.jrn := rfl
@[simp] theorem updTile_flt (s : State) (k : Nat) (f : Tile → Tile) : (s.updTile k f).flt = s.flt := rfl
@[simp] theorem updTile_bru (s : State) (k : Nat) (f : Tile → Tile) : (s.updTile k f).bru = s.bru := rfl
@[simp] theorem updTile_pwr (s : State) (k : Nat) (f : Tile → Tile) : (s.updTile k f).pwr = s.pwr := rfl
@[simp] theorem updTile_host (s : State) (k : Nat) (f : Tile → Tile) : (s.updTile k f).host = s.host := rfl
@[simp] theorem updTile_jtag (s : State) (k : Nat) (f : Tile → Tile) : (s.updTile k f).jtag = s.jtag := rfl
@[simp] theorem updTile_io (s : State) (k : Nat) (f : Tile → Tile) : (s.updTile k f).io = s.io := rfl
@[simp] theorem updTile_pending (s : State) (k : Nat) (f : Tile → Tile) : (s.updTile k f).pending = s.pending := rfl

/-! ### setHerd -/

@[simp] theorem setHerd_regs (s : State) (k : Nat) (x : Herd) : (s.setHerd k x).regs = s.regs := rfl
@[simp] theorem setHerd_locked (s : State) (k : Nat) (x : Herd) : (s.setHerd k x).locked = s.locked := rfl
@[simp] theorem setHerd_tiles (s : State) (k : Nat) (x : Herd) : (s.setHerd k x).tiles = s.tiles := rfl
@[simp] theorem setHerd_mesh (s : State) (k : Nat) (x : Herd) : (s.setHerd k x).mesh = s.mesh := rfl
@[simp] theorem setHerd_stks (s : State) (k : Nat) (x : Herd) : (s.setHerd k x).stks = s.stks := rfl
@[simp] theorem setHerd_snaps (s : State) (k : Nat) (x : Herd) : (s.setHerd k x).snaps = s.snaps := rfl
@[simp] theorem setHerd_pmap (s : State) (k : Nat) (x : Herd) : (s.setHerd k x).pmap = s.pmap := rfl
@[simp] theorem setHerd_img (s : State) (k : Nat) (x : Herd) : (s.setHerd k x).img = s.img := rfl
@[simp] theorem setHerd_fuses (s : State) (k : Nat) (x : Herd) : (s.setHerd k x).fuses = s.fuses := rfl
@[simp] theorem setHerd_macs (s : State) (k : Nat) (x : Herd) : (s.setHerd k x).macs = s.macs := rfl
@[simp] theorem setHerd_prhs (s : State) (k : Nat) (x : Herd) : (s.setHerd k x).prhs = s.prhs := rfl
@[simp] theorem setHerd_ibx (s : State) (k : Nat) (x : Herd) : (s.setHerd k x).ibx = s.ibx := rfl
@[simp] theorem setHerd_time (s : State) (k : Nat) (x : Herd) : (s.setHerd k x).time = s.time := rfl
@[simp] theorem setHerd_jrn (s : State) (k : Nat) (x : Herd) : (s.setHerd k x).jrn = s.jrn := rfl
@[simp] theorem setHerd_flt (s : State) (k : Nat) (x : Herd) : (s.setHerd k x).flt = s.flt := rfl
@[simp] theorem setHerd_bru (s : State) (k : Nat) (x : Herd) : (s.setHerd k x).bru = s.bru := rfl
@[simp] theorem setHerd_pwr (s : State) (k : Nat) (x : Herd) : (s.setHerd k x).pwr = s.pwr := rfl
@[simp] theorem setHerd_host (s : State) (k : Nat) (x : Herd) : (s.setHerd k x).host = s.host := rfl
@[simp] theorem setHerd_jtag (s : State) (k : Nat) (x : Herd) : (s.setHerd k x).jtag = s.jtag := rfl
@[simp] theorem setHerd_io (s : State) (k : Nat) (x : Herd) : (s.setHerd k x).io = s.io := rfl
@[simp] theorem setHerd_pending (s : State) (k : Nat) (x : Herd) : (s.setHerd k x).pending = s.pending := rfl

/-! ### updHerd -/

@[simp] theorem updHerd_regs (s : State) (k : Nat) (f : Herd → Herd) : (s.updHerd k f).regs = s.regs := rfl
@[simp] theorem updHerd_locked (s : State) (k : Nat) (f : Herd → Herd) : (s.updHerd k f).locked = s.locked := rfl
@[simp] theorem updHerd_tiles (s : State) (k : Nat) (f : Herd → Herd) : (s.updHerd k f).tiles = s.tiles := rfl
@[simp] theorem updHerd_mesh (s : State) (k : Nat) (f : Herd → Herd) : (s.updHerd k f).mesh = s.mesh := rfl
@[simp] theorem updHerd_stks (s : State) (k : Nat) (f : Herd → Herd) : (s.updHerd k f).stks = s.stks := rfl
@[simp] theorem updHerd_snaps (s : State) (k : Nat) (f : Herd → Herd) : (s.updHerd k f).snaps = s.snaps := rfl
@[simp] theorem updHerd_pmap (s : State) (k : Nat) (f : Herd → Herd) : (s.updHerd k f).pmap = s.pmap := rfl
@[simp] theorem updHerd_img (s : State) (k : Nat) (f : Herd → Herd) : (s.updHerd k f).img = s.img := rfl
@[simp] theorem updHerd_fuses (s : State) (k : Nat) (f : Herd → Herd) : (s.updHerd k f).fuses = s.fuses := rfl
@[simp] theorem updHerd_macs (s : State) (k : Nat) (f : Herd → Herd) : (s.updHerd k f).macs = s.macs := rfl
@[simp] theorem updHerd_prhs (s : State) (k : Nat) (f : Herd → Herd) : (s.updHerd k f).prhs = s.prhs := rfl
@[simp] theorem updHerd_ibx (s : State) (k : Nat) (f : Herd → Herd) : (s.updHerd k f).ibx = s.ibx := rfl
@[simp] theorem updHerd_time (s : State) (k : Nat) (f : Herd → Herd) : (s.updHerd k f).time = s.time := rfl
@[simp] theorem updHerd_jrn (s : State) (k : Nat) (f : Herd → Herd) : (s.updHerd k f).jrn = s.jrn := rfl
@[simp] theorem updHerd_flt (s : State) (k : Nat) (f : Herd → Herd) : (s.updHerd k f).flt = s.flt := rfl
@[simp] theorem updHerd_bru (s : State) (k : Nat) (f : Herd → Herd) : (s.updHerd k f).bru = s.bru := rfl
@[simp] theorem updHerd_pwr (s : State) (k : Nat) (f : Herd → Herd) : (s.updHerd k f).pwr = s.pwr := rfl
@[simp] theorem updHerd_host (s : State) (k : Nat) (f : Herd → Herd) : (s.updHerd k f).host = s.host := rfl
@[simp] theorem updHerd_jtag (s : State) (k : Nat) (f : Herd → Herd) : (s.updHerd k f).jtag = s.jtag := rfl
@[simp] theorem updHerd_io (s : State) (k : Nat) (f : Herd → Herd) : (s.updHerd k f).io = s.io := rfl
@[simp] theorem updHerd_pending (s : State) (k : Nat) (f : Herd → Herd) : (s.updHerd k f).pending = s.pending := rfl

/-! ### setStk -/

@[simp] theorem setStk_regs (s : State) (k : Nat) (x : Stk) : (s.setStk k x).regs = s.regs := rfl
@[simp] theorem setStk_locked (s : State) (k : Nat) (x : Stk) : (s.setStk k x).locked = s.locked := rfl
@[simp] theorem setStk_tiles (s : State) (k : Nat) (x : Stk) : (s.setStk k x).tiles = s.tiles := rfl
@[simp] theorem setStk_herds (s : State) (k : Nat) (x : Stk) : (s.setStk k x).herds = s.herds := rfl
@[simp] theorem setStk_mesh (s : State) (k : Nat) (x : Stk) : (s.setStk k x).mesh = s.mesh := rfl
@[simp] theorem setStk_snaps (s : State) (k : Nat) (x : Stk) : (s.setStk k x).snaps = s.snaps := rfl
@[simp] theorem setStk_pmap (s : State) (k : Nat) (x : Stk) : (s.setStk k x).pmap = s.pmap := rfl
@[simp] theorem setStk_img (s : State) (k : Nat) (x : Stk) : (s.setStk k x).img = s.img := rfl
@[simp] theorem setStk_fuses (s : State) (k : Nat) (x : Stk) : (s.setStk k x).fuses = s.fuses := rfl
@[simp] theorem setStk_macs (s : State) (k : Nat) (x : Stk) : (s.setStk k x).macs = s.macs := rfl
@[simp] theorem setStk_prhs (s : State) (k : Nat) (x : Stk) : (s.setStk k x).prhs = s.prhs := rfl
@[simp] theorem setStk_ibx (s : State) (k : Nat) (x : Stk) : (s.setStk k x).ibx = s.ibx := rfl
@[simp] theorem setStk_time (s : State) (k : Nat) (x : Stk) : (s.setStk k x).time = s.time := rfl
@[simp] theorem setStk_jrn (s : State) (k : Nat) (x : Stk) : (s.setStk k x).jrn = s.jrn := rfl
@[simp] theorem setStk_flt (s : State) (k : Nat) (x : Stk) : (s.setStk k x).flt = s.flt := rfl
@[simp] theorem setStk_bru (s : State) (k : Nat) (x : Stk) : (s.setStk k x).bru = s.bru := rfl
@[simp] theorem setStk_pwr (s : State) (k : Nat) (x : Stk) : (s.setStk k x).pwr = s.pwr := rfl
@[simp] theorem setStk_host (s : State) (k : Nat) (x : Stk) : (s.setStk k x).host = s.host := rfl
@[simp] theorem setStk_jtag (s : State) (k : Nat) (x : Stk) : (s.setStk k x).jtag = s.jtag := rfl
@[simp] theorem setStk_io (s : State) (k : Nat) (x : Stk) : (s.setStk k x).io = s.io := rfl
@[simp] theorem setStk_pending (s : State) (k : Nat) (x : Stk) : (s.setStk k x).pending = s.pending := rfl

/-! ### updStk -/

@[simp] theorem updStk_regs (s : State) (k : Nat) (f : Stk → Stk) : (s.updStk k f).regs = s.regs := rfl
@[simp] theorem updStk_locked (s : State) (k : Nat) (f : Stk → Stk) : (s.updStk k f).locked = s.locked := rfl
@[simp] theorem updStk_tiles (s : State) (k : Nat) (f : Stk → Stk) : (s.updStk k f).tiles = s.tiles := rfl
@[simp] theorem updStk_herds (s : State) (k : Nat) (f : Stk → Stk) : (s.updStk k f).herds = s.herds := rfl
@[simp] theorem updStk_mesh (s : State) (k : Nat) (f : Stk → Stk) : (s.updStk k f).mesh = s.mesh := rfl
@[simp] theorem updStk_snaps (s : State) (k : Nat) (f : Stk → Stk) : (s.updStk k f).snaps = s.snaps := rfl
@[simp] theorem updStk_pmap (s : State) (k : Nat) (f : Stk → Stk) : (s.updStk k f).pmap = s.pmap := rfl
@[simp] theorem updStk_img (s : State) (k : Nat) (f : Stk → Stk) : (s.updStk k f).img = s.img := rfl
@[simp] theorem updStk_fuses (s : State) (k : Nat) (f : Stk → Stk) : (s.updStk k f).fuses = s.fuses := rfl
@[simp] theorem updStk_macs (s : State) (k : Nat) (f : Stk → Stk) : (s.updStk k f).macs = s.macs := rfl
@[simp] theorem updStk_prhs (s : State) (k : Nat) (f : Stk → Stk) : (s.updStk k f).prhs = s.prhs := rfl
@[simp] theorem updStk_ibx (s : State) (k : Nat) (f : Stk → Stk) : (s.updStk k f).ibx = s.ibx := rfl
@[simp] theorem updStk_time (s : State) (k : Nat) (f : Stk → Stk) : (s.updStk k f).time = s.time := rfl
@[simp] theorem updStk_jrn (s : State) (k : Nat) (f : Stk → Stk) : (s.updStk k f).jrn = s.jrn := rfl
@[simp] theorem updStk_flt (s : State) (k : Nat) (f : Stk → Stk) : (s.updStk k f).flt = s.flt := rfl
@[simp] theorem updStk_bru (s : State) (k : Nat) (f : Stk → Stk) : (s.updStk k f).bru = s.bru := rfl
@[simp] theorem updStk_pwr (s : State) (k : Nat) (f : Stk → Stk) : (s.updStk k f).pwr = s.pwr := rfl
@[simp] theorem updStk_host (s : State) (k : Nat) (f : Stk → Stk) : (s.updStk k f).host = s.host := rfl
@[simp] theorem updStk_jtag (s : State) (k : Nat) (f : Stk → Stk) : (s.updStk k f).jtag = s.jtag := rfl
@[simp] theorem updStk_io (s : State) (k : Nat) (f : Stk → Stk) : (s.updStk k f).io = s.io := rfl
@[simp] theorem updStk_pending (s : State) (k : Nat) (f : Stk → Stk) : (s.updStk k f).pending = s.pending := rfl

/-! ### setMac -/

@[simp] theorem setMac_regs (s : State) (k : Nat) (x : MacSt) : (s.setMac k x).regs = s.regs := rfl
@[simp] theorem setMac_locked (s : State) (k : Nat) (x : MacSt) : (s.setMac k x).locked = s.locked := rfl
@[simp] theorem setMac_tiles (s : State) (k : Nat) (x : MacSt) : (s.setMac k x).tiles = s.tiles := rfl
@[simp] theorem setMac_herds (s : State) (k : Nat) (x : MacSt) : (s.setMac k x).herds = s.herds := rfl
@[simp] theorem setMac_mesh (s : State) (k : Nat) (x : MacSt) : (s.setMac k x).mesh = s.mesh := rfl
@[simp] theorem setMac_stks (s : State) (k : Nat) (x : MacSt) : (s.setMac k x).stks = s.stks := rfl
@[simp] theorem setMac_snaps (s : State) (k : Nat) (x : MacSt) : (s.setMac k x).snaps = s.snaps := rfl
@[simp] theorem setMac_pmap (s : State) (k : Nat) (x : MacSt) : (s.setMac k x).pmap = s.pmap := rfl
@[simp] theorem setMac_img (s : State) (k : Nat) (x : MacSt) : (s.setMac k x).img = s.img := rfl
@[simp] theorem setMac_fuses (s : State) (k : Nat) (x : MacSt) : (s.setMac k x).fuses = s.fuses := rfl
@[simp] theorem setMac_prhs (s : State) (k : Nat) (x : MacSt) : (s.setMac k x).prhs = s.prhs := rfl
@[simp] theorem setMac_ibx (s : State) (k : Nat) (x : MacSt) : (s.setMac k x).ibx = s.ibx := rfl
@[simp] theorem setMac_time (s : State) (k : Nat) (x : MacSt) : (s.setMac k x).time = s.time := rfl
@[simp] theorem setMac_jrn (s : State) (k : Nat) (x : MacSt) : (s.setMac k x).jrn = s.jrn := rfl
@[simp] theorem setMac_flt (s : State) (k : Nat) (x : MacSt) : (s.setMac k x).flt = s.flt := rfl
@[simp] theorem setMac_bru (s : State) (k : Nat) (x : MacSt) : (s.setMac k x).bru = s.bru := rfl
@[simp] theorem setMac_pwr (s : State) (k : Nat) (x : MacSt) : (s.setMac k x).pwr = s.pwr := rfl
@[simp] theorem setMac_host (s : State) (k : Nat) (x : MacSt) : (s.setMac k x).host = s.host := rfl
@[simp] theorem setMac_jtag (s : State) (k : Nat) (x : MacSt) : (s.setMac k x).jtag = s.jtag := rfl
@[simp] theorem setMac_io (s : State) (k : Nat) (x : MacSt) : (s.setMac k x).io = s.io := rfl
@[simp] theorem setMac_pending (s : State) (k : Nat) (x : MacSt) : (s.setMac k x).pending = s.pending := rfl

/-! ### updMac -/

@[simp] theorem updMac_regs (s : State) (k : Nat) (f : MacSt → MacSt) : (s.updMac k f).regs = s.regs := rfl
@[simp] theorem updMac_locked (s : State) (k : Nat) (f : MacSt → MacSt) : (s.updMac k f).locked = s.locked := rfl
@[simp] theorem updMac_tiles (s : State) (k : Nat) (f : MacSt → MacSt) : (s.updMac k f).tiles = s.tiles := rfl
@[simp] theorem updMac_herds (s : State) (k : Nat) (f : MacSt → MacSt) : (s.updMac k f).herds = s.herds := rfl
@[simp] theorem updMac_mesh (s : State) (k : Nat) (f : MacSt → MacSt) : (s.updMac k f).mesh = s.mesh := rfl
@[simp] theorem updMac_stks (s : State) (k : Nat) (f : MacSt → MacSt) : (s.updMac k f).stks = s.stks := rfl
@[simp] theorem updMac_snaps (s : State) (k : Nat) (f : MacSt → MacSt) : (s.updMac k f).snaps = s.snaps := rfl
@[simp] theorem updMac_pmap (s : State) (k : Nat) (f : MacSt → MacSt) : (s.updMac k f).pmap = s.pmap := rfl
@[simp] theorem updMac_img (s : State) (k : Nat) (f : MacSt → MacSt) : (s.updMac k f).img = s.img := rfl
@[simp] theorem updMac_fuses (s : State) (k : Nat) (f : MacSt → MacSt) : (s.updMac k f).fuses = s.fuses := rfl
@[simp] theorem updMac_prhs (s : State) (k : Nat) (f : MacSt → MacSt) : (s.updMac k f).prhs = s.prhs := rfl
@[simp] theorem updMac_ibx (s : State) (k : Nat) (f : MacSt → MacSt) : (s.updMac k f).ibx = s.ibx := rfl
@[simp] theorem updMac_time (s : State) (k : Nat) (f : MacSt → MacSt) : (s.updMac k f).time = s.time := rfl
@[simp] theorem updMac_jrn (s : State) (k : Nat) (f : MacSt → MacSt) : (s.updMac k f).jrn = s.jrn := rfl
@[simp] theorem updMac_flt (s : State) (k : Nat) (f : MacSt → MacSt) : (s.updMac k f).flt = s.flt := rfl
@[simp] theorem updMac_bru (s : State) (k : Nat) (f : MacSt → MacSt) : (s.updMac k f).bru = s.bru := rfl
@[simp] theorem updMac_pwr (s : State) (k : Nat) (f : MacSt → MacSt) : (s.updMac k f).pwr = s.pwr := rfl
@[simp] theorem updMac_host (s : State) (k : Nat) (f : MacSt → MacSt) : (s.updMac k f).host = s.host := rfl
@[simp] theorem updMac_jtag (s : State) (k : Nat) (f : MacSt → MacSt) : (s.updMac k f).jtag = s.jtag := rfl
@[simp] theorem updMac_io (s : State) (k : Nat) (f : MacSt → MacSt) : (s.updMac k f).io = s.io := rfl
@[simp] theorem updMac_pending (s : State) (k : Nat) (f : MacSt → MacSt) : (s.updMac k f).pending = s.pending := rfl

/-! ### setPrh -/

@[simp] theorem setPrh_regs (s : State) (k : Nat) (x : Prh) : (s.setPrh k x).regs = s.regs := rfl
@[simp] theorem setPrh_locked (s : State) (k : Nat) (x : Prh) : (s.setPrh k x).locked = s.locked := rfl
@[simp] theorem setPrh_tiles (s : State) (k : Nat) (x : Prh) : (s.setPrh k x).tiles = s.tiles := rfl
@[simp] theorem setPrh_herds (s : State) (k : Nat) (x : Prh) : (s.setPrh k x).herds = s.herds := rfl
@[simp] theorem setPrh_mesh (s : State) (k : Nat) (x : Prh) : (s.setPrh k x).mesh = s.mesh := rfl
@[simp] theorem setPrh_stks (s : State) (k : Nat) (x : Prh) : (s.setPrh k x).stks = s.stks := rfl
@[simp] theorem setPrh_snaps (s : State) (k : Nat) (x : Prh) : (s.setPrh k x).snaps = s.snaps := rfl
@[simp] theorem setPrh_pmap (s : State) (k : Nat) (x : Prh) : (s.setPrh k x).pmap = s.pmap := rfl
@[simp] theorem setPrh_img (s : State) (k : Nat) (x : Prh) : (s.setPrh k x).img = s.img := rfl
@[simp] theorem setPrh_fuses (s : State) (k : Nat) (x : Prh) : (s.setPrh k x).fuses = s.fuses := rfl
@[simp] theorem setPrh_macs (s : State) (k : Nat) (x : Prh) : (s.setPrh k x).macs = s.macs := rfl
@[simp] theorem setPrh_ibx (s : State) (k : Nat) (x : Prh) : (s.setPrh k x).ibx = s.ibx := rfl
@[simp] theorem setPrh_time (s : State) (k : Nat) (x : Prh) : (s.setPrh k x).time = s.time := rfl
@[simp] theorem setPrh_jrn (s : State) (k : Nat) (x : Prh) : (s.setPrh k x).jrn = s.jrn := rfl
@[simp] theorem setPrh_flt (s : State) (k : Nat) (x : Prh) : (s.setPrh k x).flt = s.flt := rfl
@[simp] theorem setPrh_bru (s : State) (k : Nat) (x : Prh) : (s.setPrh k x).bru = s.bru := rfl
@[simp] theorem setPrh_pwr (s : State) (k : Nat) (x : Prh) : (s.setPrh k x).pwr = s.pwr := rfl
@[simp] theorem setPrh_host (s : State) (k : Nat) (x : Prh) : (s.setPrh k x).host = s.host := rfl
@[simp] theorem setPrh_jtag (s : State) (k : Nat) (x : Prh) : (s.setPrh k x).jtag = s.jtag := rfl
@[simp] theorem setPrh_io (s : State) (k : Nat) (x : Prh) : (s.setPrh k x).io = s.io := rfl
@[simp] theorem setPrh_pending (s : State) (k : Nat) (x : Prh) : (s.setPrh k x).pending = s.pending := rfl

/-! ### updPrh -/

@[simp] theorem updPrh_regs (s : State) (k : Nat) (f : Prh → Prh) : (s.updPrh k f).regs = s.regs := rfl
@[simp] theorem updPrh_locked (s : State) (k : Nat) (f : Prh → Prh) : (s.updPrh k f).locked = s.locked := rfl
@[simp] theorem updPrh_tiles (s : State) (k : Nat) (f : Prh → Prh) : (s.updPrh k f).tiles = s.tiles := rfl
@[simp] theorem updPrh_herds (s : State) (k : Nat) (f : Prh → Prh) : (s.updPrh k f).herds = s.herds := rfl
@[simp] theorem updPrh_mesh (s : State) (k : Nat) (f : Prh → Prh) : (s.updPrh k f).mesh = s.mesh := rfl
@[simp] theorem updPrh_stks (s : State) (k : Nat) (f : Prh → Prh) : (s.updPrh k f).stks = s.stks := rfl
@[simp] theorem updPrh_snaps (s : State) (k : Nat) (f : Prh → Prh) : (s.updPrh k f).snaps = s.snaps := rfl
@[simp] theorem updPrh_pmap (s : State) (k : Nat) (f : Prh → Prh) : (s.updPrh k f).pmap = s.pmap := rfl
@[simp] theorem updPrh_img (s : State) (k : Nat) (f : Prh → Prh) : (s.updPrh k f).img = s.img := rfl
@[simp] theorem updPrh_fuses (s : State) (k : Nat) (f : Prh → Prh) : (s.updPrh k f).fuses = s.fuses := rfl
@[simp] theorem updPrh_macs (s : State) (k : Nat) (f : Prh → Prh) : (s.updPrh k f).macs = s.macs := rfl
@[simp] theorem updPrh_ibx (s : State) (k : Nat) (f : Prh → Prh) : (s.updPrh k f).ibx = s.ibx := rfl
@[simp] theorem updPrh_time (s : State) (k : Nat) (f : Prh → Prh) : (s.updPrh k f).time = s.time := rfl
@[simp] theorem updPrh_jrn (s : State) (k : Nat) (f : Prh → Prh) : (s.updPrh k f).jrn = s.jrn := rfl
@[simp] theorem updPrh_flt (s : State) (k : Nat) (f : Prh → Prh) : (s.updPrh k f).flt = s.flt := rfl
@[simp] theorem updPrh_bru (s : State) (k : Nat) (f : Prh → Prh) : (s.updPrh k f).bru = s.bru := rfl
@[simp] theorem updPrh_pwr (s : State) (k : Nat) (f : Prh → Prh) : (s.updPrh k f).pwr = s.pwr := rfl
@[simp] theorem updPrh_host (s : State) (k : Nat) (f : Prh → Prh) : (s.updPrh k f).host = s.host := rfl
@[simp] theorem updPrh_jtag (s : State) (k : Nat) (f : Prh → Prh) : (s.updPrh k f).jtag = s.jtag := rfl
@[simp] theorem updPrh_io (s : State) (k : Nat) (f : Prh → Prh) : (s.updPrh k f).io = s.io := rfl
@[simp] theorem updPrh_pending (s : State) (k : Nat) (f : Prh → Prh) : (s.updPrh k f).pending = s.pending := rfl

/-! ### setSnap -/

@[simp] theorem setSnap_regs (s : State) (k : Nat) (x : Snap) : (s.setSnap k x).regs = s.regs := rfl
@[simp] theorem setSnap_locked (s : State) (k : Nat) (x : Snap) : (s.setSnap k x).locked = s.locked := rfl
@[simp] theorem setSnap_tiles (s : State) (k : Nat) (x : Snap) : (s.setSnap k x).tiles = s.tiles := rfl
@[simp] theorem setSnap_herds (s : State) (k : Nat) (x : Snap) : (s.setSnap k x).herds = s.herds := rfl
@[simp] theorem setSnap_mesh (s : State) (k : Nat) (x : Snap) : (s.setSnap k x).mesh = s.mesh := rfl
@[simp] theorem setSnap_stks (s : State) (k : Nat) (x : Snap) : (s.setSnap k x).stks = s.stks := rfl
@[simp] theorem setSnap_pmap (s : State) (k : Nat) (x : Snap) : (s.setSnap k x).pmap = s.pmap := rfl
@[simp] theorem setSnap_img (s : State) (k : Nat) (x : Snap) : (s.setSnap k x).img = s.img := rfl
@[simp] theorem setSnap_fuses (s : State) (k : Nat) (x : Snap) : (s.setSnap k x).fuses = s.fuses := rfl
@[simp] theorem setSnap_macs (s : State) (k : Nat) (x : Snap) : (s.setSnap k x).macs = s.macs := rfl
@[simp] theorem setSnap_prhs (s : State) (k : Nat) (x : Snap) : (s.setSnap k x).prhs = s.prhs := rfl
@[simp] theorem setSnap_ibx (s : State) (k : Nat) (x : Snap) : (s.setSnap k x).ibx = s.ibx := rfl
@[simp] theorem setSnap_time (s : State) (k : Nat) (x : Snap) : (s.setSnap k x).time = s.time := rfl
@[simp] theorem setSnap_jrn (s : State) (k : Nat) (x : Snap) : (s.setSnap k x).jrn = s.jrn := rfl
@[simp] theorem setSnap_flt (s : State) (k : Nat) (x : Snap) : (s.setSnap k x).flt = s.flt := rfl
@[simp] theorem setSnap_bru (s : State) (k : Nat) (x : Snap) : (s.setSnap k x).bru = s.bru := rfl
@[simp] theorem setSnap_pwr (s : State) (k : Nat) (x : Snap) : (s.setSnap k x).pwr = s.pwr := rfl
@[simp] theorem setSnap_host (s : State) (k : Nat) (x : Snap) : (s.setSnap k x).host = s.host := rfl
@[simp] theorem setSnap_jtag (s : State) (k : Nat) (x : Snap) : (s.setSnap k x).jtag = s.jtag := rfl
@[simp] theorem setSnap_io (s : State) (k : Nat) (x : Snap) : (s.setSnap k x).io = s.io := rfl
@[simp] theorem setSnap_pending (s : State) (k : Nat) (x : Snap) : (s.setSnap k x).pending = s.pending := rfl

/-! ### setPd -/

@[simp] theorem setPd_regs (s : State) (d : Nat) (on : Bool) : (s.setPd d on).regs = s.regs := rfl
@[simp] theorem setPd_locked (s : State) (d : Nat) (on : Bool) : (s.setPd d on).locked = s.locked := rfl
@[simp] theorem setPd_tiles (s : State) (d : Nat) (on : Bool) : (s.setPd d on).tiles = s.tiles := rfl
@[simp] theorem setPd_herds (s : State) (d : Nat) (on : Bool) : (s.setPd d on).herds = s.herds := rfl
@[simp] theorem setPd_mesh (s : State) (d : Nat) (on : Bool) : (s.setPd d on).mesh = s.mesh := rfl
@[simp] theorem setPd_stks (s : State) (d : Nat) (on : Bool) : (s.setPd d on).stks = s.stks := rfl
@[simp] theorem setPd_snaps (s : State) (d : Nat) (on : Bool) : (s.setPd d on).snaps = s.snaps := rfl
@[simp] theorem setPd_pmap (s : State) (d : Nat) (on : Bool) : (s.setPd d on).pmap = s.pmap := rfl
@[simp] theorem setPd_img (s : State) (d : Nat) (on : Bool) : (s.setPd d on).img = s.img := rfl
@[simp] theorem setPd_fuses (s : State) (d : Nat) (on : Bool) : (s.setPd d on).fuses = s.fuses := rfl
@[simp] theorem setPd_macs (s : State) (d : Nat) (on : Bool) : (s.setPd d on).macs = s.macs := rfl
@[simp] theorem setPd_prhs (s : State) (d : Nat) (on : Bool) : (s.setPd d on).prhs = s.prhs := rfl
@[simp] theorem setPd_ibx (s : State) (d : Nat) (on : Bool) : (s.setPd d on).ibx = s.ibx := rfl
@[simp] theorem setPd_time (s : State) (d : Nat) (on : Bool) : (s.setPd d on).time = s.time := rfl
@[simp] theorem setPd_jrn (s : State) (d : Nat) (on : Bool) : (s.setPd d on).jrn = s.jrn := rfl
@[simp] theorem setPd_flt (s : State) (d : Nat) (on : Bool) : (s.setPd d on).flt = s.flt := rfl
@[simp] theorem setPd_bru (s : State) (d : Nat) (on : Bool) : (s.setPd d on).bru = s.bru := rfl
@[simp] theorem setPd_host (s : State) (d : Nat) (on : Bool) : (s.setPd d on).host = s.host := rfl
@[simp] theorem setPd_jtag (s : State) (d : Nat) (on : Bool) : (s.setPd d on).jtag = s.jtag := rfl
@[simp] theorem setPd_io (s : State) (d : Nat) (on : Bool) : (s.setPd d on).io = s.io := rfl
@[simp] theorem setPd_pending (s : State) (d : Nat) (on : Bool) : (s.setPd d on).pending = s.pending := rfl

/-! ### setTime -/

@[simp] theorem setTime_regs (s : State) (x : TimeU) : (s.setTime x).regs = s.regs := rfl
@[simp] theorem setTime_locked (s : State) (x : TimeU) : (s.setTime x).locked = s.locked := rfl
@[simp] theorem setTime_tiles (s : State) (x : TimeU) : (s.setTime x).tiles = s.tiles := rfl
@[simp] theorem setTime_herds (s : State) (x : TimeU) : (s.setTime x).herds = s.herds := rfl
@[simp] theorem setTime_mesh (s : State) (x : TimeU) : (s.setTime x).mesh = s.mesh := rfl
@[simp] theorem setTime_stks (s : State) (x : TimeU) : (s.setTime x).stks = s.stks := rfl
@[simp] theorem setTime_snaps (s : State) (x : TimeU) : (s.setTime x).snaps = s.snaps := rfl
@[simp] theorem setTime_pmap (s : State) (x : TimeU) : (s.setTime x).pmap = s.pmap := rfl
@[simp] theorem setTime_img (s : State) (x : TimeU) : (s.setTime x).img = s.img := rfl
@[simp] theorem setTime_fuses (s : State) (x : TimeU) : (s.setTime x).fuses = s.fuses := rfl
@[simp] theorem setTime_macs (s : State) (x : TimeU) : (s.setTime x).macs = s.macs := rfl
@[simp] theorem setTime_prhs (s : State) (x : TimeU) : (s.setTime x).prhs = s.prhs := rfl
@[simp] theorem setTime_ibx (s : State) (x : TimeU) : (s.setTime x).ibx = s.ibx := rfl
@[simp] theorem setTime_jrn (s : State) (x : TimeU) : (s.setTime x).jrn = s.jrn := rfl
@[simp] theorem setTime_flt (s : State) (x : TimeU) : (s.setTime x).flt = s.flt := rfl
@[simp] theorem setTime_bru (s : State) (x : TimeU) : (s.setTime x).bru = s.bru := rfl
@[simp] theorem setTime_pwr (s : State) (x : TimeU) : (s.setTime x).pwr = s.pwr := rfl
@[simp] theorem setTime_host (s : State) (x : TimeU) : (s.setTime x).host = s.host := rfl
@[simp] theorem setTime_jtag (s : State) (x : TimeU) : (s.setTime x).jtag = s.jtag := rfl
@[simp] theorem setTime_io (s : State) (x : TimeU) : (s.setTime x).io = s.io := rfl
@[simp] theorem setTime_pending (s : State) (x : TimeU) : (s.setTime x).pending = s.pending := rfl
@[simp] theorem setTime_time (s : State) (x : TimeU) : (s.setTime x).time = x := rfl

/-! ### setPwr -/

@[simp] theorem setPwr_regs (s : State) (x : Pwr) : (s.setPwr x).regs = s.regs := rfl
@[simp] theorem setPwr_locked (s : State) (x : Pwr) : (s.setPwr x).locked = s.locked := rfl
@[simp] theorem setPwr_tiles (s : State) (x : Pwr) : (s.setPwr x).tiles = s.tiles := rfl
@[simp] theorem setPwr_herds (s : State) (x : Pwr) : (s.setPwr x).herds = s.herds := rfl
@[simp] theorem setPwr_mesh (s : State) (x : Pwr) : (s.setPwr x).mesh = s.mesh := rfl
@[simp] theorem setPwr_stks (s : State) (x : Pwr) : (s.setPwr x).stks = s.stks := rfl
@[simp] theorem setPwr_snaps (s : State) (x : Pwr) : (s.setPwr x).snaps = s.snaps := rfl
@[simp] theorem setPwr_pmap (s : State) (x : Pwr) : (s.setPwr x).pmap = s.pmap := rfl
@[simp] theorem setPwr_img (s : State) (x : Pwr) : (s.setPwr x).img = s.img := rfl
@[simp] theorem setPwr_fuses (s : State) (x : Pwr) : (s.setPwr x).fuses = s.fuses := rfl
@[simp] theorem setPwr_macs (s : State) (x : Pwr) : (s.setPwr x).macs = s.macs := rfl
@[simp] theorem setPwr_prhs (s : State) (x : Pwr) : (s.setPwr x).prhs = s.prhs := rfl
@[simp] theorem setPwr_ibx (s : State) (x : Pwr) : (s.setPwr x).ibx = s.ibx := rfl
@[simp] theorem setPwr_time (s : State) (x : Pwr) : (s.setPwr x).time = s.time := rfl
@[simp] theorem setPwr_jrn (s : State) (x : Pwr) : (s.setPwr x).jrn = s.jrn := rfl
@[simp] theorem setPwr_flt (s : State) (x : Pwr) : (s.setPwr x).flt = s.flt := rfl
@[simp] theorem setPwr_bru (s : State) (x : Pwr) : (s.setPwr x).bru = s.bru := rfl
@[simp] theorem setPwr_host (s : State) (x : Pwr) : (s.setPwr x).host = s.host := rfl
@[simp] theorem setPwr_jtag (s : State) (x : Pwr) : (s.setPwr x).jtag = s.jtag := rfl
@[simp] theorem setPwr_io (s : State) (x : Pwr) : (s.setPwr x).io = s.io := rfl
@[simp] theorem setPwr_pending (s : State) (x : Pwr) : (s.setPwr x).pending = s.pending := rfl
@[simp] theorem setPwr_pwr (s : State) (x : Pwr) : (s.setPwr x).pwr = x := rfl

/-! ### updPwr -/

@[simp] theorem updPwr_regs (s : State) (f : Pwr → Pwr) : (s.updPwr f).regs = s.regs := rfl
@[simp] theorem updPwr_locked (s : State) (f : Pwr → Pwr) : (s.updPwr f).locked = s.locked := rfl
@[simp] theorem updPwr_tiles (s : State) (f : Pwr → Pwr) : (s.updPwr f).tiles = s.tiles := rfl
@[simp] theorem updPwr_herds (s : State) (f : Pwr → Pwr) : (s.updPwr f).herds = s.herds := rfl
@[simp] theorem updPwr_mesh (s : State) (f : Pwr → Pwr) : (s.updPwr f).mesh = s.mesh := rfl
@[simp] theorem updPwr_stks (s : State) (f : Pwr → Pwr) : (s.updPwr f).stks = s.stks := rfl
@[simp] theorem updPwr_snaps (s : State) (f : Pwr → Pwr) : (s.updPwr f).snaps = s.snaps := rfl
@[simp] theorem updPwr_pmap (s : State) (f : Pwr → Pwr) : (s.updPwr f).pmap = s.pmap := rfl
@[simp] theorem updPwr_img (s : State) (f : Pwr → Pwr) : (s.updPwr f).img = s.img := rfl
@[simp] theorem updPwr_fuses (s : State) (f : Pwr → Pwr) : (s.updPwr f).fuses = s.fuses := rfl
@[simp] theorem updPwr_macs (s : State) (f : Pwr → Pwr) : (s.updPwr f).macs = s.macs := rfl
@[simp] theorem updPwr_prhs (s : State) (f : Pwr → Pwr) : (s.updPwr f).prhs = s.prhs := rfl
@[simp] theorem updPwr_ibx (s : State) (f : Pwr → Pwr) : (s.updPwr f).ibx = s.ibx := rfl
@[simp] theorem updPwr_time (s : State) (f : Pwr → Pwr) : (s.updPwr f).time = s.time := rfl
@[simp] theorem updPwr_jrn (s : State) (f : Pwr → Pwr) : (s.updPwr f).jrn = s.jrn := rfl
@[simp] theorem updPwr_flt (s : State) (f : Pwr → Pwr) : (s.updPwr f).flt = s.flt := rfl
@[simp] theorem updPwr_bru (s : State) (f : Pwr → Pwr) : (s.updPwr f).bru = s.bru := rfl
@[simp] theorem updPwr_host (s : State) (f : Pwr → Pwr) : (s.updPwr f).host = s.host := rfl
@[simp] theorem updPwr_jtag (s : State) (f : Pwr → Pwr) : (s.updPwr f).jtag = s.jtag := rfl
@[simp] theorem updPwr_io (s : State) (f : Pwr → Pwr) : (s.updPwr f).io = s.io := rfl
@[simp] theorem updPwr_pending (s : State) (f : Pwr → Pwr) : (s.updPwr f).pending = s.pending := rfl
@[simp] theorem updPwr_pwr (s : State) (f : Pwr → Pwr) : (s.updPwr f).pwr = f s.pwr := rfl

/-! ### setHost -/

@[simp] theorem setHost_regs (s : State) (x : HostIf) : (s.setHost x).regs = s.regs := rfl
@[simp] theorem setHost_locked (s : State) (x : HostIf) : (s.setHost x).locked = s.locked := rfl
@[simp] theorem setHost_tiles (s : State) (x : HostIf) : (s.setHost x).tiles = s.tiles := rfl
@[simp] theorem setHost_herds (s : State) (x : HostIf) : (s.setHost x).herds = s.herds := rfl
@[simp] theorem setHost_mesh (s : State) (x : HostIf) : (s.setHost x).mesh = s.mesh := rfl
@[simp] theorem setHost_stks (s : State) (x : HostIf) : (s.setHost x).stks = s.stks := rfl
@[simp] theorem setHost_snaps (s : State) (x : HostIf) : (s.setHost x).snaps = s.snaps := rfl
@[simp] theorem setHost_pmap (s : State) (x : HostIf) : (s.setHost x).pmap = s.pmap := rfl
@[simp] theorem setHost_img (s : State) (x : HostIf) : (s.setHost x).img = s.img := rfl
@[simp] theorem setHost_fuses (s : State) (x : HostIf) : (s.setHost x).fuses = s.fuses := rfl
@[simp] theorem setHost_macs (s : State) (x : HostIf) : (s.setHost x).macs = s.macs := rfl
@[simp] theorem setHost_prhs (s : State) (x : HostIf) : (s.setHost x).prhs = s.prhs := rfl
@[simp] theorem setHost_ibx (s : State) (x : HostIf) : (s.setHost x).ibx = s.ibx := rfl
@[simp] theorem setHost_time (s : State) (x : HostIf) : (s.setHost x).time = s.time := rfl
@[simp] theorem setHost_jrn (s : State) (x : HostIf) : (s.setHost x).jrn = s.jrn := rfl
@[simp] theorem setHost_flt (s : State) (x : HostIf) : (s.setHost x).flt = s.flt := rfl
@[simp] theorem setHost_bru (s : State) (x : HostIf) : (s.setHost x).bru = s.bru := rfl
@[simp] theorem setHost_pwr (s : State) (x : HostIf) : (s.setHost x).pwr = s.pwr := rfl
@[simp] theorem setHost_jtag (s : State) (x : HostIf) : (s.setHost x).jtag = s.jtag := rfl
@[simp] theorem setHost_io (s : State) (x : HostIf) : (s.setHost x).io = s.io := rfl
@[simp] theorem setHost_pending (s : State) (x : HostIf) : (s.setHost x).pending = s.pending := rfl
@[simp] theorem setHost_host (s : State) (x : HostIf) : (s.setHost x).host = x := rfl

/-! ### setImg -/

@[simp] theorem setImg_regs (s : State) (x : Img) : (s.setImg x).regs = s.regs := rfl
@[simp] theorem setImg_locked (s : State) (x : Img) : (s.setImg x).locked = s.locked := rfl
@[simp] theorem setImg_tiles (s : State) (x : Img) : (s.setImg x).tiles = s.tiles := rfl
@[simp] theorem setImg_herds (s : State) (x : Img) : (s.setImg x).herds = s.herds := rfl
@[simp] theorem setImg_mesh (s : State) (x : Img) : (s.setImg x).mesh = s.mesh := rfl
@[simp] theorem setImg_stks (s : State) (x : Img) : (s.setImg x).stks = s.stks := rfl
@[simp] theorem setImg_snaps (s : State) (x : Img) : (s.setImg x).snaps = s.snaps := rfl
@[simp] theorem setImg_pmap (s : State) (x : Img) : (s.setImg x).pmap = s.pmap := rfl
@[simp] theorem setImg_fuses (s : State) (x : Img) : (s.setImg x).fuses = s.fuses := rfl
@[simp] theorem setImg_macs (s : State) (x : Img) : (s.setImg x).macs = s.macs := rfl
@[simp] theorem setImg_prhs (s : State) (x : Img) : (s.setImg x).prhs = s.prhs := rfl
@[simp] theorem setImg_ibx (s : State) (x : Img) : (s.setImg x).ibx = s.ibx := rfl
@[simp] theorem setImg_time (s : State) (x : Img) : (s.setImg x).time = s.time := rfl
@[simp] theorem setImg_jrn (s : State) (x : Img) : (s.setImg x).jrn = s.jrn := rfl
@[simp] theorem setImg_flt (s : State) (x : Img) : (s.setImg x).flt = s.flt := rfl
@[simp] theorem setImg_bru (s : State) (x : Img) : (s.setImg x).bru = s.bru := rfl
@[simp] theorem setImg_pwr (s : State) (x : Img) : (s.setImg x).pwr = s.pwr := rfl
@[simp] theorem setImg_host (s : State) (x : Img) : (s.setImg x).host = s.host := rfl
@[simp] theorem setImg_jtag (s : State) (x : Img) : (s.setImg x).jtag = s.jtag := rfl
@[simp] theorem setImg_io (s : State) (x : Img) : (s.setImg x).io = s.io := rfl
@[simp] theorem setImg_pending (s : State) (x : Img) : (s.setImg x).pending = s.pending := rfl
@[simp] theorem setImg_img (s : State) (x : Img) : (s.setImg x).img = x := rfl

/-! ### setJrn -/

@[simp] theorem setJrn_regs (s : State) (x : Jrn) : (s.setJrn x).regs = s.regs := rfl
@[simp] theorem setJrn_locked (s : State) (x : Jrn) : (s.setJrn x).locked = s.locked := rfl
@[simp] theorem setJrn_tiles (s : State) (x : Jrn) : (s.setJrn x).tiles = s.tiles := rfl
@[simp] theorem setJrn_herds (s : State) (x : Jrn) : (s.setJrn x).herds = s.herds := rfl
@[simp] theorem setJrn_mesh (s : State) (x : Jrn) : (s.setJrn x).mesh = s.mesh := rfl
@[simp] theorem setJrn_stks (s : State) (x : Jrn) : (s.setJrn x).stks = s.stks := rfl
@[simp] theorem setJrn_snaps (s : State) (x : Jrn) : (s.setJrn x).snaps = s.snaps := rfl
@[simp] theorem setJrn_pmap (s : State) (x : Jrn) : (s.setJrn x).pmap = s.pmap := rfl
@[simp] theorem setJrn_img (s : State) (x : Jrn) : (s.setJrn x).img = s.img := rfl
@[simp] theorem setJrn_fuses (s : State) (x : Jrn) : (s.setJrn x).fuses = s.fuses := rfl
@[simp] theorem setJrn_macs (s : State) (x : Jrn) : (s.setJrn x).macs = s.macs := rfl
@[simp] theorem setJrn_prhs (s : State) (x : Jrn) : (s.setJrn x).prhs = s.prhs := rfl
@[simp] theorem setJrn_ibx (s : State) (x : Jrn) : (s.setJrn x).ibx = s.ibx := rfl
@[simp] theorem setJrn_time (s : State) (x : Jrn) : (s.setJrn x).time = s.time := rfl
@[simp] theorem setJrn_flt (s : State) (x : Jrn) : (s.setJrn x).flt = s.flt := rfl
@[simp] theorem setJrn_bru (s : State) (x : Jrn) : (s.setJrn x).bru = s.bru := rfl
@[simp] theorem setJrn_pwr (s : State) (x : Jrn) : (s.setJrn x).pwr = s.pwr := rfl
@[simp] theorem setJrn_host (s : State) (x : Jrn) : (s.setJrn x).host = s.host := rfl
@[simp] theorem setJrn_jtag (s : State) (x : Jrn) : (s.setJrn x).jtag = s.jtag := rfl
@[simp] theorem setJrn_io (s : State) (x : Jrn) : (s.setJrn x).io = s.io := rfl
@[simp] theorem setJrn_pending (s : State) (x : Jrn) : (s.setJrn x).pending = s.pending := rfl
@[simp] theorem setJrn_jrn (s : State) (x : Jrn) : (s.setJrn x).jrn = x := rfl

/-! ### updFlt -/

@[simp] theorem updFlt_regs (s : State) (f : Flt → Flt) : (s.updFlt f).regs = s.regs := rfl
@[simp] theorem updFlt_locked (s : State) (f : Flt → Flt) : (s.updFlt f).locked = s.locked := rfl
@[simp] theorem updFlt_tiles (s : State) (f : Flt → Flt) : (s.updFlt f).tiles = s.tiles := rfl
@[simp] theorem updFlt_herds (s : State) (f : Flt → Flt) : (s.updFlt f).herds = s.herds := rfl
@[simp] theorem updFlt_mesh (s : State) (f : Flt → Flt) : (s.updFlt f).mesh = s.mesh := rfl
@[simp] theorem updFlt_stks (s : State) (f : Flt → Flt) : (s.updFlt f).stks = s.stks := rfl
@[simp] theorem updFlt_snaps (s : State) (f : Flt → Flt) : (s.updFlt f).snaps = s.snaps := rfl
@[simp] theorem updFlt_pmap (s : State) (f : Flt → Flt) : (s.updFlt f).pmap = s.pmap := rfl
@[simp] theorem updFlt_img (s : State) (f : Flt → Flt) : (s.updFlt f).img = s.img := rfl
@[simp] theorem updFlt_fuses (s : State) (f : Flt → Flt) : (s.updFlt f).fuses = s.fuses := rfl
@[simp] theorem updFlt_macs (s : State) (f : Flt → Flt) : (s.updFlt f).macs = s.macs := rfl
@[simp] theorem updFlt_prhs (s : State) (f : Flt → Flt) : (s.updFlt f).prhs = s.prhs := rfl
@[simp] theorem updFlt_ibx (s : State) (f : Flt → Flt) : (s.updFlt f).ibx = s.ibx := rfl
@[simp] theorem updFlt_time (s : State) (f : Flt → Flt) : (s.updFlt f).time = s.time := rfl
@[simp] theorem updFlt_jrn (s : State) (f : Flt → Flt) : (s.updFlt f).jrn = s.jrn := rfl
@[simp] theorem updFlt_bru (s : State) (f : Flt → Flt) : (s.updFlt f).bru = s.bru := rfl
@[simp] theorem updFlt_pwr (s : State) (f : Flt → Flt) : (s.updFlt f).pwr = s.pwr := rfl
@[simp] theorem updFlt_host (s : State) (f : Flt → Flt) : (s.updFlt f).host = s.host := rfl
@[simp] theorem updFlt_jtag (s : State) (f : Flt → Flt) : (s.updFlt f).jtag = s.jtag := rfl
@[simp] theorem updFlt_io (s : State) (f : Flt → Flt) : (s.updFlt f).io = s.io := rfl
@[simp] theorem updFlt_pending (s : State) (f : Flt → Flt) : (s.updFlt f).pending = s.pending := rfl
@[simp] theorem updFlt_flt (s : State) (f : Flt → Flt) : (s.updFlt f).flt = f s.flt := rfl

/-! ### updBru -/

@[simp] theorem updBru_regs (s : State) (f : Bru → Bru) : (s.updBru f).regs = s.regs := rfl
@[simp] theorem updBru_locked (s : State) (f : Bru → Bru) : (s.updBru f).locked = s.locked := rfl
@[simp] theorem updBru_tiles (s : State) (f : Bru → Bru) : (s.updBru f).tiles = s.tiles := rfl
@[simp] theorem updBru_herds (s : State) (f : Bru → Bru) : (s.updBru f).herds = s.herds := rfl
@[simp] theorem updBru_mesh (s : State) (f : Bru → Bru) : (s.updBru f).mesh = s.mesh := rfl
@[simp] theorem updBru_stks (s : State) (f : Bru → Bru) : (s.updBru f).stks = s.stks := rfl
@[simp] theorem updBru_snaps (s : State) (f : Bru → Bru) : (s.updBru f).snaps = s.snaps := rfl
@[simp] theorem updBru_pmap (s : State) (f : Bru → Bru) : (s.updBru f).pmap = s.pmap := rfl
@[simp] theorem updBru_img (s : State) (f : Bru → Bru) : (s.updBru f).img = s.img := rfl
@[simp] theorem updBru_fuses (s : State) (f : Bru → Bru) : (s.updBru f).fuses = s.fuses := rfl
@[simp] theorem updBru_macs (s : State) (f : Bru → Bru) : (s.updBru f).macs = s.macs := rfl
@[simp] theorem updBru_prhs (s : State) (f : Bru → Bru) : (s.updBru f).prhs = s.prhs := rfl
@[simp] theorem updBru_ibx (s : State) (f : Bru → Bru) : (s.updBru f).ibx = s.ibx := rfl
@[simp] theorem updBru_time (s : State) (f : Bru → Bru) : (s.updBru f).time = s.time := rfl
@[simp] theorem updBru_jrn (s : State) (f : Bru → Bru) : (s.updBru f).jrn = s.jrn := rfl
@[simp] theorem updBru_flt (s : State) (f : Bru → Bru) : (s.updBru f).flt = s.flt := rfl
@[simp] theorem updBru_pwr (s : State) (f : Bru → Bru) : (s.updBru f).pwr = s.pwr := rfl
@[simp] theorem updBru_host (s : State) (f : Bru → Bru) : (s.updBru f).host = s.host := rfl
@[simp] theorem updBru_jtag (s : State) (f : Bru → Bru) : (s.updBru f).jtag = s.jtag := rfl
@[simp] theorem updBru_io (s : State) (f : Bru → Bru) : (s.updBru f).io = s.io := rfl
@[simp] theorem updBru_pending (s : State) (f : Bru → Bru) : (s.updBru f).pending = s.pending := rfl
@[simp] theorem updBru_bru (s : State) (f : Bru → Bru) : (s.updBru f).bru = f s.bru := rfl

/-! ### setJtag -/

@[simp] theorem setJtag_regs (s : State) (x : Jtag) : (s.setJtag x).regs = s.regs := rfl
@[simp] theorem setJtag_locked (s : State) (x : Jtag) : (s.setJtag x).locked = s.locked := rfl
@[simp] theorem setJtag_tiles (s : State) (x : Jtag) : (s.setJtag x).tiles = s.tiles := rfl
@[simp] theorem setJtag_herds (s : State) (x : Jtag) : (s.setJtag x).herds = s.herds := rfl
@[simp] theorem setJtag_mesh (s : State) (x : Jtag) : (s.setJtag x).mesh = s.mesh := rfl
@[simp] theorem setJtag_stks (s : State) (x : Jtag) : (s.setJtag x).stks = s.stks := rfl
@[simp] theorem setJtag_snaps (s : State) (x : Jtag) : (s.setJtag x).snaps = s.snaps := rfl
@[simp] theorem setJtag_pmap (s : State) (x : Jtag) : (s.setJtag x).pmap = s.pmap := rfl
@[simp] theorem setJtag_img (s : State) (x : Jtag) : (s.setJtag x).img = s.img := rfl
@[simp] theorem setJtag_fuses (s : State) (x : Jtag) : (s.setJtag x).fuses = s.fuses := rfl
@[simp] theorem setJtag_macs (s : State) (x : Jtag) : (s.setJtag x).macs = s.macs := rfl
@[simp] theorem setJtag_prhs (s : State) (x : Jtag) : (s.setJtag x).prhs = s.prhs := rfl
@[simp] theorem setJtag_ibx (s : State) (x : Jtag) : (s.setJtag x).ibx = s.ibx := rfl
@[simp] theorem setJtag_time (s : State) (x : Jtag) : (s.setJtag x).time = s.time := rfl
@[simp] theorem setJtag_jrn (s : State) (x : Jtag) : (s.setJtag x).jrn = s.jrn := rfl
@[simp] theorem setJtag_flt (s : State) (x : Jtag) : (s.setJtag x).flt = s.flt := rfl
@[simp] theorem setJtag_bru (s : State) (x : Jtag) : (s.setJtag x).bru = s.bru := rfl
@[simp] theorem setJtag_pwr (s : State) (x : Jtag) : (s.setJtag x).pwr = s.pwr := rfl
@[simp] theorem setJtag_host (s : State) (x : Jtag) : (s.setJtag x).host = s.host := rfl
@[simp] theorem setJtag_io (s : State) (x : Jtag) : (s.setJtag x).io = s.io := rfl
@[simp] theorem setJtag_pending (s : State) (x : Jtag) : (s.setJtag x).pending = s.pending := rfl
@[simp] theorem setJtag_jtag (s : State) (x : Jtag) : (s.setJtag x).jtag = x := rfl

/-! ### setRouter -/

@[simp] theorem setRouter_regs (s : State) (px py : Nat) (x : Router) : (s.setRouter px py x).regs = s.regs := rfl
@[simp] theorem setRouter_locked (s : State) (px py : Nat) (x : Router) : (s.setRouter px py x).locked = s.locked := rfl
@[simp] theorem setRouter_tiles (s : State) (px py : Nat) (x : Router) : (s.setRouter px py x).tiles = s.tiles := rfl
@[simp] theorem setRouter_herds (s : State) (px py : Nat) (x : Router) : (s.setRouter px py x).herds = s.herds := rfl
@[simp] theorem setRouter_stks (s : State) (px py : Nat) (x : Router) : (s.setRouter px py x).stks = s.stks := rfl
@[simp] theorem setRouter_snaps (s : State) (px py : Nat) (x : Router) : (s.setRouter px py x).snaps = s.snaps := rfl
@[simp] theorem setRouter_pmap (s : State) (px py : Nat) (x : Router) : (s.setRouter px py x).pmap = s.pmap := rfl
@[simp] theorem setRouter_img (s : State) (px py : Nat) (x : Router) : (s.setRouter px py x).img = s.img := rfl
@[simp] theorem setRouter_fuses (s : State) (px py : Nat) (x : Router) : (s.setRouter px py x).fuses = s.fuses := rfl
@[simp] theorem setRouter_macs (s : State) (px py : Nat) (x : Router) : (s.setRouter px py x).macs = s.macs := rfl
@[simp] theorem setRouter_prhs (s : State) (px py : Nat) (x : Router) : (s.setRouter px py x).prhs = s.prhs := rfl
@[simp] theorem setRouter_ibx (s : State) (px py : Nat) (x : Router) : (s.setRouter px py x).ibx = s.ibx := rfl
@[simp] theorem setRouter_time (s : State) (px py : Nat) (x : Router) : (s.setRouter px py x).time = s.time := rfl
@[simp] theorem setRouter_jrn (s : State) (px py : Nat) (x : Router) : (s.setRouter px py x).jrn = s.jrn := rfl
@[simp] theorem setRouter_flt (s : State) (px py : Nat) (x : Router) : (s.setRouter px py x).flt = s.flt := rfl
@[simp] theorem setRouter_bru (s : State) (px py : Nat) (x : Router) : (s.setRouter px py x).bru = s.bru := rfl
@[simp] theorem setRouter_pwr (s : State) (px py : Nat) (x : Router) : (s.setRouter px py x).pwr = s.pwr := rfl
@[simp] theorem setRouter_host (s : State) (px py : Nat) (x : Router) : (s.setRouter px py x).host = s.host := rfl
@[simp] theorem setRouter_jtag (s : State) (px py : Nat) (x : Router) : (s.setRouter px py x).jtag = s.jtag := rfl
@[simp] theorem setRouter_io (s : State) (px py : Nat) (x : Router) : (s.setRouter px py x).io = s.io := rfl
@[simp] theorem setRouter_pending (s : State) (px py : Nat) (x : Router) : (s.setRouter px py x).pending = s.pending := rfl

/-! ### postEvent -/

@[simp] theorem postEvent_regs (s : State) (e : Event) : (s.postEvent e).regs = s.regs := rfl
@[simp] theorem postEvent_locked (s : State) (e : Event) : (s.postEvent e).locked = s.locked := rfl
@[simp] theorem postEvent_tiles (s : State) (e : Event) : (s.postEvent e).tiles = s.tiles := rfl
@[simp] theorem postEvent_herds (s : State) (e : Event) : (s.postEvent e).herds = s.herds := rfl
@[simp] theorem postEvent_mesh (s : State) (e : Event) : (s.postEvent e).mesh = s.mesh := rfl
@[simp] theorem postEvent_stks (s : State) (e : Event) : (s.postEvent e).stks = s.stks := rfl
@[simp] theorem postEvent_snaps (s : State) (e : Event) : (s.postEvent e).snaps = s.snaps := rfl
@[simp] theorem postEvent_pmap (s : State) (e : Event) : (s.postEvent e).pmap = s.pmap := rfl
@[simp] theorem postEvent_img (s : State) (e : Event) : (s.postEvent e).img = s.img := rfl
@[simp] theorem postEvent_fuses (s : State) (e : Event) : (s.postEvent e).fuses = s.fuses := rfl
@[simp] theorem postEvent_macs (s : State) (e : Event) : (s.postEvent e).macs = s.macs := rfl
@[simp] theorem postEvent_prhs (s : State) (e : Event) : (s.postEvent e).prhs = s.prhs := rfl
@[simp] theorem postEvent_ibx (s : State) (e : Event) : (s.postEvent e).ibx = s.ibx := rfl
@[simp] theorem postEvent_time (s : State) (e : Event) : (s.postEvent e).time = s.time := rfl
@[simp] theorem postEvent_jrn (s : State) (e : Event) : (s.postEvent e).jrn = s.jrn := rfl
@[simp] theorem postEvent_flt (s : State) (e : Event) : (s.postEvent e).flt = s.flt := rfl
@[simp] theorem postEvent_bru (s : State) (e : Event) : (s.postEvent e).bru = s.bru := rfl
@[simp] theorem postEvent_pwr (s : State) (e : Event) : (s.postEvent e).pwr = s.pwr := rfl
@[simp] theorem postEvent_host (s : State) (e : Event) : (s.postEvent e).host = s.host := rfl
@[simp] theorem postEvent_jtag (s : State) (e : Event) : (s.postEvent e).jtag = s.jtag := rfl
@[simp] theorem postEvent_pending (s : State) (e : Event) : (s.postEvent e).pending = s.pending := rfl

/-! ### post -/

@[simp] theorem post_regs (s : State) (a b c d : Nat) : (s.post a b c d).regs = s.regs := rfl
@[simp] theorem post_locked (s : State) (a b c d : Nat) : (s.post a b c d).locked = s.locked := rfl
@[simp] theorem post_tiles (s : State) (a b c d : Nat) : (s.post a b c d).tiles = s.tiles := rfl
@[simp] theorem post_herds (s : State) (a b c d : Nat) : (s.post a b c d).herds = s.herds := rfl
@[simp] theorem post_mesh (s : State) (a b c d : Nat) : (s.post a b c d).mesh = s.mesh := rfl
@[simp] theorem post_stks (s : State) (a b c d : Nat) : (s.post a b c d).stks = s.stks := rfl
@[simp] theorem post_snaps (s : State) (a b c d : Nat) : (s.post a b c d).snaps = s.snaps := rfl
@[simp] theorem post_pmap (s : State) (a b c d : Nat) : (s.post a b c d).pmap = s.pmap := rfl
@[simp] theorem post_img (s : State) (a b c d : Nat) : (s.post a b c d).img = s.img := rfl
@[simp] theorem post_fuses (s : State) (a b c d : Nat) : (s.post a b c d).fuses = s.fuses := rfl
@[simp] theorem post_macs (s : State) (a b c d : Nat) : (s.post a b c d).macs = s.macs := rfl
@[simp] theorem post_prhs (s : State) (a b c d : Nat) : (s.post a b c d).prhs = s.prhs := rfl
@[simp] theorem post_ibx (s : State) (a b c d : Nat) : (s.post a b c d).ibx = s.ibx := rfl
@[simp] theorem post_time (s : State) (a b c d : Nat) : (s.post a b c d).time = s.time := rfl
@[simp] theorem post_jrn (s : State) (a b c d : Nat) : (s.post a b c d).jrn = s.jrn := rfl
@[simp] theorem post_flt (s : State) (a b c d : Nat) : (s.post a b c d).flt = s.flt := rfl
@[simp] theorem post_bru (s : State) (a b c d : Nat) : (s.post a b c d).bru = s.bru := rfl
@[simp] theorem post_pwr (s : State) (a b c d : Nat) : (s.post a b c d).pwr = s.pwr := rfl
@[simp] theorem post_host (s : State) (a b c d : Nat) : (s.post a b c d).host = s.host := rfl
@[simp] theorem post_jtag (s : State) (a b c d : Nat) : (s.post a b c d).jtag = s.jtag := rfl
@[simp] theorem post_pending (s : State) (a b c d : Nat) : (s.post a b c d).pending = s.pending := rfl

/-! ### postStop -/

@[simp] theorem postStop_regs (s : State) (a b c d : Nat) : (s.postStop a b c d).regs = s.regs := rfl
@[simp] theorem postStop_locked (s : State) (a b c d : Nat) : (s.postStop a b c d).locked = s.locked := rfl
@[simp] theorem postStop_tiles (s : State) (a b c d : Nat) : (s.postStop a b c d).tiles = s.tiles := rfl
@[simp] theorem postStop_herds (s : State) (a b c d : Nat) : (s.postStop a b c d).herds = s.herds := rfl
@[simp] theorem postStop_mesh (s : State) (a b c d : Nat) : (s.postStop a b c d).mesh = s.mesh := rfl
@[simp] theorem postStop_stks (s : State) (a b c d : Nat) : (s.postStop a b c d).stks = s.stks := rfl
@[simp] theorem postStop_snaps (s : State) (a b c d : Nat) : (s.postStop a b c d).snaps = s.snaps := rfl
@[simp] theorem postStop_pmap (s : State) (a b c d : Nat) : (s.postStop a b c d).pmap = s.pmap := rfl
@[simp] theorem postStop_img (s : State) (a b c d : Nat) : (s.postStop a b c d).img = s.img := rfl
@[simp] theorem postStop_fuses (s : State) (a b c d : Nat) : (s.postStop a b c d).fuses = s.fuses := rfl
@[simp] theorem postStop_macs (s : State) (a b c d : Nat) : (s.postStop a b c d).macs = s.macs := rfl
@[simp] theorem postStop_prhs (s : State) (a b c d : Nat) : (s.postStop a b c d).prhs = s.prhs := rfl
@[simp] theorem postStop_ibx (s : State) (a b c d : Nat) : (s.postStop a b c d).ibx = s.ibx := rfl
@[simp] theorem postStop_time (s : State) (a b c d : Nat) : (s.postStop a b c d).time = s.time := rfl
@[simp] theorem postStop_jrn (s : State) (a b c d : Nat) : (s.postStop a b c d).jrn = s.jrn := rfl
@[simp] theorem postStop_flt (s : State) (a b c d : Nat) : (s.postStop a b c d).flt = s.flt := rfl
@[simp] theorem postStop_bru (s : State) (a b c d : Nat) : (s.postStop a b c d).bru = s.bru := rfl
@[simp] theorem postStop_pwr (s : State) (a b c d : Nat) : (s.postStop a b c d).pwr = s.pwr := rfl
@[simp] theorem postStop_host (s : State) (a b c d : Nat) : (s.postStop a b c d).host = s.host := rfl
@[simp] theorem postStop_jtag (s : State) (a b c d : Nat) : (s.postStop a b c d).jtag = s.jtag := rfl
@[simp] theorem postStop_pending (s : State) (a b c d : Nat) : (s.postStop a b c d).pending = s.pending := rfl

/-! ### emit -/

@[simp] theorem emit_regs (s : State) (o : Out) : (s.emit o).regs = s.regs := rfl
@[simp] theorem emit_locked (s : State) (o : Out) : (s.emit o).locked = s.locked := rfl
@[simp] theorem emit_tiles (s : State) (o : Out) : (s.emit o).tiles = s.tiles := rfl
@[simp] theorem emit_herds (s : State) (o : Out) : (s.emit o).herds = s.herds := rfl
@[simp] theorem emit_mesh (s : State) (o : Out) : (s.emit o).mesh = s.mesh := rfl
@[simp] theorem emit_stks (s : State) (o : Out) : (s.emit o).stks = s.stks := rfl
@[simp] theorem emit_snaps (s : State) (o : Out) : (s.emit o).snaps = s.snaps := rfl
@[simp] theorem emit_pmap (s : State) (o : Out) : (s.emit o).pmap = s.pmap := rfl
@[simp] theorem emit_img (s : State) (o : Out) : (s.emit o).img = s.img := rfl
@[simp] theorem emit_fuses (s : State) (o : Out) : (s.emit o).fuses = s.fuses := rfl
@[simp] theorem emit_macs (s : State) (o : Out) : (s.emit o).macs = s.macs := rfl
@[simp] theorem emit_prhs (s : State) (o : Out) : (s.emit o).prhs = s.prhs := rfl
@[simp] theorem emit_ibx (s : State) (o : Out) : (s.emit o).ibx = s.ibx := rfl
@[simp] theorem emit_time (s : State) (o : Out) : (s.emit o).time = s.time := rfl
@[simp] theorem emit_jrn (s : State) (o : Out) : (s.emit o).jrn = s.jrn := rfl
@[simp] theorem emit_flt (s : State) (o : Out) : (s.emit o).flt = s.flt := rfl
@[simp] theorem emit_bru (s : State) (o : Out) : (s.emit o).bru = s.bru := rfl
@[simp] theorem emit_pwr (s : State) (o : Out) : (s.emit o).pwr = s.pwr := rfl
@[simp] theorem emit_host (s : State) (o : Out) : (s.emit o).host = s.host := rfl
@[simp] theorem emit_jtag (s : State) (o : Out) : (s.emit o).jtag = s.jtag := rfl
@[simp] theorem emit_pending (s : State) (o : Out) : (s.emit o).pending = s.pending := rfl

/-! ### draw -/

@[simp] theorem draw_regs (s : State) : (s.draw).regs = s.regs := rfl
@[simp] theorem draw_locked (s : State) : (s.draw).locked = s.locked := rfl
@[simp] theorem draw_tiles (s : State) : (s.draw).tiles = s.tiles := rfl
@[simp] theorem draw_herds (s : State) : (s.draw).herds = s.herds := rfl
@[simp] theorem draw_mesh (s : State) : (s.draw).mesh = s.mesh := rfl
@[simp] theorem draw_stks (s : State) : (s.draw).stks = s.stks := rfl
@[simp] theorem draw_snaps (s : State) : (s.draw).snaps = s.snaps := rfl
@[simp] theorem draw_pmap (s : State) : (s.draw).pmap = s.pmap := rfl
@[simp] theorem draw_img (s : State) : (s.draw).img = s.img := rfl
@[simp] theorem draw_fuses (s : State) : (s.draw).fuses = s.fuses := rfl
@[simp] theorem draw_macs (s : State) : (s.draw).macs = s.macs := rfl
@[simp] theorem draw_prhs (s : State) : (s.draw).prhs = s.prhs := rfl
@[simp] theorem draw_ibx (s : State) : (s.draw).ibx = s.ibx := rfl
@[simp] theorem draw_time (s : State) : (s.draw).time = s.time := rfl
@[simp] theorem draw_jrn (s : State) : (s.draw).jrn = s.jrn := rfl
@[simp] theorem draw_flt (s : State) : (s.draw).flt = s.flt := rfl
@[simp] theorem draw_bru (s : State) : (s.draw).bru = s.bru := rfl
@[simp] theorem draw_pwr (s : State) : (s.draw).pwr = s.pwr := rfl
@[simp] theorem draw_host (s : State) : (s.draw).host = s.host := rfl
@[simp] theorem draw_jtag (s : State) : (s.draw).jtag = s.jtag := rfl
@[simp] theorem draw_pending (s : State) : (s.draw).pending = s.pending := rfl

/-! ### A part read after an update of another -/

@[simp] theorem tile_after_setReg (s : State) (off : Nat) (w : Word) (j : Nat) : (s.setReg off w).tile j = s.tile j := rfl
@[simp] theorem herd_after_setReg (s : State) (off : Nat) (w : Word) (j : Nat) : (s.setReg off w).herd j = s.herd j := rfl
@[simp] theorem stk_after_setReg (s : State) (off : Nat) (w : Word) (j : Nat) : (s.setReg off w).stk j = s.stk j := rfl
@[simp] theorem mac_after_setReg (s : State) (off : Nat) (w : Word) (j : Nat) : (s.setReg off w).mac j = s.mac j := rfl
@[simp] theorem prh_after_setReg (s : State) (off : Nat) (w : Word) (j : Nat) : (s.setReg off w).prh j = s.prh j := rfl
@[simp] theorem snap_after_setReg (s : State) (off : Nat) (w : Word) (j : Nat) : (s.setReg off w).snap j = s.snap j := rfl
@[simp] theorem tile_after_wr (s : State) (f : Fld) (v : Nat) (j : Nat) : (s.wr f v).tile j = s.tile j := rfl
@[simp] theorem herd_after_wr (s : State) (f : Fld) (v : Nat) (j : Nat) : (s.wr f v).herd j = s.herd j := rfl
@[simp] theorem stk_after_wr (s : State) (f : Fld) (v : Nat) (j : Nat) : (s.wr f v).stk j = s.stk j := rfl
@[simp] theorem mac_after_wr (s : State) (f : Fld) (v : Nat) (j : Nat) : (s.wr f v).mac j = s.mac j := rfl
@[simp] theorem prh_after_wr (s : State) (f : Fld) (v : Nat) (j : Nat) : (s.wr f v).prh j = s.prh j := rfl
@[simp] theorem snap_after_wr (s : State) (f : Fld) (v : Nat) (j : Nat) : (s.wr f v).snap j = s.snap j := rfl
@[simp] theorem tile_after_count (s : State) (f : Fld) (n : Nat) (j : Nat) : (s.count f n).tile j = s.tile j := rfl
@[simp] theorem herd_after_count (s : State) (f : Fld) (n : Nat) (j : Nat) : (s.count f n).herd j = s.herd j := rfl
@[simp] theorem stk_after_count (s : State) (f : Fld) (n : Nat) (j : Nat) : (s.count f n).stk j = s.stk j := rfl
@[simp] theorem mac_after_count (s : State) (f : Fld) (n : Nat) (j : Nat) : (s.count f n).mac j = s.mac j := rfl
@[simp] theorem prh_after_count (s : State) (f : Fld) (n : Nat) (j : Nat) : (s.count f n).prh j = s.prh j := rfl
@[simp] theorem snap_after_count (s : State) (f : Fld) (n : Nat) (j : Nat) : (s.count f n).snap j = s.snap j := rfl
@[simp] theorem reg_after_setTile (s : State) (k : Nat) (x : Tile) (j : Nat) : (s.setTile k x).reg j = s.reg j := rfl
@[simp] theorem herd_after_setTile (s : State) (k : Nat) (x : Tile) (j : Nat) : (s.setTile k x).herd j = s.herd j := rfl
@[simp] theorem stk_after_setTile (s : State) (k : Nat) (x : Tile) (j : Nat) : (s.setTile k x).stk j = s.stk j := rfl
@[simp] theorem mac_after_setTile (s : State) (k : Nat) (x : Tile) (j : Nat) : (s.setTile k x).mac j = s.mac j := rfl
@[simp] theorem prh_after_setTile (s : State) (k : Nat) (x : Tile) (j : Nat) : (s.setTile k x).prh j = s.prh j := rfl
@[simp] theorem snap_after_setTile (s : State) (k : Nat) (x : Tile) (j : Nat) : (s.setTile k x).snap j = s.snap j := rfl
@[simp] theorem reg_after_updTile (s : State) (k : Nat) (f : Tile → Tile) (j : Nat) : (s.updTile k f).reg j = s.reg j := rfl
@[simp] theorem herd_after_updTile (s : State) (k : Nat) (f : Tile → Tile) (j : Nat) : (s.updTile k f).herd j = s.herd j := rfl
@[simp] theorem stk_after_updTile (s : State) (k : Nat) (f : Tile → Tile) (j : Nat) : (s.updTile k f).stk j = s.stk j := rfl
@[simp] theorem mac_after_updTile (s : State) (k : Nat) (f : Tile → Tile) (j : Nat) : (s.updTile k f).mac j = s.mac j := rfl
@[simp] theorem prh_after_updTile (s : State) (k : Nat) (f : Tile → Tile) (j : Nat) : (s.updTile k f).prh j = s.prh j := rfl
@[simp] theorem snap_after_updTile (s : State) (k : Nat) (f : Tile → Tile) (j : Nat) : (s.updTile k f).snap j = s.snap j := rfl
@[simp] theorem reg_after_setHerd (s : State) (k : Nat) (x : Herd) (j : Nat) : (s.setHerd k x).reg j = s.reg j := rfl
@[simp] theorem tile_after_setHerd (s : State) (k : Nat) (x : Herd) (j : Nat) : (s.setHerd k x).tile j = s.tile j := rfl
@[simp] theorem stk_after_setHerd (s : State) (k : Nat) (x : Herd) (j : Nat) : (s.setHerd k x).stk j = s.stk j := rfl
@[simp] theorem mac_after_setHerd (s : State) (k : Nat) (x : Herd) (j : Nat) : (s.setHerd k x).mac j = s.mac j := rfl
@[simp] theorem prh_after_setHerd (s : State) (k : Nat) (x : Herd) (j : Nat) : (s.setHerd k x).prh j = s.prh j := rfl
@[simp] theorem snap_after_setHerd (s : State) (k : Nat) (x : Herd) (j : Nat) : (s.setHerd k x).snap j = s.snap j := rfl
@[simp] theorem reg_after_updHerd (s : State) (k : Nat) (f : Herd → Herd) (j : Nat) : (s.updHerd k f).reg j = s.reg j := rfl
@[simp] theorem tile_after_updHerd (s : State) (k : Nat) (f : Herd → Herd) (j : Nat) : (s.updHerd k f).tile j = s.tile j := rfl
@[simp] theorem stk_after_updHerd (s : State) (k : Nat) (f : Herd → Herd) (j : Nat) : (s.updHerd k f).stk j = s.stk j := rfl
@[simp] theorem mac_after_updHerd (s : State) (k : Nat) (f : Herd → Herd) (j : Nat) : (s.updHerd k f).mac j = s.mac j := rfl
@[simp] theorem prh_after_updHerd (s : State) (k : Nat) (f : Herd → Herd) (j : Nat) : (s.updHerd k f).prh j = s.prh j := rfl
@[simp] theorem snap_after_updHerd (s : State) (k : Nat) (f : Herd → Herd) (j : Nat) : (s.updHerd k f).snap j = s.snap j := rfl
@[simp] theorem reg_after_setStk (s : State) (k : Nat) (x : Stk) (j : Nat) : (s.setStk k x).reg j = s.reg j := rfl
@[simp] theorem tile_after_setStk (s : State) (k : Nat) (x : Stk) (j : Nat) : (s.setStk k x).tile j = s.tile j := rfl
@[simp] theorem herd_after_setStk (s : State) (k : Nat) (x : Stk) (j : Nat) : (s.setStk k x).herd j = s.herd j := rfl
@[simp] theorem mac_after_setStk (s : State) (k : Nat) (x : Stk) (j : Nat) : (s.setStk k x).mac j = s.mac j := rfl
@[simp] theorem prh_after_setStk (s : State) (k : Nat) (x : Stk) (j : Nat) : (s.setStk k x).prh j = s.prh j := rfl
@[simp] theorem snap_after_setStk (s : State) (k : Nat) (x : Stk) (j : Nat) : (s.setStk k x).snap j = s.snap j := rfl
@[simp] theorem reg_after_updStk (s : State) (k : Nat) (f : Stk → Stk) (j : Nat) : (s.updStk k f).reg j = s.reg j := rfl
@[simp] theorem tile_after_updStk (s : State) (k : Nat) (f : Stk → Stk) (j : Nat) : (s.updStk k f).tile j = s.tile j := rfl
@[simp] theorem herd_after_updStk (s : State) (k : Nat) (f : Stk → Stk) (j : Nat) : (s.updStk k f).herd j = s.herd j := rfl
@[simp] theorem mac_after_updStk (s : State) (k : Nat) (f : Stk → Stk) (j : Nat) : (s.updStk k f).mac j = s.mac j := rfl
@[simp] theorem prh_after_updStk (s : State) (k : Nat) (f : Stk → Stk) (j : Nat) : (s.updStk k f).prh j = s.prh j := rfl
@[simp] theorem snap_after_updStk (s : State) (k : Nat) (f : Stk → Stk) (j : Nat) : (s.updStk k f).snap j = s.snap j := rfl
@[simp] theorem reg_after_setMac (s : State) (k : Nat) (x : MacSt) (j : Nat) : (s.setMac k x).reg j = s.reg j := rfl
@[simp] theorem tile_after_setMac (s : State) (k : Nat) (x : MacSt) (j : Nat) : (s.setMac k x).tile j = s.tile j := rfl
@[simp] theorem herd_after_setMac (s : State) (k : Nat) (x : MacSt) (j : Nat) : (s.setMac k x).herd j = s.herd j := rfl
@[simp] theorem stk_after_setMac (s : State) (k : Nat) (x : MacSt) (j : Nat) : (s.setMac k x).stk j = s.stk j := rfl
@[simp] theorem prh_after_setMac (s : State) (k : Nat) (x : MacSt) (j : Nat) : (s.setMac k x).prh j = s.prh j := rfl
@[simp] theorem snap_after_setMac (s : State) (k : Nat) (x : MacSt) (j : Nat) : (s.setMac k x).snap j = s.snap j := rfl
@[simp] theorem reg_after_updMac (s : State) (k : Nat) (f : MacSt → MacSt) (j : Nat) : (s.updMac k f).reg j = s.reg j := rfl
@[simp] theorem tile_after_updMac (s : State) (k : Nat) (f : MacSt → MacSt) (j : Nat) : (s.updMac k f).tile j = s.tile j := rfl
@[simp] theorem herd_after_updMac (s : State) (k : Nat) (f : MacSt → MacSt) (j : Nat) : (s.updMac k f).herd j = s.herd j := rfl
@[simp] theorem stk_after_updMac (s : State) (k : Nat) (f : MacSt → MacSt) (j : Nat) : (s.updMac k f).stk j = s.stk j := rfl
@[simp] theorem prh_after_updMac (s : State) (k : Nat) (f : MacSt → MacSt) (j : Nat) : (s.updMac k f).prh j = s.prh j := rfl
@[simp] theorem snap_after_updMac (s : State) (k : Nat) (f : MacSt → MacSt) (j : Nat) : (s.updMac k f).snap j = s.snap j := rfl
@[simp] theorem reg_after_setPrh (s : State) (k : Nat) (x : Prh) (j : Nat) : (s.setPrh k x).reg j = s.reg j := rfl
@[simp] theorem tile_after_setPrh (s : State) (k : Nat) (x : Prh) (j : Nat) : (s.setPrh k x).tile j = s.tile j := rfl
@[simp] theorem herd_after_setPrh (s : State) (k : Nat) (x : Prh) (j : Nat) : (s.setPrh k x).herd j = s.herd j := rfl
@[simp] theorem stk_after_setPrh (s : State) (k : Nat) (x : Prh) (j : Nat) : (s.setPrh k x).stk j = s.stk j := rfl
@[simp] theorem mac_after_setPrh (s : State) (k : Nat) (x : Prh) (j : Nat) : (s.setPrh k x).mac j = s.mac j := rfl
@[simp] theorem snap_after_setPrh (s : State) (k : Nat) (x : Prh) (j : Nat) : (s.setPrh k x).snap j = s.snap j := rfl
@[simp] theorem reg_after_updPrh (s : State) (k : Nat) (f : Prh → Prh) (j : Nat) : (s.updPrh k f).reg j = s.reg j := rfl
@[simp] theorem tile_after_updPrh (s : State) (k : Nat) (f : Prh → Prh) (j : Nat) : (s.updPrh k f).tile j = s.tile j := rfl
@[simp] theorem herd_after_updPrh (s : State) (k : Nat) (f : Prh → Prh) (j : Nat) : (s.updPrh k f).herd j = s.herd j := rfl
@[simp] theorem stk_after_updPrh (s : State) (k : Nat) (f : Prh → Prh) (j : Nat) : (s.updPrh k f).stk j = s.stk j := rfl
@[simp] theorem mac_after_updPrh (s : State) (k : Nat) (f : Prh → Prh) (j : Nat) : (s.updPrh k f).mac j = s.mac j := rfl
@[simp] theorem snap_after_updPrh (s : State) (k : Nat) (f : Prh → Prh) (j : Nat) : (s.updPrh k f).snap j = s.snap j := rfl
@[simp] theorem reg_after_setSnap (s : State) (k : Nat) (x : Snap) (j : Nat) : (s.setSnap k x).reg j = s.reg j := rfl
@[simp] theorem tile_after_setSnap (s : State) (k : Nat) (x : Snap) (j : Nat) : (s.setSnap k x).tile j = s.tile j := rfl
@[simp] theorem herd_after_setSnap (s : State) (k : Nat) (x : Snap) (j : Nat) : (s.setSnap k x).herd j = s.herd j := rfl
@[simp] theorem stk_after_setSnap (s : State) (k : Nat) (x : Snap) (j : Nat) : (s.setSnap k x).stk j = s.stk j := rfl
@[simp] theorem mac_after_setSnap (s : State) (k : Nat) (x : Snap) (j : Nat) : (s.setSnap k x).mac j = s.mac j := rfl
@[simp] theorem prh_after_setSnap (s : State) (k : Nat) (x : Snap) (j : Nat) : (s.setSnap k x).prh j = s.prh j := rfl
@[simp] theorem reg_after_setPd (s : State) (d : Nat) (on : Bool) (j : Nat) : (s.setPd d on).reg j = s.reg j := rfl
@[simp] theorem tile_after_setPd (s : State) (d : Nat) (on : Bool) (j : Nat) : (s.setPd d on).tile j = s.tile j := rfl
@[simp] theorem herd_after_setPd (s : State) (d : Nat) (on : Bool) (j : Nat) : (s.setPd d on).herd j = s.herd j := rfl
@[simp] theorem stk_after_setPd (s : State) (d : Nat) (on : Bool) (j : Nat) : (s.setPd d on).stk j = s.stk j := rfl
@[simp] theorem mac_after_setPd (s : State) (d : Nat) (on : Bool) (j : Nat) : (s.setPd d on).mac j = s.mac j := rfl
@[simp] theorem prh_after_setPd (s : State) (d : Nat) (on : Bool) (j : Nat) : (s.setPd d on).prh j = s.prh j := rfl
@[simp] theorem snap_after_setPd (s : State) (d : Nat) (on : Bool) (j : Nat) : (s.setPd d on).snap j = s.snap j := rfl
@[simp] theorem reg_after_setTime (s : State) (x : TimeU) (j : Nat) : (s.setTime x).reg j = s.reg j := rfl
@[simp] theorem tile_after_setTime (s : State) (x : TimeU) (j : Nat) : (s.setTime x).tile j = s.tile j := rfl
@[simp] theorem herd_after_setTime (s : State) (x : TimeU) (j : Nat) : (s.setTime x).herd j = s.herd j := rfl
@[simp] theorem stk_after_setTime (s : State) (x : TimeU) (j : Nat) : (s.setTime x).stk j = s.stk j := rfl
@[simp] theorem mac_after_setTime (s : State) (x : TimeU) (j : Nat) : (s.setTime x).mac j = s.mac j := rfl
@[simp] theorem prh_after_setTime (s : State) (x : TimeU) (j : Nat) : (s.setTime x).prh j = s.prh j := rfl
@[simp] theorem snap_after_setTime (s : State) (x : TimeU) (j : Nat) : (s.setTime x).snap j = s.snap j := rfl
@[simp] theorem reg_after_setPwr (s : State) (x : Pwr) (j : Nat) : (s.setPwr x).reg j = s.reg j := rfl
@[simp] theorem tile_after_setPwr (s : State) (x : Pwr) (j : Nat) : (s.setPwr x).tile j = s.tile j := rfl
@[simp] theorem herd_after_setPwr (s : State) (x : Pwr) (j : Nat) : (s.setPwr x).herd j = s.herd j := rfl
@[simp] theorem stk_after_setPwr (s : State) (x : Pwr) (j : Nat) : (s.setPwr x).stk j = s.stk j := rfl
@[simp] theorem mac_after_setPwr (s : State) (x : Pwr) (j : Nat) : (s.setPwr x).mac j = s.mac j := rfl
@[simp] theorem prh_after_setPwr (s : State) (x : Pwr) (j : Nat) : (s.setPwr x).prh j = s.prh j := rfl
@[simp] theorem snap_after_setPwr (s : State) (x : Pwr) (j : Nat) : (s.setPwr x).snap j = s.snap j := rfl
@[simp] theorem reg_after_updPwr (s : State) (f : Pwr → Pwr) (j : Nat) : (s.updPwr f).reg j = s.reg j := rfl
@[simp] theorem tile_after_updPwr (s : State) (f : Pwr → Pwr) (j : Nat) : (s.updPwr f).tile j = s.tile j := rfl
@[simp] theorem herd_after_updPwr (s : State) (f : Pwr → Pwr) (j : Nat) : (s.updPwr f).herd j = s.herd j := rfl
@[simp] theorem stk_after_updPwr (s : State) (f : Pwr → Pwr) (j : Nat) : (s.updPwr f).stk j = s.stk j := rfl
@[simp] theorem mac_after_updPwr (s : State) (f : Pwr → Pwr) (j : Nat) : (s.updPwr f).mac j = s.mac j := rfl
@[simp] theorem prh_after_updPwr (s : State) (f : Pwr → Pwr) (j : Nat) : (s.updPwr f).prh j = s.prh j := rfl
@[simp] theorem snap_after_updPwr (s : State) (f : Pwr → Pwr) (j : Nat) : (s.updPwr f).snap j = s.snap j := rfl
@[simp] theorem reg_after_setHost (s : State) (x : HostIf) (j : Nat) : (s.setHost x).reg j = s.reg j := rfl
@[simp] theorem tile_after_setHost (s : State) (x : HostIf) (j : Nat) : (s.setHost x).tile j = s.tile j := rfl
@[simp] theorem herd_after_setHost (s : State) (x : HostIf) (j : Nat) : (s.setHost x).herd j = s.herd j := rfl
@[simp] theorem stk_after_setHost (s : State) (x : HostIf) (j : Nat) : (s.setHost x).stk j = s.stk j := rfl
@[simp] theorem mac_after_setHost (s : State) (x : HostIf) (j : Nat) : (s.setHost x).mac j = s.mac j := rfl
@[simp] theorem prh_after_setHost (s : State) (x : HostIf) (j : Nat) : (s.setHost x).prh j = s.prh j := rfl
@[simp] theorem snap_after_setHost (s : State) (x : HostIf) (j : Nat) : (s.setHost x).snap j = s.snap j := rfl
@[simp] theorem reg_after_setImg (s : State) (x : Img) (j : Nat) : (s.setImg x).reg j = s.reg j := rfl
@[simp] theorem tile_after_setImg (s : State) (x : Img) (j : Nat) : (s.setImg x).tile j = s.tile j := rfl
@[simp] theorem herd_after_setImg (s : State) (x : Img) (j : Nat) : (s.setImg x).herd j = s.herd j := rfl
@[simp] theorem stk_after_setImg (s : State) (x : Img) (j : Nat) : (s.setImg x).stk j = s.stk j := rfl
@[simp] theorem mac_after_setImg (s : State) (x : Img) (j : Nat) : (s.setImg x).mac j = s.mac j := rfl
@[simp] theorem prh_after_setImg (s : State) (x : Img) (j : Nat) : (s.setImg x).prh j = s.prh j := rfl
@[simp] theorem snap_after_setImg (s : State) (x : Img) (j : Nat) : (s.setImg x).snap j = s.snap j := rfl
@[simp] theorem reg_after_setJrn (s : State) (x : Jrn) (j : Nat) : (s.setJrn x).reg j = s.reg j := rfl
@[simp] theorem tile_after_setJrn (s : State) (x : Jrn) (j : Nat) : (s.setJrn x).tile j = s.tile j := rfl
@[simp] theorem herd_after_setJrn (s : State) (x : Jrn) (j : Nat) : (s.setJrn x).herd j = s.herd j := rfl
@[simp] theorem stk_after_setJrn (s : State) (x : Jrn) (j : Nat) : (s.setJrn x).stk j = s.stk j := rfl
@[simp] theorem mac_after_setJrn (s : State) (x : Jrn) (j : Nat) : (s.setJrn x).mac j = s.mac j := rfl
@[simp] theorem prh_after_setJrn (s : State) (x : Jrn) (j : Nat) : (s.setJrn x).prh j = s.prh j := rfl
@[simp] theorem snap_after_setJrn (s : State) (x : Jrn) (j : Nat) : (s.setJrn x).snap j = s.snap j := rfl
@[simp] theorem reg_after_updFlt (s : State) (f : Flt → Flt) (j : Nat) : (s.updFlt f).reg j = s.reg j := rfl
@[simp] theorem tile_after_updFlt (s : State) (f : Flt → Flt) (j : Nat) : (s.updFlt f).tile j = s.tile j := rfl
@[simp] theorem herd_after_updFlt (s : State) (f : Flt → Flt) (j : Nat) : (s.updFlt f).herd j = s.herd j := rfl
@[simp] theorem stk_after_updFlt (s : State) (f : Flt → Flt) (j : Nat) : (s.updFlt f).stk j = s.stk j := rfl
@[simp] theorem mac_after_updFlt (s : State) (f : Flt → Flt) (j : Nat) : (s.updFlt f).mac j = s.mac j := rfl
@[simp] theorem prh_after_updFlt (s : State) (f : Flt → Flt) (j : Nat) : (s.updFlt f).prh j = s.prh j := rfl
@[simp] theorem snap_after_updFlt (s : State) (f : Flt → Flt) (j : Nat) : (s.updFlt f).snap j = s.snap j := rfl
@[simp] theorem reg_after_updBru (s : State) (f : Bru → Bru) (j : Nat) : (s.updBru f).reg j = s.reg j := rfl
@[simp] theorem tile_after_updBru (s : State) (f : Bru → Bru) (j : Nat) : (s.updBru f).tile j = s.tile j := rfl
@[simp] theorem herd_after_updBru (s : State) (f : Bru → Bru) (j : Nat) : (s.updBru f).herd j = s.herd j := rfl
@[simp] theorem stk_after_updBru (s : State) (f : Bru → Bru) (j : Nat) : (s.updBru f).stk j = s.stk j := rfl
@[simp] theorem mac_after_updBru (s : State) (f : Bru → Bru) (j : Nat) : (s.updBru f).mac j = s.mac j := rfl
@[simp] theorem prh_after_updBru (s : State) (f : Bru → Bru) (j : Nat) : (s.updBru f).prh j = s.prh j := rfl
@[simp] theorem snap_after_updBru (s : State) (f : Bru → Bru) (j : Nat) : (s.updBru f).snap j = s.snap j := rfl
@[simp] theorem reg_after_setJtag (s : State) (x : Jtag) (j : Nat) : (s.setJtag x).reg j = s.reg j := rfl
@[simp] theorem tile_after_setJtag (s : State) (x : Jtag) (j : Nat) : (s.setJtag x).tile j = s.tile j := rfl
@[simp] theorem herd_after_setJtag (s : State) (x : Jtag) (j : Nat) : (s.setJtag x).herd j = s.herd j := rfl
@[simp] theorem stk_after_setJtag (s : State) (x : Jtag) (j : Nat) : (s.setJtag x).stk j = s.stk j := rfl
@[simp] theorem mac_after_setJtag (s : State) (x : Jtag) (j : Nat) : (s.setJtag x).mac j = s.mac j := rfl
@[simp] theorem prh_after_setJtag (s : State) (x : Jtag) (j : Nat) : (s.setJtag x).prh j = s.prh j := rfl
@[simp] theorem snap_after_setJtag (s : State) (x : Jtag) (j : Nat) : (s.setJtag x).snap j = s.snap j := rfl
@[simp] theorem reg_after_setRouter (s : State) (px py : Nat) (x : Router) (j : Nat) : (s.setRouter px py x).reg j = s.reg j := rfl
@[simp] theorem tile_after_setRouter (s : State) (px py : Nat) (x : Router) (j : Nat) : (s.setRouter px py x).tile j = s.tile j := rfl
@[simp] theorem herd_after_setRouter (s : State) (px py : Nat) (x : Router) (j : Nat) : (s.setRouter px py x).herd j = s.herd j := rfl
@[simp] theorem stk_after_setRouter (s : State) (px py : Nat) (x : Router) (j : Nat) : (s.setRouter px py x).stk j = s.stk j := rfl
@[simp] theorem mac_after_setRouter (s : State) (px py : Nat) (x : Router) (j : Nat) : (s.setRouter px py x).mac j = s.mac j := rfl
@[simp] theorem prh_after_setRouter (s : State) (px py : Nat) (x : Router) (j : Nat) : (s.setRouter px py x).prh j = s.prh j := rfl
@[simp] theorem snap_after_setRouter (s : State) (px py : Nat) (x : Router) (j : Nat) : (s.setRouter px py x).snap j = s.snap j := rfl
@[simp] theorem reg_after_postEvent (s : State) (e : Event) (j : Nat) : (s.postEvent e).reg j = s.reg j := rfl
@[simp] theorem tile_after_postEvent (s : State) (e : Event) (j : Nat) : (s.postEvent e).tile j = s.tile j := rfl
@[simp] theorem herd_after_postEvent (s : State) (e : Event) (j : Nat) : (s.postEvent e).herd j = s.herd j := rfl
@[simp] theorem stk_after_postEvent (s : State) (e : Event) (j : Nat) : (s.postEvent e).stk j = s.stk j := rfl
@[simp] theorem mac_after_postEvent (s : State) (e : Event) (j : Nat) : (s.postEvent e).mac j = s.mac j := rfl
@[simp] theorem prh_after_postEvent (s : State) (e : Event) (j : Nat) : (s.postEvent e).prh j = s.prh j := rfl
@[simp] theorem snap_after_postEvent (s : State) (e : Event) (j : Nat) : (s.postEvent e).snap j = s.snap j := rfl
@[simp] theorem reg_after_post (s : State) (a b c d : Nat) (j : Nat) : (s.post a b c d).reg j = s.reg j := rfl
@[simp] theorem tile_after_post (s : State) (a b c d : Nat) (j : Nat) : (s.post a b c d).tile j = s.tile j := rfl
@[simp] theorem herd_after_post (s : State) (a b c d : Nat) (j : Nat) : (s.post a b c d).herd j = s.herd j := rfl
@[simp] theorem stk_after_post (s : State) (a b c d : Nat) (j : Nat) : (s.post a b c d).stk j = s.stk j := rfl
@[simp] theorem mac_after_post (s : State) (a b c d : Nat) (j : Nat) : (s.post a b c d).mac j = s.mac j := rfl
@[simp] theorem prh_after_post (s : State) (a b c d : Nat) (j : Nat) : (s.post a b c d).prh j = s.prh j := rfl
@[simp] theorem snap_after_post (s : State) (a b c d : Nat) (j : Nat) : (s.post a b c d).snap j = s.snap j := rfl
@[simp] theorem reg_after_postStop (s : State) (a b c d : Nat) (j : Nat) : (s.postStop a b c d).reg j = s.reg j := rfl
@[simp] theorem tile_after_postStop (s : State) (a b c d : Nat) (j : Nat) : (s.postStop a b c d).tile j = s.tile j := rfl
@[simp] theorem herd_after_postStop (s : State) (a b c d : Nat) (j : Nat) : (s.postStop a b c d).herd j = s.herd j := rfl
@[simp] theorem stk_after_postStop (s : State) (a b c d : Nat) (j : Nat) : (s.postStop a b c d).stk j = s.stk j := rfl
@[simp] theorem mac_after_postStop (s : State) (a b c d : Nat) (j : Nat) : (s.postStop a b c d).mac j = s.mac j := rfl
@[simp] theorem prh_after_postStop (s : State) (a b c d : Nat) (j : Nat) : (s.postStop a b c d).prh j = s.prh j := rfl
@[simp] theorem snap_after_postStop (s : State) (a b c d : Nat) (j : Nat) : (s.postStop a b c d).snap j = s.snap j := rfl
@[simp] theorem reg_after_emit (s : State) (o : Out) (j : Nat) : (s.emit o).reg j = s.reg j := rfl
@[simp] theorem tile_after_emit (s : State) (o : Out) (j : Nat) : (s.emit o).tile j = s.tile j := rfl
@[simp] theorem herd_after_emit (s : State) (o : Out) (j : Nat) : (s.emit o).herd j = s.herd j := rfl
@[simp] theorem stk_after_emit (s : State) (o : Out) (j : Nat) : (s.emit o).stk j = s.stk j := rfl
@[simp] theorem mac_after_emit (s : State) (o : Out) (j : Nat) : (s.emit o).mac j = s.mac j := rfl
@[simp] theorem prh_after_emit (s : State) (o : Out) (j : Nat) : (s.emit o).prh j = s.prh j := rfl
@[simp] theorem snap_after_emit (s : State) (o : Out) (j : Nat) : (s.emit o).snap j = s.snap j := rfl
@[simp] theorem reg_after_draw (s : State) (j : Nat) : (s.draw).reg j = s.reg j := rfl
@[simp] theorem tile_after_draw (s : State) (j : Nat) : (s.draw).tile j = s.tile j := rfl
@[simp] theorem herd_after_draw (s : State) (j : Nat) : (s.draw).herd j = s.herd j := rfl
@[simp] theorem stk_after_draw (s : State) (j : Nat) : (s.draw).stk j = s.stk j := rfl
@[simp] theorem mac_after_draw (s : State) (j : Nat) : (s.draw).mac j = s.mac j := rfl
@[simp] theorem prh_after_draw (s : State) (j : Nat) : (s.draw).prh j = s.prh j := rfl
@[simp] theorem snap_after_draw (s : State) (j : Nat) : (s.draw).snap j = s.snap j := rfl

/-! ### Reading what was written -/

@[simp] theorem tile_setTile (s : State) (a b : Nat) (x : Tile) :
    (s.setTile a x).tile b = if b = a then x else s.tile b := NatMap.get_put ..

@[simp] theorem tile_updTile (s : State) (a b : Nat) (f : Tile → Tile) :
    (s.updTile a f).tile b = if b = a then f (s.tile a) else s.tile b := NatMap.get_put ..

@[simp] theorem herd_setHerd (s : State) (a b : Nat) (x : Herd) :
    (s.setHerd a x).herd b = if b = a then x else s.herd b := NatMap.get_put ..

@[simp] theorem herd_updHerd (s : State) (a b : Nat) (f : Herd → Herd) :
    (s.updHerd a f).herd b = if b = a then f (s.herd a) else s.herd b := NatMap.get_put ..

@[simp] theorem stk_setStk (s : State) (a b : Nat) (x : Stk) :
    (s.setStk a x).stk b = if b = a then x else s.stk b := NatMap.get_put ..

@[simp] theorem stk_updStk (s : State) (a b : Nat) (f : Stk → Stk) :
    (s.updStk a f).stk b = if b = a then f (s.stk a) else s.stk b := NatMap.get_put ..

@[simp] theorem mac_setMac (s : State) (a b : Nat) (x : MacSt) :
    (s.setMac a x).mac b = if b = a then x else s.mac b := NatMap.get_put ..

@[simp] theorem mac_updMac (s : State) (a b : Nat) (f : MacSt → MacSt) :
    (s.updMac a f).mac b = if b = a then f (s.mac a) else s.mac b := NatMap.get_put ..

@[simp] theorem prh_setPrh (s : State) (a b : Nat) (x : Prh) :
    (s.setPrh a x).prh b = if b = a then x else s.prh b := NatMap.get_put ..

@[simp] theorem prh_updPrh (s : State) (a b : Nat) (f : Prh → Prh) :
    (s.updPrh a f).prh b = if b = a then f (s.prh a) else s.prh b := NatMap.get_put ..

@[simp] theorem snap_setSnap (s : State) (a b : Nat) (x : Snap) :
    (s.setSnap a x).snap b = if b = a then x else s.snap b := NatMap.get_put ..

end Sys2Proof.Laws
end

