-- ==== Sys2Proof/Laws/Wrap.lean ====
section
/-! SUPPORT. What each shape of meaning can do: the fields that it may change come from its function, the others
stay, and so does the queue of commands. -/

namespace Sys2Proof.Laws

open Sys2Proof.Machine Sys2Proof.Safety

/-- Two states that agree on every field and on the queue are one. -/
theorem state_eq {s t : State} (h : ∀ p : Part, p.same s t) (hp : t.pending = s.pending) : t = s := by
  cases s; cases t
  have h1 := h .regs; have h2 := h .locked; have h3 := h .tiles; have h4 := h .herds; have h5 := h .mesh
  have h6 := h .stks; have h7 := h .snaps; have h8 := h .pmap; have h9 := h .img; have h10 := h .fuses
  have h11 := h .macs; have h12 := h .prhs; have h13 := h .ibx; have h14 := h .time; have h15 := h .jrn
  have h16 := h .flt; have h17 := h .bru; have h18 := h .pwr; have h19 := h .host; have h20 := h .jtag; have h21 := h .io
  simp only [Part.same] at *
  simp only [h1, h2, h3, h4, h5, h6, h7, h8, h9, h10, h11, h12, h13, h14, h15, h16, h17, h18, h19, h20, h21, hp]

theorem KeepsBut_refl (l : List Part) (s : State) : KeepsBut l s s :=
  ⟨rfl, fun p _ => by cases p <;> rfl⟩

theorem KeepsBut_trans {l : List Part} {s t u : State} (h1 : KeepsBut l s t) (h2 : KeepsBut l t u) : KeepsBut l s u :=
  ⟨h2.1.trans h1.1, fun p hp => by
    have a := h1.2 p hp
    have b := h2.2 p hp
    cases p <;> exact b.trans a⟩

theorem KeepsBut_mono {l m : List Part} {s t : State} (h : KeepsBut l s t) (hl : ∀ p ∈ l, p ∈ m) : KeepsBut m s t :=
  ⟨h.1, fun p hp => h.2 p (fun hq => hp (hl p hq))⟩

/-- What `act` can do. -/
theorem act_next (f : State → State) (s : State) : ∃ t, act f s = .next t ∧ KeepsBut [.regs, .locked, .tiles, .herds, .mesh, .stks, .snaps, .pmap, .img, .macs, .prhs, .ibx, .time, .jrn, .flt, .bru, .pwr, .host, .jtag, .io] s t ∧
    t.regs = (f s).regs ∧ t.locked = (f s).locked ∧ t.tiles = (f s).tiles ∧ t.herds = (f s).herds ∧ t.mesh = (f s).mesh ∧ t.stks = (f s).stks ∧ t.snaps = (f s).snaps ∧ t.pmap = (f s).pmap ∧ t.img = (f s).img ∧ t.macs = (f s).macs ∧ t.prhs = (f s).prhs ∧ t.ibx = (f s).ibx ∧ t.time = (f s).time ∧ t.jrn = (f s).jrn ∧ t.flt = (f s).flt ∧ t.bru = (f s).bru ∧ t.pwr = (f s).pwr ∧ t.host = (f s).host ∧ t.jtag = (f s).jtag ∧ t.io = (f s).io := by
  refine ⟨_, rfl, ⟨rfl, ?_⟩, rfl, rfl, rfl, rfl, rfl, rfl, rfl, rfl, rfl, rfl, rfl, rfl, rfl, rfl, rfl, rfl, rfl, rfl, rfl, rfl⟩
  intro p hp
  cases p <;> first | rfl | exact absurd (by simp) hp

/-- A function that changes no more than `act` lets it is the whole answer. -/
theorem act_eq (f : State → State) (s : State) (h : KeepsBut [.regs, .locked, .tiles, .herds, .mesh, .stks, .snaps, .pmap, .img, .macs, .prhs, .ibx, .time, .jrn, .flt, .bru, .pwr, .host, .jtag, .io] s (f s)) : act f s = .next (f s) := by
  obtain ⟨t, ht, hk, h0, h1, h2, h3, h4, h5, h6, h7, h8, h9, h10, h11, h12, h13, h14, h15, h16, h17, h18, h19⟩ := act_next f s
  rw [ht]
  congr 1
  refine state_eq (fun p => ?_) (hk.1.trans h.1.symm)
  have a := hk.2 p
  have b := h.2 p
  cases p <;> simp only [Part.same] at * <;> first | assumption | exact (a (by decide)).trans (b (by decide)).symm

/-- What `actFuses` can do. -/
theorem actFuses_next (f : State → State) (s : State) : ∃ t, actFuses f s = .next t ∧ KeepsBut [.regs, .locked, .tiles, .herds, .mesh, .stks, .snaps, .pmap, .img, .fuses, .macs, .prhs, .ibx, .time, .jrn, .flt, .bru, .pwr, .host, .jtag, .io] s t ∧
    t.regs = (f s).regs ∧ t.locked = (f s).locked ∧ t.tiles = (f s).tiles ∧ t.herds = (f s).herds ∧ t.mesh = (f s).mesh ∧ t.stks = (f s).stks ∧ t.snaps = (f s).snaps ∧ t.pmap = (f s).pmap ∧ t.img = (f s).img ∧ t.fuses = (f s).fuses ∧ t.macs = (f s).macs ∧ t.prhs = (f s).prhs ∧ t.ibx = (f s).ibx ∧ t.time = (f s).time ∧ t.jrn = (f s).jrn ∧ t.flt = (f s).flt ∧ t.bru = (f s).bru ∧ t.pwr = (f s).pwr ∧ t.host = (f s).host ∧ t.jtag = (f s).jtag ∧ t.io = (f s).io := by
  refine ⟨_, rfl, ⟨rfl, ?_⟩, rfl, rfl, rfl, rfl, rfl, rfl, rfl, rfl, rfl, rfl, rfl, rfl, rfl, rfl, rfl, rfl, rfl, rfl, rfl, rfl, rfl⟩
  intro p hp
  cases p <;> first | rfl | exact absurd (by simp) hp

/-- A function that changes no more than `actFuses` lets it is the whole answer. -/
theorem actFuses_eq (f : State → State) (s : State) (h : KeepsBut [.regs, .locked, .tiles, .herds, .mesh, .stks, .snaps, .pmap, .img, .fuses, .macs, .prhs, .ibx, .time, .jrn, .flt, .bru, .pwr, .host, .jtag, .io] s (f s)) : actFuses f s = .next (f s) := by
  obtain ⟨t, ht, hk, h0, h1, h2, h3, h4, h5, h6, h7, h8, h9, h10, h11, h12, h13, h14, h15, h16, h17, h18, h19, h20⟩ := actFuses_next f s
  rw [ht]
  congr 1
  refine state_eq (fun p => ?_) (hk.1.trans h.1.symm)
  have a := hk.2 p
  have b := h.2 p
  cases p <;> simp only [Part.same] at * <;> first | assumption

/-- What `actHerd` can do. -/
theorem actHerd_next (f : State → State) (s : State) : ∃ t, actHerd f s = .next t ∧ KeepsBut [.regs, .tiles, .herds, .mesh, .stks, .snaps, .jrn, .bru, .flt, .io] s t ∧
    t.regs = (f s).regs ∧ t.tiles = (f s).tiles ∧ t.herds = (f s).herds ∧ t.mesh = (f s).mesh ∧ t.stks = (f s).stks ∧ t.snaps = (f s).snaps ∧ t.jrn = (f s).jrn ∧ t.bru = (f s).bru ∧ t.flt = (f s).flt ∧ t.io = (f s).io := by
  refine ⟨_, rfl, ⟨rfl, ?_⟩, rfl, rfl, rfl, rfl, rfl, rfl, rfl, rfl, rfl, rfl⟩
  intro p hp
  cases p <;> first | rfl | exact absurd (by simp) hp

/-- A function that changes no more than `actHerd` lets it is the whole answer. -/
theorem actHerd_eq (f : State → State) (s : State) (h : KeepsBut [.regs, .tiles, .herds, .mesh, .stks, .snaps, .jrn, .bru, .flt, .io] s (f s)) : actHerd f s = .next (f s) := by
  obtain ⟨t, ht, hk, h0, h1, h2, h3, h4, h5, h6, h7, h8, h9⟩ := actHerd_next f s
  rw [ht]
  congr 1
  refine state_eq (fun p => ?_) (hk.1.trans h.1.symm)
  have a := hk.2 p
  have b := h.2 p
  cases p <;> simp only [Part.same] at * <;> first | assumption | exact (a (by decide)).trans (b (by decide)).symm

/-- What `actRim` can do. -/
theorem actRim_next (f : State → State) (s : State) : ∃ t, actRim f s = .next t ∧ KeepsBut [.regs, .macs, .prhs, .ibx, .time, .host, .jrn, .stks, .bru, .io] s t ∧
    t.regs = (f s).regs ∧ t.macs = (f s).macs ∧ t.prhs = (f s).prhs ∧ t.ibx = (f s).ibx ∧ t.time = (f s).time ∧ t.host = (f s).host ∧ t.jrn = (f s).jrn ∧ t.stks = (f s).stks ∧ t.bru = (f s).bru ∧ t.io = (f s).io := by
  refine ⟨_, rfl, ⟨rfl, ?_⟩, rfl, rfl, rfl, rfl, rfl, rfl, rfl, rfl, rfl, rfl⟩
  intro p hp
  cases p <;> first | rfl | exact absurd (by simp) hp

/-- A function that changes no more than `actRim` lets it is the whole answer. -/
theorem actRim_eq (f : State → State) (s : State) (h : KeepsBut [.regs, .macs, .prhs, .ibx, .time, .host, .jrn, .stks, .bru, .io] s (f s)) : actRim f s = .next (f s) := by
  obtain ⟨t, ht, hk, h0, h1, h2, h3, h4, h5, h6, h7, h8, h9⟩ := actRim_next f s
  rw [ht]
  congr 1
  refine state_eq (fun p => ?_) (hk.1.trans h.1.symm)
  have a := hk.2 p
  have b := h.2 p
  cases p <;> simp only [Part.same] at * <;> first | assumption | exact (a (by decide)).trans (b (by decide)).symm

/-- What `actStack` can do. -/
theorem actStack_next (f : State → State) (s : State) : ∃ t, actStack f s = .next t ∧ KeepsBut [.regs, .mesh, .stks, .snaps, .ibx, .jrn, .io] s t ∧
    t.regs = (f s).regs ∧ t.mesh = (f s).mesh ∧ t.stks = (f s).stks ∧ t.snaps = (f s).snaps ∧ t.ibx = (f s).ibx ∧ t.jrn = (f s).jrn ∧ t.io = (f s).io := by
  refine ⟨_, rfl, ⟨rfl, ?_⟩, rfl, rfl, rfl, rfl, rfl, rfl, rfl⟩
  intro p hp
  cases p <;> first | rfl | exact absurd (by simp) hp

/-- A function that changes no more than `actStack` lets it is the whole answer. -/
theorem actStack_eq (f : State → State) (s : State) (h : KeepsBut [.regs, .mesh, .stks, .snaps, .ibx, .jrn, .io] s (f s)) : actStack f s = .next (f s) := by
  obtain ⟨t, ht, hk, h0, h1, h2, h3, h4, h5, h6⟩ := actStack_next f s
  rw [ht]
  congr 1
  refine state_eq (fun p => ?_) (hk.1.trans h.1.symm)
  have a := hk.2 p
  have b := h.2 p
  cases p <;> simp only [Part.same] at * <;> first | assumption | exact (a (by decide)).trans (b (by decide)).symm

/-- What `actTime` can do. -/
theorem actTime_next (f : State → State) (s : State) : ∃ t, actTime f s = .next t ∧ KeepsBut [.regs, .time, .io] s t ∧
    t.regs = (f s).regs ∧ t.time = (f s).time ∧ t.io = (f s).io := by
  refine ⟨_, rfl, ⟨rfl, ?_⟩, rfl, rfl, rfl⟩
  intro p hp
  cases p <;> first | rfl | exact absurd (by simp) hp

/-- A function that changes no more than `actTime` lets it is the whole answer. -/
theorem actTime_eq (f : State → State) (s : State) (h : KeepsBut [.regs, .time, .io] s (f s)) : actTime f s = .next (f s) := by
  obtain ⟨t, ht, hk, h0, h1, h2⟩ := actTime_next f s
  rw [ht]
  congr 1
  refine state_eq (fun p => ?_) (hk.1.trans h.1.symm)
  have a := hk.2 p
  have b := h.2 p
  cases p <;> simp only [Part.same] at * <;> first | assumption | exact (a (by decide)).trans (b (by decide)).symm

/-- What `actJrn` can do. -/
theorem actJrn_next (f : State → State) (s : State) : ∃ t, actJrn f s = .next t ∧ KeepsBut [.regs, .tiles, .herds, .mesh, .stks, .snaps, .macs, .jrn, .bru, .flt, .host, .io] s t ∧
    t.regs = (f s).regs ∧ t.tiles = (f s).tiles ∧ t.herds = (f s).herds ∧ t.mesh = (f s).mesh ∧ t.stks = (f s).stks ∧ t.snaps = (f s).snaps ∧ t.macs = (f s).macs ∧ t.jrn = (f s).jrn ∧ t.bru = (f s).bru ∧ t.flt = (f s).flt ∧ t.host = (f s).host ∧ t.io = (f s).io := by
  refine ⟨_, rfl, ⟨rfl, ?_⟩, rfl, rfl, rfl, rfl, rfl, rfl, rfl, rfl, rfl, rfl, rfl, rfl⟩
  intro p hp
  cases p <;> first | rfl | exact absurd (by simp) hp

/-- A function that changes no more than `actJrn` lets it is the whole answer. -/
theorem actJrn_eq (f : State → State) (s : State) (h : KeepsBut [.regs, .tiles, .herds, .mesh, .stks, .snaps, .macs, .jrn, .bru, .flt, .host, .io] s (f s)) : actJrn f s = .next (f s) := by
  obtain ⟨t, ht, hk, h0, h1, h2, h3, h4, h5, h6, h7, h8, h9, h10, h11⟩ := actJrn_next f s
  rw [ht]
  congr 1
  refine state_eq (fun p => ?_) (hk.1.trans h.1.symm)
  have a := hk.2 p
  have b := h.2 p
  cases p <;> simp only [Part.same] at * <;> first | assumption | exact (a (by decide)).trans (b (by decide)).symm

/-- What `actRec` can do. -/
theorem actRec_next (f : State → State) (s : State) : ∃ t, actRec f s = .next t ∧ KeepsBut [.regs, .tiles, .herds, .mesh, .stks, .snaps, .macs, .jrn, .bru, .flt, .pwr, .host, .io] s t ∧
    t.regs = (f s).regs ∧ t.tiles = (f s).tiles ∧ t.herds = (f s).herds ∧ t.mesh = (f s).mesh ∧ t.stks = (f s).stks ∧ t.snaps = (f s).snaps ∧ t.macs = (f s).macs ∧ t.jrn = (f s).jrn ∧ t.bru = (f s).bru ∧ t.flt = (f s).flt ∧ t.pwr = (f s).pwr ∧ t.host = (f s).host ∧ t.io = (f s).io := by
  refine ⟨_, rfl, ⟨rfl, ?_⟩, rfl, rfl, rfl, rfl, rfl, rfl, rfl, rfl, rfl, rfl, rfl, rfl, rfl⟩
  intro p hp
  cases p <;> first | rfl | exact absurd (by simp) hp

/-- A function that changes no more than `actRec` lets it is the whole answer. -/
theorem actRec_eq (f : State → State) (s : State) (h : KeepsBut [.regs, .tiles, .herds, .mesh, .stks, .snaps, .macs, .jrn, .bru, .flt, .pwr, .host, .io] s (f s)) : actRec f s = .next (f s) := by
  obtain ⟨t, ht, hk, h0, h1, h2, h3, h4, h5, h6, h7, h8, h9, h10, h11, h12⟩ := actRec_next f s
  rw [ht]
  congr 1
  refine state_eq (fun p => ?_) (hk.1.trans h.1.symm)
  have a := hk.2 p
  have b := h.2 p
  cases p <;> simp only [Part.same] at * <;> first | assumption | exact (a (by decide)).trans (b (by decide)).symm

end Sys2Proof.Laws
end

