-- ==== Sys2Proof/Laws/Answer.lean ====
section
/-! SUPPORT. How a statement about a command is proved from one about its function, and what the smallest changes
leave alone. -/

namespace Sys2Proof.Laws

open Sys2Proof.Machine Sys2Proof.Safety

/-- The answer of `act` is its function's state where that keeps the fuses and the queue. -/
theorem run_act (f : State → State) (s : State) (P : State → Prop) (hf : (f s).fuses = s.fuses)
    (hp : (f s).pending = s.pending) (h : P (f s)) : ∃ t, act f s = .next t ∧ P t := by
  refine ⟨f s, ?_, h⟩
  rw [act_eq]
  exact ⟨hp, fun p hp => by cases p <;> first | exact hf | exact absurd (by simp) hp⟩

/-- The answer of `actHerd` is its function's state where that keeps what `actHerd` keeps. -/
theorem run_actHerd (f : State → State) (s : State) (l : List Part) (P : State → Prop) (hk : KeepsBut l s (f s))
    (hl : ∀ p ∈ l, p ∈ ([.regs, .tiles, .herds, .mesh, .stks, .snaps, .jrn, .bru, .flt, .io] : List Part)) (h : P (f s)) : ∃ t, actHerd f s = .next t ∧ P t :=
  ⟨f s, actHerd_eq f s (KeepsBut_mono hk hl), h⟩

/-- The answer of `actRim` is its function's state where that keeps what `actRim` keeps. -/
theorem run_actRim (f : State → State) (s : State) (l : List Part) (P : State → Prop) (hk : KeepsBut l s (f s))
    (hl : ∀ p ∈ l, p ∈ ([.regs, .macs, .prhs, .ibx, .time, .host, .jrn, .stks, .bru, .io] : List Part)) (h : P (f s)) : ∃ t, actRim f s = .next t ∧ P t :=
  ⟨f s, actRim_eq f s (KeepsBut_mono hk hl), h⟩

/-- The answer of `actStack` is its function's state where that keeps what `actStack` keeps. -/
theorem run_actStack (f : State → State) (s : State) (l : List Part) (P : State → Prop) (hk : KeepsBut l s (f s))
    (hl : ∀ p ∈ l, p ∈ ([.regs, .mesh, .stks, .snaps, .ibx, .jrn, .io] : List Part)) (h : P (f s)) : ∃ t, actStack f s = .next t ∧ P t :=
  ⟨f s, actStack_eq f s (KeepsBut_mono hk hl), h⟩

/-- The answer of `actTime` is its function's state where that keeps what `actTime` keeps. -/
theorem run_actTime (f : State → State) (s : State) (l : List Part) (P : State → Prop) (hk : KeepsBut l s (f s))
    (hl : ∀ p ∈ l, p ∈ ([.regs, .time, .io] : List Part)) (h : P (f s)) : ∃ t, actTime f s = .next t ∧ P t :=
  ⟨f s, actTime_eq f s (KeepsBut_mono hk hl), h⟩

/-- The answer of `actJrn` is its function's state where that keeps what `actJrn` keeps. -/
theorem run_actJrn (f : State → State) (s : State) (l : List Part) (P : State → Prop) (hk : KeepsBut l s (f s))
    (hl : ∀ p ∈ l, p ∈ ([.regs, .tiles, .herds, .mesh, .stks, .snaps, .macs, .jrn, .bru, .flt, .host, .io] : List Part)) (h : P (f s)) : ∃ t, actJrn f s = .next t ∧ P t :=
  ⟨f s, actJrn_eq f s (KeepsBut_mono hk hl), h⟩

/-- The answer of `actRec` is its function's state where that keeps what `actRec` keeps. -/
theorem run_actRec (f : State → State) (s : State) (l : List Part) (P : State → Prop) (hk : KeepsBut l s (f s))
    (hl : ∀ p ∈ l, p ∈ ([.regs, .tiles, .herds, .mesh, .stks, .snaps, .macs, .jrn, .bru, .flt, .pwr, .host, .io] : List Part)) (h : P (f s)) : ∃ t, actRec f s = .next t ∧ P t :=
  ⟨f s, actRec_eq f s (KeepsBut_mono hk hl), h⟩

theorem keeps_setReg (s : State) (off : Nat) (w : Word) : KeepsBut [.regs] s (s.setReg off w) :=
  ⟨rfl, fun p hp => by cases p <;> first | rfl | exact absurd (by simp) hp⟩

theorem keeps_wr (s : State) (f : Fld) (v : Nat) : KeepsBut [.regs] s (s.wr f v) :=
  ⟨rfl, fun p hp => by cases p <;> first | rfl | exact absurd (by simp) hp⟩

theorem keeps_count (s : State) (f : Fld) (n : Nat) : KeepsBut [.regs] s (s.count f n) :=
  ⟨rfl, fun p hp => by cases p <;> first | rfl | exact absurd (by simp) hp⟩

theorem keeps_setTile (s : State) (k : Nat) (x : Tile) : KeepsBut [.tiles] s (s.setTile k x) :=
  ⟨rfl, fun p hp => by cases p <;> first | rfl | exact absurd (by simp) hp⟩

theorem keeps_updTile (s : State) (k : Nat) (g : Tile → Tile) : KeepsBut [.tiles] s (s.updTile k g) :=
  ⟨rfl, fun p hp => by cases p <;> first | rfl | exact absurd (by simp) hp⟩

theorem keeps_setHerd (s : State) (k : Nat) (x : Herd) : KeepsBut [.herds] s (s.setHerd k x) :=
  ⟨rfl, fun p hp => by cases p <;> first | rfl | exact absurd (by simp) hp⟩

theorem keeps_updHerd (s : State) (k : Nat) (g : Herd → Herd) : KeepsBut [.herds] s (s.updHerd k g) :=
  ⟨rfl, fun p hp => by cases p <;> first | rfl | exact absurd (by simp) hp⟩

theorem keeps_setStk (s : State) (k : Nat) (x : Stk) : KeepsBut [.stks] s (s.setStk k x) :=
  ⟨rfl, fun p hp => by cases p <;> first | rfl | exact absurd (by simp) hp⟩

theorem keeps_updStk (s : State) (k : Nat) (g : Stk → Stk) : KeepsBut [.stks] s (s.updStk k g) :=
  ⟨rfl, fun p hp => by cases p <;> first | rfl | exact absurd (by simp) hp⟩

theorem keeps_setMac (s : State) (k : Nat) (x : MacSt) : KeepsBut [.macs] s (s.setMac k x) :=
  ⟨rfl, fun p hp => by cases p <;> first | rfl | exact absurd (by simp) hp⟩

theorem keeps_updMac (s : State) (k : Nat) (g : MacSt → MacSt) : KeepsBut [.macs] s (s.updMac k g) :=
  ⟨rfl, fun p hp => by cases p <;> first | rfl | exact absurd (by simp) hp⟩

theorem keeps_setPrh (s : State) (k : Nat) (x : Prh) : KeepsBut [.prhs] s (s.setPrh k x) :=
  ⟨rfl, fun p hp => by cases p <;> first | rfl | exact absurd (by simp) hp⟩

theorem keeps_updPrh (s : State) (k : Nat) (g : Prh → Prh) : KeepsBut [.prhs] s (s.updPrh k g) :=
  ⟨rfl, fun p hp => by cases p <;> first | rfl | exact absurd (by simp) hp⟩

theorem keeps_setSnap (s : State) (k : Nat) (x : Snap) : KeepsBut [.snaps] s (s.setSnap k x) :=
  ⟨rfl, fun p hp => by cases p <;> first | rfl | exact absurd (by simp) hp⟩

theorem keeps_postEvent (s : State) (e : Event) : KeepsBut [.io] s (s.postEvent e) :=
  ⟨rfl, fun p hp => by cases p <;> first | rfl | exact absurd (by simp) hp⟩

theorem keeps_post (s : State) (a b c d : Nat) : KeepsBut [.io] s (s.post a b c d) :=
  ⟨rfl, fun p hp => by cases p <;> first | rfl | exact absurd (by simp) hp⟩

theorem keeps_postStop (s : State) (a b c d : Nat) : KeepsBut [.io] s (s.postStop a b c d) :=
  ⟨rfl, fun p hp => by cases p <;> first | rfl | exact absurd (by simp) hp⟩

theorem keeps_emit (s : State) (o : Out) : KeepsBut [.io] s (s.emit o) :=
  ⟨rfl, fun p hp => by cases p <;> first | rfl | exact absurd (by simp) hp⟩

theorem keeps_draw (s : State) : KeepsBut [.io] s (s.draw) :=
  ⟨rfl, fun p hp => by cases p <;> first | rfl | exact absurd (by simp) hp⟩

theorem RegsBut_refl (l : List Nat) (s : State) : RegsBut l s s := fun _ _ => rfl

theorem RegsBut_trans {l : List Nat} {s t u : State} (h1 : RegsBut l s t) (h2 : RegsBut l t u) : RegsBut l s u :=
  fun o ho => (h2 o ho).trans (h1 o ho)

theorem RegsBut_mono {l m : List Nat} {s t : State} (h : RegsBut l s t) (hl : ∀ o ∈ l, o ∈ m) : RegsBut m s t :=
  fun o ho => h o (fun hq => ho (hl o hq))

/-- Writing a field changes its register alone. -/
theorem RegsBut_wr (s : State) (f : Fld) (v : Nat) : RegsBut [f.off] s (s.wr f v) := by
  intro o ho
  rw [reg_wr, if_neg (by simpa using ho)]

theorem RegsBut_count (s : State) (f : Fld) (n : Nat) : RegsBut [f.off] s (s.count f n) := RegsBut_wr s f _

theorem RegsBut_of_regs {s t : State} (h : t.regs = s.regs) (l : List Nat) : RegsBut l s t := by
  intro o _
  simp only [State.reg, h]

end Sys2Proof.Laws
end

