-- ==== Sys2Proof/Laws/Herd.lean ====
section
/-! SUPPORT. Herd controllers at rest: a fault there changes the herd alone, and a barrier asked for by none is
never reached (R100, R142, R502). -/

namespace Sys2Proof.Laws

open Sys2Proof.Machine Sys2Proof.Safety

/-- A controller with an empty queue serves nothing. -/
theorem serve_rest (s : State) (h : Nat) (hq : (s.herd h).queue = []) : s.serve h = s := by
  simp [State.serve, hq, State.serveHerd]

/-- With no barrier asked for, none is reached. -/
theorem checkBarrier_rest (s : State) (h : Nat) (hr : AtRest s h) : s.checkBarrier h = s := by
  simp [State.checkBarrier, State.tryBarrier, hr.1, serve_rest s h hr.2]

/-- A herd after a fault: FAULTED with it, or with the fault that it had. -/
def faulted (code : Nat) (sf : Bool) (x : Herd) : Herd :=
  if x.st = .faulted then { x with barrier := none }
  else { x with st := .faulted, fault := code, stackFault := sf, barrier := none }

@[simp] theorem faulted_st (code : Nat) (sf : Bool) (x : Herd) : (faulted code sf x).st = .faulted := by
  unfold faulted; split <;> simp_all

@[simp] theorem faulted_queue (code : Nat) (sf : Bool) (x : Herd) : (faulted code sf x).queue = x.queue := by
  unfold faulted; split <;> rfl

/-- A fault of a herd at rest makes it FAULTED, or leaves it so, and does nothing else. -/
theorem faultHerd_rest (s : State) (h code : Nat) (sf : Bool) (hr : AtRest s h) :
    s.faultHerd h code sf = s.updHerd h (faulted code sf) := by
  have e : s.faultState h code sf = s.updHerd h (faulted code sf) := by
    simp only [State.faultState, hr.1]; rfl
  unfold State.faultHerd
  rw [e, serve_rest]
  simp [hr.2]

end Sys2Proof.Laws
end

