-- ==== Sys2Proof/Laws/Regs.lean ====
section
/-! SUPPORT. The register tables are well laid out, and what storing into a register does to each of its fields
(R17, R18). -/

namespace Sys2Proof.Laws

open Sys2Proof.Machine Sys2Proof.Safety

/-- Two fields share no bit. -/
def apart (f g : FieldRow) : Bool := decide (f.hi < g.lo ∨ g.hi < f.lo)

/-- The fields of a row lie in 64 bits and share none. -/
def rowOk (r : RegRow) : Bool := r.fields.all (fun f => decide (f.lo ≤ f.hi ∧ f.hi < 64)) && decide (r.fields.Pairwise (fun f g => apart f g = true))

theorem rows_ok (b : Blk) : (rowsOf b).all rowOk = true := by cases b <;> decide

theorem rowAt_ok {off : Nat} {r : RegRow} {i : Nat} (h : rowAt off = some (r, i)) : rowOk r = true := by
  unfold rowAt at h
  split at h
  · cases h
  · rename_i b _ loc _
    rw [Option.map_eq_some_iff] at h
    obtain ⟨x, hx, he⟩ := h
    cases he
    exact List.all_eq_true.1 (rows_ok b) _ (List.mem_of_find?_eq_some hx)

/-- Replacing a field leaves every field apart from it. -/
theorem bits_setBits_apart (v x : Nat) (f g : FieldRow) (hf : f.lo ≤ f.hi) (hg : g.lo ≤ g.hi) (h : apart f g = true) :
    bits (setBits v f.hi f.lo x) g.hi g.lo = bits v g.hi g.lo := by
  simp only [apart, decide_eq_true_eq] at h
  rcases h with h | h
  · exact bits_setBits_above _ _ _ _ _ _ hf h
  · exact bits_setBits_below _ _ _ _ _ _ hf hg h

/-- Storing one field leaves every field apart from it. -/
theorem storeField_bits_apart (s : State) (f g : FieldRow) (a new v : Nat) (hf : f.lo ≤ f.hi) (hg : g.lo ≤ g.hi) (h : apart f g = true) :
   bits (s.storeField f a new v) g.hi g.lo = bits a g.hi g.lo := by
  unfold State.storeField
  split <;> first | rfl | (split <;> first | rfl | exact bits_setBits_apart _ _ f g hf hg h)

/-- Storing one field keeps 64 bits. -/
theorem storeField_lt (s : State) (f : FieldRow) (a new v : Nat) (hf : f.lo ≤ f.hi) (hh : f.hi < 64) (ha : a < 2^64) : s.storeField f a new v < 2^64 := by
  unfold State.storeField
  split <;> first | exact ha | (split <;> first | exact ha | exact setBits_lt hf hh ha)

/-- Storing fields leaves a field apart from all of them. -/
theorem fold_bits (s : State) (l : List FieldRow) (a new v : Nat) (hl : ∀ f ∈ l, f.lo ≤ f.hi ∧ f.hi < 64) (g : FieldRow) (hg : g.lo ≤ g.hi)
   (h : ∀ f ∈ l, apart f g = true) : bits (l.foldl (fun a f => s.storeField f a new v) a) g.hi g.lo = bits a g.hi g.lo := by
  induction l generalizing a with
  | nil => rfl
  | cons f l ih =>
    rw [List.foldl_cons, ih _ (fun f hf => hl f (by simp [hf])) (fun f hf => h f (by simp [hf]))]
    exact storeField_bits_apart s f g a new v (hl f (by simp)).1 hg (h f (by simp))

/-- Storing fields keeps 64 bits. -/
theorem fold_lt (s : State) (l : List FieldRow) (a new v : Nat) (hl : ∀ f ∈ l, f.lo ≤ f.hi ∧ f.hi < 64) (ha : a < 2^64) :
   l.foldl (fun a f => s.storeField f a new v) a < 2^64 := by
  induction l generalizing a with
  | nil => exact ha
  | cons f l ih =>
    rw [List.foldl_cons]
    exact ih _ (fun f hf => hl f (by simp [hf])) (storeField_lt s f a new v (hl f (by simp)).1 (hl f (by simp)).2 ha)

/-- Being apart is symmetric. -/
theorem apart_symm {f g : FieldRow} (h : apart f g = true) : apart g f = true := by
  simp only [apart, decide_eq_true_eq] at *; omega

/-- What storing into a register does: that register alone changes, and each field takes what its access type lets it. -/
theorem store_fields (s : State) (off w mask : Nat) (r : RegRow) (i : Nat) (h : rowAt off = some (r, i)) :
   (s.store off w mask) = s.setReg off (BitVec.ofNat 64 (r.fields.foldl (fun a f => s.storeField f a (merge (s.reg off).toNat w mask) (w &&& mask)) (s.reg off).toNat)) ∧
   ∀ f ∈ r.fields, bits ((s.store off w mask).reg off).toNat f.hi f.lo = written s off w mask f := by
  have e : (s.store off w mask) = s.setReg off (BitVec.ofNat 64 (r.fields.foldl (fun a f => s.storeField f a (merge (s.reg off).toNat w mask) (w &&& mask)) (s.reg off).toNat)) := by
    simp only [State.store, h]
  refine ⟨e, ?_⟩
  have hok := rowAt_ok h
  simp only [rowOk, Bool.and_eq_true, List.all_eq_true, decide_eq_true_eq] at hok
  obtain ⟨hb, hp⟩ := hok
  intro f hf
  rw [e, reg_setReg, if_pos rfl, BitVec.toNat_ofNat, Nat.mod_eq_of_lt (fold_lt s _ _ _ _ hb (s.reg off).isLt)]
  obtain ⟨l1, l2, hl⟩ := List.append_of_mem hf
  rw [hl] at hb hp ⊢
  rw [List.foldl_append, List.foldl_cons]
  have hp2 := List.pairwise_append.1 hp
  have hp3 := List.pairwise_cons.1 hp2.2.1
  rw [fold_bits s l2 _ _ _ (fun g hg => hb g (by simp [hg])) f (hb f (by simp)).1 (fun g hg => apart_symm (hp3.1 g hg))]
  have h1 := fold_bits s l1 (s.reg off).toNat (merge (s.reg off).toNat w mask) (w &&& mask) (fun g hg => hb g (by simp [hg])) f (hb f (by simp)).1 (fun g hg => hp2.2.2 g hg f (by simp))
  generalize hA : l1.foldl (fun a f => s.storeField f a (merge (s.reg off).toNat w mask) (w &&& mask)) (s.reg off).toNat = A at h1 ⊢
  have hfb := hb f (by simp)
  have bl : ∀ v, bits v f.hi f.lo % 2 ^ (f.hi + 1 - f.lo) = bits v f.hi f.lo := fun v => Nat.mod_eq_of_lt (Nat.mod_lt _ (by positivity))
  have bsb : ∀ x, bits (setBits A f.hi f.lo x) f.hi f.lo = x % 2 ^ (f.hi + 1 - f.lo) := fun x => bits_setBits _ _ _ _ hfb.1
  unfold State.storeField written
  split <;> simp only
  · split <;> simp_all
  · split <;> simp_all
  · split
    · rw [bsb]; simp_all
    · simp_all
  · exact h1

/-- Setting a register changes the register file alone. -/
theorem keep_setReg (s : State) (off : Nat) (w : Word) : KeepsBut [.regs] s (s.setReg off w) := by
  refine ⟨rfl, ?_⟩
  intro p hp
  cases p <;> first | rfl | exact absurd (by simp) hp

/-- Setting a register changes that register alone. -/
theorem regs_setReg (s : State) (off : Nat) (w : Word) : RegsBut [off] s (s.setReg off w) := by
  intro o ho; simp at ho; simp [ho]

/-- A plain register has no effect beyond storing. -/
theorem plain_block (s : State) (off w mask : Nat) (h : plainReg off = true) : s.writeBlock off w mask = s.store off w mask := by
  unfold plainReg at h
  unfold State.writeBlock
  split at h <;> (rename_i heq; simp only [heq]) <;> try simp only [State.writeGlb, State.writePwr, State.writeTime, State.writeStk, State.writeImg]
  all_goals simp at h
  all_goals simp_all
  intro h1 h2; omega

/-- The whole write of a plain register. -/
theorem plain_write (s : State) (off w mask : Nat) (h : plainReg off = true) (r : RegRow) (i : Nat) (hr : rowAt off = some (r, i)) (hb : s.blkOn off = true) :
   s.writeReg off w mask = s.store off w mask := by
  unfold State.writeReg
  rw [if_neg (by simp [hb, hr]), if_neg (by
    rintro rfl
    revert h; decide)]
  rw [plain_block s off w mask h, (store_fields s off w mask r i hr).1]
  rfl

end Sys2Proof.Laws
end

