-- ==== Sys2Proof/Laws/Tile.lean ====
section
/-! SUPPORT. What the shared tile instruction can do: nothing while the sequencer issues none, a fault, or its
effect (R52 to R54, R502). -/

namespace Sys2Proof.Laws

open Sys2Proof.Machine Sys2Proof.Safety

/-- Words with no error are read as they stand. -/
theorem readWords_clean (t : Tile) (h : t.bad = []) (ws : List Nat) (d : Nat) : t.readWords ws d = (t, false, d) := by
  induction ws with
  | nil => rfl
  | cons w ws ih => simp [Tile.readWords, h, NatMap.find, ih]

/-- A tile that issues no instruction does nothing. -/
theorem tileInstr_idle (s : State) (key : Nat) (legal : Bool) (reads : Tile → List Nat) (effect : State → State)
    (h : (s.tile key).active = false) : s.tileInstr key legal reads effect = s := by
  simp [State.tileInstr, h]

/-- A tile that reads clean words goes on. -/
theorem readStage_clean (s : State) (key : Nat) (ws : List Nat) (next : State → State) (hb : (s.tile key).bad = []) :
    s.readStage key ws next = next (s.setTile key (s.tile key)) := by
  unfold State.readStage
  rw [readWords_clean (s.tile key) hb]
  rfl

/-- The state that an instruction's effect acts on: each tile as it was. -/
def issued (s : State) (key : Nat) : State := (s.setTile key (s.tile key)).setTile key (s.tile key)

/-- A legal instruction on clean SRAM takes effect. -/
theorem tileInstr_ready (s : State) (key : Nat) (reads : Tile → List Nat) (effect : State → State)
    (ha : (s.tile key).active = true) (hb : (s.tile key).bad = []) :
    s.tileInstr key true reads effect = effect (issued s key) := by
  have hb' : ((s.setTile key (s.tile key)).tile key).bad = [] := by simpa using hb
  have ht : (s.setTile key (s.tile key)).tile key = s.tile key := by simp
  rw [State.tileInstr, if_pos ha, readStage_clean s key _ _ hb, if_neg (by decide), readStage_clean _ key _ _ hb', ht]
  rfl

/-- An illegal instruction on clean program SRAM faults. -/
theorem tileInstr_illegal (s : State) (key : Nat) (reads : Tile → List Nat) (effect : State → State)
    (ha : (s.tile key).active = true) (hb : (s.tile key).bad = []) :
    s.tileInstr key false reads effect = (s.setTile key (s.tile key)).tileIllegal key := by
  rw [State.tileInstr, if_pos ha, readStage_clean s key _ _ hb, if_pos rfl]

@[simp] theorem tile_issued (s : State) (key k : Nat) : (issued s key).tile k = s.tile k := by
  by_cases h : k = key <;> simp [issued, h]

/-- An instruction whose effect changes its own tile changes nothing else. -/
theorem runs_updTile (s : State) (key : Nat) (reads : Tile → List Nat) (g : Tile → Tile)
    (ha : (s.tile key).active = true) (hb : (s.tile key).bad = []) :
    ∃ t, actTile (fun s => s.tileInstr key true reads (fun s => s.updTile key g)) s = .next t ∧
      TileBecomes key (g (s.tile key)) s t := by
  refine ⟨_, rfl, ?_, ?_, rfl, ?_⟩
  · show (s.tileInstr key true reads (fun s => s.updTile key g)).tile key = _
    rw [tileInstr_ready s key reads _ ha hb]; simp
  · intro k hk
    show (s.tileInstr key true reads (fun s => s.updTile key g)).tile k = _
    rw [tileInstr_ready s key reads _ ha hb]; simp [hk]
  · intro p hp
    have h := tileInstr_ready s key reads (fun s => s.updTile key g) ha hb
    cases p <;> simp only [Part.same, List.mem_singleton, not_true_eq_false, reduceCtorEq, not_false_eq_true] at hp ⊢ <;>
      first | rfl | (rw [h]; rfl)

/-- An instruction whose effect makes its own tile `g` leaves just that. -/
theorem runs_tile (s : State) (key : Nat) (legal : Bool) (reads : Tile → List Nat) (effect : State → State) (g : Tile)
    (ha : (s.tile key).active = true) (hb : (s.tile key).bad = []) (hl : legal = true)
    (he : effect (issued s key) = (issued s key).updTile key (fun _ => g)) :
    ∃ t, actTile (fun s => s.tileInstr key legal reads effect) s = .next t ∧ TileBecomes key g s t := by
  subst hl
  have h1 := tileInstr_ready s key reads effect ha hb
  have h2 := tileInstr_ready s key reads (fun s => s.updTile key (fun _ => g)) ha hb
  obtain ⟨t, ht, hp⟩ := runs_updTile s key reads (fun _ => g) ha hb
  refine ⟨t, ?_, hp⟩
  rw [← ht]
  unfold actTile actHerd
  simp only [h1, h2, he]

/-- A change of one tile, whether or not its sequencer issues an instruction. -/
theorem runs_change (s : State) (key : Nat) (g : Tile → Tile) :
    ∃ t, actTile (fun s => s.updTile key g) s = .next t ∧ TileBecomes key (g (s.tile key)) s t := by
  refine ⟨_, rfl, ?_, ?_, rfl, ?_⟩
  · show (s.updTile key g).tile key = _
    simp
  · intro k hk
    show (s.updTile key g).tile k = _
    simp [hk]
  · intro p hp
    cases p <;> simp only [Part.same, List.mem_singleton, not_true_eq_false, reduceCtorEq, not_false_eq_true] at hp ⊢ <;> rfl

/-- The answer of a legal instruction on clean SRAM is its effect's. -/
theorem answer_ready (s : State) (key : Nat) (reads : Tile → List Nat) (effect : State → State)
    (ha : (s.tile key).active = true) (hb : (s.tile key).bad = []) :
    actTile (fun s => s.tileInstr key true reads effect) s = actTile (fun s => effect (issued s key)) s := by
  unfold actTile actHerd
  simp only [tileInstr_ready s key reads effect ha hb]

/-- The answer of an illegal instruction on clean program SRAM. -/
theorem answer_illegal (s : State) (key : Nat) (reads : Tile → List Nat) (effect : State → State)
    (ha : (s.tile key).active = true) (hb : (s.tile key).bad = []) :
    actTile (fun s => s.tileInstr key false reads effect) s =
      actTile (fun s => ((s.setTile key (s.tile key)).tileIllegal key)) s := by
  unfold actTile actHerd
  simp only [tileInstr_illegal s key reads effect ha hb]

/-- A function that changes no more than a tile's step may is the whole answer. -/
theorem actTile_eq (f : State → State) (s : State)
    (h : KeepsBut [.regs, .tiles, .herds, .mesh, .stks, .snaps, .jrn, .bru, .flt, .io] s (f s)) :
    actTile f s = .next (f s) := actHerd_eq f s h

/-- A fault that halts a tile, with its herd controller at rest (R53, R99, R100, R502). -/
theorem tile_fault (s s0 : State) (key code detail : Nat) (g : Tile → Tile) (hr : AtRest s (herdOfKey key))
   (h0 : ∀ k, s0.tile k = s.tile k) (hk : KeepsBut [.tiles] s s0) (hg : ∀ x, (g x).run = .faulted code) :
   let t := (((s0.updTile key g).faultHerd (herdOfKey key) code false).post code Source.tile key detail)
   actTile (fun _ => t) s = .next t ∧ TileFaulted key code detail s t ∧ t.tile key = g (s.tile key) := by
  intro t
  have hh : s0.herds = s.herds := hk.2 .herds (by decide)
  have hio : s0.io = s.io := hk.2 .io (by decide)
  have htm : s0.time = s.time := hk.2 .time (by decide)
  have hr0 : AtRest (s0.updTile key g) (herdOfKey key) := by
    constructor <;> simp [AtRest, State.herd, hh] at hr ⊢ <;> [exact hr.1; exact hr.2]
  have ht : t = ((s0.updTile key g).updHerd (herdOfKey key) (faulted code false)).post code Source.tile key detail := by
    simp only [t]; rw [faultHerd_rest _ _ _ _ hr0]
  have htile : ∀ k, t.tile k = if k = key then g (s.tile key) else s.tile k := by
    intro k; rw [ht]; simp [h0]
  have hherd : ∀ k, t.herd k = if k = herdOfKey key then faulted code false (s.herd (herdOfKey key)) else s.herd k := by
    intro k; rw [ht]; simp [State.herd, hh, State.updHerd, State.setHerd]
  have keep : KeepsBut [.tiles, .herds, .io] s t := by
    have k2 : KeepsBut [.tiles, .herds, .io] s0 t := by
      rw [ht]
      refine ⟨rfl, ?_⟩
      intro p hp
      cases p <;> first | rfl | exact absurd (by simp) hp
    exact KeepsBut_trans (KeepsBut_mono hk (by decide)) k2
  refine ⟨?_, ⟨?_, ?_, ?_, ?_, ?_, ?_, ?_, ?_, keep⟩, by simp [htile]⟩
  · exact actTile_eq (fun _ => t) s (KeepsBut_mono keep (by decide))
  · rw [htile]; simp [hg]
  · intro k hk; rw [htile]; simp [hk]
  · rw [hherd, if_pos rfl, faulted_st]
  · intro k hk; rw [hherd, if_neg hk]
  · intro hf; rw [hherd, if_pos rfl, faulted, if_neg hf]; exact ⟨rfl, rfl⟩
  · intro hf; rw [hherd, if_pos rfl, faulted, if_pos hf]; exact ⟨rfl, rfl⟩
  · rw [ht]
    show s0.io.events ++ _ = _
    rw [hio]
    simp only [State.now64, State.devTime]
    show _ ++ [({ code := code, stop := false, source := Source.tile, loc := key, stream := none, time := BitVec.ofNat 64 (BitVec.ofNat 80 (s0.time.t.toNat / 2 ^ 32)).toNat, detail := BitVec.ofNat 64 detail } : Event)] = _
    rw [htm]
  · rw [ht]
    show s0.io.out = _
    rw [hio]

/-! ### Writing data SRAM -/

/-- A byte of data SRAM after a write: bytes beyond the SRAM are dropped (R50). -/
theorem byte_put (t : Tile) (addr : Nat) (bs : List Byte) (x : Nat) :
    Mem.byte (t.put addr bs).sram x =
      if addr ≤ x ∧ x < addr + bs.length ∧ x < sramSize then (bs[x - addr]?).getD 0 else Mem.byte t.sram x := by
  unfold Tile.put
  simp only
  split
  · rename_i h
    rw [List.isEmpty_iff, List.take_eq_nil_iff] at h
    rw [if_neg]
    rintro ⟨h1, h2, h3⟩
    rcases h with h | h
    · omega
    · simp [h] at h2; omega
  · simp only [Mem.byte_write, List.length_take]
    by_cases h : addr ≤ x ∧ x < addr + bs.length ∧ x < sramSize
    · rw [if_pos h, if_pos (by omega), List.getElem?_take]
      rw [if_pos (by omega)]
    · rw [if_neg h, if_neg (by omega)]

/-- A write of data SRAM changes nothing else but the error and granule marks. -/
theorem put_keeps (t : Tile) (addr : Nat) (bs : List Byte) :
    (t.put addr bs).prog = t.prog ∧ (t.put addr bs).hasProg = t.hasProg ∧ (t.put addr bs).accs = t.accs ∧
    (t.put addr bs).sregs = t.sregs ∧ (t.put addr bs).pc = t.pc ∧ (t.put addr bs).run = t.run ∧
    (t.put addr bs).wait = t.wait ∧ (t.put addr bs).ctrs = t.ctrs ∧ (t.put addr bs).arith = t.arith ∧
    (t.put addr bs).seed = t.seed ∧ (t.put addr bs).step = t.step ∧ (t.put addr bs).status = t.status ∧
    (t.put addr bs).ecc = t.ecc ∧ (t.put addr bs).sparse = t.sparse ∧ (t.put addr bs).sparseStat = t.sparseStat ∧
    (t.put addr bs).sparseFault = t.sparseFault ∧ (t.put addr bs).reads = t.reads ∧
    (t.put addr bs).checked = t.checked ∧ (t.put addr bs).lanes = t.lanes := by
  unfold Tile.put
  simp only
  split <;> simp

/-- Counting in HRD_TILE_SPARSE_STAT writes that register alone. -/
@[simp] theorem countStat_keeps (t : Tile) (hi lo : Nat) :
    (t.countStat hi lo).accs = t.accs ∧ (t.countStat hi lo).sram = t.sram ∧ (t.countStat hi lo).lanes = t.lanes :=
  ⟨rfl, rfl, rfl⟩

end Sys2Proof.Laws
end

