-- ==== Sys2Proof/Tests/Slice0.lean ====
section
/-! SUPPORT. Tests of the model's own work, each on a small state: ill-formed commands, single steps with results
taken from the manual, and for each statement states that meet its hypotheses. -/

namespace Sys2Proof.Tests

open Sys2Proof.Machine Sys2Proof.Safety Sys2Proof.Laws

/-! Theorems are checked one after another: each one that waits for its turn holds a thread. -/
set_option Elab.async false

/-! ### States to test on -/

/-- The state after a command. -/
def go (i : Instr) (s : State) : State :=
  match exec i s with
  | .next t => t
  | _ => s

/-- Powered, in service, with the host's link up. -/
def up : State :=
  { State.reset with
    host := { HostIf.reset with linkUp := true }
    bru := { Bru.reset with stage := 7 }
    pwr := { Pwr.reset with doms := Pwr.reset.doms.map (fun d => { d with on := true }) } }

def c0 : Coord := ⟨0, 0⟩

/-- Herd 0 runs, and its tile (0, 0) runs the program. -/
def rdy : State :=
  (up.setHerd 0 { Herd.reset with st := .running, hasProg := true }).setTile 0
    { Tile.reset with run := .running, hasProg := true }

/-- `up` with a function in host-assisted mode. -/
def helped (f : Nat) : State := up.wr Reg.GLB_MODE_MODE (2 ^ f)

/-- Stack k in service. -/
def served (s : State) (k : Nat) : State := s.setStk k { s.stk k with st := .service }

/-! ### Ill-formed commands -/

theorem test_wf_write64 : Instr.wf (.registerWrite (.write64 4 0)) = false := by decide
theorem test_wf_write32 : Instr.wf (.registerWrite (.write32 2 0)) = false := by decide
theorem test_wf_read64 : Instr.wf (.registerWrite (.read64 4)) = false := by decide
theorem test_wf_read32 : Instr.wf (.registerWrite (.read32 1)) = false := by decide
theorem test_wf_bar2Write : Instr.wf (.registerWrite (.bar2Write (0 - 1) [0, 0])) = false := by decide
theorem test_wf_bar2Read : Instr.wf (.registerWrite (.bar2Read (0 - 1) 2)) = false := by decide
theorem test_wf_badAccess : Instr.wf (.unsupportedAccess ⟨true, 8, 64⟩) = false ∧
    Instr.wf (.unsupportedAccess ⟨true, 4, 64⟩) = true := by decide
theorem test_wf_conv : Instr.wf (.outputConversion c0 ⟨.fp32, .fp16, 0, 0, 33, none⟩) = false := by decide
theorem test_wf_vec : Instr.wf (.vectorOperation c0 ⟨.add, 0, 0, 0, 0, 33, none⟩) = false := by decide
theorem test_wf_tine : Instr.wf (.tineEncode c0 ⟨.fp16, 0, 0, 0, none⟩) = false ∧
    Instr.wf (.tineEncode c0 ⟨.tine6, 0, 0, 8, none⟩) = false := by decide
theorem test_wf_build : Instr.wf (.s24Compress c0 ⟨0, 0, 4, .fp16, 0, 0, 0, 0, 0, 1⟩) = false ∧
    Instr.wf (.s24MaskedCompress c0 ⟨0, 4, 0, .fp16, 0, 0, 0, 0, 0, 1⟩) = false ∧
    Instr.wf (.bsrBuild c0 ⟨0, 8, 8, .fp16, 0, 0, 0, 0, 0, 257⟩) = false := by decide
theorem test_wf_phys : Instr.wf (.tileHandshakeTimeout ⟨1089, 0⟩) = false ∧
    Instr.wf (.redAccCombine ⟨0, 1056⟩ 0 ⟨0, .allReduce⟩) = false ∧ Instr.wf (.routerFailure ⟨1089, 0⟩) = false ∧
    Instr.wf (.bist [⟨⟨0, 1056⟩, .tile⟩]) = false := by decide
theorem test_wf_frame : Instr.wf (.frameReceive 0 ⟨[0, 0, 0], false, false, 0, []⟩) = false ∧
    Instr.wf (.frameReceive 0 ⟨[0, 0, 0], false, true, 0, []⟩) = true := by decide
theorem test_wf_power : Instr.wf (.powerEpoch ⟨[], [], 0, 0, 0, [], [], [], []⟩) = false := by decide
theorem test_wf_bar4 : Instr.wf (.bar4Read (0 - 1) 2) = false ∧ Instr.wf (.bar4Write (0 - 1) [0, 0]) = false := by decide
theorem test_wf_ring : Instr.wf (.consWrite ⟨.completion, 1024⟩ 0) = false ∧
    Instr.wf (.ringEnable ⟨.transmit, 256⟩ false) = false ∧
    Instr.wf (.msixHoldoffExpire (.ring ⟨.event, 1⟩)) = false := by decide
theorem test_wf_mail : Instr.wf (.mailboxReply 0 (List.replicate 32769 0)) = false := by decide +kernel

/-! ### States that meet the hypotheses: tiles -/

theorem witness_StepRunsFrontCommand : ({ up with pending := [.getId] } : State).pending = .getId :: [] := rfl

theorem witness_EveryStepCompletes : State.reset.pending = [] := rfl

theorem witness_FusesNeverGoBack : FusesGrow Fuses.blank State.reset.fuses ∧ step State.reset = .next State.reset :=
  ⟨⟨.inl rfl, .inl rfl, .inl rfl, .inl rfl, rfl, rfl⟩, rfl⟩

/-- A tile that issues an instruction, and a format pair of R73. -/
theorem witness_TileArithmeticRuns : Ready rdy c0.key ∧ legalPair .fp16 .fp16 = true ∧ legalPair .fp32 .fp32 = true := by
  unfold Ready; decide

theorem witness_TileArithmeticFrame : treeFmt .fp16 = false ∧ treeFmt .bf16 = true ∧ Fmt.isTine .e4m3 = false ∧
    Fmt.isTine .tine4 = true ∧ (∀ j, j < 1 * 2 → (3 + j) % 32 ≠ 0) := by decide

/-- The last vector that fits data SRAM, its last lane. -/
theorem witness_VectorResults : 31 < 32 ∧ 40832 + 4 * 32 ≤ sramSize ∧ 40896 + Fmt.bytes .fp16 * 32 ≤ sramSize ∧
    Fmt.isTine .fp16 = false := by decide

theorem witness_RoundingStep : 0 < 1 ∧ 2 ^ 32 - 1 < 2 ^ 32 ∧ 8 % 2 ^ 3 = 0 ∧
    2 * (roundMag 3 1 .rne 0 * 2 ^ 1) = 2 * 3 + 2 ^ 1 := by decide

theorem witness_DotProductIsExact : Fmt.fp16 ∈ [Fmt.fp16, .e4m3, .e5m2] ∧ Fmt.e5m2 ∈ [Fmt.fp16, .e4m3, .e5m2] ∧
    (∀ j, j < 2 → (elemAt [(0, 0x3C), (1, 0x3C)] .fp16 0 j).special = false ∧ (elemAt [] .e5m2 8 j).special = false) := by decide

theorem witness_PartialsCombineInAnyOrder :
    (({ Acc.zero with pinf := true } : Acc).pinf = true ∧ ({ Acc.zero with pinf := true } : Acc).ninf = true →
      ({ Acc.zero with pinf := true } : Acc).nan = true) := by decide

/-- A 16 x 16 matrix of zeros, compressed into an S24 operand. -/
def s24Op : BuildOp := { src := 0, rows := 16, cols := 16, fmt := .fp16, descIn := 1024, desc := 1024, index := 0, metaA := 2048, value := 4096, segLen := 1 }
def s24State : State := go (.s24Compress c0 s24Op) rdy
def spOp : SparseOp := { desc := 1024, twoSparse := false, transposed := false, fmtA := .fp16, fmtB := .fp16, addrB := 8192, n := 1, k := 16, acc := 0, dst := 0, addend := none }
def bsrOp : BuildOp := { s24Op with segLen := 256 }
def bsrState : State := go (.bsrBuild c0 bsrOp) rdy

theorem witness_SparseInstructionsRun :
    (legalSparse spOp = true ∧ (metaCheck (s24State.tile 0).sram 1024 (askOf spOp)).isOk = true) ∧
    (buildChecks s24 4 4 [0, 1024, 2048, 4096] (s24Spans s24Op 4 4) = none ∧
      groupFault 4 (denseMask (rdy.tile 0).sram s24Op 4) (4 * 4) 0 = none ∧
      (match metaCheck (s24State.tile 0).sram 1024 (maskAsk s24Op) with
        | .ok d => decide (d.brows = 4 ∧ d.bcols = 4)
        | .error _ => false) = true) ∧
    (∀ k ∈ [s24, bsr], (match metaCheck ((if k = s24 then s24State else bsrState).tile 0).sram 1024 { kind := some k, fmt := .fp16, trans := false, dot := none } with
        | .ok d => decide (buildChecks k d.brows d.bcols [1024, 16384] [(16384, tensorBytes .fp16 (d.rows false * d.cols false))] = none)
        | .error _ => false) = true) := by decide +kernel

theorem witness_BuiltOperands :
    (let m := (rdy.tile 0).sram
     let blocks := (List.range 2).map (presentBlocks m bsrOp 2)
     let nnz := (blocks.map List.length).sum
     let nseg := (blocks.map (fun l => ceilDiv l.length 256)).sum
     buildChecks bsr 2 2 [0, 1024, 2048, 0, 4096] [(0, tensorBytes .fp16 (16 * 16)), (1024, 32), (2048, 8 * nseg),
       (0, roundUp (2 * nnz) 8), (4096, 64 * nnz * Fmt.bytes .fp16)] = none) ∧
    buildChecks s24 4 4 [0, 1024, 2048, 4096] (s24Spans s24Op 4 4) = none := by decide +kernel

theorem witness_SparseDotIsDenseDot : ∀ j, j < 16 → (elemAt (s24State.tile 0).sram .fp16 8192 (0 * 16 + j)).special = false := by
  decide +kernel

/-- Lanes with their own list, with none and no steal, and with one to steal from. -/
def laneRun (steal : Bool) : SparseRun := { op := spOp, desc := readDesc [] 0, mem := [], steal := steal, prods := [] }
def lanesOf (todo : List Nat) (steal : Bool) (next : List Nat) : Tile :=
  { Tile.reset with sparseRun := some (laneRun steal)
                    lanes := [⟨some 0, noPartial, todo, 0⟩, ⟨some 5, noPartial, next, 0⟩] ++ List.replicate 6 ⟨none, noPartial, [], 0⟩ }

theorem witness_LanesShareSegments :
    ((lanesOf [1] true []).lanes.length = 8 ∧ (lanesOf [1] true []).sparseRun = some (laneRun true) ∧
      (lanesOf [1] true []).lanes[0]? = some ⟨some 0, noPartial, [1], 0⟩) ∧
    (laneRun false).steal = false ∧ (lanesOf [] false [6]).lanes[0]? = some ⟨some 0, noPartial, [], 0⟩ ∧
    (∀ v < 8, ((lanesOf [] true []).lanes[v]?).all (fun m => decide (m.todo = [])) = true) ∧
    ((laneRun true).steal = true ∧ (lanesOf [] true [6, 7, 8]).lanes[(0 + 1) % 8]? = some ⟨some 5, noPartial, [6, 7, 8], 0⟩ ∧
      (lanesOf [] true []).lanes[(1 + 7) % 8]? = some ⟨some 0, noPartial, [], 0⟩) ∧
    treeFmt spOp.fmtA = false ∧ treeFmt .bf16 = true := by
  decide

theorem witness_SequencerInstructionsRun : Ready rdy c0.key ∧ AtRest rdy (herdOfKey c0.key) ∧ (up.tile c0.key).active = false := by
  unfold Ready AtRest; decide

/-- The last word of data SRAM. -/
theorem witness_ScalarInstructionsRun : Ready rdy c0.key ∧ 40952 + 8 ≤ sramSize := by unfold Ready; decide

def packet (kind : BitVec 4) (edge : Bool) (dx : BitVec 10) : SendOp := { kind := kind, edge := edge, dx := dx, dy := 0, addr := 0, ctr := 0, tag := 0, src := .sram 0, len := 1 }
def request : ReadOp := { stack := 0, addr := 0, lines := 1, dst := 0, ctr := 0, tag := 0 }
def waiting : State := rdy.updTile 0 (fun t => { t with reads := List.replicate 8 ⟨request.tag.toNat, false⟩ })

theorem witness_PacketsAreSent :
    Ready rdy c0.key ∧ Ready waiting c0.key ∧ (tileKind (packet 0 false 1).kind.toNat = true ∧ (packet 0 false 1).kind ≠ 1) ∧
    (tileKind (packet 1 true 15).kind.toNat = true ∧ (packet 1 true 15).kind = 1) ∧ (rdy.tile 0).reads.length < 8 ∧
    8 ≤ (waiting.tile 0).reads.length ∧
    ([(0 : Word)].length = 1 ∧ ∀ i, i < 1 → [(0 : Word)][i]? = ((rdy.tile 0).acc (31 + i / 4)).words[i % 4]?) := by
  unfold Ready
  decide

theorem witness_TileFaultsAndRegisters :
    (Ready rdy c0.key ∧ AtRest rdy (herdOfKey c0.key)) ∧
    (legalPair .fp32 .fp16 = false ∧ tileKind 3 = false ∧ legalSparse { spOp with n := 3 } = false ∧
      (metaCheck (rdy.tile 0).sram 1024 (askOf spOp)).isOk = false) ∧
    (let s := rdy.updTile 0 (fun t => { t with bad := [(5120, 2)] })
     (s.tile 0).active = true ∧ NatMap.find (s.tile 0).bad (sramWords + (s.tile 0).pc / 2) = some 2) ∧
    ((rdy.herd 0).st ≠ .dark ∧ rdy.herdPresent 0 = true ∧ (up.herd 0).st = .dark ∧ State.reset.herdPresent 1 = false) := by
  unfold Ready AtRest; decide +kernel

/-! ### States that meet the hypotheses: registers, rings, herds -/

theorem witness_RegisterWriteStoresFields : Linked up ∧ plainReg 0x0000_0020 = true ∧ 0x20 % 8 = 0 ∧ (rowAt 0x20).isSome = true ∧
    up.blkOn 0x20 = true := by unfold Linked; decide +kernel

theorem witness_RegisterReads : Linked up ∧ Reg.GLB_EVENT_LOST % 8 = 0 ∧
    Reg.GLB_EVENT_LOST ∉ [Reg.TIME_NOW, Reg.PWR_CAL_DATA, Reg.HRD_WIN_DATA] ∧ up.blkOn Reg.GLB_EVENT_LOST = true ∧
    (rcFields Reg.GLB_EVENT_LOST).length = 1 := by unfold Linked; decide +kernel

theorem witness_NoRegisterNoEffect : Linked up ∧ (rowAt 0x3FF_FFF8).isNone = true ∧
    (up.setPd 92 false).blkOn Reg.TIME_CTRL = false := by unfold Linked; decide +kernel

theorem witness_UnsupportedAccesses : Linked up ∧ State.reset.host.linkUp = false := by unfold Linked; decide

theorem witness_BytesAndRings : Linked up ∧ (0x100_0000 ≤ (0x3FFF_FFFF : BitVec 30).toNat ∧ (0x3FFF_FFFF : BitVec 30).toNat + 1 ≤ 2 ^ 30) ∧
    (0x19_4040 ≤ (0x1F_FFFF : BitVec 30).toNat ∧ (0x1F_FFFF : BitVec 30).toNat < 0x20_0000) ∧
    RingId.wf ⟨.completion, 1023⟩ = true ∧ RingId.wf ⟨.event, 0⟩ = true := by unfold Linked; decide

/-- Mailbox 15 with a request that the firmware holds. -/
def mailed : State := go (.post 15 32768) up
def anEvent : Event := { code := 0x0B09, stop := true, source := 0, loc := 0, stream := none, time := 0, detail := 0 }
def evState : State := { up with io := { up.io with events := [anEvent] } }
def evRing : State := (evState.setRing .event 0 { Ring.reset with base := 0x100_0000, log2 := 8, en := true })
def msgs (lim : List (MsixSrc × Bool)) : State := { up with host := { up.host with msixQ := [.event], limited := lim } }

theorem witness_MailboxesAndMessages : Linked up ∧
    (up.rd (Reg.MBX_STAT_BUSY 15) = 0 ∧ 1 ≤ (1 : BitVec 17).toNat ∧ (32768 : BitVec 17).toNat ≤ 32768) ∧
    ¬(1 ≤ (0 : BitVec 17).toNat) ∧
    (mailed.rd (Reg.MBX_STAT_BUSY 15) = 1 ∧ (NatMap.find mailed.host.mailLen 15).isSome = true ∧ mailed.pdOn 90 = true) ∧
    ((evRing.ring .event 0).full = false ∧ evRing.io.events = [anEvent]) ∧ (evState.ring .event 0).full = true ∧
    ((msgs []).host.msixQ = [.event] ∧ (msgs []).host.limited.any (fun e => decide (e.1 = .event)) = false) ∧
    ((msgs [(.event, false)]).host.limited.any (fun e => decide (e.1 = .event)) = true) ∧
    ((.event, true) ∈ (msgs [(.event, true)]).host.limited ∧ (.event, true) ∉ (msgs []).host.limited) := by
  unfold Linked; decide +kernel

theorem witness_HarvestExportAndModes : Linked up ∧ (up.pdOn 90 = true ∧ up.assisted 8 = false) ∧
    ((helped 8).assisted 8 = true ∧ (helped 8).host.harvestStop = false) ∧
    ((go .harvestPass (helped 8)).host.harvestStop = true) ∧ (up.jrn.exportQ = [] ∧ up.exportIdle = true) ∧
    (up.wr Reg.GLB_EXPORT_PTR_PROD 1).exportIdle = false ∧ Reg.MAC_STAT 0 0 ∈ harvestRegs := by
  unfold Linked; decide +kernel

theorem witness_SidebandAndTestPort : up.host.sideAddr.toNat ∉ [Reg.TIME_NOW, Reg.PWR_CAL_DATA, Reg.HRD_WIN_DATA] := by
  decide +kernel

def cmd (src : CmdSrc) (arg : BitVec 40) : HerdCmd := { src := src, herd := 0, all := false, arg := arg }
/-- Herd 0 in a state. -/
def inSt (st : HState) : State := up.setHerd 0 { Herd.reset with st := st, hasProg := true }
def missing1 : State := { inSt .loaded with bru := { (inSt .loaded).bru with missing := [(0, 1)] } }

theorem witness_HerdCommandsRun : (cmd .firmware 0).all = false ∧ CmdSrc.firmware ∈ [CmdSrc.loader, .firmware, .fault] ∧
    AtRest (inSt .loaded) 0 ∧ ((inSt .loaded).herd 0).st = .loaded ∧ ((inSt .halted).herd 0).st = .halted ∧
    (let s := up.setHerd 0 { Herd.reset with st := .faulted, stackFault := true }
     (s.herd 0).st = .faulted ∧ (s.herd 0).stackFault = true ∧ AtRest s 0) ∧
    ((inSt .loaded).mapTiles 0 Tile.go).tileFault 0 = none ∧
    (((inSt .halted).updTile 0 (fun t => { t with run := .faulted 5 })).mapTiles 0 Tile.go).tileFault 0 = some 5 ∧
    ((inSt .running).herd 0).st = .running ∧ ((inSt .reshaping).herd 0).st ≠ .running ∧
    (missing1.bru.missing ≠ [] ∧ missing1.bru.round < 2 ∧ missing1.bru.stops = [] ∧ missing1.assisted 1 = false) := by
  unfold AtRest; decide +kernel

/-- A running herd none of whose other tiles holds a program: all count as being at the barrier. -/
def oneTile : State := (inSt .running).setTile 0 { Tile.reset with run := .finished, hasProg := true }
def asked (tileDone : Bool) : State :=
  ((up.setHerd 0 { Herd.reset with st := .running, hasProg := true, barrier := some ⟨1, false, .firmware⟩ }).setTile 0
    { Tile.reset with run := .running, hasProg := true }).setTile 1
    { Tile.reset with run := if tileDone then .finished else .running, hasProg := true }
def haltedAt (e : Nat) : State := up.setHerd 0 { Herd.reset with st := .halted, atEpoch := some e }
def snapped : State := go (.snapshot (cmd .firmware 1)) (served (served (haltedAt 1) 0) 8)

theorem witness_BarriersAndSnapshots :
    (AtRest rdy 0 ∧ (rdy.herd 0).st = .running ∧ rdy.allAtBarrier 0 = false) ∧
    (AtRest oneTile 0 ∧ oneTile.allAtBarrier 0 = true ∧ oneTile.openColls 0 = [] ∧ oneTile.homeLost 0 = false) ∧
    (∀ d, Ready (asked d) c0.key ∧ ((asked d).herd 0).barrier = some ⟨1, false, .firmware⟩ ∧ ((asked d).herd 0).queue = [] ∧
      ((asked d).herd 0).st = .running ∧ (asked d).collectiveOpen 0 = false ∧ ((asked d).setTile 0 { ((asked d).tile 0).advance with run := .atBarrier }).allAtBarrier 0 = d ∧ (asked d).homeLost 0 = false) ∧
    (AtRest (served (haltedAt 1) 0) 0 ∧ ((served (haltedAt 1) 0).herd 0).atEpoch = some 1 ∧ (served (haltedAt 1) 0).snapReach 0 = true) ∧
    ((snapped.herd 0).st = .halted ∧ AtRest snapped 0 ∧ snapped.snapReadable 0 (fullEpoch snapped.jrn.epoch 1) = true) ∧
    (let s := up.setHerd 0 { Herd.reset with st := .faulted, reshaped := true }
     (s.herd 0).st = .faulted ∧ AtRest s 0 ∧ (s.herd 0).reshaped = true ∧ s.snapReadable 0 (fullEpoch s.jrn.epoch 1) = false) := by
  unfold AtRest Ready; decide +kernel

theorem witness_HostHerdCommands : Linked (inSt .loaded) ∧ (cmd .host 0).src = .host ∧
    ((inSt .loaded).wr Reg.HRD_CMD_STATUS_PENDING 1).rd Reg.HRD_CMD_STATUS_PENDING = 1 ∧
    ((inSt .loaded).rd Reg.HRD_CMD_STATUS_PENDING = 0 ∧ AtRest (inSt .loaded) 0 ∧ (inSt .loaded).hostCmdOpen = false) := by
  unfold AtRest Linked; decide +kernel

def seqAt (w : BitVec 32) : State := up.setHerd 0 { Herd.reset with st := .running, seq := [w], seqPos := some 0, timer := true }

theorem witness_HerdSequencesAndWindow :
    (((seqAt 0x80).herd 0).seqArg 0x80 = some 0 ∧ ((seqAt 0x80).herd 0).timer = true ∧ ((seqAt 0x80).herd 0).seqPos = some 0) ∧
    ((seqAt 0xFFFFFF81).herd 0).seqArg 0x81 = some 0xFFFFFF ∧ ((seqAt 0x182).herd 0).seqArg 0x82 = some 1 ∧
    ((seqAt 0x83).herd 0).seqArg 0x83 = some 0 ∧
    (((seqAt 0x80).herd 0).seqArg 1 = none ∧ ((seqAt 0x80).herd 0).seqArg 2 = none ∧ ((seqAt 0x80).herd 0).seqArg 4 = none ∧
      ((seqAt 0x80).herd 0).seqArg 5 = none) ∧
    (((seqAt 2).herd 0).seqArg 2 = some 0 ∧ ((seqAt 2).herd 0).st = .running) ∧
    (Linked rdy ∧ rdy.winDark = false ∧ rdy.rdb Reg.HRD_WIN_ADDR_CTRL = false) ∧ up.winDark = true := by
  unfold Linked; decide +kernel

/-! ### States that meet the hypotheses: mesh and stacks -/

def pkt (kind dx dy : Nat) (edge : Bool) (payload : List Word) : Packet :=
  { dx := dx, dy := dy, edge := edge, kind := kind, addr := 0, ctr := 0, tag := 0, payload := payload, src := .tile 0 }
def flying (s : State) (loc : Loc) (p : Packet) : State :=
  { s with mesh := { s.mesh with flights := [{ pkt := p, loc := loc, poisoned := false }] } }
/-- A WRITE in the router at the north-west corner, coming in by the local port. -/
def inRouter (p : Packet) : State := flying up (.router 0 0 .local_) p
/-- The state with these packets, each at a place. -/
def flyingAll (s : State) (l : List (Packet × Loc)) : State :=
  { s with mesh := { s.mesh with flights := l.map (fun e => { pkt := e.1, loc := e.2, poisoned := false }) } }
def failHere : State := { inRouter (pkt 0 5 5 false [0]) with flt := { Flt.reset with moveTo := some 0, herd := 7 } }
/-- Its packet has its turn at a working router, and the output that it takes. -/
def routed (s : State) (o : Nat) : Bool :=
  match s.mesh.flights with
  | [f] => (match f.loc with
      | .router px py _ => !s.bypassed px py && (NatMap.find (s.router px py).bad (s.routeEntry px py f.pkt)).isNone &&
          !treeKind f.pkt.kind && decide (s.lookup px py f.pkt = o) && s.hasTurn f
      | _ => false)
  | _ => false
def routerWith (r : Router) (p : Packet) : State := (inRouter p).setRouter 0 0 r

theorem witness_PacketsAreRouted :
    (routed (inRouter (pkt 0 1 0 false [0])) 1 = true ∧ up.childAt 0 0 1 = some (1, 0)) ∧
    (routed (inRouter (pkt 0 0 0 false [0])) 4 = true ∧ up.tileAt 0 0 = some 0) ∧
    (routed (routerWith { Router.reset with localTab := [(0, 5)] } (pkt 0 0 0 false [0])) 5 = true ∧ up.lherd (pherdAt 0 0) = some 0) ∧
    (routed (routerWith { Router.reset with edgeTab := [(0x25, 6)] } (pkt 0 0x25 0 true [0])) 6 = true ∧
      routed (routerWith { Router.reset with edgeTab := [(0x26, 6)] } (pkt 0 0x26 0 true [0])) 6 = true ∧ (boundaryStack 0 0).isSome = true) ∧
    routed (routerWith { Router.reset with herdTab := [(1, 7)] } (pkt 0 32 0 false [0])) 7 = true ∧
    (let s := routerWith { Router.reset with bypass := true } (pkt 0 1 0 false [0])
     s.bypassed 0 0 = true ∧ straight .local_ = none ∧ straight .west = some 1 ∧ s.mesh.flights.all s.isHead = true ∧
       s.hasCredit 0 0 1 (pkt 0 1 0 false [0]) = true) ∧
    (let s := flyingAll up [(pkt 0 1 0 false [0], .router 0 0 .local_), (pkt 0 1 0 false [1], .router 0 0 .local_)]
     s.mesh.flights.map s.hasTurn = [true, false]) ∧
    (let s := flyingAll up [(pkt 6 1 0 false [0], .router 0 0 .local_), (pkt 2 1 0 false [1], .router 0 0 .south)]
     s.mesh.flights.map s.canLeave = [true, true] ∧ s.mesh.flights.map s.wants = [[1], [1]] ∧
       vcRank (pkt 6 1 0 false [0]).vc < vcRank (pkt 2 1 0 false [1]).vc ∧ s.bypassed 0 0 = false) ∧
    (failHere.mesh.flights.any (fun f => f.atRouter 0 0) = true ∧ (failHere.router 0 0).timedOut = false ∧
      ((failHere.setRouter 0 0 { Router.reset with timedOut := true }).router 0 0).timedOut = true ∧
      failHere.flt.moveTo = some 0 ∧ failHere.flt.herd = 7 ∧ up.flt.moveTo = none) := by decide +kernel

/-- The last column and row, and a span of rows. -/
theorem witness_RoutesMakeProgress : 1088 < 1089 ∧ 1055 < 1056 ∧ 1023 ≤ 1055 ∧
    (1088 = 1088 ∧ 1023 ≤ 1055 ∧ 1055 ≤ 1055) ∧ ¬(0 = 1088 ∧ 0 ≤ 0 ∧ 0 ≤ 0) := by decide

def atTile (s : State) (kind : Nat) (poisoned : Bool) : State :=
  { s with mesh := { s.mesh with flights := [{ pkt := pkt kind 0 0 false [1], loc := .tile 0 0, poisoned := poisoned }] } }
def isolated : State := { rdy with flt := { Flt.reset with st := .remap, herd := 0, group := 0 } }
def grouped : State :=
  let s := flying up (.herd 0) { pkt 5 0 0 false [1] with src := .herd 0 }
  { s with mesh := { s.mesh with groups := [(0, { tree := 0, chunk := 3, members := [0], sender := 0xFFFF })] } }

theorem witness_PacketsAreDelivered :
    ((atTile rdy 0 false).localDiscards 0 = false ∧ ((atTile rdy 0 false).tile 0).wait = .none ∧ 0 ∈ [0x0, 0x2, 0x3, 0x6]) ∧
    (atTile rdy 0 true).mesh.flights.map Flight.poisoned = [true] ∧ AtRest (atTile rdy 2 true) 0 ∧
    ((atTile isolated 0 false).localDiscards 0 = true ∧ vcOf 0x2 = some 2 ∧ vcOf 0x5 = some 3) ∧
    (grouped.sliceOf (0 / 4) (pkt 5 0 0 false [1]).herd = some 0 ∧ grouped.contributionWaits 0 0 = false ∧ grouped.mesh.gathers = []) ∧
    (let s := grouped.setHerd 0 { Herd.reset with st := .running, barrier := some ⟨1, true, .firmware⟩ }
     s.sliceOf (0 / 4) (pkt 5 0 0 false [1]).herd = some 0 ∧ s.contributionWaits 0 0 = true) := by
  unfold AtRest; decide +kernel

def words4 : List Word := [1, 0, 0, 0]
def partialAt : State :=
  let p (inp : Port) : Flight := { pkt := pkt 4 0 0 false words4, loc := .router 0 1 inp, poisoned := false }
  let e := up.bcastEntry 0 1 0
  { up with mesh := { up.mesh with flights := ((List.range 5).filter (fun o => bit e o)).map (fun o => p (childInput o)) } }
def nodesAt : State :=
  let n (j : Nat) : RedNode := { herd := 0, coll := 0, slice := j, width := 1, values := [0x3F800000], addr := 0, ctr := 0, tag := 0, sent := false }
  { up with mesh := { up.mesh with nodes := [n 0, n 1], groups := [(0, { tree := 0, chunk := 3, members := [0, 1], sender := 0xFFFF })] } }

theorem witness_TreesAndCollectives :
    (let e := up.bcastEntry 0 1 0
     ∃ inp ∈ [Port.north, .east, .south, .west, .local_, .controller], e / 32 % 8 = inp.code ∧
       (let s := flyingAll up [(pkt 3 0 0 false [0], .router 0 1 inp)]
        s.mesh.flights.map s.hasTurn = [true]) ∧ Port.edge.code ≠ e / 32 % 8) ∧
    (up.bypassed 0 1 = false ∧ (pkt 3 0 0 false [0]).vc = 1 ∧ NatMap.find (up.router 0 1).bad (2112 + 0) = none) ∧
    (let s := flyingAll up [(pkt 3 0 0 false [0], .router 0 1 .north), (pkt 3 0 0 false [1], .router 0 1 .north)]
     s.mesh.flights.map s.hasTurn ≠ [true, true]) ∧
    (let e := partialAt.bcastEntry 0 1 0
     let kids := (List.range 5).filter (fun o => bit e o)
     partialAt.bypassed 0 1 = false ∧ e / 32 % 8 < 4 ∧ (partialAt.childAt 0 1 (e / 32 % 8)).isSome = true ∧
       kids.map (fun o => partialAt.mesh.flights.find? (fun f => f.partialAt 0 1 0 0 (childInput o) &&
         !(partialAt.contributionWaits f.pkt.herd 0))) = partialAt.mesh.flights.map some ∧
       partialAt.mesh.flights ≠ []) ∧
    ((nodesAt.mesh.nodes.find? (fun n => decide (n.herd = 0 ∧ n.coll = 0 ∧ n.slice = 0))).isSome = true ∧ 0 % (2 * 1) = 0 ∧ 0 + 1 < nodesAt.slices 0 ∧
      (nodesAt.mesh.nodes.find? (fun n => decide (n.herd = 0 ∧ n.coll = 0 ∧ n.slice = 0 + 1 ∧ n.width = 1))).isSome = true) ∧
    (∀ w ∈ [words4, words4], w.length = 4 * 1) ∧ 2 ≤ [words4, words4].length := by decide +kernel

def stackUp : State := served (served up 0) 8
/-- A READ_REQ, or a WRITE of one line, of the default weights of stack 0, at its controller. -/
def reqOf (kind lines : Nat) (addr : Nat) : State :=
  flying stackUp (.edge 0 0) { pkt kind 0 0 true (BitVec.ofNat 64 (addr + lines * 2 ^ 40) :: if kind = 0 then List.replicate 8 0 else []) with src := .tile 0 }
def readReq1 : StkReq := { src := .tile 0, input := 0, kind := .read, addr := 64, lines := 1, dst := 0, ctr := 0, tag := 0 }
def queuedRead : State := stackUp.setStk 0 { stackUp.stk 0 with reqs := [readReq1] }
/-- Both ends of n lines from an address on may be read, or written, by a source. -/
def mayAt (s : State) (addr n : Nat) (wr : Bool) (who : Src) : Bool :=
  match s.regionAt 0 addr (64 * n) with
  | some r => s.allowed 0 r addr wr who && s.allowed 0 r (addr + 64 * n - 1) wr who
  | none => false

theorem witness_StackRequests :
    (let s := reqOf 1 1 64
     s.mesh.flights.length = 1 ∧ (∀ wr ∈ [true, false], ∀ who ∈ [Src.tile 0, .herd 0], mayAt s 64 1 wr who = true) ∧ 64 % 64 = 0 ∧
       mayAt s 64 31 false (.tile 0) = true) ∧
    (8 % 64 ≠ 0 ∧ mayAt (reqOf 1 1 0x11_8000_0000) 0x11_8000_0000 1 false (.tile 0) = false) ∧
    (let x := (reqOf 0 1 64).stk 0
     x.st = .service ∧ x.reqs = [] ∧ x.copies = [] ∧ x.retraining = none ∧ (reqOf 0 1 64).journalFirst 0 = false ∧
       (reqOf 0 1 64).copyReady 0 = false ∧ (reqOf 0 1 64).mesh.flights.map (fun f => f.pkt.payload.length) = [9]) ∧
    ((stackUp.stk (partner 0)).st ≠ .down ∧ (stackUp.copyAddr 0 (0x10_0000_0000 / 64)).isSome = true ∧ (stackUp.copyAddr 0 1).isSome = false) ∧
    ((queuedRead.stk 0).reqs.any (fun r => r.meets { readReq1 with kind := .write (List.replicate 64 0) }) = true ∧
      queuedRead.pick 0 = some (.req 0) ∧ queuedRead.journalFirst 0 = false ∧ (queuedRead.stk 0).bad = [] ∧
      (queuedRead.stk 0).corr = [] ∧ (queuedRead.stk 0).odie = [] ∧ readReq1.addr % 64 = 0) := by
  decide +kernel

def aperture : State := ((stackUp.wr (Reg.GLB_BAR4_AP_EN 0) 1).wr (Reg.GLB_BAR4_AP_STACK 0) 0)

/-- The last line of the aperture's first 4 GiB, the journal region, and a closed aperture. -/
theorem witness_StackRequests_bar4 :
    (Linked aperture ∧ aperture.bar4Map 0xFFFF_FFFF = some (0, 0xFFFF_FFFF) ∧ (aperture.wr (Reg.GLB_BAR4_AP_EN 15) 0).bar4Map (15 * 2 ^ 32 + 2 ^ 32 - 1) = none) ∧
    (match aperture.regionAt 0 0xFFFF_FFC0 64 with
      | some r => [true, false].all (fun wr => aperture.allowed 0 r 0xFFFF_FFFF wr (.block 0x25) && aperture.allowed 0 r (0xFFFF_FFC0 + 64 * 1 - 1) wr (.block 0x25)) &&
          !aperture.openLayout 0 r 0xFFFF_FFFF
      | none => false) = true ∧
    ((aperture.stk 0).st = .service ∧ (aperture.stk 0).bad = [] ∧ (aperture.stk 0).reqs = [] ∧ (aperture.stk 0).copies = [] ∧
      (aperture.stk 0).retraining = none ∧ aperture.journalFirst 0 = false ∧ aperture.copyReady 0 = false) ∧
    (let s := aperture.wr (Reg.GLB_BAR4_AP_BASE 0) (0x11_8000_0000 / 2 ^ 26)
     s.bar4Map 0 = some (0, 0x11_8000_0000) ∧ (match s.regionAt 0 0x11_8000_0000 64 with
       | some r => s.allowed 0 r 0x11_8000_0000 true (.block 0x25)
       | none => true) = false) := by
  unfold Linked; decide +kernel

/-- A copy waiting at stack 0, a journal write waiting at pair 0, and a damaged line where the scrubber stands. -/
def copying (c : CopyW) : State := stackUp.setStk 0 { stackUp.stk 0 with copies := [c] }
def lineCopy : CopyW := .line (0x10_0000_0000 / 64) (List.replicate 64 1)
def lined (j : JLine) : State := { stackUp with jrn := { stackUp.jrn with pairs := [(0, { Pair.reset with lineQ := [j] })] } }
def scrubbing (pos : Nat) (bad : List Nat) : State :=
  (stackUp.wr (Reg.STK_CTRL_SCRUB_EN 0) 1).setStk 0 { stackUp.stk 0 with scrubPos := pos, bad := bad }
def downStk (s : State) (k : Nat) : State := s.setStk k { s.stk k with st := .down }

theorem witness_StackUpkeep :
    (((copying lineCopy).stk 0).copies = [lineCopy] ∧ ((downStk (copying lineCopy) 8).stk (partner 0)).st = .down ∧
      ((copying lineCopy).stk (partner 0)).st = .service ∧ (copying lineCopy).journalFirst (partner 0) = false ∧
      (copying lineCopy).pick (partner 0) = some .copy ∧ ((copying lineCopy).copyAddr 0 (0x10_0000_0000 / 64)).isSome = true ∧
      (up.stk (partner 0)).st ≠ .down ∧ (up.stk (partner 0)).st ≠ .service) ∧
    (((copying (.snap 5)).stk 0).copies = [.snap 5] ∧ ((copying (.snap 5)).stk (partner 0)).st = .service ∧
      (copying (.snap 5)).journalFirst (partner 0) = false ∧ (copying (.snap 5)).pick (partner 0) = some .copy) ∧
    (∀ l ∈ [0, logLines - 1], let s := lined (.log l (List.replicate 64 1))
      (s.jrn.pair 0).lineQ = [.log l (List.replicate 64 1)] ∧ s.journalHeld 0 (.log l (List.replicate 64 1)) = false ∧
        (s.stk 0).st = .service ∧ (s.stk 8).st = .service ∧ ((downStk s 8).stk 8).st = .down ∧ ((downStk s 0).stk 0).st = .down ∧
        (s.regionOf 0 7).isSome = true ∧ (s.regionOf 8 7).isSome = true) ∧
    (∀ m ∈ [0, 1, 2], ((lined (.ctl true Ctl.empty m)).jrn.pair 0).lineQ = [.ctl true Ctl.empty m]) ∧
    ((up.stk 0).st ≠ .service ∧ (up.stk 8).st ≠ .service) ∧
    ((scrubbing 0 []).rd (Reg.STK_CTRL_SCRUB_EN 0) = 1 ∧ (scrubbing 0 []).journalFirst 0 = false ∧ (scrubbing 0 []).pick 0 = none ∧
      ((scrubbing 0 []).stk 0).retraining = none ∧ ((scrubbing 0 []).regionAt 0 0 64).isSome = true) ∧
    (let l := 0x10_0000_0000 / 64
     l ∈ ((scrubbing l [l]).stk 0).bad ∧
      ((scrubbing l [l]).regionAt 0 (l * 64) 64).bind (fun r => (scrubbing l [l]).mirrorAddr 0 r (l * 64)) = some 0x10_C000_0000 ∧
      ((scrubbing l [l]).stk (partner 0)).st = .service ∧ ((scrubbing l [l]).stk 8).bad = [] ∧ ((scrubbing l [l]).stk 8).corr = [] ∧
      ((scrubbing l [l]).stk 8).odie = [] ∧ (scrubbing l [l]).pick 0 = none) ∧
    (0 ∈ ((scrubbing 0 [0]).stk 0).bad ∧ (((scrubbing 0 [0]).regionAt 0 0 64).bind (fun r => (scrubbing 0 [0]).mirrorAddr 0 r 0)) = none) ∧
    stackUp.pdOn (66 + 0) = true := by decide +kernel

def stopOf (kind : Nat) (failed : BitVec 32) : StkStop := { kind := kind, ch := 3, why := .host, failed := failed }
def stopped (kind : Nat) (failed : BitVec 32) : State := stackUp.setStk 0 { stackUp.stk 0 with stops := [stopOf kind failed] }
def stkWith (s : State) (f : Stk → Stk) : State := s.setStk 0 (f (s.stk 0))

theorem witness_StackTraining :
    ((stackUp.stk 0).st = .service ∧ (stackUp.stk 0).queued 31 = false ∧ stackUp.assisted 3 = false ∧ stackUp.rd (Reg.STK_CTRL_RETRAIN_AUTO 0) = 1 ∧
      (stackUp.wr (Reg.STK_CTRL_RETRAIN_AUTO 0) 0).rd (Reg.STK_CTRL_RETRAIN_AUTO 0) = 0 ∧
      ((stkWith stackUp (fun x => { x with retrainQ := [(31, .host)] })).stk 0).queued 31 = true) ∧
    (let dt := stackUp.rd (Reg.STK_CTRL_RETRAIN_DT 0)
     let n := (stackUp.stk 0).trainedAt 31 + dt
     dt ≤ max ((stackUp.stk 0).trainedAt 31) (n % 256) - min ((stackUp.stk 0).trainedAt 31) (n % 256) ∧
       ¬(dt ≤ max ((stackUp.stk 0).trainedAt 31) ((n - 1) % 256) - min ((stackUp.stk 0).trainedAt 31) ((n - 1) % 256))) ∧
    (let s := stkWith stackUp (fun x => { x with corrAt := [(31, List.replicate 64 0)] })
     (NatMap.get (s.stk 0).corrAt [] 31)[63]? = some 0 ∧ s.devTime.toNat ≤ 0 + 1_000_000_000 ∧ (NatMap.get (stackUp.stk 0).corrAt [] 31)[63]? = none) ∧
    (let s := served (helped 3) 0
     (s.stk 0).st = .service ∧ s.assisted 3 = true ∧ (s.stk 0).retraining = none ∧ (s.stk 0).stops = [] ∧ (s.stk 0).deferred = [] ∧
       (s.stk 0).retrainQ = [] ∧ Linked s) ∧
    (∀ s ∈ [stackUp, served (helped 3) 0], let t := stkWith s (fun x => { x with retrainQ := [(31, .host)] })
      (t.stk 0).retrainQ = [(31, .host)] ∧ (t.stk 0).st = .service ∧ (t.stk 0).stops = [] ∧ (t.stk 0).retraining = none ∧
        t.assisted 3 = s.assisted 3) ∧
    (let s := stkWith stackUp (fun x => { x with retraining := some 31 })
     (s.stk 0).retraining = some 31 ∧ (s.stk 0).stops = [] ∧ (s.stk 0).retrainQ = []) ∧
    (let s := stkWith (stopped 0 0) (fun x => { x with retraining := some 31 })
     (s.stk 0).retraining = some 31 ∧ (s.stk 0).stops = [stopOf 0 0] ∧ (stopOf 0 0).kind = 0) ∧
    (((stopped 0 0).stk 0).stops = [stopOf 0 0] ∧ (stopOf 0 0x80000000).failed = BitVec.ofNat 32 (2 ^ 31) ∧ Linked (stopped 0 0) ∧
      (stopOf 1 0).kind = 1 ∧ ((stopped 1 0).stk 0).retrainQ = [] ∧
      1 ≤ (1 : BitVec 10).toNat ∧ (1000 : BitVec 10).toNat ≤ 1000 ∧ ¬((1001 : BitVec 10).toNat ≤ 1000)) ∧
    (let s := go (.stackDefer 0 1000) (stopped 1 0)
     (s.stk 0).deferred = [(3, .host)] ∧ (s.stk 0).retraining = none) := by
  unfold Linked; decide +kernel

/-! ### States that meet the hypotheses: images, frames, scores -/

def fused : State := { up with fuses := { Fuses.blank with slot0 := some 1, slot1 := some 2, revoked := 2 } }

theorem witness_FuseCommands : Linked up ∧
    ((0xA5F0 : BitVec 16) = 0xA5F0 ∧ up.img.everCommitted = false ∧ up.fuses.slot 3 = none ∧ up.fuses.isRevoked 3 = false) ∧
    fused.fuses.slot 0 ≠ none ∧
    (fused.fuses.live 0 = true ∧ (∀ j : Fin 4, j ≠ 0 → fused.fuses.live j = false)) ∧ fused.fuses.live 1 = false ∧
    (∃ t, exec .coldReset up = .next t) := by
  refine ⟨rfl, by decide, by decide, by decide, by decide, _, rfl⟩

def inPhase (p : Phase) : State := { stackUp with img := { stackUp.img with phase := p } }
def worker (s : State) : State :=
  { s with img := { s.img with committed := some { digest := 0, svn := 0, slot := 0, role := 2, index := 1 } }
           jrn := { s.jrn with htAddr := 1, htPort := 1 } }
def sectGood : Sect := { typ := SecType.herdSeq, scope := 1, inst := 0, payload := [0x83, 0, 0, 0], crc := crc32c [0x83, 0, 0, 0] }
def sectBad : Sect := { sectGood with crc := 0 }
/-- Herd 0 FAULTED with the resident entry of one section, in a recovery that reloads it. -/
def reloading (x : Sect) : State :=
  let s := served (served (inSt .faulted) 0) 8
  let s : State := { s with flt := { Flt.reset with st := .reload, reload := [0] } }
  s.writeEntry 0 [x]
/-- The entry's validity word is clear. -/
def voided : State := (reloading sectGood).putCopy 0 0 (List.replicate 64 0)
def clean (s : State) : Bool := s.stks.all (fun e => decide (e.2.bad = [] ∧ e.2.corr = [] ∧ e.2.odie = []))
def peered (credits : Nat) : State :=
  let s : State := { up with img := { up.img with committed := some { digest := 0, svn := 0, slot := 0, role := 1, index := 0 } } }
  { s with jrn := { s.jrn with htAddr := 1, htPort := 1, peers := [(255, { Peer.reset with credits := credits })] } }
/-- A warm start at its third stage, with a resident copy that is whole, or not there. -/
def restarting (whole : Bool) : State :=
  let g : Image := { whole := true, svn := 1, slot := 0, advance := false, autoRelease := false, digest := 7, targets := [], sects := [], head := [], table := [], sig := [] }
  let s : State := { stackUp with
    bru := { up.bru with warm := true, stage := 3 }
    img := { up.img with committed := some { digest := 7, svn := 0, slot := 0, role := 0, index := 0 } } }
  if whole then s.storeResident g else s

theorem witness_LoadCommands : Linked (inPhase .done) ∧ (inPhase .done).img.phase = .done ∧ (inPhase .verify).img.phase = .verify ∧
    (inPhase .commit).img.phase ≠ .idle ∧ (inPhase .commit).img.phase ≠ .done ∧ (0xF_C000_0000 : Nat) ≤ 0xF_FFFF_FFFF ∧
    (0xF_FFFF_FFFF : Nat) < 0x10_0000_0000 ∧
    ((worker (inPhase .idle)).role = 2 ∧ (worker (inPhase .idle)).waferIndex = 1 ∧ (2 ^ 30 - 64) % 64 = 0 ∧ (2 ^ 30 - 64) + 64 ≤ 2 ^ 30 ∧
      (worker (inPhase .idle)).loadBusy = false ∧ ((worker (inPhase .idle)).stk 0).st = .service) ∧
    (worker (inPhase .verify)).loadBusy = true ∧
    (∀ c ∈ [0, 1], (peered c).role = 1 ∧ (peered c).htOn = true ∧ ((peered c).peer 255).credits = c) ∧
    (∀ w ∈ [true, false], (restarting w).bru.warm = true ∧ (restarting w).bru.stage = 3 ∧ (restarting w).bru.waitImage = false ∧
      clean (restarting w) = true ∧ (restarting w).residentOk = w) ∧
    (∀ s ∈ [reloading sectGood, reloading sectBad, voided], clean s = true ∧ s.homeStack 0 = 0 ∧ (s.stk 0).st = .service ∧
      s.flt.st = .reload ∧ 0 ∈ s.flt.reload ∧ AtRest s 0) ∧
    ((reloading sectGood).herdEntry 0).bad = none ∧ ((reloading sectGood).herdEntry 0).sects = [sectGood] ∧
    ((reloading sectBad).herdEntry 0).bad = some SecType.herdSeq ∧ (voided.herdEntry 0).bad = some 0 := by
  unfold Linked AtRest; decide +kernel

theorem witness_OnlyAuthenticImagesPass : (inPhase .verify).img.phase = .verify ∧ ((inPhase .verify).stk 0).st = .service ∧
    ((inPhase .verify).stk 0).bad = [] ∧ ((inPhase .verify).stk 0).corr = [] ∧ ((inPhase .verify).stk 0).odie = [] := by decide

def frameOf (len : Nat) (good : Bool) : Frame :=
  { id := 7, bytes := List.replicate len 0x80, len := len, slen := len, queue := 0, prio := 0, tags := 0, vid0 := 0, vid1 := 0, etype := 0x88B5
    ts := 0, fcsErr := !good, oversize := false, pcsErr := false, trunc := false, cellQ := 0, cells := 1, reason := 0 }
def imageNow (whole : Bool) : Image :=
  { whole := whole, svn := 1, slot := 0, advance := true, autoRelease := false, digest := 7, targets := if whole then [] else [1023]
    sects := [{ sectGood with inst := 1023 }], head := [], table := [], sig := [] }
def loadingIn (p : Phase) (whole : Bool) : State := { stackUp with img := { up.img with phase := p, loading := some (imageNow whole) } }
def parsingNow : State := ((loadingIn .commit true).setPrh 0 { Prh.reset with ctxs := [(0, Ctx.start (frameOf 64 true) 0 false)] })
def shapedNow : State :=
  let s := served (served (loadingIn .herdLoad false) 11) 3
  go .reshaping s

theorem witness_LoadsInstall :
    ((loadingIn .commit true).img.phase = .commit ∧ (loadingIn .commit true).img.loading = some (imageNow true) ∧
      (loadingIn .commit true).contextsFree = true ∧ (sectOf (imageNow true).sects SecType.registerInit 0) = none ∧
      (loadingIn .commit true).img.committed.map Committed.digest ≠ some 7) ∧
    parsingNow.contextsFree = false ∧
    (Fuses.blank.minSvn ≤ 63 ∧ 63 ≤ 63) ∧
    (let s := go .commit (loadingIn .commit true)
     s.mayBroadcast = true ∧ (go (.broadcast ⟨[], []⟩) s).mayHerdLoad = true) ∧ up.mayBroadcast = false ∧
    ((loadingIn .herdLoad false).img.phase = .herdLoad ∧ (loadingIn .herdLoad false).img.shaped = false ∧ (∀ h ∈ (imageNow false).targets, h < 1024) ∧
      (loadingIn .herdLoad false).img.loading = some (imageNow false) ∧ (imageNow false).autoRelease = false) ∧
    (shapedNow.img.phase = .herdLoad ∧ shapedNow.img.shaped = true ∧ shapedNow.img.loading = some (imageNow false) ∧ clean shapedNow = true ∧
      (shapedNow.stk (shapedNow.homeStack 1023)).st = .service ∧ (shapedNow.herdEntry 1023).bad = none ∧
      (∀ x ∈ (shapedNow.herdEntry 1023).sects, x.typ = SecType.tileInit → checkInit x.payload = true) ∧ (shapedNow.herd 1023).st = .reshaping ∧
      ((shapedNow.putCopy 11 0 (List.replicate 64 0)).herdEntry 1023).bad = some 0) := by
  decide +kernel

/-- MAC 0 as a 200GbE port that is up, with queue `q` of one destination. -/
def portUp (dest : Nat) : State :=
  let s := (up.wr (Reg.MAC_CTRL_MODE 0) 2).setMac 0 { MacSt.reset with up := true }
  let s : State := { s with img := { s.img with ports := 1 } }
  ((((s.wr (Reg.MAC_CTRL_MAX_LEN 0) 1518).wr (Reg.MAC_CTRL_PROMISC 0) 1).wr (Reg.MAC_QUEUE_CFG_DEST 0 0) dest).wr (Reg.MAC_QUEUE_CFG_MAX_CELLS 0 0) 64).wr (Reg.MAC_QUEUE_CFG_MIN_CELLS 0 0) 4
def frame60 (etype : Byte) : WireFrame :=
  { bytes := [2, 0, 0, 0, 0, 1, 2, 0, 0, 0, 0, 2, 0x88, etype] ++ List.replicate 46 0 ++ fcs ([2, 0, 0, 0, 0, 1, 2, 0, 0, 0, 0, 2, 0x88, etype] ++ List.replicate 46 0)
    pcsErr := false, trunc := false, sub := 0, fec := [] }

theorem witness_FramesAreReceived :
    ((portUp 4).macUp 0 = true ∧ ((portUp 4).mac 0).rx = none) ∧
    (let s : State := { portUp 4 with img := { (portUp 4).img with phase := .commit } }
     s.macUp 0 = true ∧ s.img.phase = .commit) ∧
    ((portUp 4).img.phase ≠ .commit ∧ (portUp 4).pwr.quiesce = false ∧ (15 : MacNo).val ∉ (portUp 4).gangOf 0 ∧ (0 : MacNo).val ∈ (portUp 4).gangOf 0) ∧
    (((portUp 4).rxFrame 0 (frame60 0x08)).etype = 0x8808 ∧ ((portUp 4).rxFrame 0 (frame60 0xB5)).etype ≠ 0x8808) ∧
    ((portUp 4).daOk 0 (frame60 0xB5).bytes = true ∧ ((portUp 4).wr (Reg.MAC_CTRL_PROMISC 0) 0).daOk 0 (frame60 0xB5).bytes = false) ∧
    ((portUp 4).isHt (frame60 0xB5).bytes = false ∧ isPtp (frame60 0xF7).bytes = true ∧
      ((portUp 4).wr (Reg.MAC_CTRL_PTP_MGMT 0) 1).rd (Reg.MAC_CTRL_PTP_MGMT 0) = 1 ∧ isPtp (frame60 0xB5).bytes = false) ∧
    (∀ d ∈ [0, 1, 3, 4], (portUp d).rd (Reg.MAC_QUEUE_CFG_DEST 0 ((portUp d).chooseQueue 0 (frame60 0xB5).bytes 0)) = d) ∧
    ((List.range ((portUp 1).ctxCount 0)).find? (fun c => ((portUp 1).ctx 0 c).isNone) = some 0 ∧
      (let s := (portUp 1).setPrh 0 { Prh.reset with ctxs := (List.range 64).map (fun c => (c, Ctx.start (frameOf 64 true) 0 false)) }
       (List.range (s.ctxCount 0)).find? (fun c => (s.ctx 0 c).isNone) = none)) := by decide +kernel

/-- A frame received whole, before its verdict; and one waiting in queue 0. -/
def received (dest : Nat) : State := go (.frameReceive 0 (frame60 0xB5)) (portUp dest)
def ringed (full : Bool) : State := (go (.fcsVerdict 0) (received 4)).setRing .receive 0 { Ring.reset with base := 0x100_0000, log2 := 8, esize := 2, en := !full }
def bufferBad : State := go (.frameReceive 0 { frame60 0xB5 with pcsErr := true }) (portUp 4)
def badTaken : State := go (.frameReceive 0 { frame60 0xB5 with pcsErr := true }) ((portUp 4).wr (Reg.MAC_QUEUE_CFG_BAD_DELIVER 0 0) 1)
def unscored : State := (received 1).setPrh 0 { (received 1).prh 0 with scores := [(0, .fallback 1)] }
def pausing : State := go (.frameReceive 0 { frame60 0x08 with bytes := [2, 0, 0, 0, 0, 1, 2, 0, 0, 0, 0, 2, 0x88, 8, 0, 1, 0, 5] ++ List.replicate 46 0 }) (portUp 4)

theorem witness_FramesAreDelivered :
    ((received 4).mac 0).rx.map RxNow.way = some .queued ∧ (((received 4).mac 0).rx.map (fun x => x.frame.good)) = some true ∧
    ((bufferBad.mac 0).rx.map (fun x => x.frame.good)) = some false ∧ (((received 0).mac 0).rx.map RxNow.way) = some .disabled ∧
    ((pausing.mac 0).rx.map RxNow.way) = some .control ∧ ((pausing.mac 0).rx.map (fun x => be16 x.frame.bytes (14 + 4 * x.frame.tags))) = some 1 ∧
    (((badTaken.mac 0).rx.map (fun x => decide (64 ≤ x.frame.len))) = some true ∧ badTaken.rd (Reg.MAC_QUEUE_CFG_BAD_DELIVER 0 0) = 1 ∧
      badTaken.rd (Reg.MAC_QUEUE_CFG_DEST 0 0) ≠ 2) ∧
    (unscored.scoreOf 0 0 = .fallback 1 ∧ ((unscored.mac 0).rx.map (fun x => decide (x.dest1 = true ∧ x.frame.good = true ∧ 0 < x.frame.cells))) = some true) ∧
    ((((received 1).mac 0).rx.map RxNow.dest1) = some true ∧ (received 1).scoreOf 0 0 = .parsing) ∧
    ((NatMap.get ((ringed false).mac 0).queues [] 0).length = 1 ∧ (ringed false).mayPrecede 0 0 0 = false ∧ (ringed false).macPowered 0 = true ∧
      (ringed false).rd (Reg.MAC_QUEUE_CFG_DEST 0 0) = 4 ∧ ((ringed false).ring .receive 0).full = false ∧ 32 + 64 ≤ ((ringed false).ring .receive 0).bytes .receive ∧
      (let s := (ringed false).setRing .receive 0 { Ring.reset with base := 0x100_0000, log2 := 8, esize := 1, en := true }
       (s.ring .receive 0).full = false ∧ (s.ring .receive 0).bytes .receive < 32 + 64)) ∧
    ((ringed true).ring .receive 0).full = true ∧ (stackUp.pairTakes (stackUp.streamPair 0) = true ∧
      ((stackUp.setStk 0 { stackUp.stk 0 with st := .down }).setStk 8 { stackUp.stk 8 with st := .down }).pairTakes 0 = false) := by
  decide +kernel

def ctlState (mode : Nat) (c : PauseIn) : State := ((portUp 4).wr (Reg.MAC_PFC_CFG_FC_MODE 0) mode).setMac 0 { MacSt.reset with up := true, ctl := [c] }
def sendingNow (b : List Byte) : State := (portUp 4).setMac 0 { MacSt.reset with up := true, ht := [.frame { bytes := b, tsMode := 0, tsId := 0, ref := 0 }] }
def trainingPort : State := (portUp 4).setMac 0 { MacSt.reset with training := true, lost := true }

theorem witness_FramesAndLinks :
    ((ctlState 1 ⟨0, [65535]⟩).rd (Reg.MAC_PFC_CFG_FC_MODE 0) = 1 ∧ (ctlState 2 ⟨0xFF, List.replicate 8 1⟩).rd (Reg.MAC_PFC_CFG_FC_MODE 0) = 2 ∧
      (ctlState 0 ⟨0, []⟩).rd (Reg.MAC_PFC_CFG_FC_MODE 0) = 0) ∧
    (((portUp 4).setMac 0 { MacSt.reset with up := true, xoff := 0x80 }).mac 0).xoff.getLsbD 7 = true ∧
    ((portUp 4).macUp 0 = true ∧ (portUp 4).img.phase ≠ .commit ∧ (sendingNow [0]).isPaused 0 ((sendingNow [0]).txPrio 0 [0]) = false ∧
      (wireOf [0]).length ≤ (sendingNow [0]).rd (Reg.MAC_CTRL_MAX_LEN 0) ∧
      (sendingNow [0]).rd (Reg.MAC_CTRL_MAX_LEN 0) < (wireOf (List.replicate 1515 0)).length ∧
      (∀ i < 256, (portUp 4).txRingReady 0 i = false) ∧ ((portUp 4).mac 0).fcOut = [] ∧ ((portUp 4).prh 0).retracts = [] ∧ ((portUp 4).prh 0).replies = [] ∧
      (portUp 4).isPaused 0 ((portUp 4).rd (Reg.MAC_CTRL_TX_DEF_PRIO 0)) = false) ∧
    (up.macUp 0 = false) ∧
    ((trainingPort.mac 0).training = true ∧ trainingPort.leads 0 = true ∧ trainingPort.macPowered 0 = true ∧ trainingPort.assisted 2 = false ∧
      trainingPort.linkTrains 0 = true ∧ (trainingPort.wr (Reg.MAC_CTRL_AN_EN 0) 0).linkTrains 0 = false ∧
      (trainingPort.wr Reg.GLB_MODE_MODE 4).assisted 2 = true ∧ (trainingPort.mac 0).lost = true ∧
      (let s := go (.portTraining 0 false) trainingPort
       (s.mac 0).retry = true ∧ (s.mac 0).down = false)) := by
  decide +kernel

/-! ### States that meet the hypotheses: parsing, scores, streams of models, time -/

def ctxOf (len : Nat) (tail : Bool) (regs : NatMap PVal) : Ctx := { Ctx.start (frameOf len true) 0 tail with regs := regs }
def parsing (w : Nat) (x : Ctx) (horizon : Nat) : State :=
  ((((portUp 1).wr (Reg.PRH_FRONT_PROG_INSTR 0 0) w).wr (Reg.PRH_FRONT_CTRL_HORIZON 0) horizon).wr (Reg.PRH_FRONT_CTRL_NFEAT 0) 0).setCtx 0 0 x
/-- EXT of two bytes at offset 62; ADV and BR that read register 1. -/
def wExt : Nat := 1 + 1 * 2 ^ 12 + 62 * 2 ^ 16 + 16 * 2 ^ 29
def wAdv : Nat := 4 + 1 * 2 ^ 10 + 2 ^ 14
def wBr (cond : Nat) : Nat := 5 + 1 * 2 ^ 6 + 2 ^ 14 + cond * 2 ^ 15 + 63 * 2 ^ 18
def oneFeat (w0 w1 : Nat) : State :=
  (((parsing 7 (ctxOf 64 true []) 64).wr (Reg.PRH_FRONT_CTRL_NFEAT 0) 1).wr (Reg.PRH_FRONT_DESC_WORD 0 0) w0).wr (Reg.PRH_FRONT_DESC_WORD 0 1) w1

def found : FeatAns → List Nat ⊕ (Nat × Nat)
  | .vector b _ => .inl b
  | .refused i e _ => .inr (i, e)

theorem witness_ParseInstructionsRun :
    (∀ len ∈ [63, 64], ∀ tail ∈ [true, false], ∀ hz ∈ [63, 64],
      let s := parsing wExt (ctxOf len tail []) hz
      s.ctx 0 0 = some (ctxOf len tail []) ∧ s.macPowered 0 = true ∧ s.rd (Reg.PRH_FRONT_PROG_INSTR 0 0) % 64 = 1 ∧
        s.rd (Reg.PRH_FRONT_CTRL_HORIZON 0) = hz ∧ bits wExt 23 16 + (bits wExt 13 12 + 1) = 64) ∧
    (∀ op ∈ [2, 3, 6, 7, 7 + 64], (parsing op (ctxOf 64 true []) 64).rd (Reg.PRH_FRONT_PROG_INSTR 0 0) % 64 = op % 64) ∧
    (∀ abs ∈ [true, false], let s := parsing wAdv (ctxOf 64 true [(1, ⟨3, abs⟩)]) 64
      s.rd (Reg.PRH_FRONT_PROG_INSTR 0 0) % 64 = 4 ∧ bit wAdv 14 = true ∧ ((ctxOf 64 true [(1, ⟨3, abs⟩)]).reg (bits wAdv 13 10)).absent = abs) ∧
    (∀ abs ∈ [true, false], ∀ cond ∈ [0, 5, 6], let s := parsing (wBr cond) (ctxOf 64 true [(1, ⟨3, abs⟩)]) 64
      s.rd (Reg.PRH_FRONT_PROG_INSTR 0 0) % 64 = 5 ∧ bits (wBr cond) 17 15 = cond ∧
        ((ctxOf 64 true [(1, ⟨3, abs⟩)]).reg (bits (wBr cond) 9 6)).absent = abs) ∧
    bit (7 + 64) 6 = true ∧ bit 7 6 = false ∧
    found ((oneFeat 0 0).features 0 [] 1 [] false) = .inl [0] ∧ found ((oneFeat 1 0).features 0 [] 1 [] false) = .inr (0, 3) ∧
    ((parsing wAdv (ctxOf 64 true []) 64).heldFrame 0 7 = none ∧
      ((parsing wAdv (ctxOf 64 true []) 64).setMac 0 { MacSt.reset with held := [frameOf 64 true] }).heldFrame 0 7 = some (frameOf 64 true)) := by
  decide +kernel

/-- An ensemble of one tree of depth 1, and a vector for it. -/
def ens1 : Ens := { nout := 1, fixed := true, frac := 0, trees := [{ depth := 1, nodes := [0], leaves := [5, 6] }], base := [1], template := List.replicate 46 0 }
def scoring (e : NatMap Ens) (hi : Nat) (held : List Frame) (replies : Nat) : State :=
  ((((portUp 1).setMac 0 { MacSt.reset with up := true, held := held }).wr (Reg.PRH_ESC_LO 0 0) 7).wr (Reg.PRH_ESC_HI 0 0) hi).setPrh 0
    { Prh.reset with handed := [{ frame := frameOf 64 true, ens := 0, bins := [0] }], ens := e
                     replies := List.replicate replies { bytes := [], seq := 0, frameId := 0, slot := 0, tags := 0, hold := false, good := none, paused := false, ibex := false } }
def outs1 : List ScoreVal := (List.range 1).map (fun o => scoreOut ens1.trees [0] 1 o true 1)
def limited (n : Nat) : State := { up with io := { up.io with lims := [{ src := .notScored 0, count := n, detail := 3 }] } }

theorem witness_VectorsAreScored :
    (let s := scoring [] 0 [] 0
     (s.prh 0).handed.length = 1 ∧ s.macPowered 0 = true ∧ NatMap.find (s.prh 0).ens 0 = none ∧ s.heldFrame 0 7 = none) ∧
    (let s := scoring [(0, ens1)] 0 [] 0
     (NatMap.find (s.prh 0).ens 0).isSome = true ∧ s.portFree 0 [true, true] = false ∧ s.portFree 0 [true] = true) ∧
    (∀ hi ∈ [6, 7], (nthD outs1 0 (.fp 0)).inBand (BitVec.ofNat 32 ((scoring [(0, ens1)] hi [] 0).rd (Reg.PRH_ESC_LO 0 0)))
      (BitVec.ofNat 32 ((scoring [(0, ens1)] hi [] 0).rd (Reg.PRH_ESC_HI 0 0))) = decide (hi = 7)) ∧
    ((scoring [(0, ens1)] 0 [frameOf 64 false] 0).verdictOf 0 7 = some false ∧ (scoring [(0, ens1)] 0 [] 0).verdictOf 0 7 ≠ some false) ∧
    (16 ≤ ((scoring [(0, ens1)] 0 [] 16).prh 0).queued ∧ ((scoring [(0, ens1)] 0 [] 15).prh 0).queued < 16 ∧
      ((scoring [(0, ens1)] 0 [] 15).prh 0).retracts.length < 16) ∧
    (∀ n ∈ [0, 1], ((limited n).io.lims.find? (fun l => decide (l.src = .notScored 0))).map Lim.count = some n) ∧
    (((oneFeat 0 0).desc 0 0).kind ≠ 3 ∧ found ((oneFeat 0 0).features 0 [] 1 [] false) = .inl [0]) ∧
    ens1.trees.Perm ens1.trees := by
  refine ⟨?_, ?_, ?_, ?_, ?_, ?_, ?_, List.Perm.refl _⟩ <;> decide +kernel

def model1 (st : MState) : Model := { st := st, ntree := 0, nout := 1, fixed := true, frac := 0, ring := 0, shards := [{ stack := 0, addr := 0x4_0000_0000, size := 0, crc := 0 }], base := [0], template := List.replicate 46 0 }
def batch1 : Batch := { model := 4095, vecs := [{ mac := 0, frame := frameOf 64 true, bins := some [0] }] }
def streams (x : Ibx) (st : MState) : State := { stackUp with ibx := { x with models := [(4095, model1 st)] } }

theorem witness_IbexStreams :
    (let s := streams { Ibx.reset with opened := [batch1] } .ready
     s.ibx.opened.find? (fun c => decide (c.model = (4095 : ModelNo).val)) = some batch1 ∧ s.assisted 7 = false) ∧
    (helped 7).assisted 7 = true ∧
    (∀ c ∈ [none, some 4095], ∀ st ∈ [MState.ready, .absent],
      let s := streams { Ibx.reset with closed := [batch1], chosen := c } st
      s.ibx.streaming = none ∧ s.ibx.waitsHost = false ∧ s.ibx.chosen = c ∧ s.ibx.closed.head? = some batch1 ∧
        s.ibx.closed.find? (fun c => decide (c.model = 4095)) = some batch1 ∧ s.ibx.model? 4095 = some (model1 st) ∧
        ∀ d ∈ (model1 st).shards, (s.stk d.stack).st = .service ∧ (s.stk d.stack).bad = [] ∧ (s.stk d.stack).corr = [] ∧ (s.stk d.stack).odie = []) ∧
    (let s := streams { Ibx.reset with streaming := some batch1 } .ready
     s.ibx.streaming = some batch1 ∧ s.ibx.lost = false ∧ s.ibx.model? batch1.model = some (model1 .ready)) ∧
    (let s := streams { Ibx.reset with closed := [batch1], stops := 2 } .ready
     0 < s.ibx.stops ∧ s.ibx.chosen = none ∧ s.ibx.waitsHost = true ∧ s.ibx.closed = [batch1] ∧ Linked s ∧ ∃ b ∈ s.ibx.closed, b.model = (4095 : ModelNo).val) ∧
    (∀ b ∈ (streams { Ibx.reset with closed := [batch1] } .ready).ibx.closed, b.model ≠ (0 : ModelNo).val) ∧
    (∀ st ∈ [MState.none, .ready, .absent, .validating], (streams Ibx.reset st).ibx.model? 4095 = some (model1 st)) := by
  unfold Linked; decide +kernel

def cmdWaits (c : TimeCmd) : State := { up with time := { TimeU.reset with cmds := [c] } }
def fix1 (c : ServoCmd) : ServoFix := { offset := 1, inc := 0, rate := 2, slew := 3, adj := 4, cmd := c }
/-- A servo source with its update point due. -/
def servoed (n : Nat) (stuck : Bool) : State :=
  { up with time := { TimeU.reset with servo := n, stuck := stuck, edge := true, path := [(TimeU.reset.servoMac, frameOf 64 true)] } }

def ran (i : Instr) (s : State) : Bool :=
  match exec i s with
  | .next _ => true
  | _ => false

theorem witness_DeviceTimeRuns : up.pdOn 92 = true ∧ Linked up ∧ up.time.cmds = [] ∧ up.rd Reg.TIME_CTRL_MODE = 0 ∧
    (up.wr Reg.TIME_CTRL_MODE 1).rd Reg.TIME_CTRL_MODE = 1 ∧
    (∀ rem ∈ ([-257, -256, 0, 256, 257] : List Int),
      let s : State := { (up.wr Reg.TIME_CTRL_MODE 1).wr Reg.TIME_RATE_SLEW_SLEW 1 with time := { TimeU.reset with rem := rem } }
      s.time.rem = rem ∧ s.rd Reg.TIME_RATE_SLEW_SLEW * 2 ^ 8 = 256) ∧
    ((up.wr Reg.TIME_CTRL_PPS_OUT_EN 1).rd Reg.TIME_CTRL_PPS_OUT_EN = 1 ∧ up.time.next.toNat ≤ up.devTime.toNat ∧
      0 < up.rd Reg.TIME_PPS_OUT_CFG_PERIOD_NS * 2 ^ 16 ∧ up.devTime.toNat + up.rd Reg.TIME_PPS_OUT_CFG_PERIOD_NS * 2 ^ 16 < 2 ^ 80 ∧
      (let s : State := { up with time := { TimeU.reset with next := 1 } }; s.devTime.toNat < s.time.next.toNat)) ∧
    (∀ c ∈ [TimeCmd.step (-1), .slew 1, .load 0xFFFF (-1), .cancel, .ack], (cmdWaits c).time.cmds = [c] ∧ (cmdWaits c).rd Reg.TIME_CTRL_PPS_OUT_EN = 0 ∧
      ran .tick ({ cmdWaits c with time := { (cmdWaits c).time with cmds := [] } } : State) = true) ∧
    (let w := up.rd Reg.TIME_PPS_OUT_CFG_WIDTH_MS
     let p := up.rd Reg.TIME_PPS_OUT_CFG_PERIOD_NS
     ∀ n ∈ [0, 1000000000000], let s : State := { up with time := { TimeU.reset with pulse := true, pulseAge := n } }
       s.time.pulse = true ∧ decide (25 * min (w * 1000000) (p / 2) ≤ 16 * s.time.pulseAge) = decide (n ≠ 0)) ∧
    (up.macMode 0 ≠ 4 ∧ ((portUp 4).wr (Reg.MAC_CTRL_MODE 0) 4).macMode 0 = 4) ∧
    ((∀ n ∈ [1, 2, 3], (servoed n false).time.servo = n ∧ (servoed n false).time.edge = true ∧ (servoed n false).time.stuck = false ∧
        (servoed n false).time.path.map Prod.fst = [(servoed n false).time.servoMac] ∧ (servoed n false).time.stop = none) ∧
      (servoed 1 false).assisted 5 = false ∧ (helped 5).assisted 5 = true ∧ up.time.servo = 0 ∧ (servoed 1 true).time.stuck = true ∧
      (let s : State := { up with time := { TimeU.reset with stop := some (fix1 .correct) } }; s.time.stop = some (fix1 .correct))) ∧
    (99 < 100 ∧ 100 ≤ 100 ∧ (let s : State := { up with time := { TimeU.reset with sincePps := some 781249999 } }; s.time.sincePps = some 781249999) ∧
      781249999 < 781250000 ∧ up.time.sincePps = none) ∧
    (let s : State := { up with time := { TimeU.reset with refGood := true } }; s.time.refGood = true) := by
  unfold Linked; decide +kernel

/-! ### States that meet the hypotheses: items, outputs, epochs, the herd transport -/

def stream1 (kind : Nat) : Stream := { kind := kind, target := 0, arg := if kind = 2 then 0 else 5, maxItem := 32, replyMac := 0 }
def withStream (kind : Nat) (s : State) : State := { s with jrn := { s.jrn with streams := [(4095, stream1 kind)] } }
/-- A submit entry for a stream of number n, of flags re and length len. -/
def entryOf (n re len : Nat) : List Byte := leBytes 2 n ++ leBytes 1 re ++ [0] ++ leBytes 4 len ++ List.replicate 56 0
def submits (e : List Byte) : State :=
  let s := (withStream 1 stackUp).setRing .submit 5 { Ring.reset with base := 0x100_0000, log2 := 8, esize := 1, en := true, prod := 1 }
  { s with host := { s.host with bar2 := Mem.write s.host.bar2 0x100_0000 e } }
def itemAt (ring : Option Nat) (out : Option (Nat × Nat)) : Item :=
  { stream := 4095, src := 5, tag := 0, payload := [1], reinject := none, ring := ring, out := out, peer := none }
def arriving (out : Option (Nat × Nat)) (head : Nat) : State :=
  (withStream 1 stackUp).setPair 0 { Pair.reset with arriving := [itemAt (some 5) out], head := head }
def rec1 : Rec := (arriving none 0).itemRec Pair.reset (itemAt (some 5) none) 1
def written (landed : Bool) : State :=
  (submits (entryOf 4095 0 1)).setPair 0 { Pair.reset with head := 2, writing := [(rec1, some (itemAt (some 5) none))], lineQ := if landed then [] else [.log 0 []] }
def taking (st : HState) (lost : Option Nat) : State :=
  let s := (((withStream 1 stackUp).setHerd 0 { Herd.reset with st := st, hasProg := true }).setTile 0
    { Tile.reset with run := .running, wait := .take 4095 0, hasProg := true }).setPair 0 { Pair.reset with head := 2, recs := [rec1] }
  { s with jrn := { s.jrn with sst := [(4095, { StreamSt.reset with lostAt := lost })] } }
def outputOf (o : HerdOut) (left : Bool) : OutW := { herd := 0, outseq := 1, out := o, left := left }
def reply1 : HerdOut := .reply 4095 1 (List.replicate 14 0)
def replying (link : Bool) : State :=
  let s := (withStream 2 stackUp).setMac 0 { MacSt.reset with up := link }
  { s with jrn := { s.jrn with outs := [outputOf reply1 false], srcs := [(4095 * 2 ^ 64 + 1, 5)] } }
def ringOut (en : Bool) : State := rdy.setRing .completion 0 { Ring.reset with base := 0x100_0000, log2 := 8, esize := 1, en := en }

theorem witness_ItemsAndOutputs :
    (∀ e ∈ [entryOf 0 0 1, entryOf 4095 0 32, entryOf 4095 0 33, entryOf 4095 1 0],
      (submits e).ringFront .submit 5 = some e ∧ (submits e).pdOn 93 = true ∧ (submits e).ringBusy 5 = false) ∧
    (submits []).stream 0 = none ∧ (submits []).stream 4095 = some (stream1 1) ∧ (stream1 1).arg = 5 ∧ (stream1 1).maxItem < 33 ∧ (stream1 1).arg ≠ 6 ∧
    32 + 32 ≤ (entryOf 4095 0 32).length ∧ (submits []).pairTakes ((submits []).streamPair 4095) = true ∧
    ((submits []).setPair 0 { Pair.reset with full := true }).pairTakes 0 = false ∧
    ((arriving none 0).jrn.pair 0).arriving.find? (arriving none 0).numbers = some (itemAt (some 5) none) ∧
    (arriving none 0).dupOut ((arriving none 0).jrn.pair 0) (itemAt (some 5) none) = false ∧ (arriving none 0).pairTakes 0 = true ∧
    (arriving (some (0, 0)) 0).dupOut ((arriving (some (0, 0)) 0).jrn.pair 0) (itemAt (some 5) (some (0, 0))) = true ∧
    (∀ d ∈ [2, 1], ((arriving none (logLines - d)).jrn.pair 0).room rec1.lines = decide (d = 2)) ∧ rec1.lines = 2 ∧ (arriving none 0).exports = false ∧
    (∀ b ∈ [true, false], ((written b).jrn.pair 0).writing = [(rec1, some (itemAt (some 5) none))] ∧ (written b).recComplete ((written b).jrn.pair 0) rec1 = b) := by
  decide +kernel

theorem witness_ItemsAndOutputs_herd :
    (∀ st ∈ [HState.running, .halted], ∀ lost ∈ [none, some 1], (taking st lost).taker 0 4095 = some (0, 0) ∧
      (taking st lost).nextItem 4095 (NatMap.get ((taking st lost).herd 0).taken 0 4095) = some rec1 ∧
      (taking st lost).stoppedAt 4095 rec1.seq = lost.isSome ∧ ((taking st lost).herd 0).st = st ∧ (taking st lost).stream 4095 = some (stream1 1) ∧
      (stream1 1).target = (0 : HerdNo).val) ∧
    ((rdy.herd 0).st = .running ∧ rdy.outRefused 0 reply1 = false ∧ NatMap.get rdy.jrn.sent 0 0 < (rdy.herd 0).outseq + 1 ∧
      (let s : State := { rdy with jrn := { rdy.jrn with sent := [(0, 1)] } }; (s.herd 0).outseq + 1 ≤ NatMap.get s.jrn.sent 0 0)) ∧
    (((ringOut true).ring .completion 0).full = false ∧ ((ringOut false).ring .completion 0).full = true ∧ 32 + 32 ≤ ((ringOut true).ring .completion 0).bytes .completion) ∧
    (∀ b ∈ [true, false], let s : State := { rdy with jrn := { rdy.jrn with outs := [outputOf reply1 b] } }
      s.jrn.outs.find? (fun o => decide (o.herd = 0)) = some (outputOf reply1 b)) ∧
    (∀ b ∈ [true, false], (replying b).jrn.outs.find? (fun o => decide (o.herd = 0 ∧ o.left = false) && isReply o.out) = some (outputOf reply1 false) ∧
      (replying b).stream 4095 = some (stream1 2) ∧ (stream1 2).kind = 2 ∧ NatMap.find (replying b).jrn.srcs (4095 * 2 ^ 64 + 1) = some 5 ∧
      ((replying b).mac ((replying b).macLeader (replyMacOf (stream1 2) 5))).up = b) ∧
    (let s := withStream 3 rdy
     s.stream 4095 = some (stream1 3) ∧ (stream1 3).kind = 3 ∧ ({ stream1 3 with arg := 0 } : Stream).maxItem = 32) ∧
    (let s : State := { rdy with jrn := { rdy.jrn with streams := [(4095, { stream1 3 with arg := 0 })] } }
     s.outRefused 0 (.stream 4095 [1]) = false ∧ s.pairTakes (s.streamPair 4095) = true ∧ (s.setPair 0 { Pair.reset with full := true }).pairTakes (s.streamPair 4095) = false) ∧
    ((peered 1).htOn = true ∧ 0 < ((peered 1).peer 255).credits ∧ ((peered 0).peer 255).credits = 0) := by
  decide +kernel

def rolled (r : Nat) (s : State) : State := { s with img := { s.img with committed := some { digest := 0, svn := 0, slot := 0, role := r, index := r } } }
def inSeq : State := up.setHerd 0 { Herd.reset with st := .running, hasProg := true, seqPos := some 0 }
/-- Epoch 1, herd 0 halted at its barrier, with or without its snapshot. -/
def atCommit (snap : Bool) : State :=
  let s := served (served (haltedAt 1) 0) 8
  let s : State := { s with jrn := { s.jrn with epoch := 1 } }
  if snap then s.setSnap (snapKey 0 1) { Snap.empty with epoch := 1, valid := true, copied := true } else s

theorem witness_EpochsCommit :
    (up.role = 0 ∧ (up.herds.filter (fun x => decide (x.2.st = .running))).map Prod.fst = []) ∧
    ((rdy.herds.filter (fun x => decide (x.2.st = .running))).map Prod.fst = [0] ∧ rdy.jrn.streams = [] ∧ rdy.flt.st ≠ .exhausted ∧
      (rdy.herd 0).barrier = none ∧ (rdy.herd 0).timer = false ∧ (rdy.herd 0).seqPos = none ∧ (rdy.herd 0).queue = [] ∧ rdy.allAtBarrier 0 = false) ∧
    ((inSeq.herds.filter (fun x => decide (x.2.st = .running))).map Prod.fst = [0] ∧ (inSeq.herd 0).seqPos.isSome = true) ∧
    ((rolled 2 up).role = 2 ∧ (rolled 2 up).waferIndex ∉ (rolled 2 up).jrn.leaving ∧ (rolled 1 up).role = 1) ∧
    (∀ b ∈ [true, false], (atCommit b).commitHerds 0 (atCommit b).jrn.epoch = [0] ∧ (atCommit b).hasSnapshot 0 (atCommit b).jrn.epoch = b ∧
      (atCommit b).jrn.silent = false ∧ NatMap.get (atCommit b).jrn.committed 0 0 < (atCommit b).jrn.epoch ∧ (atCommit b).flt.planned = none) ∧
    (let s : State := { rolled 1 up with jrn := { Jrn.reset with members := [255] } }
     s.role = 1 ∧ (∃ w ∈ s.jrn.members, (s.peer w).reported < (1 : Word).toNat) ∧ (255 : Fin 256).val ∉ s.jrn.joining ∧ (255 : Fin 256).val ∉ s.jrn.leaving) := by
  decide +kernel

/-- A message of wafer 255 with number 3 of the control stream, and one with the next number; the first is held already. -/
def reportMsg (q : Word) : HtMsg := { peer := 255, seq := q, body := .commitReport 0 }
/-- On with the herd transport, with one port up. -/
def talking : State :=
  { portUp 4 with jrn := { Jrn.reset with htAddr := 1, peers := [(255, { Peer.reset with seen := [(htChan (.commitReport 0), 3)] })], streams := [(4095, { stream1 4 with arg := 255 })] } }
/-- A group of this wafer and wafer 255, with a partial to send and a message of these words retained. -/
def linkedGroup (credits : Nat) (ws : List Word) : State :=
  let p : CollPart := { group := 63, op := .allReduce, words := [1, 2, 3], addr := 0, ctr := 0, tag := 0, sent := 0 }
  { portUp 4 with mesh := { up.mesh with groups := [(63, { tree := 0, chunk := 3, members := [0, 255 * 1024], sender := 0 })], parts := [p] }
                  jrn := { Jrn.reset with htAddr := 1, peers := [(255, { Peer.reset with credits := credits })], retain := [(0, 0, 1)]
                                          retained := [(none, { peer := 255, seq := 0, body := .collPart 63 ws })] } }

theorem witness_HerdTransport : talking.htOn = true ∧ State.reset.htOn = false ∧ talking.htTakes < 16 ∧ talking.mesh.owed = [] ∧
    (htChan (reportMsg 3).body, (reportMsg 3).seq.toNat) ∈ (talking.peer 255).seen ∧
    (htChan (reportMsg 4).body, (reportMsg 4).seq.toNat) ∉ (talking.peer 255).seen ∧
    htSequenced (.commitReport 0) = true ∧ talking.htWaits (.commitReport 0) = false ∧
    (rolled 1 talking).role = 1 ∧ talking.stream 4095 = some { stream1 4 with arg := 255 } ∧ (stream1 4).kind = 4 ∧ 32 ≤ (stream1 4).maxItem ∧
    NatMap.find talking.mesh.groups 63 = none ∧ talking.mesh.early.any (fun e => decide (e.1 = 255 ∧ e.2.1 = 63)) = false ∧
    (talking.loadBusy = false ∧ (worker (inPhase .verify)).loadBusy = true ∧ (worker (inPhase .verify)).htOn = true ∧
      ¬(1 % 64 = 0 ∧ stagingBase + 1 + 64 ≤ stagingEnd)) := by
  decide +kernel

theorem witness_HerdTransport_partials :
    (∀ c ∈ [0, 1], (linkedGroup c []).htOn = true ∧ ((linkedGroup c []).peer 255).credits = c ∧
      (NatMap.find (linkedGroup c []).mesh.groups 63).map (fun q => ((linkedGroup c []).otherWafers q, q.sender)) = some ([255], 0)) ∧
    ((linkedGroup 1 []).mesh.parts.find? (fun p => decide (p.group = 63 ∧ p.sent < p.words.length))).isSome = true ∧ (linkedGroup 1 []).mesh.early = [] ∧
    (linkedGroup 1 []).mesh.owed = [] ∧ (linkedGroup 1 []).retains 0 8 = true := by decide +kernel

theorem witness_HerdTransport_full : (linkedGroup 1 (List.replicate (2 ^ 23) 0)).retains 0 8 = false := by
  have h (ws : List Word) : (linkedGroup 1 ws).retains 0 8 = decide (8 * ws.length + 8 ≤ 0x400_0000) := by
    have e : (linkedGroup 1 ws).senderOf 63 = 0 := rfl
    have r : (linkedGroup 1 ws).jrn.retained = [(none, { peer := 255, seq := 0, body := .collPart 63 ws })] := rfl
    have a : (linkedGroup 1 ws).jrn.retain = [(0, 0, 1)] := rfl
    simp [State.retains, State.retainedBytes, e, r, a, NatMap.get, NatMap.find]
  rw [h, List.length_replicate]; decide

/-! ### States that meet the hypotheses: recovery, bring-up, power, resets -/

def badTile (x y : Nat) : Failed := { at_ := ⟨x, y⟩, elem := .tile }
def inFlt (s : State) (x : Flt) : State := { s with flt := x }
def deciding (e : Elem) : State := inFlt rdy { Flt.reset with st := .decide, failed := [{ at_ := ⟨0, 1⟩, elem := e }], atFault := [(0, [], 0)] }
def noReserve (s : State) : State := { s with flt := { s.flt with usedRows := List.range 32 } }
def ofSnap (x : Flt) : State :=
  let s := (stackUp.setHerd 0 { Herd.reset with st := .faulted, hasProg := true, committed := true }).setSnap (snapKey 0 0) { Snap.empty with valid := true, copied := true }
  inFlt s x
def deciders : State :=
  noReserve (ofSnap { Flt.reset with st := .decide, failed := [{ at_ := ⟨0, 1⟩, elem := .controller }], atFault := [(0, [], 0)] })

theorem witness_FaultsAreRepaired :
    (AtRest rdy 0 ∧ rdy.flt.st = .idle ∧ (rdy.herd 0).st = .running ∧ rdy.groupHerds (rdy.groupOf 0) = [0]) ∧
    (let s := inFlt rdy { Flt.reset with st := .decide, group := 1 }
     s.flt.st ≠ .idle ∧ s.flt.st ≠ .exhausted ∧ s.flt.group ≠ s.groupOf 0) ∧
    ((deciding .tile).flt.st = .decide ∧ (deciding .tile).flt.stop = false ∧ (deciding .tile).spareChoice { at_ := ⟨0, 1⟩, elem := .tile } = some .rowSkip ∧
      (deciding .controller).spareChoice { at_ := ⟨0, 1⟩, elem := .controller } = some .move ∧ (deciding .controller).reserveNext.isSome = true ∧
      (deciding .tile).spareChoice { at_ := ⟨32, 1⟩, elem := .tile } = none ∧ (deciding .tile).assisted 0 = false ∧ (helped 0).assisted 0 = true) ∧
    (deciders.spareChoice { at_ := ⟨0, 1⟩, elem := .controller } = some .move ∧ deciders.reserveNext = none ∧ deciders.flt.atFault.map Prod.fst = [0] ∧
      NatMap.get deciders.jrn.committed 0 deciders.flt.group = 0 ∧ (deciders.herd 0).committed = true ∧ deciders.snapReadable 0 0 = true) ∧
    (let s := inFlt rdy { Flt.reset with st := .decide, stop := true, choice := some .herdRow }
     s.flt.stop = true ∧ s.flt.choice = some .herdRow ∧ Linked s ∧ s.flt.queue = [] ∧ s.reserveNext.isSome = true) ∧
    (let s := inFlt rdy { Flt.reset with st := .remap, choice := some .herdRow, failed := [badTile 1088 1055] }
     s.flt.st = .remap ∧ s.flt.choice = some .herdRow ∧ s.flt.failed = [badTile 1088 1055]) ∧
    (let s := inFlt rdy { Flt.reset with st := .move, failed := [badTile 0 0] }
     s.flt.st = .move ∧ s.flt.moveTo = none ∧ s.reserveNext = some 0 ∧ s.pwr.doms.length = 96 ∧ s.pherd s.flt.herd ≠ reserveHerd 0 ∧ s.flt.failed ≠ []) := by
  unfold AtRest Linked; decide +kernel

def restoring (bad : Bool) (assist : Bool) : State :=
  let s := ofSnap { Flt.reset with st := .restore, reload := [0], atFault := [(0, [], 0)] }
  let s := if bad then s.setHerd 0 { s.herd 0 with fault := Code.imageCrc } else s
  if assist then s.wr Reg.GLB_MODE_MODE (2 ^ 6) else s
def replaying (st : RecSt) (taken : NatMap Nat) : State := inFlt (haltedAt 0) { Flt.reset with st := st, atFault := [(0, taken, 0)] }
def replayStop (st : RecSt) : State := let s := inFlt (withStream 1 stackUp) { Flt.reset with st := st }; { s with jrn := { s.jrn with stop := some 0 } }

/-- Herd 0 reloads in the first reserve herd, a tile of which has not taken the firmware. -/
def onReserve : State :=
  let s := inFlt (inSt .faulted) { Flt.reset with st := .reload, reload := [0], missed := [(1056, 1)] }
  let s : State := { s with bru := { s.bru with map := { s.bru.map with moved := [(0, reserveHerd 0)] }, fw := [1] } }
  s.setTile 0 { Tile.reset with hasProg := true }

theorem witness_HerdsAreReplayed :
    (∀ s ∈ [reloading sectGood, reloading sectBad], s.flt.st = .reload ∧ s.flt.reload = [(0 : HerdNo).val] ∧ s.pherd 0 % 33 ≠ 32 ∧ AtRest s 0 ∧
      clean s = true ∧ (s.stk (s.homeStack 0)).st = .service) ∧
    (((reloading sectGood).herdEntry 0).bad = none ∧ ((reloading sectBad).herdEntry 0).bad ≠ none ∧
      (∀ x ∈ ((reloading sectGood).herdEntry 0).sects, x.typ = SecType.tileInit → checkInit x.payload = true)) ∧
    onReserve.flt.st = .reload ∧ onReserve.reserveMissed ≠ [] ∧
    (∀ a ∈ [true, false], let s := restoring false a
      s.flt.st = .restore ∧ s.jrn.stop = none ∧ s.flt.atFault.map Prod.fst = [(0 : HerdNo).val] ∧ s.reloadFailed = false ∧ (s.herd 0).committed = true ∧
        s.snapReadable 0 (NatMap.get s.jrn.committed 0 s.flt.group) = true ∧ s.assisted 6 = a) ∧
    ((restoring true false).reloadFailed = true ∧ (restoring true false).flt.queue = []) ∧
    (let s := replaying .replay []
     s.flt.st = .replay ∧ s.mesh.groups = [] ∧ s.flt.atFault.map Prod.fst = [(0 : HerdNo).val] ∧ AtRest s 0 ∧ (s.herd 0).st = .halted ∧
       (s.mapTiles 0 Tile.go).tileFault 0 = none) ∧
    ((replaying .resume []).flt.atFault.all (replaying .resume []).caughtUp = true ∧ (replaying .resume []).flt.queue = [] ∧
      (replaying .resume [(4095, 1)]).flt.atFault.all (replaying .resume [(4095, 1)]).caughtUp = false) ∧
    (let s := replayStop .restore
     Linked s ∧ s.pdOn 93 = true ∧ s.jrn.stop = some (0 : Fin 256).val ∧ s.flt.st = .restore ∧ s.flt.group = (0 : Fin 256).val ∧ s.flt.queue = []) ∧
    (let s := withStream 1 stackUp
     s.jrn.stop ≠ some 0 ∧ s.jrn.stop = none ∧ s.jrn.streams.filter (fun x => decide (s.groupOf x.2.target = 0)) = [(4095, stream1 1)] ∧
       (s.jrn.pair (s.streamPair 4095)).room 1 = true ∧ s.exports = false) := by
  unfold AtRest Linked; decide +kernel

/-- Bring-up at a stage. -/
def atStage (n : Nat) : State := { up with bru := { Bru.reset with stage := n } }

theorem witness_StagesOfBringUp :
    (State.reset.mayStart 0 = true ∧ State.reset.waitsCool = false ∧ State.reset.pwr.flashBad = none ∧ 0 < State.reset.pwr.doms.length ∧ up.mayStart 0 = false ∧
      (let s : State := { State.reset with host := { HostIf.reset with lastCause := 3 }, pwr := { Pwr.reset with coolLow := true } }; s.waitsCool = true)) ∧
    ((atStage 1).mayStart 1 = true ∧ (atStage 1).stks.any (fun e => decide (e.2.st = .training)) = false ∧ (atStage 1).bru.trained = false ∧
      (atStage 1).assisted 3 = false ∧ (helped 3).assisted 3 = true) ∧
    ((atStage 2).mayStart 2 = true ∧ (∀ f ∈ [badTile 1088 1055], f.at_.x < 1089 ∧ f.at_.y < 1056) ∧ (atStage 2).bru.bistRecords + 1 ≤ 4096) ∧
    ((atStage 3).mayStart 3 = true ∧ (atStage 3).bru.warm = false ∧ (atStage 3).bru.frozen = false ∧ (atStage 3).bru.draft = none) ∧
    (let s : State := { atStage 3 with bru := { Bru.reset with stage := 3, warm := true } }
     s.mayStart 3 = true ∧ s.bru.warm = true ∧ s.bru.waitImage = false ∧ s.residentOk = false) ∧
    (atStage 6).mayStart 6 = true ∧
    (let s : State := { inSt .loaded with bru := { Bru.reset with stage := 7, release := true } }
     s.bru.stage = 7 ∧ s.bru.release = true ∧ (s.herd 0).st = .loaded ∧ (s.mapTiles 0 Tile.go).tileFault 0 = none) ∧
    (let s : State := { up with bru := { Bru.reset with stage := 6, hold := true } }
     s.bru.stageNow = (6 : Fin 8).val ∧ s.bru.stops = [] ∧ s.bru.stopAt.contains 6 = false ∧ s.bru.hold = true) ∧
    (let s : State := { up with bru := { Bru.reset with stage := 6, stopAt := [6] } }; s.bru.stopAt.contains 6 = true) := by decide +kernel

theorem witness_StagesOfBringUp_herds : (atStage 6).presentHerds.filter (fun h => ((atStage 6).herd h).hasProg) = [] ∧
    (let s := (atStage 7).setHerd 0 { Herd.reset with st := .loaded, hasProg := true }
     s.presentHerds.filter (fun h => (s.herd h).hasProg) = [(0 : HerdNo).val]) := by decide +kernel

def stopsAt (l : List BruStop) (round : Nat) : State := { up with bru := { Bru.reset with stage := 3, stops := l, draft := some MapStore.empty, round := round } }

theorem witness_BringUpStops : up.bru.stops = [] ∧ Linked (stopsAt [.remap] 0) ∧ (stopsAt [.remap] 0).pdOn 95 = true ∧
    (stopsAt [.remap] 0).bru.draft = some MapStore.empty ∧ MapStore.empty.absent = [] ∧ (1088 : BitVec 11).toNat < 1089 ∧ (1055 : BitVec 11).toNat < 1056 ∧
    ((stopsAt [.repair 2 1] 2).bru.stops = [.repair 2 1] ∧ (stopsAt [.repair 2 1] 2).bru.round < 3 ∧ 3 ≤ (stopsAt [.repair 3 1] 3).bru.round) ∧
    ((stopsAt [.serdes 15 true] 0).bru.stops = [.serdes 15 true] ∧ ((stopsAt [.serdes 15 true] 0).mac 15).lost = false) ∧
    (stopsAt [.stopAt 7] 0).bru.stops = [.stopAt 7] ∧ (stopsAt [.holdRelease] 0).bru.stops = [.holdRelease] := by
  unfold Linked; decide +kernel

/-- Two domains, of classes 1 and 3: a want of the first is not met. -/
def input0 : PowerIn := { req := List.replicate 96 500, temp := [], pDist := 0, pStk := 0, pFix := 20200, volt := List.replicate 96 0, throttle := List.replicate 96 false }

theorem witness_GrantsFitTheBudget : (up.pwr.doms[95]?).isSome = true ∧ (up.pwr.doms[0]?).map Dom.prio = some 3 ∧ (up.pwr.doms[82]?).map Dom.prio = some 1 ∧
    (up.pwr.doms[0]?).map Dom.on = some true ∧ (up.pwr.doms[82]?).map Dom.on = some true ∧
    (let t := go (.powerEpoch input0) up
     (t.pwr.doms[82]?).map Dom.next = some 390 ∧ (t.pwr.doms[0]?).map Dom.next = (up.pwr.doms[0]?).map Dom.floor) := by decide +kernel

theorem slice_read (m : Mem) (N a n : Nat) (h : a + n ≤ N) : slice (Mem.read m 0 N) a n = Mem.read m a n := by
  have e : (((List.range N).map (fun i => Mem.byte m (0 + i))).drop a).take n = (List.range n).map (fun i => Mem.byte m (a + i)) := by
    apply List.ext_getElem
    · simp; omega
    · simp
  unfold slice
  dsimp only
  rw [Mem.read_eq, e, Mem.read_eq]; simp

theorem calRanges_zeros {L : List Byte} (h6 : bits (fld L 6 2) 15 1 = 0)
    (h : ∀ a n, 24 ≤ a → a + n ≤ 16384 → slice L a n = List.replicate n 0) : calRanges L = true := by
  have z (a n : Nat) (ha : 24 ≤ a) (hn : a + n ≤ 16384) : zeroBytes L a n = true := by simp [zeroBytes, h a n ha hn]
  have f2 (a : Nat) (ha : 24 ≤ a) (hn : a + 2 ≤ 16384) : sfld L a 2 = 0 := by unfold sfld fld; rw [h a 2 ha hn]; decide
  have f4 : sfld L 0x2920 4 = 0 := by unfold sfld fld; rw [h _ 4 (by omega) (by omega)]; decide
  have e1 : (List.range 96).all (fun i => decide (-60 ≤ sfld L (0x20 + 2 * i) 2 ∧ sfld L (0x20 + 2 * i) 2 ≤ 60)) = true := by
    rw [List.all_eq_true]; intro i hi; rw [List.mem_range] at hi; rw [f2 _ (by omega) (by omega)]; decide
  have e2 : (List.range 32).all (fun i => zeroBytes L (0x520 + 32 * i + 16) 16) = true := by
    rw [List.all_eq_true]; intro i hi; rw [List.mem_range] at hi; exact z _ _ (by omega) (by omega)
  unfold calRanges
  rw [e1, e2, h6, f4, z 0x18 8 (by omega) (by omega), z (0xE0 + 1086) 2 (by omega) (by omega), z 0x2924 5852 (by omega) (by omega)]
  decide

/-- The calibration block of zeros but for its header; and with its CRC. -/
def calBlock0 : Mem := Mem.write [] 0 (leBytes 4 0x4C414343 ++ leBytes 2 1 ++ List.replicate 10 0 ++ leBytes 4 16384)
def calCrc : BitVec 32 := crc32c (patch (Mem.read calBlock0 0 16384) 0x14 [0, 0, 0, 0])
def calBlock : Mem := Mem.write calBlock0 0x14 (leBytes 4 calCrc.toNat)

theorem slice_calBlock (a n : Nat) (h : a + n ≤ 0x14 ∨ 24 ≤ a) (hn : a + n ≤ 16384) :
    slice (Mem.read calBlock 0 16384) a n = slice (Mem.read calBlock0 0 16384) a n := by
  rw [slice_read _ _ _ _ hn, slice_read _ _ _ _ hn, Mem.read_eq, Mem.read_eq]
  refine List.map_congr_left fun i hi => ?_
  rw [List.mem_range] at hi
  rw [calBlock, Mem.byte_write, if_neg (by simp [leBytes]; omega)]

theorem patch_calBlock : patch (Mem.read calBlock 0 16384) 0x14 [0, 0, 0, 0] = patch (Mem.read calBlock0 0 16384) 0x14 [0, 0, 0, 0] := by
  have hl (m : Mem) : (Mem.read m 0 16384).length = 16384 := by rw [Mem.read_eq]; simp
  have h1 (m : Mem) : (Mem.read m 0 16384).take 0x14 = Mem.read m 0 0x14 := by
    have := slice_read m 16384 0 0x14 (by omega); simpa [slice, hl] using this
  have h2 (m : Mem) : (Mem.read m 0 16384).drop 24 = Mem.read m 24 16360 := by
    have := slice_read m 16384 24 16360 (by omega)
    unfold slice at this
    dsimp only at this
    rwa [List.take_of_length_le (by rw [List.length_drop, hl]), List.length_drop, hl, Nat.sub_self, List.replicate_zero, List.append_nil] at this
  have e1 := slice_calBlock 0 0x14 (by omega) (by omega)
  have e2 := slice_calBlock 24 16360 (by omega) (by omega)
  rw [slice_read _ _ _ _ (by omega), slice_read _ _ _ _ (by omega)] at e1 e2
  unfold patch
  simp only [hl, List.length_cons, List.length_nil]
  rw [h1, h1, h2, h2, e1, e2, if_pos (by omega), if_pos (by omega)]

theorem calBlock_passes : calWhy (Mem.read calBlock 0 16384) = 0 := by
  have f0 : fld (Mem.read calBlock 0 16384) 0 4 = 0x4C414343 := by
    unfold fld; rw [slice_calBlock _ _ (by omega) (by omega), slice_read _ _ _ _ (by omega)]; decide +kernel
  have f4 : fld (Mem.read calBlock 0 16384) 4 2 = 1 := by
    unfold fld; rw [slice_calBlock _ _ (by omega) (by omega), slice_read _ _ _ _ (by omega)]; decide +kernel
  have f10 : fld (Mem.read calBlock 0 16384) 0x10 4 = 16384 := by
    unfold fld; rw [slice_calBlock _ _ (by omega) (by omega), slice_read _ _ _ _ (by omega)]; decide +kernel
  have f14 : fld (Mem.read calBlock 0 16384) 0x14 4 = calCrc.toNat := by
    unfold fld
    rw [slice_read _ _ _ _ (by omega), calBlock]
    have : Mem.read (Mem.write calBlock0 0x14 (leBytes 4 calCrc.toNat)) 0x14 4 = leBytes 4 calCrc.toNat := by
      rw [Mem.read_eq]
      apply List.ext_getElem
      · simp [leBytes]
      · intro i h k; simp at h; simp [leBytes] at k; simp [Mem.byte_write, leBytes]; rw [if_pos (by omega), List.getElem?_eq_getElem (by simpa using k)]; rfl
    rw [this, leNat_leBytes]; exact Nat.mod_eq_of_lt calCrc.isLt
  have hr : calRanges (Mem.read calBlock 0 16384) = true := by
    refine calRanges_zeros ?_ fun a n ha hn => ?_
    · unfold fld; rw [slice_calBlock _ _ (by omega) (by omega), slice_read _ _ _ _ (by omega)]; decide +kernel
    · rw [slice_calBlock a n (.inr ha) hn, slice_read _ _ _ _ hn, Mem.read_eq, List.eq_replicate_iff]
      refine ⟨by simp, fun b hb => ?_⟩
      obtain ⟨i, _, rfl⟩ := List.mem_map.1 hb
      rw [calBlock0, Mem.byte_write, if_neg (by simp [leBytes]; omega)]; rfl
  unfold calWhy
  rw [f0, f4, f10, f14, patch_calBlock, hr]
  simp [calCrc]

theorem witness_PolicyAndCalibration :
    (pdElastic 0 = true ∧ pdElastic 66 = false ∧ up.pwr.tTarget = 95 ∧ 94 < up.pwr.tTarget ∧ up.pwr.tTarget < 94 + up.pwr.tHyst ∧ 90 + up.pwr.tHyst ≤ up.pwr.tTarget) ∧
    (input0.stk = [] ∧ up.herdPresent (herdOfKey c0.key) = true ∧ 0 < stackLines ∧ (stackUp.stk 0).st ≠ .off ∧
      stackUp.pdOn 66 = true ∧ State.reset.pdOn 66 = false ∧ input0.upsets = []) ∧
    (pdFixed 92 = true ∧ pdFixed 0 = false ∧ up.assisted 4 = false ∧ (helped 4).assisted 4 = true ∧ (helped 4).rd Reg.PWR_DOM_SEL_DOMAIN = 0 ∧
      ((helped 4).pwr.doms[0]?).isSome = true ∧ Linked (helped 4)) ∧
    ((∀ b, up.rdb Reg.PWR_CAL_ADDR_BUF = b → b = false) ∧ (up.wr Reg.PWR_CAL_ADDR_BUF 1).rdb Reg.PWR_CAL_ADDR_BUF = true ∧
      up.pwr.calBusy = false ∧ up.pwr.flashBad = none ∧ ((0x5A3D : BitVec 16) ≠ 0x5A3C)) ∧
    (let s : State := { up with pwr := { up.pwr with calBusy := true } }; s.pwr.calBusy = true) ∧
    calWhy (Mem.read [] 0 16384) ≠ 0 ∧ calWhy (Mem.read calBlock 0 16384) = 0 := by
  have h : calWhy (Mem.read [] 0 16384) ≠ 0 := by
    unfold calWhy fld; rw [slice_read _ _ _ _ (by omega), if_pos (.inl (by decide))]; decide
  unfold Linked
  refine ⟨?_, ?_, ?_, ?_, ?_, h, calBlock_passes⟩ <;> decide +kernel

theorem witness_AlarmsAndCooling : up.pwr.alertLow = false ∧ 9 < 10 ∧ up.pwr.alertOut = false ∧ up.pwr.tripped = false ∧ up.pwr.quiesce = false ∧ up.herds = [] ∧
    (let s : State := { up with pwr := { up.pwr with alertLow := true, alertOut := true, quiesce := true } }
     s.pwr.alertLow = true ∧ s.pwr.alertOut = true ∧ s.pwr.quiesce = true ∧ s.pwr.tripped = false) ∧
    (let s : State := { up with pwr := { up.pwr with tripped := true } }; s.pwr.tripped = true) ∧
    (up.pwr.lost = 0 ∧ up.pwr.derated = false ∧ 45 * up.pwr.tempSlope + up.pwr.tempF0 < 1451 ∧ ¬(45 * up.pwr.tempSlope + up.pwr.tempF0 < 1450) ∧
      60 * 59 < 36 * up.pwr.flowK ∧ ¬(60 * 60 < 36 * up.pwr.flowK) ∧ up.pwr.tempF0 ≤ 1000) := by decide +kernel

/-- A wafer that has been in service, and would start warm. -/
def warmable : State :=
  { up with bru := { up.bru with frozen := true, everDone := true }
            img := { up.img with committed := some { digest := 0, svn := 0, slot := 0, role := 0, index := 0 } } }

theorem witness_ColdAndWarmResets : Linked up ∧ up.runsCold = true ∧ warmable.runsCold = false ∧ (warmable.jrn.pairs.map Prod.fst).Nodup ∧
    (∀ j ∈ List.range 16, (warmable.stk j).copies = []) ∧ ((served warmable 15).stk 15).st = .service ∧ ((downStk warmable 15).stk 15).st = .down := by
  unfold Linked; decide +kernel

theorem witness_SmallResets : Linked rdy ∧ rdy.bru.stage = 7 ∧ rdy.flt.st = .idle ∧ (rdy.herd 0).st = .running ∧ AtRest rdy 0 ∧
    rdy.groupHerds (rdy.groupOf 0) = [(0 : HerdNo).val] ∧ rdy.gangOf 15 = [(15 : MacNo).val] ∧ rdy.jrn.peers = [] ∧ (rdy.mac 15).ht = [] ∧ (atStage 6).bru.stage < 7 := by
  unfold Linked AtRest; decide +kernel

/-! ### The manual's worked examples, and check values of known codes -/

/-- FP32 values of a multiple k of 2^-q as bytes. -/
def f32s (l : List (Int × Int)) : List Byte := l.flatMap (fun x => leBytes 4 (rne32 (.fin (decide (x.1 < 0)) x.1.natAbs x.2)).toNat)

/-- "Locating a tile": tile (700, 300) lies in herd (21, 9), PD42, STK4 with partner STK12; from row 20 of the reserve column, PD65. -/
theorem test_locating_a_tile : herdOfKey (tileKey 700 300) = 9 * 32 + 21 ∧ pdOfPherd (up.pherd 309) = 42 ∧ up.homeStack 309 = 4 ∧ partner 4 = 12 ∧
    pdOfPherd (reserveHerd 20) = 65 := by decide +kernel

/-- "A Tine-6 block". 0.3, -1.2 and 0.09 go in as the FP32 values nearest to them. -/
def tineIn : List Byte :=
  f32s [(75, -1), (-21, -1)] ++ leBytes 4 0x3E99999A ++ f32s [(6, 0), (0, 0)] ++ leBytes 4 0xBF99999A ++
    f32s [(42, 0), (15, -2), (-27, 0), (3, -1), (9, -2), (-9, 0)] ++ leBytes 4 0x3DB851EC ++ f32s [(15, 0), (-21, 0), (21, -2)]
def tineOut : Mem := ((go (.tineEncode c0 { fmt := .tine6, src := 1024, line := 0, blk := 0, mode := some .rne })
  (rdy.updTile 0 (fun t => { t with sram := Mem.write [] 1024 tineIn }))).tile 0).sram
theorem test_tine6_block : Mem.read tineOut 0 1 = [0xBF] ∧
    Mem.read tineOut 8 12 = [0xDE, 0x3D, 0x50, 0x80, 0xFA, 0x45, 0x3C, 0xE3, 0xD8, 0x41, 0xB6, 0x4F] := by decide +kernel

/-- "An exact sum that a float sum gets wrong": 2.0 of FP16 vectors from the accumulator, 1.0 of BF16 vectors from the tree. -/
def dotIn (one big nbig : Nat) : State :=
  rdy.updTile 0 (fun t => { t with sram := Mem.write (Mem.write [] 0 ([big, one, nbig, one].flatMap (leBytes 2))) 64 ([big, one, big, one].flatMap (leBytes 2)) })
def dotOf (f : Fmt) : DotOp := { fmtA := f, fmtB := f, addrA := 0, addrB := 64, rows := 1, n := 1, k := 4, acc := 0, dst := 128, addend := none }
theorem test_exact_sum :
    Mem.read ((go (.accumulatorOutput c0 { acc := 0, n := 1, dst := .fp32, addr := 128, mode := some .rne, clear := false })
      (go (.dotProduct c0 (dotOf .fp16)) (dotIn 0x3C00 0x6C00 0xEC00))).tile 0).sram 128 4 = leBytes 4 0x40000000 ∧
    Mem.read ((go (.dotProduct c0 (dotOf .bf16)) (dotIn 0x3F80 0x4580 0xC580)).tile 0).sram 128 4 = leBytes 4 0x3F800000 := by decide +kernel

/-- "One row holds nearly all non-zeros": the starting deal of 10 segments. -/
theorem test_deal : (dealLanes (laneRun true) 10).map laneSegs = [[0], [1], [2], [3, 4], [5], [6], [7], [8, 9]] := by decide +kernel

/-- "Steering a double-tagged request": rule 1 of MAC5 matches, and the status word of the frame from queue 9. -/
def steered : List Byte := [2, 0, 0, 0, 0, 1, 2, 0, 0, 0, 0, 2, 0x88, 0xA8, 0xA0, 100, 0x81, 0x00, 0x07, 0xD1, 0x86, 0xDD] ++ List.replicate 320 0
def steering : State :=
  let s := ((up.wr (Reg.MAC_STATION_ADDR_ADDR 5 0) (fld steered 0 6)).wr (Reg.MAC_STATION_ADDR_VALID 5 0) 1).setReg (Reg.MAC_FILTER_RULE 5 1) 0x0000_4000_0100_1923
  s.setReg (Reg.MAC_FILTER_RULE 5 0) (0x0000_0000_0000_0001 + 3 * 2 ^ 3 + 2 ^ 5 + 2001 * 2 ^ 6 + 2 ^ 18 + 0xFF * 2 ^ 19 + 2 ^ 27 + 0x0800 * 2 ^ 28)
theorem test_steering : framePrio steered 0 = 5 ∧ frameTags steered = 2 ∧ frameEtype steered = 0x86DD ∧ frameVid1 steered = 2001 ∧
    steering.ruleHit 5 0 steered 5 = false ∧ steering.ruleHit 5 1 steered 5 = true ∧ steering.chooseQueue 5 steered 5 = 4 ∧
    Frame.status { frameOf 342 true with queue := 9, prio := 5, tags := 2, reason := 1 } = 0x3958_0156 := by decide +kernel

/-- "Parsing a made-up request frame": the program, with the words that the example gives, and the five features. -/
def wEx (dst off width emit : Nat) : Nat := 1 + dst * 2 ^ 6 + 2 ^ 10 + (width - 1) * 2 ^ 12 + b2n (decide (emit < 64)) * 2 ^ 15 + off * 2 ^ 16 + 8 * width * 2 ^ 29 + emit % 64 * 2 ^ 35
def wNe (a imm target : Nat) : Nat := 5 + a * 2 ^ 6 + 2 ^ 14 + 2 ^ 15 + target * 2 ^ 18 + imm * 2 ^ 32
def prog14 : List Nat := [2 + 6 * 2 ^ 10, wNe 0 0x86DD 13, 2 + 1 * 2 ^ 6 + 7 * 2 ^ 10, 4 + 1 * 2 ^ 10 + 2 ^ 14, wEx 2 6 1 64, wNe 2 17 13, wEx 3 42 2 64,
  wNe 3 4790 13, wEx 4 50 4 0, wEx 5 54 1 1, wEx 6 55 1 2, wEx 7 56 2 3, 7, 7 + 64]
def descs : List Nat := [1 + 2 * 2 ^ 2 + 7 * 2 ^ 32, 0x47C3_5000_0000_0000, 0x0000_000F_0010_0122, 0, 2 + 2 * 2 ^ 8 + 3 * 2 ^ 32, 0,
  3 + 67 * 2 ^ 32, 1 + 2 * 2 ^ 32, 2 + 2 ^ 5 + 3 * 2 ^ 8 + 63 * 2 ^ 16 + 63 * 2 ^ 32, 2 * 2 ^ 32]
def request142 : List Byte := [2, 0, 0, 0, 0, 1, 2, 0, 0, 0, 0, 2, 0x86, 0xDD] ++ List.replicate 6 0 ++ [17] ++ List.replicate 35 0 ++ [0x12, 0xB6] ++ List.replicate 4 0 ++
  [0x00, 0x03, 0x42, 0x92, 0x80, 0x00, 0x15, 0x02, 0x00, 0x26] ++ List.replicate 70 0
def requestFr : Frame := { frameOf 142 true with bytes := request142, etype := 0x86DD }
def programmed : State :=
  let put (s : State) (f : Nat → Fld) (l : List Nat) : State := (List.range l.length).foldl (fun s i => s.wr (f i) (nthD l i 0)) s
  let s := put up (Reg.PRH_FRONT_PROG_INSTR 2) prog14
  let s := put s (Reg.PRH_FRONT_DESC_WORD 2) descs
  let s := put s (Reg.PRH_FRONT_BOUND_BOUND 2) [0x3F80_0000, 0x40A0_0000, 0x4120_0000, 0x41C8_0000, 0x4248_0000, 0x42C8_0000, 0x43FA_0000]
  (s.wr (Reg.PRH_FRONT_CTRL_HORIZON 2) 128).wr (Reg.PRH_FRONT_CTRL_NFEAT 2) 5
def parsed : Option (List Nat × Bool) :=
  match programmed.parseAll 2 64 (Ctx.start requestFr 0 true) with
  | .vector b m => some (b, m)
  | _ => none
theorem test_parsing : nthD prog14 1 0 = 0x0000_86DD_0034_C005 ∧ nthD prog14 8 0 = 0x0000_0004_0032_B501 ∧ nthD prog14 9 0 = 0x0000_0009_0036_8541 ∧
    parsed = some ([5, 16, 2, 66, 9], true) := by decide +kernel

/-- "Scoring the parsed request": score 1.0, and bytes 62 to 69 of the reply. -/
def leaf32 (n e : Int) : BitVec 32 := rne32 (.fin (decide (n < 0)) n.natAbs e)
def trees3 : List Tree :=
  [{ depth := 2, nodes := [0x0000_0004, 0x0002_0002, 0x0004_000C], leaves := [leaf32 1 (-2), leaf32 (-1) (-3), leaf32 3 (-2), leaf32 3 (-1)] },
   { depth := 1, nodes := [0x0003_0040], leaves := [leaf32 1 (-1), leaf32 (-1) (-2)] },
   { depth := 2, nodes := [0x0001_0010, 0x0000_0006, 0x0003_0043], leaves := [leaf32 (-1) (-1), leaf32 1 (-4), leaf32 3 (-3), leaf32 2 0] }]
def template80 : List Byte :=
  leBytes 2 80 ++ [0, 1, 1, 0] ++ leBytes 2 62 ++ leBytes 2 0xFFFF ++ leBytes 4 0 ++ leBytes 2 0 ++ [62, 70, 10, 0] ++ List.replicate 28 0 ++ [66, 0, 0, 0] ++
    List.replicate 28 0 ++ List.replicate 80 0
theorem test_scoring : scoreOut trees3 [5, 16, 2, 66, 9] 1 0 false (leaf32 1 (-3)) = .fp 0x3F80_0000 ∧
    (ScoreVal.fp 0x3F80_0000).inBand (leaf32 13421773 (-25)) (leaf32 10066330 (-24)) = false ∧
    slice (buildReply template80 request142 (fun _ => 0) 142 [.fp 0x3F80_0000] 0 8000) 62 8 = [0x00, 0x00, 0x1F, 0x40, 0x3F, 0x80, 0x00, 0x00] := by decide +kernel

/-- "Pulling a standalone wafer into step": RATE -13,744 beside the reset SLEW, and ADJ of -3.2 us. -/
theorem test_servo_registers : (up.wr Reg.TIME_RATE_SLEW_RATE (BitVec.ofInt 32 (-13744)).toNat).reg Reg.TIME_RATE_SLEW = 0x006B_5FCA_FFFF_CA50 ∧
    adjShift 0xFFFF_FFFF_F380_0000 = -209715200 * 2 ^ 32 := by decide +kernel

/-- "A tile fails late in an epoch": where the tile sat and where its row goes after the row skip, and FLT_REMAP. -/
def rowSkipped : State := go .chamoisRemap (inFlt up { Flt.reset with st := .remap, choice := some .rowSkip, failed := [badTile 721 309] })
theorem test_row_skip : up.physOf (tileKey 700 300) = (721, 309) ∧ rowSkipped.physOf (tileKey 700 300) = (722, 309) ∧ rowSkipped.physOf (tileKey 703 300) = (725, 309) ∧
    rowSkipped.physOf (tileKey 699 300) = (720, 309) ∧ rowSkipped.rd Reg.FLT_REMAP_HERD = 309 ∧ rowSkipped.rd Reg.FLT_REMAP_KIND = 0 ∧
    rowSkipped.rd Reg.FLT_REMAP_PX = 28 ∧ rowSkipped.rd Reg.FLT_REMAP_PY = 12 := by decide +kernel

/-- "The start-up map of one herd": three failed tiles and a failed router of physical herd column 5, row 12. -/
def mapped : State :=
  let at' (e : Elem) (x y : Nat) : Failed := { at_ := ⟨5 * 33 + x, 12 * 33 + y⟩, elem := e }
  let s : State := { up with bru := { up.bru with frozen := true, failed := [at' .tile 7 3, at' .tile 20 3, at' .tile 30 18, at' .router 10 25] } }
  (s.setHmap (12 * 33 + 5) (s.skips (12 * 33 + 5))).setReg Reg.BRU_MAP_SEL 0x9305
theorem test_startup_map : mapped.physOf (tileKey 167 386) = (172, 398) ∧ mapped.physOf (tileKey 191 401) = (197, 414) ∧ mapped.physOf (tileKey 170 408) = (176, 421) ∧
    mapped.unfit (12 * 33 + 5) = false ∧ mapped.spareChoice (badTile 180 414) = some .move := by decide +kernel
def mapRead : List Out := (go (.registerWrite (.read64 (BitVec.ofNat 26 Reg.BRU_MAP))) mapped).io.out
theorem test_map_readback : mapRead = [.read (leBytes 8 0x0000_0000_0078_3585)] := by decide +kernel

/-- "A cap below full load": the grants of the next epoch, and ptr. -/
def capped : State :=
  let on (d : Nat) (x : Dom) : Dom := { x with on := decide (d ≠ 64 ∧ d ≠ 65), next := if d < 64 then 1220 else x.floor, grant := if d < 64 then 1220 else x.floor }
  (up.wr Reg.PWR_CTRL_CAP_W 18000).updPwr (fun p => { p with doms := (List.range 96).map (fun d => on d (nthD p.doms d (Dom.default d))) })
def fullLoad : PowerIn := { req := List.replicate 64 1220 ++ List.replicate 32 0, temp := [], pDist := 0, pStk := 600, pFix := 150, volt := List.replicate 96 0, throttle := List.replicate 96 false }
def cappedNext : State := go (.powerEpoch fullLoad) capped
theorem test_cap : capped.floorSum = 14640 ∧ cappedNext.pwr.doms.map Dom.next = List.replicate 24 1010 ++ List.replicate 40 1009 ++ [0, 0] ++ (cappedNext.pwr.doms.drop 66).map Dom.floor ∧
    cappedNext.pwr.ptr = 24 := by decide +kernel

/-- "Submitting one work item": the entry at CONS 1,300, and its answer once item 91,234 of stream 37 is accepted. -/
def submitted : State :=
  let s := up.setRing .submit 5 { Ring.reset with base := 0x100_0000, log2 := 8, esize := 16, vec := 40, en := true, irq := true, prod := 1301, cons := 1300 }
  let it : Item := { itemAt (some 5) none with stream := 37 }
  go (.itemAccept 0) (s.setPair 0 { Pair.reset with head := 17, writing := [({ rec1 with stream := 37, seq := 91234 }, some it)] })
theorem test_submit : Ring.entry .submit { Ring.reset with base := 0x100_0000, log2 := 8, esize := 16 } 1300 = 0x100_5000 ∧
    Mem.read submitted.host.bar2 0x100_5010 8 = [0x62, 0x64, 0x01, 0, 0, 0, 0, 0] ∧ Mem.byte submitted.host.bar2 0x100_5003 = 1 ∧
    (submitted.ring .submit 5).cons = 1301 ∧ submitted.host.msixQ = [.ring ⟨.submit, 5⟩] := by decide +kernel

/-- Known check values: CRC-32C and the Ethernet FCS of "123456789". -/
theorem test_crcs : crc32c [0x31, 0x32, 0x33, 0x34, 0x35, 0x36, 0x37, 0x38, 0x39] = 0xE3069283 ∧
    fcs [0x31, 0x32, 0x33, 0x34, 0x35, 0x36, 0x37, 0x38, 0x39] = [0x26, 0x39, 0xF4, 0xCB] := by decide +kernel

/-- At reset nothing is burnt and no command waits. -/
theorem reset_inv : FusesGrow Fuses.blank State.reset.fuses ∧ State.reset.pending = [] := ⟨⟨.inl rfl, .inl rfl, .inl rfl, .inl rfl, rfl, rfl⟩, rfl⟩

end Sys2Proof.Tests
end

section
/-! Host accesses to BAR0 registers: what a write of a plain register, a read, and an access where no register
answers do (R17 to R20, R27, R428). -/

namespace Sys2Proof.Proofs.HostRegisters

open Sys2Proof.Machine Sys2Proof.Safety Sys2Proof.Laws

/-! ### The host's access as one step -/

/-- Over a link that is up the host's command takes effect. -/
theorem byHost_of_linked {s : State} (hl : Linked s) (f : State → State) : s.byHost f = f s := if_pos hl

/-- A host access that leaves the queue of commands is the whole step. -/
theorem exec_registerWrite {s : State} (hl : Linked s) (a : HostAccess) (hp : (s.access a).pending = s.pending) :
    exec (.registerWrite a) s = .next (s.access a) := by
  have hby : s.byHost (fun s => s.access a) = s.access a := byHost_of_linked hl _
  have hact : actFuses (fun s => s.byHost (fun s => s.access a)) s = .next (s.byHost (fun s => s.access a)) :=
    actFuses_eq _ s ⟨by rw [hby, hp], fun p hout => absurd (by cases p <;> decide) hout⟩
  rw [hby] at hact
  exact hact

/-- What holds after a host access that leaves the queue of commands holds after the step. -/
theorem runs_registerWrite {s : State} (hl : Linked s) (a : HostAccess) {P : State → Prop}
    (hp : (s.access a).pending = s.pending) (h : P (s.access a)) : Runs (.registerWrite a) s P :=
  ⟨_, exec_registerWrite hl a hp, h⟩

/-- The upper half of an aligned register lies four bytes on. -/
theorem toNat_add_four {off : BitVec 26} (h : off.toNat % 8 = 0) : (off + 4).toNat = off.toNat + 4 := by bv_omega

/-! ### Writes -/

theorem write32_low (s : State) {off : Nat} (v : Nat) (h : off % 8 = 0) :
    s.write32 off v = s.writeReg off v (2 ^ 32 - 1) := if_neg (by omega)

theorem write32_high (s : State) {off : Nat} (v : Nat) (h : off % 8 = 0) :
    s.write32 (off + 4) v = s.writeReg off (v * 2 ^ 32) ((2 ^ 32 - 1) * 2 ^ 32) := if_pos (by omega)

/-- A write of a plain register stores its fields under their access types and changes nothing else. -/
theorem writeReg_plain_stores {s : State} {off : Nat} {r : RegRow} {i : Nat} (hplain : plainReg off = true)
    (hrow : rowAt off = some (r, i)) (hon : s.blkOn off = true) (w mask : Nat) :
    RegsBut [off] s (s.writeReg off w mask) ∧ KeepsBut [.regs] s (s.writeReg off w mask) ∧
      ∀ f ∈ r.fields, bits ((s.writeReg off w mask).reg off).toNat f.hi f.lo = written s off w mask f := by
  obtain ⟨hset, hfields⟩ := store_fields s off w mask r i hrow
  rw [plain_write s off w mask hplain r i hrow hon]
  refine ⟨?_, ?_, hfields⟩
  · rw [hset]; exact regs_setReg s off _
  · rw [hset]; exact keeps_setReg s off _

/-- Settles O19: each of the three writes is one write of the register under its mask. -/
theorem registerWriteStoresFields : Obligations.RegisterWriteStoresFields := by
  intro s off r i hl hplain halign hrow hon stored
  have hstored (w mask : Nat) : stored w mask (s.writeReg off.toNat w mask) :=
    writeReg_plain_stores hplain hrow hon w mask
  have runs (a : HostAccess) (w mask : Nat) (ha : s.access a = s.writeReg off.toNat w mask) :
      Runs (.registerWrite a) s (stored w mask) := by
    obtain ⟨-, hkeeps, -⟩ := hstored w mask
    exact runs_registerWrite hl a (ha ▸ hkeeps.1) (ha ▸ hstored w mask)
  refine ⟨fun v => ?_, fun v => ?_, fun v => ?_⟩
  · exact runs (.write64 off v) _ _ rfl
  · exact runs (.write32 off v) _ _ (write32_low s _ halign)
  · refine runs (.write32 (off + 4) v) _ _ ?_
    show s.write32 (off + 4).toNat v.toNat = _
    rw [toNat_add_four halign, write32_high s _ halign]

/-! ### Clearing fields -/

/-- A value with a list of fields set to 0, as `State.clearRc` clears the RC fields of a register. -/
def clearFields (l : List FieldRow) (v : Nat) : Nat := l.foldl (fun a f => setBits a f.hi f.lo 0) v

theorem clearRc_eq (s : State) (off : Nat) :
    s.clearRc off = s.setReg off (BitVec.ofNat 64 (clearFields (rcFields off) (s.reg off).toNat)) := rfl

theorem clearFields_lt {l : List FieldRow} (hl : ∀ f ∈ l, f.lo ≤ f.hi ∧ f.hi < 64) {v : Nat} (hv : v < 2 ^ 64) :
    clearFields l v < 2 ^ 64 := by
  induction l generalizing v with
  | nil => exact hv
  | cons f l ih =>
    obtain ⟨hf, hl⟩ := List.forall_mem_cons.1 hl
    exact ih hl (setBits_lt hf.1 hf.2 hv)

/-- Clearing fields leaves a field apart from all of them. -/
theorem bits_clearFields_apart {l : List FieldRow} (hl : ∀ f ∈ l, f.lo ≤ f.hi ∧ f.hi < 64) {g : FieldRow}
    (hg : g.lo ≤ g.hi) (h : ∀ f ∈ l, apart f g = true) (v : Nat) :
    bits (clearFields l v) g.hi g.lo = bits v g.hi g.lo := by
  induction l generalizing v with
  | nil => rfl
  | cons f l ih =>
    obtain ⟨hf, hl⟩ := List.forall_mem_cons.1 hl
    obtain ⟨hfg, h⟩ := List.forall_mem_cons.1 h
    exact (ih hl h _).trans (bits_setBits_apart v 0 f g hf.1 hg hfg)

/-- Each cleared field reads 0, where no two of them share a bit. -/
theorem bits_clearFields_mem {l : List FieldRow} (hl : ∀ f ∈ l, f.lo ≤ f.hi ∧ f.hi < 64)
    (hp : l.Pairwise (fun f g => apart f g = true)) {g : FieldRow} (hg : g ∈ l) (v : Nat) :
    bits (clearFields l v) g.hi g.lo = 0 := by
  induction l generalizing v with
  | nil => cases hg
  | cons f l ih =>
    obtain ⟨hf, htail⟩ := List.forall_mem_cons.1 hl
    obtain ⟨hapart, hp⟩ := List.pairwise_cons.1 hp
    rcases List.mem_cons.1 hg with rfl | hg
    · calc bits (clearFields l (setBits v g.hi g.lo 0)) g.hi g.lo
          = bits (setBits v g.hi g.lo 0) g.hi g.lo :=
            bits_clearFields_apart htail hf.1 (fun e he => apart_symm (hapart e he)) _
        _ = 0 := by rw [bits_setBits _ _ _ _ hf.1, Nat.zero_mod]
    · exact ih htail hp hg _

/-! ### The RC fields of a register -/

theorem rcFields_of_row {off : Nat} {r : RegRow} {i : Nat} (h : rowAt off = some (r, i)) :
    rcFields off = r.fields.filter (fun f => decide (f.acc = .rc)) := by
  simp only [rcFields, h]

theorem rcFields_of_no_row {off : Nat} (h : rowAt off = none) : rcFields off = [] := by
  simp only [rcFields, h]

/-- The fields of a register lie in 64 bits and share none. -/
theorem rowAt_fields {off : Nat} {r : RegRow} {i : Nat} (h : rowAt off = some (r, i)) :
    (∀ f ∈ r.fields, f.lo ≤ f.hi ∧ f.hi < 64) ∧ r.fields.Pairwise (fun f g => apart f g = true) := by
  simpa only [rowOk, Bool.and_eq_true, List.all_eq_true, decide_eq_true_eq] using rowAt_ok h

theorem rcFields_ok (off : Nat) :
    (∀ f ∈ rcFields off, f.lo ≤ f.hi ∧ f.hi < 64) ∧ (rcFields off).Pairwise (fun f g => apart f g = true) := by
  cases h : rowAt off with
  | none => simp [rcFields_of_no_row h]
  | some e =>
    obtain ⟨hb, hp⟩ := rowAt_fields h
    rw [rcFields_of_row h]
    exact ⟨fun f hf => hb f (List.mem_of_mem_filter hf), hp.filter _⟩

/-- A field of another type shares no bit with an RC field of its register. -/
theorem rcFields_apart {off : Nat} {r : RegRow} {i : Nat} (h : rowAt off = some (r, i)) {g : FieldRow}
    (hg : g ∈ r.fields) (hacc : g.acc ≠ .rc) : ∀ f ∈ rcFields off, apart f g = true := by
  intro f hf
  rw [rcFields_of_row h, List.mem_filter, decide_eq_true_eq] at hf
  obtain ⟨hf, hrc⟩ := hf
  have hne : f ≠ g := by rintro rfl; exact hacc hrc
  have hsymm : Std.Symm (fun f g : FieldRow => apart f g = true) := ⟨fun _ _ => apart_symm⟩
  exact (rowAt_fields h).2.forall hf hg hne

theorem toNat_reg_clearRc (s : State) (off : Nat) :
    ((s.clearRc off).reg off).toNat = clearFields (rcFields off) (s.reg off).toNat := by
  rw [clearRc_eq, reg_setReg, if_pos rfl, BitVec.toNat_ofNat]
  exact Nat.mod_eq_of_lt (clearFields_lt (rcFields_ok off).1 (s.reg off).isLt)

theorem keeps_clearRc (s : State) (off : Nat) : KeepsBut [.regs] s (s.clearRc off) := keeps_setReg s off _

/-- Clearing where there is no register changes no register. -/
theorem RegsBut_clearRc_of_no_row (s : State) {off : Nat} (h : rowAt off = none) : RegsBut [] s (s.clearRc off) := by
  intro o _
  rw [clearRc_eq, rcFields_of_no_row h, reg_setReg]
  split
  · next ho => rw [ho]; exact BitVec.ofNat_toNat _ _
  · rfl

/-! ### Reads -/

/-- The read of a register other than the three that do more changes nothing beyond clearing. -/
theorem readEffect_ordinary (s : State) {off : Nat} (h : off ∉ [Reg.TIME_NOW, Reg.PWR_CAL_DATA, Reg.HRD_WIN_DATA]) :
    s.readEffect off = (s, s.peek off) := by
  simp only [List.mem_cons, List.not_mem_nil, or_false, not_or] at h
  obtain ⟨hnow, hcal, hwin⟩ := h
  simp [State.readEffect, hnow, hcal, hwin]

/-- A 32-bit read that leaves the state as it is answers its four bytes and nothing else. -/
theorem runs_read32 {s : State} (hl : Linked s) {off : BitVec 26} {v : Nat} (h : s.read32 off.toNat = (s, v)) :
    Runs (.registerWrite (.read32 off)) s (fun t => t.io.out = s.io.out ++ [.read (leBytes 4 v)] ∧
      t.io.events = s.io.events ∧ KeepsBut [.io] s t) := by
  have ha : s.access (.read32 off) = s.emit (.read (leBytes 4 v)) := by
    simp only [State.access, State.accessOther, h]; rfl
  exact runs_registerWrite hl _ (by rw [ha, emit_pending]) (ha ▸ ⟨rfl, rfl, keeps_emit s _⟩)

/-- A 64-bit read that changes registers alone answers its eight bytes and leaves those registers. -/
theorem runs_read64 {s u : State} (hl : Linked s) {off : BitVec 26} {v : Nat} (h : s.read64 off.toNat = (u, v))
    (hu : KeepsBut [.regs] s u) :
    Runs (.registerWrite (.read64 off)) s (fun t => t.io.out = s.io.out ++ [.read (leBytes 8 v)] ∧
      t.io.events = s.io.events ∧ t.reg = u.reg ∧ KeepsBut [.regs, .io] s t) := by
  have hfuses : u.fuses = s.fuses := hu.2 .fuses (by decide)
  have hio : u.io = s.io := hu.2 .io (by decide)
  have ha : s.access (.read64 off) = u.emit (.read (leBytes 8 v)) := by
    simp only [State.access, State.accessOther, h, ← hfuses]; rfl
  have hkeeps : KeepsBut [.regs, .io] s (u.emit (.read (leBytes 8 v))) :=
    KeepsBut_trans (KeepsBut_mono hu (by decide)) (KeepsBut_mono (keeps_emit u _) (by decide))
  refine runs_registerWrite hl _ (by rw [ha, emit_pending, hu.1]) ?_
  rw [ha, ← hio]
  exact ⟨rfl, rfl, rfl, hkeeps⟩

/-- An ordinary 64-bit read of a lit block clears the RC fields of its register. -/
theorem read64_ordinary {s : State} {off : Nat} (h : off ∉ [Reg.TIME_NOW, Reg.PWR_CAL_DATA, Reg.HRD_WIN_DATA])
    (hon : s.blkOn off = true) : s.read64 off = (s.clearRc off, s.peek off) := by
  have hwin : off ≠ Reg.HRD_WIN_DATA := by rintro rfl; exact h (by decide)
  simp [State.read64, hwin, readEffect_ordinary s h, hon]

/-- A 32-bit read of the lower half. -/
theorem read32_low {s t : State} {off v : Nat} (ha : off % 8 = 0) (h : s.readEffect off = (t, v)) :
    s.read32 off = (t, v % 2 ^ 32) := by
  have hbase : off / 8 * 8 = off := by omega
  simp [State.read32, hbase, h, ha]

/-- A 32-bit read of the upper half. -/
theorem read32_high {s t : State} {off v : Nat} (ha : off % 8 = 0) (h : s.readEffect off = (t, v)) :
    s.read32 (off + 4) = (t, v / 2 ^ 32) := by
  have hbase : (off + 4) / 8 * 8 = off := by omega
  have hhigh : (off + 4) % 8 = 4 := by omega
  simp [State.read32, hbase, h, hhigh]

/-- After the clearing of a 64-bit read each RC field holds 0 and each other field what it held. -/
theorem clearRc_fields (s : State) (off : Nat) :
    (∀ f ∈ rcFields off, bits ((s.clearRc off).reg off).toNat f.hi f.lo = 0) ∧
      ∀ r i, rowAt off = some (r, i) → ∀ f ∈ r.fields, f.acc ≠ .rc →
        bits ((s.clearRc off).reg off).toNat f.hi f.lo = bits (s.reg off).toNat f.hi f.lo := by
  obtain ⟨hbounds, hpair⟩ := rcFields_ok off
  rw [toNat_reg_clearRc]
  refine ⟨fun f hf => bits_clearFields_mem hbounds hpair hf _, fun r i hrow f hf hacc => ?_⟩
  exact bits_clearFields_apart hbounds ((rowAt_fields hrow).1 f hf).1 (rcFields_apart hrow hf hacc) _

/-- Settles O20: an ordinary read answers the value, and the 64-bit one is the clearing of the RC fields. -/
theorem registerReads : Obligations.RegisterReads := by
  intro s off hl halign hord
  have heffect := readEffect_ordinary s hord
  refine ⟨fun hon => ?_, fun b => ?_⟩
  · obtain ⟨t, ht, hout, hevents, hregs, hkeeps⟩ :=
      runs_read64 hl (read64_ordinary hord hon) (keeps_clearRc s off.toNat)
    obtain ⟨hrc, hother⟩ := clearRc_fields s off.toNat
    refine ⟨t, ht, hout, hevents, ?_, ?_, ?_, hkeeps⟩
    · rwa [hregs]
    · rwa [hregs]
    · intro o ho; rw [hregs]; exact regs_setReg s _ _ o ho
  · cases b with
    | false => exact runs_read32 hl (read32_low halign heffect)
    | true =>
      refine runs_read32 hl (off := off + 4) ?_
      rw [toNat_add_four halign]
      exact read32_high halign heffect

/-! ### Offsets where no register answers -/

/-- No register occupies the offset, or the domain of its block is dark (R20, R27). -/
def Vacant (s : State) (off : Nat) : Prop := (rowAt off).isNone = true ∨ s.blkOn off = false

theorem writeReg_vacant {s : State} {off : Nat} (h : Vacant s off) (w mask : Nat) : s.writeReg off w mask = s :=
  if_pos h.symm

theorem peek_vacant {s : State} {off : Nat} (h : Vacant s off) : s.peek off = 0 := by
  unfold State.peek
  split
  · exact if_pos (h.elim (fun hrow => .inr (.inr hrow)) .inl)
  · rfl

/-- An offset that a register of a lit block occupies is not vacant. -/
theorem not_vacant {s : State} {off : Nat} (hrow : (rowAt off).isNone = false) (hon : s.blkOn off = true) :
    ¬ Vacant s off := by simp [Vacant, hrow, hon]

/-- The power arbiter's registers stand in a block that no domain darkens (R27). -/
theorem not_vacant_calData (s : State) : ¬ Vacant s Reg.PWR_CAL_DATA := not_vacant (by decide) rfl

/-- So do those of the herds (R27). -/
theorem not_vacant_winData (s : State) : ¬ Vacant s Reg.HRD_WIN_DATA := not_vacant (by decide) rfl

/-- A read where no register answers returns 0 and has no effect of its own. -/
theorem readEffect_vacant {s : State} {off : Nat} (h : Vacant s off) : s.readEffect off = (s, 0) := by
  have hnow : ¬ (off = Reg.TIME_NOW ∧ s.blkOn off = true) := by
    rintro ⟨rfl, hon⟩; exact not_vacant (by decide) hon h
  have hcal : off ≠ Reg.PWR_CAL_DATA := by rintro rfl; exact not_vacant_calData s h
  have hwin : off ≠ Reg.HRD_WIN_DATA := by rintro rfl; exact not_vacant_winData s h
  rw [State.readEffect, if_neg hnow, if_neg hcal, if_neg hwin, peek_vacant h]

/-- A 64-bit read where no register answers returns 0 and changes no register. -/
theorem read64_vacant {s : State} {off : Nat} (h : Vacant s off) :
    ∃ u, s.read64 off = (u, 0) ∧ RegsBut [] s u ∧ KeepsBut [.regs] s u := by
  have hwin : off ≠ Reg.HRD_WIN_DATA := by rintro rfl; exact not_vacant_winData s h
  have hread : s.read64 off = (if s.blkOn off then s.clearRc off else s, 0) := by
    simp [State.read64, hwin, readEffect_vacant h]
  refine ⟨_, hread, ?_⟩
  split
  · next hon =>
    have hrow : rowAt off = none := Option.isNone_iff_eq_none.1 (h.resolve_right (by simp [hon]))
    exact ⟨RegsBut_clearRc_of_no_row s hrow, keeps_clearRc s off⟩
  · exact ⟨RegsBut_refl [] s, KeepsBut_refl [.regs] s⟩

/-- Settles O21: the write is stopped before it reaches a block, and the reads answer 0. -/
theorem noRegisterNoEffect : Obligations.NoRegisterNoEffect := by
  intro s off v hl halign hvacant
  have hwrite : s.access (.write64 off v) = s := writeReg_vacant hvacant v.toNat _
  refine ⟨?_, ?_, ?_⟩
  · rw [exec_registerWrite hl _ (by rw [hwrite]), hwrite]
  · exact runs_read32 hl (read32_low halign (readEffect_vacant hvacant))
  · obtain ⟨u, hread, hregs, hkeeps⟩ := read64_vacant hvacant
    obtain ⟨t, ht, hout, hevents, hreg, hkeeps⟩ := runs_read64 hl hread hkeeps
    exact ⟨t, ht, hout, hevents, fun o ho => by rw [hreg]; exact hregs o ho, hkeeps⟩

end Sys2Proof.Proofs.HostRegisters
end

section
/-! What a step and its parts leave unchanged: frames joined one after another, frames of loops, and the answers of
commands that change nothing. -/

namespace Sys2Proof.Proofs.Frames

open Sys2Proof.Machine Sys2Proof.Safety Sys2Proof.Laws

/-! ### Frames -/

/-- Two changes one after another change no more than both together. -/
theorem KeepsBut_append {l m : List Part} {s t u : State} (h : KeepsBut l s t) (h' : KeepsBut m t u) :
    KeepsBut (l ++ m) s u :=
  KeepsBut_trans (KeepsBut_mono h fun _ => List.mem_append_left m) (KeepsBut_mono h' fun _ => List.mem_append_right l)

/-- A loop changes no more than its body may. -/
theorem keeps_forEach {α : Type} {l : List Part} {f : State → α → State} (hf : ∀ s x, KeepsBut l s (f s x))
    (xs : List α) (s : State) : KeepsBut l s (s.forEach xs f) := by
  induction xs generalizing s with
  | nil => exact KeepsBut_refl l s
  | cons x xs ih => exact KeepsBut_trans (hf s x) (ih (f s x))

theorem keeps_setJrn (s : State) (j : Jrn) : KeepsBut [.jrn] s (s.setJrn j) :=
  ⟨rfl, fun p hp => by cases p <;> simp_all [Part.same]⟩

theorem keeps_setHost (s : State) (x : HostIf) : KeepsBut [.host] s (s.setHost x) :=
  ⟨rfl, fun p hp => by cases p <;> simp_all [Part.same]⟩

theorem keeps_setImg (s : State) (x : Img) : KeepsBut [.img] s (s.setImg x) :=
  ⟨rfl, fun p hp => by cases p <;> simp_all [Part.same]⟩

theorem keeps_updBru (s : State) (f : Bru → Bru) : KeepsBut [.bru] s (s.updBru f) :=
  ⟨rfl, fun p hp => by cases p <;> simp_all [Part.same]⟩

theorem keeps_setRouter (s : State) (px py : Nat) (x : Router) : KeepsBut [.mesh] s (s.setRouter px py x) :=
  ⟨rfl, fun p hp => by cases p <;> simp_all [Part.same]⟩

/-- A change of the tiles' table. -/
theorem keeps_tiles (s : State) (x : NatMap Tile) : KeepsBut [.tiles] s { s with tiles := x } :=
  ⟨rfl, fun p hp => by cases p <;> simp_all [Part.same]⟩

/-- A change of the mesh. -/
theorem keeps_mesh (s : State) (x : Mesh) : KeepsBut [.mesh] s { s with mesh := x } :=
  ⟨rfl, fun p hp => by cases p <;> simp_all [Part.same]⟩

theorem keeps_updBru_post (s : State) (f : Bru → Bru) (a b c d : Nat) :
    KeepsBut [.bru, .io] s ((s.updBru f).post a b c d) := KeepsBut_append (keeps_updBru s f) (keeps_post _ a b c d)

/-! ### Answers -/

/-- What a step may change that goes through `actJrn`. -/
def jrnParts : List Part :=
  [.regs, .tiles, .herds, .mesh, .stks, .snaps, .macs, .jrn, .bru, .flt, .host, .io]

section Answers

variable {i : Instr} {f : State → State} {s u : State} {l : List Part} {P : State → Prop}

/-- A command whose function changes nothing. -/
theorem exec_of_act_same (hi : exec i s = act f s) (hf : f s = s) : exec i s = .next s := by rw [hi, act, hf]

/-- A command whose function keeps the fuses and the queue answers its function's state. -/
theorem runs_of_act (hi : exec i s = act f s) (hf : f s = u) (hk : KeepsBut l s u) (hl : Part.fuses ∉ l) (h : P u) :
    Runs i s P := by
  subst hf
  obtain ⟨t, ht, hP⟩ := run_act f s P (hk.2 .fuses hl) hk.1 h
  exact ⟨t, hi.trans ht, hP⟩

/-- A command of the journal whose function changes nothing. -/
theorem exec_of_actJrn_same (hi : exec i s = actJrn f s) (hf : f s = s) : exec i s = .next s := by rw [hi, actJrn, hf]

/-- A command of the journal whose function changes no more than it may answers its function's state. -/
theorem runs_of_actJrn (hi : exec i s = actJrn f s) (hf : f s = u) (hk : KeepsBut l s u) (hl : l ⊆ jrnParts) (h : P u) :
    Runs i s P := by
  subst hf
  obtain ⟨t, ht, hP⟩ := run_actJrn f s l P hk hl h
  exact ⟨t, hi.trans ht, hP⟩

end Answers

end Sys2Proof.Proofs.Frames
end

section
/-! Lines of a stack in service: a read of a stack without errors changes nothing, and bytes written over whole lines
read back (R161, R162, R166, R201). -/

namespace Sys2Proof.Proofs.StackLines

open Sys2Proof.Machine Sys2Proof.Safety Sys2Proof.Laws Sys2Proof.Proofs.Frames

/-! ### Bytes -/

theorem Mem.write_append (xs ys : List Byte) (m : Mem) (a : Nat) :
    Mem.write m a (xs ++ ys) = Mem.write (Mem.write m a xs) (a + xs.length) ys := by
  induction xs generalizing m a with
  | nil => rfl
  | cons x xs ih =>
    rw [List.cons_append, Mem.write, Mem.write, ih, List.length_cons, Nat.add_assoc, Nat.add_comm 1]

/-- Bytes read back where they were written. -/
theorem Mem.read_write_same (m : Mem) (a : Nat) (bs : List Byte) : Mem.read (Mem.write m a bs) a bs.length = bs := by
  rw [Mem.read_eq]
  refine List.ext_getElem (by simp) fun i hi hi' => ?_
  simp [Mem.byte_write, hi']

/-- A read outside what was written. -/
theorem Mem.read_write_apart (m : Mem) (a : Nat) (bs : List Byte) (b n : Nat) (h : b + n ≤ a ∨ a + bs.length ≤ b) :
    Mem.read (Mem.write m a bs) b n = Mem.read m b n := by
  rw [Mem.read_eq, Mem.read_eq]
  refine List.map_congr_left fun i hi => ?_
  have := List.mem_range.1 hi
  rw [Mem.byte_write, if_neg (by omega)]

theorem BytesBut_write (m : Mem) (a : Nat) (bs : List Byte) : BytesBut a bs.length m (Mem.write m a bs) := by
  intro x hx
  rw [Mem.byte_write, if_neg (by omega)]

/-- A slice within a list pads nothing. -/
theorem slice_of_le {bs : List Byte} {a n : Nat} (h : a + n ≤ bs.length) : slice bs a n = (bs.drop a).take n := by
  have hlen : ((bs.drop a).take n).length = n := by simp; omega
  simp [slice, hlen]

/-! ### Reading -/

/-- A stack in service none of whose lines holds an error. -/
structure CleanStack (s : State) (k : Nat) : Prop where
  serves : s.stkServes k = true
  bad    : (s.stk k).bad = []
  corr   : (s.stk k).corr = []
  odie   : (s.stk k).odie = []

section Clean

variable {s : State} {k : Nat} (h : CleanStack s k)
include h

/-- Neither ECC code has anything to correct. -/
theorem correct_clean (l : Nat) : s.correct k l = s := by
  simp [State.correct, State.when, h.corr, h.odie]

theorem readLine_clean (l : Nat) (src : Option Src) : s.readLine k l src = ⟨s, (s.stk k).line l, false⟩ := by
  have hgood : s.lineGood k l = true := by simp [State.lineGood, h.serves, h.bad]
  simp [State.readLine, h.serves, correct_clean h, hgood]

theorem readUntil_clean (src : Option Src) (l n : Nat) : (s.readUntil k src l n).state = s := by
  induction n generalizing l with
  | zero => rfl
  | succ n ih => simp [State.readUntil, readLine_clean h, ih]

theorem readCopy_clean (off n : Nat) : (s.readCopy k off n).state = s := by
  unfold State.readCopy
  split
  · exact readUntil_clean h _ _ _
  · rfl

theorem readSects_clean (es : List ResSect) : (s.readSects k es).state = s := by
  induction es with
  | nil => rfl
  | cons e es ih =>
    simp only [State.readSects, readCopy_clean h]
    split
    · rfl
    · exact ih

end Clean

/-- Reading the copies of stacks without errors changes nothing. -/
theorem readCopies_clean {s : State} {ks : List Nat} (h : ∀ k ∈ ks, CleanStack s k) : (s.readCopies ks).state = s := by
  induction ks with
  | nil => rfl
  | cons k ks ih =>
    have hk : (s.readSects k s.img.resident).state = s := readSects_clean (h k List.mem_cons_self) _
    have hks := ih fun j hj => h j (List.mem_cons_of_mem k hj)
    simp only [State.readCopies]
    split
    · split
      · rw [hk]; exact hks
      · exact hk
    · rfl

theorem checkCopies_clean {s : State} (h : ∀ k, s.stkServes k = true → CleanStack s k) : s.checkCopies.state = s := by
  unfold State.checkCopies
  split
  · rfl
  · exact readCopies_clean fun k hk => h k (List.mem_filter.1 hk).2

theorem herdEntry_clean {s : State} {h : Nat} (hk : CleanStack s (s.homeStack h)) : (s.herdEntry h).state = s := by
  simp only [State.herdEntry]
  split
  · rfl
  · split
    · exact readSects_clean hk _
    · exact readCopy_clean hk _ _

/-! ### Writing -/

/-- Bytes have been written to a stack in service from an address on, and nothing else but mirror copies has been asked
for. -/
structure Wrote (k a : Nat) (bs : List Byte) (s t : State) : Prop where
  serves : t.stkServes k = true
  mem    : (t.stk k).mem = Mem.write (s.stk k).mem a bs
  others : StksBut [k] s t
  keeps  : KeepsBut [.stks] s t

theorem Wrote.nil {k : Nat} (a : Nat) {s : State} (h : s.stkServes k = true) : Wrote k a [] s s :=
  ⟨h, rfl, fun _ _ => rfl, KeepsBut_refl _ s⟩

theorem Wrote.append {k a : Nat} {xs ys : List Byte} {s t u : State} (h : Wrote k a xs s t)
    (h' : Wrote k (a + xs.length) ys t u) : Wrote k a (xs ++ ys) s u where
  serves := h'.serves
  mem := by rw [h'.mem, h.mem, Mem.write_append]
  others j hj := (h'.others j hj).trans (h.others j hj)
  keeps := KeepsBut_trans h.keeps h'.keeps

/-- A line written to a stack in service: the stack takes it, whether or not a copy waits for the partner. -/
theorem writeLine_serves {s : State} {k : Nat} (h : s.stkServes k = true) (l : Nat) (bs : List Byte) :
    ∃ cs, s.writeLine k l bs = s.setStk k { (s.stk k).writeLine l bs with copies := cs } := by
  unfold State.writeLine
  split
  · rw [if_pos h]
    by_cases hdown : (s.stk (partner k)).st = .down
    · exact ⟨_, by simp only [State.updStk, if_pos hdown]; rfl⟩
    · exact ⟨_, by simp only [State.updStk, if_neg hdown]; rfl⟩
  · rw [if_pos h]
    exact ⟨_, rfl⟩

theorem wrote_writeLine {s : State} {k : Nat} (h : s.stkServes k = true) (l : Nat) {bs : List Byte}
    (hlen : bs.length = 64) : Wrote k (l * 64) bs s (s.writeLine k l bs) := by
  obtain ⟨cs, heq⟩ := writeLine_serves h l bs
  have hbs : slice bs 0 64 = bs := by rw [slice_of_le (by omega)]; simp [← hlen]
  rw [heq]
  refine ⟨?_, ?_, fun j hj => ?_, keeps_setStk s k _⟩
  · simpa [State.stkServes, Stk.writeLine] using h
  · simp [Stk.writeLine, hbs]
  · simp_all

/-- Lines written one after another hold the first bytes of what is written. -/
theorem wrote_lines {s : State} {k : Nat} (h : s.stkServes k = true) (l : Nat) (bs : List Byte) (n : Nat)
    (hn : 64 * n ≤ bs.length) : Wrote k (l * 64) (bs.take (64 * n)) s
      ((List.range n).foldl (fun s i => s.writeLine k (l + i) (slice bs (64 * i) 64)) s) := by
  induction n with
  | zero => exact Wrote.nil _ h
  | succ n ih =>
    have hfirst := ih (by omega)
    have hslice : slice bs (64 * n) 64 = (bs.drop (64 * n)).take 64 := slice_of_le (by omega)
    have hline := wrote_writeLine hfirst.serves (l + n) (bs := slice bs (64 * n) 64) (by rw [hslice]; simp; omega)
    rw [show (l + n) * 64 = l * 64 + (bs.take (64 * n)).length by simp; omega] at hline
    have htake : bs.take (64 * (n + 1)) = bs.take (64 * n) ++ slice bs (64 * n) 64 := by
      rw [hslice, ← List.take_add, Nat.mul_succ]
    rw [List.range_succ, List.foldl_append, htake]
    exact hfirst.append hline

/-- Whole lines written to a stack in service. -/
theorem wrote_writeLines {s : State} {k : Nat} (h : s.stkServes k = true) (l : Nat) {bs : List Byte}
    (hlen : bs.length % 64 = 0) (src : Src) : Wrote k (l * 64) bs s (s.writeLines k l bs src) := by
  have hn : 64 * ceilDiv bs.length 64 = bs.length := by unfold ceilDiv; omega
  have hw := wrote_lines h l bs (ceilDiv bs.length 64) hn.le
  rw [hn, List.take_length] at hw
  rw [State.writeLines, if_pos (by simp [State.writable, h])]
  exact hw

end Sys2Proof.Proofs.StackLines
end

section
/-! The parts of the journal and of the herd transport: what a read of a pair, a stream's state or a peer gives after each
update, and what sending a message does (R45, R46, R355). -/

namespace Sys2Proof.Proofs.Transport

open Sys2Proof.Machine Sys2Proof.Safety Sys2Proof.Laws Sys2Proof.Proofs.Frames

/-! ### Pairs, streams and peers -/

@[simp] theorem pair_setPair (s : State) (p q : Nat) (x : Pair) :
    (s.setPair p x).jrn.pair q = if q = p then x else s.jrn.pair q := NatMap.get_put ..

@[simp] theorem streamSt_setPair (s : State) (p n : Nat) (x : Pair) :
    (s.setPair p x).jrn.streamSt n = s.jrn.streamSt n := rfl

@[simp] theorem streamSt_setStreamSt (s : State) (n m : Nat) (x : StreamSt) :
    (s.setStreamSt n x).jrn.streamSt m = if m = n then x else s.jrn.streamSt m := NatMap.get_put ..

@[simp] theorem pair_setStreamSt (s : State) (n q : Nat) (x : StreamSt) :
    (s.setStreamSt n x).jrn.pair q = s.jrn.pair q := rfl

@[simp] theorem peer_setPeer (s : State) (w v : Nat) (x : Peer) :
    (s.setPeer w x).peer v = if v = w then x else s.peer v := NatMap.get_put ..

theorem keeps_setPair (s : State) (p : Nat) (x : Pair) : KeepsBut [.jrn] s (s.setPair p x) := keeps_setJrn s _

theorem keeps_setStreamSt (s : State) (n : Nat) (x : StreamSt) : KeepsBut [.jrn] s (s.setStreamSt n x) := keeps_setJrn s _

theorem keeps_setPeer (s : State) (w : Nat) (x : Peer) : KeepsBut [.jrn] s (s.setPeer w x) := keeps_setJrn s _

/-! ### A message in the herd transport class of a port -/

@[simp] theorem jrn_htQueue (s : State) (m : Nat) (msg : HtMsg) : (s.htQueue m msg).jrn = s.jrn := by
  unfold State.htQueue
  split <;> rfl

theorem keeps_htQueue (s : State) (m : Nat) (msg : HtMsg) : KeepsBut [.macs] s (s.htQueue m msg) := by
  unfold State.htQueue
  split
  · exact keeps_updMac s m _
  · exact KeepsBut_refl _ s

theorem ht_htQueue (s : State) (m : Nat) (msg : HtMsg) (n : Nat) :
    ((s.htQueue m msg).mac n).ht = (s.mac n).ht ++ (if n = m ∧ n < 16 then [.msg msg] else []) := by
  unfold State.htQueue
  by_cases hm : m < 16
  · by_cases hn : n = m
    · subst hn; simp [hm]
    · simp [hm, hn]
  · rw [if_neg hm, if_neg (by omega), List.append_nil]

/-! ### Sending -/

/-- The message that a wafer sends next to a peer with a body. -/
def nextMsg (s : State) (w : Fin 256) (body : HtBody) : HtMsg :=
  { peer := w, seq := BitVec.ofNat 64 (NatMap.get (s.peer w).txSeq 1 (htChan body)), body := body }

/-- A peer's state after a message to it that needs a credit. -/
def sentTo (s : State) (w : Fin 256) (body : HtBody) : Peer :=
  { s.peer w with
    credits := (s.peer w).credits - 1
    txSeq := NatMap.ins (s.peer w).txSeq (htChan body) (NatMap.get (s.peer w).txSeq 1 (htChan body) + 1)
    unacked := (s.peer w).unacked ++ [(s.htTakes, nextMsg s w body)] }

/-- A message that takes a credit of its peer: the peer's state and the port's queue. -/
theorem htSend_takeCredit (s : State) (w : Fin 256) (body : HtBody) :
    (s.takeCredit w).htSend w body =
      ((s.takeCredit w).setPeer w (sentTo s w body)).htQueue s.htTakes (nextMsg s w body) := by
  have hpeer : (s.takeCredit w).peer w = { s.peer w with credits := (s.peer w).credits - 1 } := by simp [State.takeCredit]
  simp only [State.htSend, hpeer]
  rfl

section Sent

variable (s : State) (w : Fin 256) (body : HtBody)

theorem peer_sent : ((s.takeCredit w).htSend w body).peer w = sentTo s w body := by
  rw [htSend_takeCredit, State.peer, jrn_htQueue]
  exact (peer_setPeer ..).trans (if_pos rfl)

theorem peer_sent_other {v : Nat} (hv : v ≠ w) : ((s.takeCredit w).htSend w body).peer v = s.peer v := by
  rw [htSend_takeCredit, State.peer, jrn_htQueue]
  calc ((s.takeCredit w).setPeer w (sentTo s w body)).peer v
      = (s.takeCredit w).peer v := by rw [peer_setPeer, if_neg hv]
    _ = s.peer v := by rw [State.takeCredit, peer_setPeer, if_neg hv]

theorem ht_sent (m : Nat) : (((s.takeCredit w).htSend w body).mac m).ht =
    (s.mac m).ht ++ (if m = s.htTakes ∧ m < 16 then [.msg (nextMsg s w body)] else []) := by
  rw [htSend_takeCredit, ht_htQueue]
  rfl

/-- Of the journal sending changes the peers alone. -/
theorem jrn_sent : ((s.takeCredit w).htSend w body).jrn =
    { s.jrn with peers := ((s.takeCredit w).htSend w body).jrn.peers } := by
  rw [htSend_takeCredit, jrn_htQueue]
  rfl

theorem keeps_sent : KeepsBut [.macs, .jrn] s ((s.takeCredit w).htSend w body) := by
  rw [htSend_takeCredit]
  have hpeers := KeepsBut_trans (keeps_setPeer s w _) (keeps_setPeer (s.takeCredit w) w (sentTo s w body))
  exact KeepsBut_mono (KeepsBut_append hpeers (keeps_htQueue _ _ _)) (by decide)

end Sent

end Sys2Proof.Proofs.Transport
end

section
/-! What the load of a herd's sections leaves: the herd LOADED with its sequence, each of its tiles at its start with its
program, and nothing else changed but routers (R133, R142, R143, R188, R189, R197). -/

namespace Sys2Proof.Proofs.HerdLoads

open Sys2Proof.Machine Sys2Proof.Safety Sys2Proof.Laws Sys2Proof.Proofs.Frames

/-! ### Loops over tiles -/

/-- Two loop bodies that agree while a property holds, which the second keeps. -/
theorem forEach_congr {α : Type} {f g : State → α → State} (P : State → Prop)
    (hfg : ∀ s x, P s → f s x = g s x) (hg : ∀ s x, P s → P (g s x)) {s : State} (hs : P s) (xs : List α) :
    s.forEach xs f = s.forEach xs g := by
  induction xs generalizing s with
  | nil => rfl
  | cons x xs ih =>
    show (f s x).forEach xs f = (g s x).forEach xs g
    rw [hfg s x hs]
    exact ih (hg s x hs)

/-- A loop that changes tiles leaves those that it does not name. -/
theorem tile_forEach_updTile_other {α : Type} (key : α → Nat) (g : α → Tile → Tile) {k : Nat} (xs : List α)
    (hk : ∀ x ∈ xs, key x ≠ k) (s : State) : (s.forEach xs fun s x => s.updTile (key x) (g x)).tile k = s.tile k := by
  induction xs generalizing s with
  | nil => rfl
  | cons x xs ih =>
    have hhead : (s.updTile (key x) (g x)).tile k = s.tile k := by
      rw [tile_updTile, if_neg (hk x List.mem_cons_self).symm]
    exact (ih (fun y hy => hk y (List.mem_cons_of_mem x hy)) _).trans hhead

/-- A loop that names each tile once changes each of them by its own function. -/
theorem tile_forEach_updTile {α : Type} (key : α → Nat) (g : α → Tile → Tile) {xs : List α} (hnd : (xs.map key).Nodup)
    {x : α} (hx : x ∈ xs) (s : State) :
    (s.forEach xs fun s x => s.updTile (key x) (g x)).tile (key x) = g x (s.tile (key x)) := by
  induction xs generalizing s with
  | nil => cases hx
  | cons y xs ih =>
    obtain ⟨hy, hnd⟩ := List.nodup_cons.1 hnd
    rcases List.mem_cons.1 hx with rfl | hx
    · have hother := tile_forEach_updTile_other key g xs (k := key x)
        (fun z hz he => hy (he ▸ List.mem_map_of_mem hz)) (s.updTile (key x) (g x))
      exact hother.trans (by rw [tile_updTile, if_pos rfl])
    · have hne : key x ≠ key y := fun he => hy (he ▸ List.mem_map_of_mem hx)
      exact (ih hnd hx _).trans (by rw [tile_updTile, if_neg hne])

/-! ### The tiles of a herd -/

/-- The key of the tile at a position of a herd, row after row. -/
def tileOf (h pos : Nat) : Nat := tileKey (h % 32 * 32 + pos % 32) (h / 32 * 32 + pos / 32)

theorem tileOf_injOn {h p q : Nat} (hp : p < 1024) (hq : q < 1024) (e : tileOf h p = tileOf h q) :
    p = q := by
  unfold tileOf tileKey at e
  omega

theorem herdOfKey_tileOf {h pos : Nat} (hh : h < 1024) (hp : pos < 1024) : herdOfKey (tileOf h pos) = h := by
  have hrow : h / 32 * 32 + pos / 32 < 1024 := by omega
  have hx : keyX (tileOf h pos) = h % 32 * 32 + pos % 32 := by unfold keyX tileOf tileKey; omega
  have hy : keyY (tileOf h pos) = h / 32 * 32 + pos / 32 := by unfold keyY tileOf tileKey; omega
  rw [herdOfKey, hx, hy]
  omega

theorem tileOf_row_column {h x y : Nat} (hx : x < 32) :
    tileOf h (y * 32 + x) = tileKey (h % 32 * 32 + x) (h / 32 * 32 + y) := by
  unfold tileOf
  congr 2 <;> omega

theorem nodup_tilesOf (h : Nat) : ((List.range 1024).map (tileOf h)).Nodup :=
  List.nodup_range.map_on fun _ hp _ hq e => tileOf_injOn (List.mem_range.1 hp) (List.mem_range.1 hq) e

theorem tile_mapTiles (s : State) (h : Nat) {f : Tile → Tile} (hf : f Tile.reset = Tile.reset) (k : Nat) :
    (s.mapTiles h f).tile k = if herdOfKey k = h then f (s.tile k) else s.tile k := by
  have hget := NatMap.get_mapIf s.tiles Tile.reset (fun k => decide (herdOfKey k = h)) f hf k
  simp only [decide_eq_true_eq] at hget
  exact hget

/-! ### RESET_TILES -/

theorem tile_clearTiles (s : State) {h k : Nat} (hk : herdOfKey k = h) : (s.clearTiles h).tile k = (s.tile k).clear := by
  show (s.mapTiles h Tile.clear).tile k = _
  rw [tile_mapTiles s h rfl, if_pos hk]

theorem keeps_clearTiles (s : State) (h : Nat) : KeepsBut [.tiles, .herds] s (s.clearTiles h) :=
  KeepsBut_append (keeps_tiles s _) (keeps_updHerd (s.mapTiles h Tile.clear) h _)

/-! ### Programs -/

/-- A tile that takes a program, or none. -/
def programmed (p : Option (List Byte)) (t : Tile) : Tile :=
  { t with prog := Mem.write [] 0 (p.getD []), hasProg := p.isSome, bad := t.bad.filter (fun e => decide (e.1 < sramWords)) }

/-- The program that a TILE_PROGRAMS section gives a position. -/
def programAt (s : State) (bs : List Byte) (pos : Nat) : Option (List Byte) :=
  programOf bs s.bru.fw (nthD bs (8 + pos) 0).toNat

/-- Every position takes the program that the section gives it, under the firmware before the load. -/
theorem applyPrograms_some (s : State) (h : Nat) (bs : List Byte) : s.applyPrograms h (some bs) =
    s.forEach (List.range 1024) fun t pos => t.updTile (tileOf h pos) (programmed (programAt s bs pos)) := by
  simp only [State.applyPrograms]
  refine forEach_congr (fun t => t.bru = s.bru) (fun t pos ht => ?_) (fun t pos ht => ?_) rfl _
  · simp only [programAt, ← ht]
    rfl
  · exact ht

theorem keeps_applyPrograms (s : State) (h : Nat) (p : Option (List Byte)) : KeepsBut [.tiles] s (s.applyPrograms h p) := by
  cases p with
  | none => exact keeps_tiles s _
  | some bs =>
    rw [applyPrograms_some]
    exact keeps_forEach (fun t pos => keeps_updTile t _ _) _ s

theorem tile_applyPrograms (s : State) {h pos : Nat} (hpos : pos < 1024) (bs : List Byte) :
    (s.applyPrograms h (some bs)).tile (tileOf h pos) = programmed (programAt s bs pos) (s.tile (tileOf h pos)) := by
  rw [applyPrograms_some]
  exact tile_forEach_updTile (tileOf h) (fun pos => programmed (programAt s bs pos)) (nodup_tilesOf h) (List.mem_range.2 hpos) s

/-- The tiles with a program, and the program of each kind of map byte (R188). -/
theorem isSome_programOf (bs fw : List Byte) (m : Nat) : (programOf bs fw m).isSome = decide (m ≠ 0xFE) := by
  unfold programOf
  split_ifs <;> simp_all

theorem programOf_own (bs fw : List Byte) {m : Nat} (h : m < 0xFE) :
    programOf bs fw m = some (slice bs (fld bs (1032 + 8 * m) 4) (fld bs (1036 + 8 * m) 4)) := by
  rw [programOf, if_neg (by omega), if_neg (by omega), show 1036 + 8 * m = 1032 + 8 * m + 4 by omega]

theorem programOf_common (bs fw : List Byte) : programOf bs fw 0xFF = some fw := rfl

/-! ### Routers -/

theorem keeps_updRouter (s : State) (key : Nat) (f : Router → Router) : KeepsBut [.mesh] s (s.updRouter key f) :=
  keeps_setRouter s _ _ _

theorem keeps_applyRouteLocal (s : State) (h : Nat) (p : List Byte) : KeepsBut [.mesh] s (s.applyRouteLocal h p) :=
  KeepsBut_trans (keeps_forEach (fun t _ => keeps_updRouter t _ _) _ s) (keeps_forEach (fun t _ => keeps_updRouter t _ _) _ _)

theorem keeps_applyBcast (s : State) (p : List Byte) : KeepsBut [.mesh] s (s.applyBcast p) :=
  keeps_forEach (fun t _ => keeps_updRouter t _ _) _ s

theorem keeps_refillTrees (s : State) : KeepsBut [.mesh] s s.refillTrees :=
  KeepsBut_trans (keeps_mesh s _) (keeps_forEach (fun t _ => keeps_updRouter t _ _) _ _)

/-- The routers of a load: local tables and broadcast entries of the herd, then the fills (R133). -/
def loadRoutes (s : State) (h : Nat) (sects : List Sect) : State :=
  let s := s.clearHerdRoutes (s.pherd h)
  let s := match sectOf sects SecType.routeLocal h with
    | some p => s.applyRouteLocal h p
    | none => s
  let s := match sectOf sects SecType.bcastTrees h with
    | some p => s.applyBcast p
    | none => s
  s.refillTrees

theorem keeps_loadRoutes (s : State) (h : Nat) (sects : List Sect) : KeepsBut [.mesh] s (loadRoutes s h sects) := by
  have hclear : KeepsBut [.mesh] s (s.clearHerdRoutes (s.pherd h)) := keeps_mesh s _
  have hlocal (t : State) : KeepsBut [.mesh] t (match sectOf sects SecType.routeLocal h with
      | some p => t.applyRouteLocal h p
      | none => t) := by
    split
    · exact keeps_applyRouteLocal t h _
    · exact KeepsBut_refl _ t
  have htrees (t : State) : KeepsBut [.mesh] t (match sectOf sects SecType.bcastTrees h with
      | some p => t.applyBcast p
      | none => t) := by
    split
    · exact keeps_applyBcast t _
    · exact KeepsBut_refl _ t
  exact KeepsBut_trans (KeepsBut_trans (KeepsBut_trans hclear (hlocal _)) (htrees _)) (keeps_refillTrees _)

/-! ### Initial values -/

/-- A tile has the program, the sequencer's state and the position in it that another has. -/
structure SameProgram (t u : Tile) : Prop where
  prog    : u.prog = t.prog
  hasProg : u.hasProg = t.hasProg
  run     : u.run = t.run
  pc      : u.pc = t.pc

theorem SameProgram.refl (t : Tile) : SameProgram t t := ⟨rfl, rfl, rfl, rfl⟩

theorem SameProgram.trans {t u v : Tile} (h : SameProgram t u) (h' : SameProgram u v) : SameProgram t v :=
  ⟨h'.prog.trans h.prog, h'.hasProg.trans h.hasProg, h'.run.trans h.run, h'.pc.trans h.pc⟩

theorem sameProgram_writeReg (t : Tile) (off : Nat) (v : Word) (mask : Nat) : SameProgram t (t.writeReg off v mask) := by
  unfold Tile.writeReg
  split_ifs <;> exact ⟨rfl, rfl, rfl, rfl⟩

theorem sameProgram_put (t : Tile) (addr : Nat) (bs : List Byte) : SameProgram t (t.put addr bs) := by
  obtain ⟨hprog, hhas, -, -, hpc, hrun, -⟩ := put_keeps t addr bs
  exact ⟨hprog, hhas, hrun, hpc⟩

theorem sameProgram_apply (r : InitRec) (t : Tile) : SameProgram t (r.apply t) := by
  unfold InitRec.apply
  split
  · exact sameProgram_writeReg t _ _ _
  · exact sameProgram_put t _ _

/-- Every tile of a state has the program and the sequencer's state that it has in another. -/
def SamePrograms (s t : State) : Prop := ∀ k, SameProgram (s.tile k) (t.tile k)

theorem samePrograms_updTile (s : State) (k : Nat) {f : Tile → Tile} (hf : ∀ t, SameProgram t (f t)) :
    SamePrograms s (s.updTile k f) := by
  intro j
  rw [tile_updTile]
  split
  · next hj => rw [hj]; exact hf _
  · exact SameProgram.refl _

theorem samePrograms_forEach {α : Type} {f : State → α → State} (hf : ∀ s x, SamePrograms s (f s x)) (xs : List α)
    (s : State) : SamePrograms s (s.forEach xs f) := by
  induction xs generalizing s with
  | nil => exact fun _ => SameProgram.refl _
  | cons x xs ih => exact fun k => (hf s x k).trans (ih (f s x) k)

theorem applyInit_frame (s : State) (h : Nat) (p : List Byte) :
    SamePrograms s (s.applyInit h p) ∧ KeepsBut [.tiles] s (s.applyInit h p) := by
  constructor
  · refine samePrograms_forEach (fun t r => ?_) _ s
    dsimp only
    split
    · exact samePrograms_forEach (fun u _ => samePrograms_updTile u _ (sameProgram_apply r)) _ t
    · exact samePrograms_updTile t _ (sameProgram_apply r)
  · refine keeps_forEach (fun t r => ?_) _ s
    dsimp only
    split
    · exact keeps_forEach (fun u _ => keeps_updTile u _ _) _ t
    · exact keeps_updTile t _ _

/-! ### The load -/

/-- A herd controller with the sections of a load. -/
def loadedHerd (h : Nat) (sects : List Sect) (x : Herd) : Herd :=
  let seq := match sectOf sects SecType.herdSeq h with
    | some p => seqWords p
    | none => []
  { x with
    seq := seq, seqPos := if seq.isEmpty then none else some 0, timer := false, barrier := none
    hasProg := (sectOf sects SecType.tilePrograms h).isSome
    init := (sectOf sects SecType.tileInit h).getD [] }

theorem loadedHerd_seq (h : Nat) (sects : List Sect) (x : Herd) :
    (loadedHerd h sects x).seq = ((sectOf sects SecType.herdSeq h).map seqWords).getD [] := by
  unfold loadedHerd
  cases sectOf sects SecType.herdSeq h <;> rfl

/-- The load up to the initial values: RESET_TILES, the programs, the routers, the herd controller. -/
def loadedButInit (s : State) (h : Nat) (sects : List Sect) : State :=
  (loadRoutes ((s.clearTiles h).applyPrograms h (sectOf sects SecType.tilePrograms h)) h sects).updHerd h (loadedHerd h sects)

theorem loadHerd_eq (s : State) (h : Nat) (sects : List Sect) : s.loadHerd h sects =
    match sectOf sects SecType.tileInit h with
    | some p => (loadedButInit s h sects).applyInit h p
    | none => loadedButInit s h sects := rfl

theorem loadHerd_after_init (s : State) (h : Nat) (sects : List Sect) :
    SamePrograms (loadedButInit s h sects) (s.loadHerd h sects) ∧ KeepsBut [.tiles] (loadedButInit s h sects) (s.loadHerd h sects) := by
  rw [loadHerd_eq]
  split
  · exact applyInit_frame _ h _
  · exact ⟨fun _ => SameProgram.refl _, KeepsBut_refl _ _⟩

theorem keeps_loadHerd (s : State) (h : Nat) (sects : List Sect) : KeepsBut [.tiles, .herds, .mesh] s (s.loadHerd h sects) := by
  obtain ⟨-, hinit⟩ := loadHerd_after_init s h sects
  have hprog := KeepsBut_append (keeps_clearTiles s h) (keeps_applyPrograms _ h (sectOf sects SecType.tilePrograms h))
  have hherd := KeepsBut_append (KeepsBut_append hprog (keeps_loadRoutes _ h sects)) (keeps_updHerd _ h (loadedHerd h sects))
  exact KeepsBut_mono (KeepsBut_append hherd hinit) (by decide)

/-- The herd controllers after a load: the herd's own is LOADED with its sections. -/
theorem herd_loadHerd (s : State) (h : Nat) (sects : List Sect) (k : Nat) :
    (s.loadHerd h sects).herd k = if k = h then loadedHerd h sects ((s.clearTiles h).herd h) else s.herd k := by
  obtain ⟨-, hinit⟩ := loadHerd_after_init s h sects
  have hprog : ((s.clearTiles h).applyPrograms h (sectOf sects SecType.tilePrograms h)).herds = (s.clearTiles h).herds :=
    (keeps_applyPrograms _ h _).2 .herds (by decide)
  have hroutes := (keeps_loadRoutes ((s.clearTiles h).applyPrograms h (sectOf sects SecType.tilePrograms h)) h sects).2
    .herds (by decide)
  have hsame (j : Nat) : (loadRoutes ((s.clearTiles h).applyPrograms h (sectOf sects SecType.tilePrograms h)) h sects).herd j =
      (s.clearTiles h).herd j := by
    rw [State.herd, hroutes, hprog]; rfl
  have hlast : (s.loadHerd h sects).herd k = (loadedButInit s h sects).herd k := by
    rw [State.herd, hinit.2 .herds (by decide)]; rfl
  rw [hlast, loadedButInit, herd_updHerd, hsame, hsame]
  split
  · rfl
  · next hk => rw [State.clearTiles, herd_updHerd, if_neg hk]; rfl

/-- A tile of the herd after a load with programs: as RESET_TILES leaves it, with the program of its position. -/
theorem tile_loadHerd (s : State) {h pos : Nat} (hh : h < 1024) (hpos : pos < 1024) {sects : List Sect} {bs : List Byte}
    (hbs : sectOf sects SecType.tilePrograms h = some bs) :
    SameProgram (programmed (programAt s bs pos) (s.tile (tileOf h pos)).clear) ((s.loadHerd h sects).tile (tileOf h pos)) := by
  obtain ⟨hinit, -⟩ := loadHerd_after_init s h sects
  have hroutes := (keeps_loadRoutes ((s.clearTiles h).applyPrograms h (some bs)) h sects).2 .tiles (by decide)
  have htile : (loadedButInit s h sects).tile (tileOf h pos) =
      ((s.clearTiles h).applyPrograms h (some bs)).tile (tileOf h pos) := by
    rw [loadedButInit, hbs, tile_after_updHerd, State.tile, hroutes]; rfl
  have hlast := hinit (tileOf h pos)
  rw [htile, tile_applyPrograms _ hpos, tile_clearTiles s (herdOfKey_tileOf hh hpos)] at hlast
  exact hlast

end Sys2Proof.Proofs.HerdLoads
end

section
/-! START and ABORT, a relayed part of an image, and the reload of a resident entry (R44, R46, R195, R196, R201). -/

namespace Sys2Proof.Proofs.LoadCommands

open Sys2Proof.Machine Sys2Proof.Safety Sys2Proof.Laws
open Sys2Proof.Proofs.Frames Sys2Proof.Proofs.StackLines Sys2Proof.Proofs.Transport Sys2Proof.Proofs.HerdLoads

/-! ### The commands' meanings -/

theorem exec_start (s : State) : exec .start s = act (fun s => s.when s.host.linkUp State.imgStart) s := rfl

theorem exec_abort (s : State) : exec .abort s = act (fun s => s.when s.host.linkUp State.imgAbort) s := rfl

theorem exec_imageRelay (w : Fin 256) (off : Nat) (bytes : List Byte) (s : State) :
    exec (.imageRelay ⟨w, off⟩ bytes) s = act (fun s => s.imageRelay w off bytes) s := rfl

theorem exec_residentReload_wafer (s : State) : exec (.residentReload none) s = act (fun s => s.residentReload none) s := rfl

theorem exec_residentReload_herd (h : HerdNo) (s : State) :
    exec (.residentReload (some h)) s = act (fun s => s.residentReload (some h.val)) s := rfl

/-! ### START and ABORT (R196) -/

/-- Over a link that is up a command of the loader's registers takes effect. -/
theorem when_linked {s : State} (hl : Linked s) (f : State → State) : s.when s.host.linkUp f = f s := if_pos hl

theorem runs_start {s : State} (hl : Linked s) (hp : s.img.phase = .idle ∨ s.img.phase = .done) :
    Runs .start s (fun t => t.img = { s.img with phase := .verify, loading := none } ∧ KeepsBut [.img] s t) :=
  have hstart := (when_linked hl State.imgStart).trans (if_pos hp)
  runs_of_act (exec_start s) hstart (keeps_setImg s _) (by decide) ⟨rfl, keeps_setImg s _⟩

theorem runs_start_rejected {s : State} (hl : Linked s) (hp : ¬(s.img.phase = .idle ∨ s.img.phase = .done)) :
    Runs .start s (fun t => t.rd Reg.IMG_LOAD_STATUS_REJECTED = 1 ∧
      RegsBut [Reg.IMG_LOAD_STATUS] s t ∧ KeepsBut [.regs] s t) :=
  have hstart := (when_linked hl State.imgStart).trans (if_neg hp)
  runs_of_act (exec_start s) hstart (keeps_wr s _ _) (by decide)
    ⟨rd_wr s Reg.IMG_LOAD_STATUS_REJECTED 1 (by decide) (by decide), RegsBut_wr s Reg.IMG_LOAD_STATUS_REJECTED 1, keeps_wr s _ _⟩

theorem runs_abort {s : State} (hl : Linked s) (hp : s.img.phase = .verify) :
    Runs .abort s (fun t => t.img = { s.img with phase := .idle, loading := none } ∧ KeepsBut [.img] s t) :=
  have habort := (when_linked hl State.imgAbort).trans (if_pos hp)
  runs_of_act (exec_abort s) habort (keeps_setImg s _) (by decide) ⟨rfl, keeps_setImg s _⟩

theorem exec_abort_elsewhere {s : State} (hl : Linked s) (hp : s.img.phase ≠ .verify) : exec .abort s = .next s :=
  exec_of_act_same (exec_abort s) ((when_linked hl State.imgAbort).trans (if_neg hp))

/-! ### The host and the staging area (R195, R196) -/

theorem host_may_not_stage {s : State} (hidle : s.img.phase ≠ .idle) (hdone : s.img.phase ≠ .done) (r : Region) {a : Nat}
    (hlo : stagingBase ≤ a) (hhi : a < stagingEnd) : s.allowed 0 r a true (.block hostPort) = false := by
  have hbusy : s.loadBusy = true := decide_eq_true ⟨hidle, hdone⟩
  have hport : hostPort ≠ ibexPort ∧ hostPort ≠ imagePort ∧ hostPort ≠ journalPort := by decide
  obtain ⟨hibex, himage, hjournal⟩ := hport
  rw [State.allowed, if_neg hibex, if_neg himage, if_neg hjournal, if_pos rfl]
  split
  · rfl
  · simp [hbusy, hlo, hhi]

/-! ### Parts of an image (R44, R46, R195) -/

/-- A worker puts the part into its staging area. -/
theorem runs_imageRelay_worker {s : State} {w : Fin 256} {off : Nat} {bytes : List Byte} (hrole : s.role = 2)
    (hw : s.waferIndex = w) (hoff : off % 64 = 0) (hlen : bytes.length % 64 = 0) (hend : off + bytes.length ≤ 2 ^ 30)
    (hbusy : s.loadBusy = false) (hst : (s.stk 0).st = .service) : Runs (.imageRelay ⟨w, off⟩ bytes) s (fun t =>
      Mem.read (t.stk 0).mem (stagingBase + off) bytes.length = bytes ∧
      BytesBut (stagingBase + off) bytes.length (s.stk 0).mem (t.stk 0).mem ∧ StksBut [0] s t ∧ KeepsBut [.stks] s t) := by
  have hfits : stagingBase + off + bytes.length ≤ stagingEnd := by unfold stagingBase stagingEnd; omega
  have hline : (stagingBase + off) / 64 * 64 = stagingBase + off := by unfold stagingBase; omega
  have hrelay : s.imageRelay w off bytes = s.writeLines 0 ((stagingBase + off) / 64) bytes (.block imagePort) := by
    simp [State.imageRelay, hrole, hw, hbusy, State.stageImage, hoff, hfits]
  have hwrote := wrote_writeLines (k := 0) (decide_eq_true hst) ((stagingBase + off) / 64) hlen (.block imagePort)
  rw [hline, ← hrelay] at hwrote
  refine runs_of_act (exec_imageRelay w off bytes s) rfl hwrote.keeps (by decide) ⟨?_, ?_, hwrote.others, hwrote.keeps⟩
  · rw [hwrote.mem]; exact Mem.read_write_same _ _ _
  · rw [hwrote.mem]; exact BytesBut_write _ _ _

/-- While a load runs a worker takes no part. -/
theorem exec_imageRelay_busy {s : State} {w : Fin 256} {off : Nat} {bytes : List Byte} (hrole : s.role = 2)
    (hbusy : s.loadBusy = true) : exec (.imageRelay ⟨w, off⟩ bytes) s = .next s :=
  exec_of_act_same (exec_imageRelay w off bytes s) (by simp [State.imageRelay, hrole, hbusy])

/-- The manager sends the part while it holds a credit of the worker. -/
theorem runs_imageRelay_manager {s : State} {w : Fin 256} {off : Nat} {bytes : List Byte} (hrole : s.role = 1)
    (hon : s.htOn = true) (hlen : bytes.length ≤ 2 ^ 32) (hcredit : 0 < (s.peer w).credits) :
    Runs (.imageRelay ⟨w, off⟩ bytes) s (fun t => ∃ q : Word,
      let msg : HtMsg := { peer := w, seq := q, body := .image off bytes }
      (t.peer w).unacked = (s.peer w).unacked ++ [(s.htTakes, msg)] ∧ (t.peer w).credits = (s.peer w).credits - 1 ∧
      (∀ v, v ≠ w.val → t.peer v = s.peer v) ∧
      (∀ m, (t.mac m).ht = (s.mac m).ht ++ (if m = s.htTakes ∧ m < 16 then [.msg msg] else [])) ∧
      KeepsBut [.macs, .jrn] s t) := by
  have hrelay : s.imageRelay w off bytes = (s.takeCredit w).htSend w (.image off bytes) := by
    rw [State.imageRelay, if_pos hrole, if_pos ⟨hon, hcredit, hlen⟩]
  refine runs_of_act (exec_imageRelay w off bytes s) hrelay (keeps_sent s w _) (by decide)
    ⟨_, ?_, ?_, fun v hv => peer_sent_other s w _ hv, ht_sent s w _, keeps_sent s w _⟩
  · rw [peer_sent]; rfl
  · rw [peer_sent]; rfl

/-- Without a credit of the worker the manager sends nothing. -/
theorem exec_imageRelay_no_credit {s : State} {w : Fin 256} {off : Nat} {bytes : List Byte} (hrole : s.role = 1)
    (hcredit : (s.peer w).credits = 0) : exec (.imageRelay ⟨w, off⟩ bytes) s = .next s :=
  exec_of_act_same (exec_imageRelay w off bytes s) (by simp [State.imageRelay, hrole, hcredit])

/-! ### The resident copies at a warm start (R201) -/

section Warm

variable {s : State} (hclean : ∀ k, s.stkServes k = true → CleanStack s k) (hwarm : s.bru.warm = true)
  (hstage : s.bru.stage = 3) (hwait : s.bru.waitImage = false)
include hclean hwarm hstage hwait

/-- A warm start whose copies are whole reads them and goes on. -/
theorem exec_residentReload_ok (hok : s.residentOk = true) : exec (.residentReload none) s = .next s := by
  refine exec_of_act_same (exec_residentReload_wafer s) ?_
  show s.warmRead = s
  rw [State.warmRead, if_pos ⟨hwarm, hstage, hwait⟩, if_pos hok, checkCopies_clean hclean]

/-- A warm start that finds a copy damaged waits for an image. -/
theorem runs_residentReload_damaged (hok : s.residentOk = false) : Runs (.residentReload none) s (fun t =>
    t.bru = { s.bru with waitImage := true } ∧
    t.io.events.map Event.code = s.io.events.map Event.code ++ [Code.imageCrc] ∧ KeepsBut [.bru, .io] s t) := by
  obtain ⟨d, hread⟩ : ∃ d, s.residentReload none =
      (s.updBru (fun b => { b with waitImage := true })).post Code.imageCrc Source.img 0 d := by
    rw [show s.residentReload none = s.warmRead from rfl, State.warmRead, if_pos ⟨hwarm, hstage, hwait⟩,
      if_neg (by simp [hok]), State.residentBad, checkCopies_clean hclean]
    exact ⟨_, rfl⟩
  exact runs_of_act (exec_residentReload_wafer s) hread (keeps_updBru_post s _ _ _ _ d) (by decide)
    ⟨rfl, List.map_append, keeps_updBru_post s _ _ _ _ d⟩

end Warm

/-! ### The resident entry of a herd (R201) -/

/-- A herd after a reload that found its entry damaged: FAULTED with IMAGE_CRC, whatever it was FAULTED with before. -/
def badEntryHerd (x : Herd) : Herd := faulted Code.imageCrc false { x with fault := Code.imageCrc, stackFault := false }

theorem badEntryHerd_fault (x : Herd) : (badEntryHerd x).fault = Code.imageCrc := by
  unfold badEntryHerd faulted
  split <;> rfl

/-- With no barrier in progress a fault changes its herd alone. -/
theorem faultState_rest {s : State} {h : Nat} (hb : (s.herd h).barrier = none) (code : Nat) (sf : Bool) :
    s.faultState h code sf = s.updHerd h (faulted code sf) := by
  simp only [State.faultState, hb]
  rfl

theorem reloadBad_rest {s : State} {h : Nat} (typ : Nat) (hrest : AtRest s h) :
    (∀ k, (s.reloadBad h typ).herd k = if k = h then badEntryHerd (s.herd h) else s.herd k) ∧
      KeepsBut [.herds, .io] s (s.reloadBad h typ) ∧
      (s.reloadBad h typ).io.events.map Event.code = s.io.events.map Event.code ++ [Code.imageCrc] := by
  obtain ⟨hbarrier, -⟩ := hrest
  have hnone : ((s.updHerd h (fun x => { x with fault := Code.imageCrc, stackFault := false })).herd h).barrier = none := by
    simpa using hbarrier
  rw [State.reloadBad, faultState_rest hnone]
  refine ⟨fun k => ?_, ?_, List.map_append⟩
  · by_cases hk : k = h
    · subst hk; simp [badEntryHerd]
    · simp [hk]
  · exact KeepsBut_append (KeepsBut_trans (keeps_updHerd s h _) (keeps_updHerd _ h _)) (keeps_post _ _ _ _ _)

/-- What a tile holds after a load with a program map, by its map byte (R188). -/
theorem loadedTile {s : State} {p : List Byte} {pos : Nat} {t u : Tile}
    (h : SameProgram (programmed (programAt s p pos) t.clear) u) :
    let b := (nthD p (8 + pos) 0).toNat
    u.hasProg = decide (b ≠ 0xFE) ∧ u.run = .fresh ∧ u.pc = 0 ∧
      (b < 0xFE → u.prog = Mem.write [] 0 (slice p (fld p (1032 + 8 * b) 4) (fld p (1036 + 8 * b) 4))) ∧
      (b = 0xFF → u.prog = Mem.write [] 0 s.bru.fw) := by
  intro b
  have hprog : u.prog = Mem.write [] 0 ((programOf p s.bru.fw b).getD []) := h.prog
  refine ⟨h.hasProg.trans (isSome_programOf p s.bru.fw b), h.run, h.pc, fun hb => ?_, fun hb => ?_⟩
  · rw [hprog, programOf_own p _ hb]; rfl
  · rw [hprog, hb, programOf_common]; rfl

section Reload

variable {s : State} {h : HerdNo} (hclean : CleanStack s (s.homeStack h)) (hst : s.flt.st = .reload)
  (hmem : h.val ∈ s.flt.reload)

include hst hmem in

/-- A reload that recovery asks for reads the herd's entry. -/
theorem residentReload_asked : s.residentReload (some h.val) = s.reloadHerd h := if_pos ⟨hst, hmem⟩

include hclean hst hmem

theorem residentReload_bad {typ : Nat} (hbad : (s.herdEntry h).bad = some typ) :
    s.residentReload (some h.val) = s.reloadBad h typ := by
  rw [residentReload_asked hst hmem]
  simp only [State.reloadHerd, hbad, herdEntry_clean hclean]

theorem residentReload_good (hbad : (s.herdEntry h).bad = none) :
    s.residentReload (some h.val) = s.loadHerd h (s.herdEntry h).sects := by
  rw [residentReload_asked hst hmem]
  simp only [State.reloadHerd, hbad, herdEntry_clean hclean]

/-- A damaged entry leaves its herd FAULTED with IMAGE_CRC. -/
theorem runs_residentReload_bad_entry (hrest : AtRest s h) (hbad : (s.herdEntry h).bad ≠ none) :
    Runs (.residentReload (some h)) s (fun t => (t.herd h).st = .faulted ∧ (t.herd h).fault = Code.imageCrc ∧ HerdsBut h s t ∧
      t.io.events.map Event.code = s.io.events.map Event.code ++ [Code.imageCrc] ∧ KeepsBut [.herds, .io] s t) := by
  obtain ⟨typ, htyp⟩ := Option.ne_none_iff_exists'.1 hbad
  have hreload := residentReload_bad hclean hst hmem htyp
  obtain ⟨hherd, hkeeps, hevents⟩ := reloadBad_rest typ hrest
  refine runs_of_act (exec_residentReload_herd h s) hreload hkeeps (by decide) ⟨?_, ?_, fun k hk => ?_, hevents, hkeeps⟩
  · rw [hherd, if_pos rfl]; exact faulted_st _ _ _
  · rw [hherd, if_pos rfl, badEntryHerd_fault]
  · rw [hherd, if_neg hk]

/-- A whole entry is loaded. -/
theorem runs_residentReload_good_entry (hbad : (s.herdEntry h).bad = none) :
    let l := (s.herdEntry h).sects
    Runs (.residentReload (some h)) s (fun t =>
      (t.herd h).st = .loaded ∧ (t.herd h).hasProg = (sectOf l SecType.tilePrograms h).isSome ∧
      (t.herd h).seq = ((sectOf l SecType.herdSeq h).map seqWords).getD [] ∧ HerdsBut h s t ∧
      (∀ p, sectOf l SecType.tilePrograms h = some p → ∀ x y, x < 32 → y < 32 →
        let u := t.tile (tileKey (h % 32 * 32 + x) (h / 32 * 32 + y))
        let b := (nthD p (8 + y * 32 + x) 0).toNat
        u.hasProg = decide (b ≠ 0xFE) ∧ u.run = .fresh ∧ u.pc = 0 ∧
        (b < 0xFE → u.prog = Mem.write [] 0 (slice p (fld p (1032 + 8 * b) 4) (fld p (1036 + 8 * b) 4))) ∧
        (b = 0xFF → u.prog = Mem.write [] 0 s.bru.fw)) ∧
      t.io = s.io ∧ KeepsBut [.tiles, .herds, .mesh] s t) := by
  intro l
  have hreload := residentReload_good hclean hst hmem hbad
  have hkeeps := keeps_loadHerd s h l
  have hherd := herd_loadHerd s h l
  refine runs_of_act (exec_residentReload_herd h s) hreload hkeeps (by decide)
    ⟨?_, ?_, ?_, fun k hk => ?_, fun p hp x y hx hy => ?_, hkeeps.2 .io (by decide), hkeeps⟩
  · rw [hherd, if_pos rfl]; simp [loadedHerd, State.clearTiles]
  · rw [hherd, if_pos rfl]; rfl
  · rw [hherd, if_pos rfl, loadedHerd_seq]
  · rw [hherd, if_neg hk]
  · have htile := tile_loadHerd s h.isLt (pos := y * 32 + x) (by omega) hp
    rw [tileOf_row_column hx] at htile
    rw [Nat.add_assoc]
    exact loadedTile htile

end Reload

/-! ### The statement -/

/-- Settles O39: each command by its own lemma, a stack without errors being read as it stands. -/
theorem loadCommands : Obligations.LoadCommands := by
  intro s clean
  have hclean (hc : clean) (k : Nat) (hk : s.stkServes k = true) : CleanStack s k := by
    obtain ⟨hbad, hcorr, hodie⟩ := hc k
    exact ⟨hk, hbad, hcorr, hodie⟩
  refine ⟨fun hl => ⟨runs_start hl, runs_start_rejected hl, runs_abort hl, exec_abort_elsewhere hl⟩,
    fun hidle hdone r a hlo hhi => host_may_not_stage hidle hdone r hlo hhi, fun w off bytes => ⟨?_, ?_, ?_⟩, ?_, ?_⟩
  · exact runs_imageRelay_worker
  · exact exec_imageRelay_busy
  · intro hrole hon hlen
    exact ⟨runs_imageRelay_manager hrole hon hlen, exec_imageRelay_no_credit hrole⟩
  · intro hc hwarm hstage hwait
    exact ⟨exec_residentReload_ok (hclean hc) hwarm hstage hwait, runs_residentReload_damaged (hclean hc) hwarm hstage hwait⟩
  · intro h hc hserves hst hmem hrest
    have hstack := hclean hc _ (decide_eq_true hserves)
    exact ⟨runs_residentReload_bad_entry hstack hst hmem hrest, runs_residentReload_good_entry hstack hst hmem⟩

end Sys2Proof.Proofs.LoadCommands
end

section
/-! The rings of BAR2 as the journal uses them: an entry put on a ring that the wafer produces, and the answer to a submit
entry (R465, R466, R468, R472). -/

namespace Sys2Proof.Proofs.JournalRings

open Sys2Proof.Machine Sys2Proof.Safety Sys2Proof.Laws Sys2Proof.Proofs.Frames Sys2Proof.Proofs.StackLines

/-! ### Rings -/

theorem ring_after_setHost (s : State) (x : HostIf) (k : RingKind) (i : Nat) :
    (s.setHost x).ring k i = NatMap.get x.rings Ring.reset (ringKey k i) := rfl

/-- A message that is asked for joins the queue of messages, and that is all. -/
theorem askMsix_eq (s : State) (m : MsixSrc) : ∃ q, s.askMsix m = s.setHost { s.host with msixQ := q } := by
  unfold State.askMsix
  split
  · exact ⟨s.host.msixQ, rfl⟩
  · exact ⟨_, rfl⟩

theorem ringMsix_eq (s : State) (k : RingKind) (i : Nat) : ∃ q, s.ringMsix k i = s.setHost { s.host with msixQ := q } := by
  unfold State.ringMsix
  split
  · exact askMsix_eq s _
  · split
    · exact askMsix_eq s _
    · exact ⟨s.host.msixQ, rfl⟩

/-- The host interface with a ring's record and BAR2 bytes replaced, and messages asked for. -/
def withRing (x : HostIf) (k : RingKind) (i : Nat) (r : Ring) (m : Mem) (q : List MsixSrc) : HostIf :=
  { x with bar2 := m, rings := NatMap.put x.rings Ring.reset (ringKey k i) r, msixQ := q }

theorem ring_withRing (s : State) (k : RingKind) (i : Nat) (r : Ring) (m : Mem) (q : List MsixSrc) :
    (s.setHost (withRing s.host k i r m q)).ring k i = r := by
  rw [ring_after_setHost]
  exact (NatMap.get_put ..).trans (if_pos rfl)

@[simp] theorem bar2_withRing (x : HostIf) (k : RingKind) (i : Nat) (r : Ring) (m : Mem) (q : List MsixSrc) :
    (withRing x k i r m q).bar2 = m := rfl

/-- An entry put on a ring: its bytes at PROD, and PROD counts up. -/
theorem ringPut_eq (s : State) (k : RingKind) (i : Nat) (bs : List Byte) : ∃ q, s.ringPut k i bs =
    s.setHost (withRing s.host k i { s.ring k i with prod := (s.ring k i).prod + 1 }
      (Mem.write s.host.bar2 ((s.ring k i).entry k (s.ring k i).prod) bs) q) := by
  obtain ⟨q, hq⟩ := ringMsix_eq ((s.bar2Write ((s.ring k i).entry k (s.ring k i).prod) bs).setRing k i
    { s.ring k i with prod := (s.ring k i).prod + 1 }) k i
  exact ⟨q, hq⟩

/-! ### The answer to a submit entry (R468) -/

/-- BAR2 with SEQ, if there is one, ACK_TIME and STATUS of the entry at an offset. -/
def answeredMem (m : Mem) (a : Nat) (time : Word) (status : Nat) (seq : Option Nat) : Mem :=
  let m := match seq with
    | some q => Mem.write m (a + 16) (leBytes 8 q)
    | none => m
  Mem.write (Mem.write m (a + 24) (leBytes 8 time.toNat)) (a + 3) (leBytes 1 status)

theorem byte_answeredMem_status (m : Mem) (a : Nat) (time : Word) (status : Nat) (seq : Option Nat) :
    Mem.byte (answeredMem m a time status seq) (a + 3) = BitVec.ofNat 8 status := by
  simp [answeredMem, Mem.byte_write, leBytes]

theorem read_answeredMem_time (m : Mem) (a : Nat) (time : Word) (status : Nat) (seq : Option Nat) :
    Mem.read (answeredMem m a time status seq) (a + 24) 8 = leBytes 8 time.toNat := by
  unfold answeredMem
  rw [Mem.read_write_apart _ _ _ _ _ (by simp)]
  exact (congrArg _ (leBytes_length 8 _).symm).trans (Mem.read_write_same _ _ _)

theorem read_answeredMem_seq (m : Mem) (a : Nat) (time : Word) (status q : Nat) :
    Mem.read (answeredMem m a time status (some q)) (a + 16) 8 = leBytes 8 q := by
  rw [answeredMem, Mem.read_write_apart _ _ _ _ _ (by simp), Mem.read_write_apart _ _ _ _ _ (by simp)]
  exact (congrArg _ (leBytes_length 8 _).symm).trans (Mem.read_write_same _ _ _)

/-- A refusal leaves the rest of BAR2. -/
theorem byte_answeredMem_other (m : Mem) {a x : Nat} (time : Word) (status : Nat) (hx : x ≠ a + 3)
    (hx' : x < a + 24 ∨ a + 32 ≤ x) : Mem.byte (answeredMem m a time status none) x = Mem.byte m x := by
  rw [answeredMem, Mem.byte_write, Mem.byte_write, leBytes_length, leBytes_length, if_neg (by omega), if_neg (by omega)]

/-- An entry taken off a ring: CONS counts up. -/
theorem ringTake_eq (s : State) (k : RingKind) (i : Nat) : ∃ q, s.ringTake k i =
    s.setHost (withRing s.host k i { s.ring k i with cons := (s.ring k i).cons + 1 } s.host.bar2 q) := by
  obtain ⟨q, hq⟩ := ringMsix_eq (s.setRing k i { s.ring k i with cons := (s.ring k i).cons + 1 }) k i
  exact ⟨q, hq⟩

/-- Where the entry at CONS of a submit ring lies in BAR2. -/
def entryAt (s : State) (ring : Nat) : Nat := (s.ring .submit ring).entry .submit (s.ring .submit ring).cons

/-- BAR2 after the answer to the entry at CONS of a submit ring. -/
def answered (s : State) (ring status : Nat) (seq : Option Nat) : Mem :=
  answeredMem s.host.bar2 (entryAt s ring) s.now64 status seq

/-- The bytes of an answer are written before the entry is taken. -/
theorem answerEntry_take (s : State) (ring status : Nat) (seq : Option Nat) : s.answerEntry ring status seq =
    (s.setHost { s.host with bar2 := answered s ring status seq }).ringTake .submit ring := by
  cases seq <;> rfl

/-- The entry at CONS is answered and CONS counts up. -/
theorem answerEntry_eq (s : State) (ring status : Nat) (seq : Option Nat) : ∃ q, s.answerEntry ring status seq =
    s.setHost (withRing s.host .submit ring { s.ring .submit ring with cons := (s.ring .submit ring).cons + 1 }
      (answered s ring status seq) q) := by
  obtain ⟨q, hq⟩ := ringTake_eq (s.setHost { s.host with bar2 := answered s ring status seq }) .submit ring
  exact ⟨q, (answerEntry_take s ring status seq).trans hq⟩

end Sys2Proof.Proofs.JournalRings
end

section
/-! Items of the journal: from a submit entry or an output to their record, from the record to acceptance, and to the tile
that waits for them (R35, R356 to R361, R468). -/

namespace Sys2Proof.Proofs.JournalItems

open Sys2Proof.Machine Sys2Proof.Safety Sys2Proof.Laws
open Sys2Proof.Proofs.Frames Sys2Proof.Proofs.StackLines Sys2Proof.Proofs.Transport Sys2Proof.Proofs.JournalRings

/-! ### The commands' meanings -/

theorem exec_submitEntry (ring : Fin 4096) (s : State) :
    exec (.submitEntry ring) s = actJrn (fun s => s.submitEntry ring.val) s := rfl

theorem exec_itemArrival (p : Fin 8) (s : State) : exec (.itemArrival p) s = actJrn (fun s => s.itemArrival p.val) s := rfl

theorem exec_itemAccept (p : Fin 8) (s : State) : exec (.itemAccept p) s = actJrn (fun s => s.itemAccept p.val) s := rfl

theorem exec_itemDeliver (h : HerdNo) (n : StreamNo) (s : State) :
    exec (.itemDeliver h n) s = actJrn (fun s => s.itemDeliver h.val n.val) s := rfl

/-! ### Submit entries (R468) -/

/-- The item of a submit entry. -/
def submitItem (ring : Nat) (e : List Byte) : Item :=
  { stream := fld e 0 2, src := ring, tag := BitVec.ofNat 64 (fld e 8 8), payload := slice e 32 (fld e 4 4)
    reinject := if bit (fld e 2 1) 0 then some (fld e 16 8) else none, ring := some ring, out := none, peer := none }

/-- The entry at CONS has been answered with a status and no sequence number: its record counts on, STATUS and ACK_TIME
are written, and nothing else changes but messages asked for. -/
def Refused (s : State) (ring : Fin 4096) (status : Nat) (t : State) : Prop :=
  let r := s.ring .submit ring
  let a := entryAt s ring
  t.ring .submit ring = { r with cons := r.cons + 1 } ∧ Mem.byte t.host.bar2 (a + 3) = BitVec.ofNat 8 status ∧
    Mem.read t.host.bar2 (a + 24) 8 = leBytes 8 s.now64.toNat ∧
    (∀ x, x ≠ a + 3 → x < a + 24 ∨ a + 32 ≤ x → Mem.byte t.host.bar2 x = Mem.byte s.host.bar2 x) ∧ KeepsBut [.host] s t

theorem runs_refused {s : State} {ring : Fin 4096} {status : Nat}
    (h : s.submitEntry ring = s.answerEntry ring status none) : Runs (.submitEntry ring) s (Refused s ring status) := by
  obtain ⟨q, hq⟩ := answerEntry_eq s ring status none
  refine runs_of_actJrn (exec_submitEntry ring s) (h.trans hq) (keeps_setHost s _) (by decide)
    ⟨ring_withRing s _ _ _ _ q, ?_, ?_, fun x hx hx' => ?_, keeps_setHost s _⟩
  · rw [setHost_host, bar2_withRing]; exact byte_answeredMem_status ..
  · rw [setHost_host, bar2_withRing]; exact read_answeredMem_time ..
  · rw [setHost_host, bar2_withRing]; exact byte_answeredMem_other _ _ _ hx hx'

section Submit

variable {s : State} {ring : Fin 4096} {e : List Byte} (hfront : s.ringFront .submit ring = some e)
  (hpd : s.pdOn 93 = true) (hbusy : s.ringBusy ring = false)
include hfront hpd hbusy

/-- An entry for no stream is refused. -/
theorem submitEntry_no_stream (hn : s.stream (fld e 0 2) = none) : s.submitEntry ring = s.answerEntry ring 3 none := by
  simp [State.submitEntry, hfront, hpd, hbusy, hn]

/-- An entry on a ring that does not feed its stream is refused. -/
theorem submitEntry_wrong_ring {st : Stream} (hn : s.stream (fld e 0 2) = some st) (hre : bit (fld e 2 1) 0 = false)
    (hring : st.kind ≠ 1 ∨ st.arg ≠ ring) : s.submitEntry ring = s.answerEntry ring 3 none := by
  simp [State.submitEntry, hfront, hpd, hbusy, hn, hre, hring]

section Fed

variable {st : Stream} (hn : s.stream (fld e 0 2) = some st)
  (hfed : bit (fld e 2 1) 0 = true ∨ (st.kind = 1 ∧ st.arg = ring))
include hn hfed

/-- What becomes of an entry that may feed its stream. -/
theorem submitEntry_fed : s.submitEntry ring =
    if st.maxItem < fld e 4 4 ∨ e.length < fld e 4 4 + 32 then s.answerEntry ring 2 none
    else if s.pairTakes (s.streamPair (fld e 0 2)) then s.arrive (submitItem ring e)
    else s := by
  have hmay : ¬(bit (fld e 2 1) 0 = false ∧ (st.kind ≠ 1 ∨ st.arg ≠ ring)) := by
    rintro ⟨hre, hring⟩
    rcases hfed with hfed | ⟨hkind, harg⟩
    · rw [hre] at hfed; cases hfed
    · exact hring.elim (absurd hkind) (absurd harg)
  simp only [State.submitEntry, hfront, hpd, hbusy, hn, if_neg hmay]
  rfl

/-- An entry that is too long is refused. -/
theorem submitEntry_too_long (hlen : st.maxItem < fld e 4 4 ∨ e.length < fld e 4 4 + 32) :
    s.submitEntry ring = s.answerEntry ring 2 none := by
  rw [submitEntry_fed hfront hpd hbusy hn hfed, if_pos hlen]

section Fits

variable (hmax : fld e 4 4 ≤ st.maxItem) (hlen : fld e 4 4 + 32 ≤ e.length)
include hmax hlen

/-- An entry waits while its pair takes no item. -/
theorem exec_submitEntry_waits (hpair : s.pairTakes (s.streamPair (fld e 0 2)) = false) :
    exec (.submitEntry ring) s = .next s :=
  exec_of_actJrn_same (exec_submitEntry ring s) (by
    rw [submitEntry_fed hfront hpd hbusy hn hfed, if_neg (by omega), if_neg (by simp [hpair])])

/-- An entry that fits is on its way to its pair. -/
theorem runs_submitEntry_arrives (hpair : s.pairTakes (s.streamPair (fld e 0 2)) = true) :
    Runs (.submitEntry ring) s (fun t => (t.jrn.pair (s.streamPair (fld e 0 2))).arriving =
      (s.jrn.pair (s.streamPair (fld e 0 2))).arriving ++ [submitItem ring e] ∧ KeepsBut [.jrn] s t) := by
  have harrive : s.submitEntry ring = s.arrive (submitItem ring e) := by
    rw [submitEntry_fed hfront hpd hbusy hn hfed, if_neg (by omega), if_pos hpair]
  refine runs_of_actJrn (exec_submitEntry ring s) harrive (keeps_setPair s _ _) (by decide) ⟨?_, keeps_setPair s _ _⟩
  simp [State.arrive, submitItem]

end Fits

end Fed

end Submit

/-! ### Items that arrive (R356 to R360, R363) -/

theorem keeps_htAnswer (s : State) (w : Fin 256) (q : Word) (b : HtBody) : KeepsBut [.macs] s (s.htAnswer w q b) :=
  keeps_htQueue s _ _

theorem jrn_htAnswer (s : State) (w : Fin 256) (q : Word) (b : HtBody) : (s.htAnswer w q b).jrn = s.jrn := jrn_htQueue s _ _

theorem giveCredit_frame (s : State) (w : Fin 256) (h : Nat) :
    (s.giveCredit w h).jrn = s.jrn ∧ KeepsBut [.macs, .mesh] s (s.giveCredit w h) := by
  unfold State.giveCredit
  split
  · exact ⟨rfl, KeepsBut_mono (keeps_mesh s _) (by decide)⟩
  · exact ⟨jrn_htAnswer s _ _ _, KeepsBut_mono (keeps_htAnswer s _ _ _) (by decide)⟩

/-- An acknowledgement that gives the credit back. -/
theorem ack_giveCredit_frame (s : State) (w : Fin 256) (q : Word) (b : HtBody) (h : Nat) :
    ((s.htAnswer w q b).giveCredit w h).jrn = s.jrn ∧ KeepsBut [.macs, .mesh] s ((s.htAnswer w q b).giveCredit w h) := by
  obtain ⟨hjrn, hkeeps⟩ := giveCredit_frame (s.htAnswer w q b) w h
  exact ⟨hjrn.trans (jrn_htAnswer s w q b),
    KeepsBut_mono (KeepsBut_append (keeps_htAnswer s w q b) hkeeps) (by decide)⟩

/-- The outputs with one of a herd marked as left. -/
def markLeft (l : List OutW) (h q : Nat) : List OutW :=
  l.map (fun y => if y.herd = h ∧ y.outseq = q then { y with left := true } else y)

/-- A second copy of an output leaves every pair. -/
theorem dropOut_frame (s : State) (it : Item) :
    (s.dropOut it).jrn.pairs = s.jrn.pairs ∧ KeepsBut [.jrn, .macs, .mesh] s (s.dropOut it) := by
  unfold State.dropOut
  split
  · split
    · obtain ⟨hjrn, hkeeps⟩ := ack_giveCredit_frame s _ _ _ _
      exact ⟨congrArg Jrn.pairs hjrn, KeepsBut_mono hkeeps (by decide)⟩
    · exact ⟨rfl, KeepsBut_refl _ s⟩
  · unfold State.itemLeft
    split
    · exact ⟨rfl, KeepsBut_mono (keeps_setJrn s _) (by decide)⟩
    · exact ⟨rfl, KeepsBut_refl _ s⟩

/-- A second copy of an output of this wafer counts as left. -/
theorem dropOut_own {s : State} {it : Item} {h q : Nat} (hpeer : it.peer = none) (hout : it.out = some (h, q)) :
    s.dropOut it = s.outLeft h q := by
  simp [State.dropOut, State.itemLeft, hpeer, hout]

/-- The pair of an item whose record is being written. -/
def recorded (x : Pair) (it : Item) (r : Rec) : Pair :=
  { x with
    arriving := x.arriving.erase it, head := x.head + r.lines, lineQ := x.lineQ ++ r.queue
    writing := x.writing ++ [(r, some it)] }

/-- While records are not exported a record's lines wait for both stacks, and nothing else happens. -/
theorem writeRec_unexported {s : State} (hex : s.exports = false) (p : Nat) (r : Rec) : s.writeRec p r =
    s.setPair p { s.jrn.pair p with head := (s.jrn.pair p).head + r.lines, lineQ := (s.jrn.pair p).lineQ ++ r.queue } :=
  if_neg (by rw [Bool.not_eq_true]; exact hex)

/-- A record for which the log has room, and which is not exported: the pair and the item's stream take it. -/
theorem placeItem_room {s : State} {p seq : Nat} {it : Item} {r : Rec} (hr : s.itemRec (s.jrn.pair p) it seq = r)
    (hroom : (s.jrn.pair p).room r.lines = true) (hex : s.exports = false) :
    (∀ q, (s.placeItem p it seq).jrn.pair q = if q = p then recorded (s.jrn.pair p) it r else s.jrn.pair q) ∧
    (∀ n, (s.placeItem p it seq).jrn.streamSt n =
      if n = it.stream then { s.jrn.streamSt it.stream with nextSeq := seq + 1 } else s.jrn.streamSt n) ∧
    KeepsBut [.jrn] s (s.placeItem p it seq) := by
  let u := (s.setPair p { s.jrn.pair p with arriving := (s.jrn.pair p).arriving.erase it }).setStreamSt it.stream
    { s.jrn.streamSt it.stream with nextSeq := seq + 1 }
  have hu : KeepsBut [.jrn] s u := KeepsBut_trans (keeps_setPair s _ _) (keeps_setStreamSt _ _ _)
  have hrec : u.writeRec p r = u.setPair p { u.jrn.pair p with head := (u.jrn.pair p).head + r.lines, lineQ := (u.jrn.pair p).lineQ ++ r.queue } :=
    writeRec_unexported (s := u) hex p r
  have hplace : s.placeItem p it seq =
      (u.writeRec p r).setPair p { (u.writeRec p r).jrn.pair p with writing := ((u.writeRec p r).jrn.pair p).writing ++ [(r, some it)] } := by
    simp only [State.placeItem, hr, if_pos hroom, streamSt_setPair]
    rfl
  rw [hplace, hrec]
  refine ⟨fun q => ?_, fun n => ?_, KeepsBut_trans (KeepsBut_trans hu (keeps_setPair u _ _)) (keeps_setPair _ _ _)⟩
  · by_cases hq : q = p
    · simp [hq, u, recorded]
    · simp [hq, u]
  · simp [u]

section Arrival

variable {s : State} {p : Fin 8} {it : Item} (hfind : (s.jrn.pair p).arriving.find? s.numbers = some it)
include hfind

/-- A second copy of an output is discarded. -/
theorem runs_itemArrival_dup (hdup : s.dupOut (s.jrn.pair p) it = true) : Runs (.itemArrival p) s (fun t =>
    t.jrn.pair p = { s.jrn.pair p with arriving := (s.jrn.pair p).arriving.erase it } ∧
    (∀ h q, it.peer = none → it.out = some (h, q) → t.macs = s.macs ∧ t.mesh = s.mesh ∧
      t.jrn.outs = markLeft s.jrn.outs h q) ∧ KeepsBut [.jrn, .macs, .mesh] s t) := by
  have hdrop : s.itemArrival p =
      (s.setPair p { s.jrn.pair p with arriving := (s.jrn.pair p).arriving.erase it }).dropOut it := by
    simp [State.itemArrival, hfind, hdup]
  generalize hu : s.setPair p { s.jrn.pair p with arriving := (s.jrn.pair p).arriving.erase it } = u at hdrop
  have hsu : KeepsBut [.jrn] s u := hu ▸ keeps_setPair s _ _
  obtain ⟨hpairs, hkeeps⟩ := dropOut_frame u it
  have hall : KeepsBut [.jrn, .macs, .mesh] s (u.dropOut it) := KeepsBut_mono (KeepsBut_append hsu hkeeps) (by decide)
  refine runs_of_actJrn (exec_itemArrival p s) hdrop hall (by decide) ⟨?_, fun h q hpeer hout => ?_, hall⟩
  · rw [Jrn.pair, hpairs, ← hu]
    exact (pair_setPair ..).trans (if_pos rfl)
  · rw [dropOut_own hpeer hout, ← hu]
    exact ⟨rfl, rfl, rfl⟩

/-- An item waits while its pair takes none. -/
theorem exec_itemArrival_waits (hdup : s.dupOut (s.jrn.pair p) it = false) (hpair : s.pairTakes p = false) :
    exec (.itemArrival p) s = .next s :=
  exec_of_actJrn_same (exec_itemArrival p s) (by simp [State.itemArrival, hfind, hdup, hpair])

section Placed

variable (hdup : s.dupOut (s.jrn.pair p) it = false) (hpair : s.pairTakes p = true) (hre : it.reinject = none)
include hdup hpair hre

/-- An item that its pair takes gets its stream's next number. -/
theorem itemArrival_placed : s.itemArrival p = s.placeItem p it (s.jrn.streamSt it.stream).nextSeq := by
  simp [State.itemArrival, hfind, hdup, hpair, hre]

/-- Where the log has no room the pair raises JOURNAL_FULL. -/
theorem runs_itemArrival_full
    (hroom : (s.jrn.pair p).room (s.itemRec (s.jrn.pair p) it (s.jrn.streamSt it.stream).nextSeq).lines = false) :
    Runs (.itemArrival p) s (fun t => t.jrn.pair p = { s.jrn.pair p with full := true } ∧
      t.io.events = s.io.events ++ [{ code := Code.journalFull, stop := false, source := Source.jrn, loc := 0, stream := none, time := s.now64, detail := BitVec.ofNat 64 p.val }] ∧
      KeepsBut [.jrn, .io] s t) := by
  have hfull := (itemArrival_placed hfind hdup hpair hre).trans (if_neg (by simp [hroom]))
  have hkeeps := KeepsBut_append (keeps_setPair s p { s.jrn.pair p with full := true }) (keeps_post _ Code.journalFull Source.jrn 0 p)
  refine runs_of_actJrn (exec_itemArrival p s) hfull hkeeps (by decide) ⟨?_, rfl, hkeeps⟩
  exact (pair_setPair ..).trans (if_pos rfl)

/-- Where the log has room the item's record is written and its stream counts on. -/
theorem runs_itemArrival_room
    (hroom : (s.jrn.pair p).room (s.itemRec (s.jrn.pair p) it (s.jrn.streamSt it.stream).nextSeq).lines = true)
    (hex : s.exports = false) :
    let x := s.jrn.pair p
    let next := (s.jrn.streamSt it.stream).nextSeq
    let r := s.itemRec x it next
    Runs (.itemArrival p) s (fun t =>
      t.jrn.pair p = { x with arriving := x.arriving.erase it, head := x.head + r.lines, lineQ := x.lineQ ++ r.queue, writing := x.writing ++ [(r, some it)] } ∧
      t.jrn.streamSt it.stream = { s.jrn.streamSt it.stream with nextSeq := next + 1 } ∧
      (∀ n, n ≠ it.stream → t.jrn.streamSt n = s.jrn.streamSt n) ∧ (∀ q, q ≠ p.val → t.jrn.pair q = s.jrn.pair q) ∧
      KeepsBut [.jrn] s t) := by
  intro x next r
  obtain ⟨hpairs, hstreams, hkeeps⟩ := placeItem_room (r := r) rfl hroom hex
  refine runs_of_actJrn (exec_itemArrival p s) (itemArrival_placed hfind hdup hpair hre) hkeeps (by decide)
    ⟨?_, ?_, fun n hn => ?_, fun q hq => ?_, hkeeps⟩
  · rw [hpairs, if_pos rfl]; rfl
  · rw [hstreams, if_pos rfl]
  · rw [hstreams, if_neg hn]
  · rw [hpairs, if_neg hq]

end Placed

end Arrival

/-! ### Acceptance (R35, R356, R357) -/

/-- Both stacks hold every line of a complete record. -/
theorem lineQ_of_recComplete {s : State} {x : Pair} {r : Rec} (h : s.recComplete x r = true) (l : Nat) (bs : List Byte)
    (hl : JLine.log l bs ∈ x.lineQ) : l < r.pos ∨ r.pos + r.lines ≤ l := by
  rw [State.recComplete, Bool.and_eq_true] at h
  obtain ⟨hholds, -⟩ := h
  simpa using List.all_eq_true.1 hholds _ hl

/-- What acceptance notes of an item that is no output: nothing but the SRC detail of a RIM item. -/
theorem noteAccepted_frame (s : State) (r : Rec) {it : Item} (hout : it.out = none) :
    (s.noteAccepted r it).jrn.pairs = s.jrn.pairs ∧ KeepsBut [.jrn] s (s.noteAccepted r it) := by
  simp only [State.noteAccepted, hout]
  split
  · split
    · exact ⟨rfl, keeps_setJrn s _⟩
    · exact ⟨rfl, KeepsBut_refl _ s⟩
  · exact ⟨rfl, KeepsBut_refl _ s⟩

section Accept

variable {s : State} {p : Fin 8} {r : Rec} {it : Item} {rest : List (Rec × Option Item)}
  (hwriting : (s.jrn.pair p).writing = (r, some it) :: rest)
include hwriting

/-- An item waits until its record is complete. -/
theorem exec_itemAccept_waits (hrec : s.recComplete (s.jrn.pair p) r = false) : exec (.itemAccept p) s = .next s :=
  exec_of_actJrn_same (exec_itemAccept p s) (by simp [State.itemAccept, hwriting, hrec])

/-- A HOST item whose record is complete is accepted, and acknowledged with its number. -/
theorem runs_itemAccept_host {n : Nat} (hrec : s.recComplete (s.jrn.pair p) r = true) (hring : it.ring = some n)
    (hpeer : it.peer = none) (hout : it.out = none) : Runs (.itemAccept p) s (fun t =>
      t.jrn.pair p = ({ s.jrn.pair p with writing := rest, recs := (s.jrn.pair p).recs ++ [r] } : Pair).settled ∧
      t.ring .submit n = { s.ring .submit n with cons := (s.ring .submit n).cons + 1 } ∧
      Mem.byte t.host.bar2 (entryAt s n + 3) = 1 ∧ Mem.read t.host.bar2 (entryAt s n + 16) 8 = leBytes 8 r.seq ∧
      KeepsBut [.jrn, .host] s t) := by
  generalize hy : ({ s.jrn.pair p with writing := rest, recs := (s.jrn.pair p).recs ++ [r] } : Pair).settled = y
  obtain ⟨hpairs, hnote⟩ := noteAccepted_frame (s.setPair p y) r hout
  generalize hu : (s.setPair p y).noteAccepted r it = u at hpairs hnote
  have hsu : KeepsBut [.jrn] s u := KeepsBut_trans (keeps_setPair s p y) hnote
  obtain ⟨q, hq⟩ := answerEntry_eq u n 1 (some r.seq)
  have haccept : s.itemAccept p = u.answerEntry n 1 (some r.seq) := by
    simp [State.itemAccept, hwriting, hrec, hy, hu, State.itemLeft, State.ackItem, hring, hpeer, hout]
  have hhost : u.host = s.host := hsu.2 .host (by decide)
  have hn : u.ring .submit n = s.ring .submit n := by rw [State.ring, hhost]; rfl
  have hat : entryAt u n = entryAt s n := by rw [entryAt, hn]; rfl
  have hall (x : HostIf) : KeepsBut [.jrn, .host] s (u.setHost x) := KeepsBut_append hsu (keeps_setHost u x)
  refine runs_of_actJrn (exec_itemAccept p s) (haccept.trans hq) (hall _) (by decide) ⟨?_, ?_, ?_, ?_, hall _⟩
  · show NatMap.get u.jrn.pairs Pair.reset p = y
    rw [hpairs]
    exact (pair_setPair ..).trans (if_pos rfl)
  · rw [ring_withRing, hn]
  · rw [setHost_host, bar2_withRing, ← hat]; exact byte_answeredMem_status ..
  · rw [setHost_host, bar2_withRing, ← hat]; exact read_answeredMem_seq ..

end Accept

/-! ### Delivery (R361, R388) -/

/-- Of two records the one with the lower number, the first of two alike. -/
def lower (b : Option Rec) (r : Rec) : Option Rec :=
  match b with
  | some q => if r.seq < q.seq then some r else b
  | none => some r

/-- A search that starts from a record ends at one no higher than it and all others. -/
theorem foldl_lower_some {l : List Rec} {b r : Rec} (h : l.foldl lower (some b) = some r) :
    (r = b ∨ r ∈ l) ∧ r.seq ≤ b.seq ∧ ∀ q ∈ l, r.seq ≤ q.seq := by
  induction l generalizing b with
  | nil => simp_all
  | cons x l ih =>
    rw [List.foldl_cons, lower] at h
    by_cases hx : x.seq < b.seq
    · rw [if_pos hx] at h
      obtain ⟨hmem, hle, hall⟩ := ih h
      exact ⟨.inr (List.mem_cons.2 hmem), by omega, List.forall_mem_cons.2 ⟨hle, hall⟩⟩
    · rw [if_neg hx] at h
      obtain ⟨hmem, hle, hall⟩ := ih h
      exact ⟨hmem.imp_right (List.mem_cons_of_mem x), hle, List.forall_mem_cons.2 ⟨by omega, hall⟩⟩

/-- The search finds a record of the list with the lowest number. -/
theorem foldl_lower {l : List Rec} {r : Rec} (h : l.foldl lower none = some r) : r ∈ l ∧ ∀ q ∈ l, r.seq ≤ q.seq := by
  cases l with
  | nil => cases h
  | cons x l =>
    obtain ⟨hmem, hle, hall⟩ := foldl_lower_some (b := x) h
    exact ⟨List.mem_cons.2 hmem, List.forall_mem_cons.2 ⟨hle, hall⟩⟩

/-- The next item of a stream is an accepted one above a number, and the lowest of them. -/
theorem nextItem_spec {s : State} {n taken : Nat} {r : Rec} (h : s.nextItem n taken = some r) :
    r.stream = n ∧ taken < r.seq ∧ ∀ q ∈ (s.jrn.pair (s.streamPair n)).recs, q.typ = 1 → q.stream = n → taken < q.seq → r.seq ≤ q.seq := by
  obtain ⟨hmem, hall⟩ := foldl_lower h
  simp only [List.mem_filter, decide_eq_true_eq] at hmem hall
  obtain ⟨-, -, hstream, htaken⟩ := hmem
  exact ⟨hstream, htaken, fun q hq htyp hn ht => hall q ⟨hq, htyp, hn, ht⟩⟩

section Deliver

variable {s : State} {h : HerdNo} {n : StreamNo} {st : Stream} {key dst : Nat} {r : Rec} (hn : s.stream n = some st)
  (htaker : s.taker h n = some (key, dst)) (hnext : s.nextItem n (NatMap.get (s.herd h).taken 0 n) = some r)
include hn htaker hnext

/-- The tile that waits gets the item, and TAKEN is raised to its number. -/
theorem runs_itemDeliver (htarget : st.target = h) (hrun : (s.herd h).st = .running) (hstop : s.stoppedAt n r.seq = false) :
    Runs (.itemDeliver h n) s (fun t =>
      t.tile key = { (((s.tile key).put (dst * 8) r.payload).advance) with wait := .none } ∧ TilesBut key s t ∧
      NatMap.get (t.herd h).taken 0 n = r.seq ∧ t.herd h = { s.herd h with taken := (t.herd h).taken } ∧ HerdsBut h s t ∧
      KeepsBut [.tiles, .herds] s t) := by
  have hdeliver : s.itemDeliver h n = (s.updTile key (fun t => { (t.put (dst * 8) r.payload).advance with wait := .none })).updHerd h
      (fun x => { x with taken := NatMap.put x.taken 0 n r.seq }) := by
    simp [State.itemDeliver, hn, htaker, hnext, htarget, hrun, hstop]
  have hkeeps := KeepsBut_append (keeps_updTile s key (fun t => { (t.put (dst * 8) r.payload).advance with wait := .none }))
    (keeps_updHerd _ h (fun x => { x with taken := NatMap.put x.taken 0 n r.seq }))
  refine runs_of_actJrn (exec_itemDeliver h n s) hdeliver hkeeps (by decide) ⟨?_, fun k hk => ?_, ?_, ?_, fun k hk => ?_, hkeeps⟩
  · rw [tile_after_updHerd, tile_updTile, if_pos rfl]
  · rw [tile_after_updHerd, tile_updTile, if_neg hk]
  · rw [herd_updHerd, if_pos rfl]
    exact (NatMap.get_put ..).trans (if_pos rfl)
  · rw [herd_updHerd, if_pos rfl]; rfl
  · rw [herd_updHerd, if_neg hk]; rfl

/-- An item for another herd, a herd that does not run, or a stream that has stopped: nothing is delivered. -/
theorem exec_itemDeliver_waits (hno : st.target ≠ h ∨ (s.herd h).st ≠ .running ∨ s.stoppedAt n r.seq = true) :
    exec (.itemDeliver h n) s = .next s := by
  refine exec_of_actJrn_same (exec_itemDeliver h n s) ?_
  simp only [State.itemDeliver, hn, htaker, hnext]
  exact if_pos hno

end Deliver

end Sys2Proof.Proofs.JournalItems
end

section
/-! Outputs of herds: counted, discarded or stalled, sent to a ring, a stream, another wafer or a port, and SENT
(R45, R363, R364, R466). -/

namespace Sys2Proof.Proofs.HerdOutputs

open Sys2Proof.Machine Sys2Proof.Safety Sys2Proof.Laws
open Sys2Proof.Proofs.Frames Sys2Proof.Proofs.Transport Sys2Proof.Proofs.JournalRings Sys2Proof.Proofs.JournalItems

/-! ### The commands' meanings -/

theorem exec_herdOutput (h : HerdNo) (o : HerdOut) (s : State) :
    exec (.herdOutput h o) s = actJrn (fun s => s.herdOutput h.val o) s := rfl

theorem exec_outputSent (h : HerdNo) (s : State) : exec (.outputSent h) s = actJrn (fun s => s.outputSent h.val) s := rfl

theorem exec_replyOutput (h : HerdNo) (s : State) : exec (.replyOutput h) s = actJrn (fun s => s.replyOutput h.val) s := rfl

/-! ### An output is counted (R363) -/

/-- The herd has counted its next output. -/
def counted (s : State) (h : Nat) : State := s.updHerd h (fun x => { x with outseq := (s.herd h).outseq + 1 })

theorem keeps_counted (s : State) (h : Nat) : KeepsBut [.herds] s (counted s h) := keeps_updHerd s h _

theorem keeps_holdOut (s : State) (h q : Nat) (o : HerdOut) (left : Bool) : KeepsBut [.jrn] s (s.holdOut h q o left) :=
  keeps_setJrn s _

/-- The herd has counted its next output, and the controller holds it. -/
def Emitted (s : State) (h : HerdNo) (o : HerdOut) (left : Bool) (t : State) : Prop :=
  t.herd h = { s.herd h with outseq := (s.herd h).outseq + 1 } ∧ HerdsBut h s t ∧
    t.jrn.outs = s.jrn.outs ++ [{ herd := h, outseq := (s.herd h).outseq + 1, out := o, left := left }]

/-- A state between counting and holding that leaves the herds and the outputs. -/
theorem emitted_holdOut {s u : State} (h : HerdNo) (o : HerdOut) (left : Bool) (hherds : u.herds = (counted s h).herds)
    (houts : u.jrn.outs = s.jrn.outs) : Emitted s h o left (u.holdOut h ((s.herd h).outseq + 1) o left) := by
  have hherd (k : Nat) : (u.holdOut h ((s.herd h).outseq + 1) o left).herd k = (counted s h).herd k := by
    show NatMap.get u.herds Herd.reset k = _
    rw [hherds]
    rfl
  refine ⟨?_, fun k hk => ?_, ?_⟩
  · rw [hherd, counted, herd_updHerd, if_pos rfl]
  · rw [hherd, counted, herd_updHerd, if_neg hk]
  · rw [← houts]
    rfl

/-- The item that a herd's next output for a stream becomes. -/
def streamItem (s : State) (h : HerdNo) (n : StreamNo) (payload : List Byte) : Item :=
  { stream := n, src := h, tag := 0, payload := payload, reinject := none, ring := none
    out := some (h.val, (s.herd h).outseq + 1), peer := none }

/-- The host interface with an entry put on a herd's completion ring, and messages asked for. -/
def withCompletion (s : State) (h : HerdNo) (bs : List Byte) (q : List MsixSrc) : HostIf :=
  let c := s.ring .completion h
  withRing s.host .completion h { c with prod := c.prod + 1 } (Mem.write s.host.bar2 (c.entry .completion c.prod) bs) q

section Output

variable {s : State} {h : HerdNo} (hrun : (s.herd h).st = .running)
include hrun

/-- At or below SENT an output is discarded. -/
theorem runs_herdOutput_discarded {o : HerdOut} (hok : s.outRefused h o = false)
    (hsent : (s.herd h).outseq + 1 ≤ NatMap.get s.jrn.sent 0 h) : Runs (.herdOutput h o) s (fun t =>
      t.herd h = { s.herd h with outseq := (s.herd h).outseq + 1 } ∧ HerdsBut h s t ∧ KeepsBut [.herds] s t) := by
  have hout : s.herdOutput h o = counted s h := by
    simp [State.herdOutput, hrun, hok, hsent, counted]
  refine runs_of_actJrn (exec_herdOutput h o s) hout (keeps_counted s h) (by decide) ⟨?_, fun k hk => ?_, keeps_counted s h⟩
  · rw [counted, herd_updHerd, if_pos rfl]
  · rw [counted, herd_updHerd, if_neg hk]

variable (hsent : NatMap.get s.jrn.sent 0 h < (s.herd h).outseq + 1)
include hsent

/-- Above SENT an output is sent, or the herd stalls. -/
theorem herdOutput_above {o : HerdOut} (hok : s.outRefused h o = false) :
    s.herdOutput h o = ((counted s h).sendOut h ((s.herd h).outseq + 1) o).getD s := by
  simp only [State.herdOutput]
  rw [if_neg (by simp [hrun, hok]), if_neg (by omega)]
  rfl

/-- An output that cannot be sent stalls its herd. -/
theorem exec_herdOutput_stalls {o : HerdOut} (hok : s.outRefused h o = false)
    (hnone : (counted s h).sendOut h ((s.herd h).outseq + 1) o = none) : exec (.herdOutput h o) s = .next s :=
  exec_of_actJrn_same (exec_herdOutput h o s) (by rw [herdOutput_above hrun hsent hok, hnone, Option.getD_none])

/-- What holds once an output has been sent holds after the step. -/
theorem runs_herdOutput_sent {o : HerdOut} {u : State} {l : List Part} {P : State → Prop} (hok : s.outRefused h o = false)
    (hsome : (counted s h).sendOut h ((s.herd h).outseq + 1) o = some u) (hk : KeepsBut l s u) (hl : l ⊆ jrnParts)
    (hP : P u) : Runs (.herdOutput h o) s P :=
  runs_of_actJrn (exec_herdOutput h o s) (by rw [herdOutput_above hrun hsent hok, hsome, Option.getD_some]) hk hl hP

/-! ### Completions (R466, R467) -/

section Completion

variable {tag : Word} {payload : List Byte}

/-- A full ring stalls the herd. -/
theorem exec_herdOutput_ring_full (hfull : (s.ring .completion h).full = true) :
    exec (.herdOutput h (.completion tag payload)) s = .next s :=
  exec_herdOutput_stalls hrun hsent rfl (if_pos hfull)

variable (hfull : (s.ring .completion h).full = false)
include hfull

/-- A completion too long for its ring's entries counts as left. -/
theorem runs_herdOutput_unfit (hbytes : (s.ring .completion h).bytes .completion < 32 + payload.length) :
    Runs (.herdOutput h (.completion tag payload)) s (fun t =>
      Emitted s h (.completion tag payload) true t ∧ KeepsBut [.herds, .jrn] s t) := by
  have hkeeps (x : State) (hx : x = (counted s h).holdOut h ((s.herd h).outseq + 1) (.completion tag payload) true) :
      KeepsBut [.herds, .jrn] s x := hx ▸ KeepsBut_append (keeps_counted s h) (keeps_holdOut _ _ _ _ _)
  have hsend : (counted s h).sendOut h ((s.herd h).outseq + 1) (.completion tag payload) =
      some ((counted s h).holdOut h ((s.herd h).outseq + 1) (.completion tag payload) true) :=
    (if_neg (by rw [Bool.not_eq_true]; exact hfull)).trans (if_pos hbytes)
  exact runs_herdOutput_sent hrun hsent rfl hsend (hkeeps _ rfl) (by decide)
    ⟨emitted_holdOut h _ true rfl rfl, hkeeps _ rfl⟩

/-- A completion goes to its herd's ring. -/
theorem runs_herdOutput_completion (hbytes : 32 + payload.length ≤ (s.ring .completion h).bytes .completion) :
    let c := s.ring .completion h
    Runs (.herdOutput h (.completion tag payload)) s (fun t =>
      Emitted s h (.completion tag payload) true t ∧ t.ring .completion h = { c with prod := c.prod + 1 } ∧
      t.host.bar2 = Mem.write s.host.bar2 (c.entry .completion c.prod) (s.completion h ((s.herd h).outseq + 1) tag payload) ∧
      KeepsBut [.herds, .jrn, .host] s t) := by
  intro c
  generalize hbs : s.completion h ((s.herd h).outseq + 1) tag payload = bs
  obtain ⟨q, hq⟩ : ∃ q, (counted s h).ringPut .completion h bs = (counted s h).setHost (withCompletion s h bs q) :=
    ringPut_eq (counted s h) .completion h bs
  have hsend : (counted s h).sendOut h ((s.herd h).outseq + 1) (.completion tag payload) =
      some (((counted s h).setHost (withCompletion s h bs q)).holdOut h ((s.herd h).outseq + 1) (.completion tag payload) true) := by
    rw [← hq, ← hbs]
    exact (if_neg (by rw [Bool.not_eq_true]; exact hfull)).trans (if_neg (Nat.not_lt.2 hbytes))
  have hkeeps (x : HostIf) : KeepsBut [.herds, .jrn, .host] s
      (((counted s h).setHost x).holdOut h ((s.herd h).outseq + 1) (.completion tag payload) true) :=
    KeepsBut_mono (KeepsBut_append (KeepsBut_append (keeps_counted s h) (keeps_setHost _ x)) (keeps_holdOut _ _ _ _ _)) (by decide)
  exact runs_herdOutput_sent hrun hsent rfl hsend (hkeeps _) (by decide)
    ⟨emitted_holdOut h _ true rfl rfl, ring_withRing s .completion h _ _ q, rfl, hkeeps _⟩

end Completion

/-! ### Items for a stream, messages and replies -/

section Stream

variable {n : StreamNo} {payload : List Byte} (hok : s.outRefused h (.stream n payload) = false)
include hok

/-- An item for a stream is on its way to its pair. -/
theorem runs_herdOutput_stream (hpair : s.pairTakes (s.streamPair n) = true) :
    Runs (.herdOutput h (.stream n payload)) s (fun t => Emitted s h (.stream n payload) false t ∧
      (t.jrn.pair (s.streamPair n)).arriving = (s.jrn.pair (s.streamPair n)).arriving ++
        [streamItem s h n payload] ∧
      KeepsBut [.herds, .jrn] s t) := by
  have hsend : (counted s h).sendOut h ((s.herd h).outseq + 1) (.stream n payload) =
      some (((counted s h).arrive (streamItem s h n payload)).holdOut h ((s.herd h).outseq + 1) (.stream n payload) false) :=
    if_pos hpair
  have hkeeps (p : Nat) (x : Pair) : KeepsBut [.herds, .jrn] s
      (((counted s h).setPair p x).holdOut h ((s.herd h).outseq + 1) (.stream n payload) false) :=
    KeepsBut_mono (KeepsBut_append (KeepsBut_append (keeps_counted s h) (keeps_setPair _ p x)) (keeps_holdOut _ _ _ _ _)) (by decide)
  refine runs_herdOutput_sent hrun hsent hok hsend (hkeeps _ _) (by decide) ⟨emitted_holdOut h _ false rfl rfl, ?_, hkeeps _ _⟩
  exact congrArg Pair.arriving ((pair_setPair ..).trans (if_pos rfl))

/-- While the pair takes no item the herd stalls. -/
theorem exec_herdOutput_stream_stalls (hpair : s.pairTakes (s.streamPair n) = false) :
    exec (.herdOutput h (.stream n payload)) s = .next s :=
  exec_herdOutput_stalls hrun hsent hok (if_neg (by rw [Bool.not_eq_true]; exact hpair))

end Stream

section Wafer

variable {w : Fin 256} {n : StreamNo} {payload : List Byte} (hok : s.outRefused h (.wafer w n payload) = false)
include hok

/-- An output for another wafer goes as a message, which takes a credit. -/
theorem runs_herdOutput_wafer (hon : s.htOn = true) (hcredit : 0 < (s.peer w).credits) :
    Runs (.herdOutput h (.wafer w n payload)) s (fun t => Emitted s h (.wafer w n payload) false t ∧
      (t.peer w).credits = (s.peer w).credits - 1 ∧ (t.peer w).unacked = (s.peer w).unacked ++ [(s.htTakes,
        { peer := w, seq := BitVec.ofNat 64 (NatMap.get (s.peer w).txSeq 1 n), body := .work n h (BitVec.ofNat 64 ((s.herd h).outseq + 1)) payload })] ∧
      NatMap.get (t.peer w).txSeq 1 n = NatMap.get (s.peer w).txSeq 1 n + 1 ∧ KeepsBut [.herds, .jrn, .macs] s t) := by
  generalize hb : HtBody.work n h (BitVec.ofNat 64 ((s.herd h).outseq + 1)) payload = body
  have hsend : (counted s h).sendOut h ((s.herd h).outseq + 1) (.wafer w n payload) =
      some ((((counted s h).takeCredit w).htSend w body).holdOut h ((s.herd h).outseq + 1) (.wafer w n payload) false) := by
    rw [← hb]
    exact (if_pos ⟨hon, hcredit⟩).trans (dif_pos h.isLt)
  have hkeeps : KeepsBut [.herds, .jrn, .macs] s
      ((((counted s h).takeCredit w).htSend w body).holdOut h ((s.herd h).outseq + 1) (.wafer w n payload) false) :=
    KeepsBut_mono (KeepsBut_append (KeepsBut_append (keeps_counted s h) (keeps_sent _ w body)) (keeps_holdOut _ _ _ _ _)) (by decide)
  have hpeer : ((((counted s h).takeCredit w).htSend w body).holdOut h ((s.herd h).outseq + 1) (.wafer w n payload) false).peer w =
      sentTo s w body := peer_sent (counted s h) w body
  have hchan : htChan body = n := by rw [← hb]; rfl
  refine runs_herdOutput_sent hrun hsent hok hsend hkeeps (by decide) ⟨emitted_holdOut h _ false ?_ ?_, ?_, ?_, ?_, hkeeps⟩
  · exact (keeps_sent (counted s h) w body).2 .herds (by decide)
  · rw [jrn_sent]; rfl
  · rw [hpeer]; rfl
  · rw [hpeer, ← hchan]; rfl
  · rw [hpeer, ← hchan]
    simp [sentTo, NatMap.get, NatMap.find_ins]

/-- Without the transport, or a credit, the herd stalls. -/
theorem exec_herdOutput_wafer_stalls (hno : s.htOn = false ∨ (s.peer w).credits = 0) :
    exec (.herdOutput h (.wafer w n payload)) s = .next s := by
  refine exec_herdOutput_stalls hrun hsent hok (if_neg ?_)
  rintro ⟨hon, hcredit⟩
  rcases hno with hno | hno
  · exact absurd (hno.symm.trans hon) (by decide)
  · exact absurd hno (Nat.ne_of_gt hcredit)

end Wafer

/-- A reply waits in the controller for its port. -/
theorem runs_herdOutput_reply (n : StreamNo) (seq : Word) (frame : List Byte) : Runs (.herdOutput h (.reply n seq frame)) s (fun t =>
    Emitted s h (.reply n seq frame) false t ∧ KeepsBut [.herds, .jrn] s t) := by
  have hkeeps : KeepsBut [.herds, .jrn] s ((counted s h).holdOut h ((s.herd h).outseq + 1) (.reply n seq frame) false) :=
    KeepsBut_append (keeps_counted s h) (keeps_holdOut _ _ _ _ _)
  exact runs_herdOutput_sent hrun hsent rfl rfl hkeeps (by decide) ⟨emitted_holdOut h _ false rfl rfl, hkeeps⟩

end Output

/-! ### SENT (R363, R389) -/

/-- A change of the log and of what is exported of it, which leaves the outputs and SENT. -/
structure LogOnly (s t : State) : Prop where
  outs  : t.jrn.outs = s.jrn.outs
  sent  : t.jrn.sent = s.jrn.sent
  keeps : KeepsBut [.regs, .jrn, .io] s t

theorem LogOnly.refl (s : State) : LogOnly s s := ⟨rfl, rfl, KeepsBut_refl _ s⟩

theorem LogOnly.trans {s t u : State} (h : LogOnly s t) (h' : LogOnly t u) : LogOnly s u :=
  ⟨h'.outs.trans h.outs, h'.sent.trans h.sent, KeepsBut_trans h.keeps h'.keeps⟩

theorem LogOnly.setPair (s : State) (p : Nat) (x : Pair) : LogOnly s (s.setPair p x) :=
  ⟨rfl, rfl, KeepsBut_mono (keeps_setPair s p x) (by decide)⟩

theorem LogOnly.exportQ (s : State) (l : List (List Byte)) : LogOnly s (s.setJrn { s.jrn with exportQ := l }) :=
  ⟨rfl, rfl, KeepsBut_mono (keeps_setJrn s _) (by decide)⟩

theorem LogOnly.exportPut (s : State) (size : Nat) (bs : List Byte) : LogOnly s (s.exportPut size bs) :=
  ⟨rfl, rfl, KeepsBut_mono (KeepsBut_append (KeepsBut_trans (keeps_emit s _) (keeps_emit _ _)) (keeps_wr _ _ _)) (by decide)⟩

theorem LogOnly.exportFlush (n : Nat) (s : State) : LogOnly s (State.exportFlush n s) := by
  induction n generalizing s with
  | zero => exact LogOnly.refl s
  | succ n ih =>
    rw [State.exportFlush]
    split
    · exact LogOnly.refl s
    · dsimp only
      split_ifs
      · exact LogOnly.refl s
      · exact ((LogOnly.exportPut s _ _).trans (LogOnly.exportQ _ _)).trans (ih _)
      · exact LogOnly.refl s
      · exact (LogOnly.exportPut s _ _).trans (ih _)
      · exact LogOnly.refl s

theorem LogOnly.writeRec (s : State) (p : Nat) (r : Rec) : LogOnly s (s.writeRec p r) := by
  unfold State.writeRec
  dsimp only
  split
  · exact ((LogOnly.setPair s p _).trans (LogOnly.exportQ _ _)).trans (LogOnly.exportFlush _ _)
  · exact LogOnly.setPair s p _

theorem LogOnly.writeMark (s : State) (p typ stream herd seq : Nat) : LogOnly s (s.writeMark p typ stream herd seq) := by
  unfold State.writeMark
  split
  · exact (LogOnly.writeRec s p _).trans (LogOnly.setPair _ p _)
  · exact LogOnly.refl s

section Sent

variable {s : State} {h : HerdNo} {o : OutW} (hfind : s.jrn.outs.find? (fun o => decide (o.herd = h.val)) = some o)
include hfind

/-- The oldest output of a herd has left: SENT is raised. -/
theorem runs_outputSent (hleft : o.left = true) : Runs (.outputSent h) s (fun t =>
    NatMap.get t.jrn.sent 0 h = max o.outseq (NatMap.get s.jrn.sent 0 h) ∧ t.jrn.outs = s.jrn.outs.erase o ∧
    KeepsBut [.regs, .jrn, .io] s t) := by
  let u := s.setJrn { s.jrn with outs := s.jrn.outs.erase o, sent := NatMap.put s.jrn.sent 0 h (max o.outseq (NatMap.get s.jrn.sent 0 h)) }
  have hsu : KeepsBut [.regs, .jrn, .io] s u := KeepsBut_mono (keeps_setJrn s _) (by decide)
  have hmark : s.outputSent h = u.writeMark (pairOf (u.homeStack h)) 2 0 h (NatMap.get u.jrn.sent 0 h) := by
    simp only [State.outputSent, hfind, if_pos hleft]
    rfl
  have hlog := LogOnly.writeMark u (pairOf (u.homeStack h)) 2 0 h (NatMap.get u.jrn.sent 0 h)
  have hkeeps := KeepsBut_trans hsu hlog.keeps
  refine runs_of_actJrn (exec_outputSent h s) hmark hkeeps (by decide) ⟨?_, hlog.outs, hkeeps⟩
  rw [hlog.sent]
  exact (NatMap.get_put ..).trans (if_pos rfl)

/-- SENT waits until the output has left. -/
theorem exec_outputSent_waits (hleft : o.left = false) : exec (.outputSent h) s = .next s :=
  exec_of_actJrn_same (exec_outputSent h s) (by simp [State.outputSent, hfind, hleft])

end Sent

/-! ### Replies (R364) -/

/-- A MAC with a reply frame last in its herd transport class. -/
def withReply (frame : List Byte) (x : MacSt) : MacSt :=
  { x with ht := x.ht ++ [.frame { bytes := frame, tsMode := 0, tsId := 0, ref := 0 }] }

section Reply

variable {s : State} {h : HerdNo} {o : OutW} {n : StreamNo} {seq : Word} {frame : List Byte} {st : Stream}
  (hfind : s.jrn.outs.find? (fun o => decide (o.herd = h.val ∧ o.left = false) && isReply o.out) = some o)
  (hout : o.out = .reply n seq frame) (hn : s.stream n = some st)
include hfind hout hn

section Named

variable {src : Nat} (hsrc : NatMap.find s.jrn.srcs (n * 2 ^ 64 + seq.toNat) = some src) (hkind : st.kind = 2)
  (hlen : 14 ≤ frame.length)
include hsrc hkind hlen

/-- What becomes of a reply to an accepted item. -/
theorem replyOutput_named : s.replyOutput h =
    if (s.mac (s.macLeader (replyMacOf st src))).up then
      (s.updMac (s.macLeader (replyMacOf st src)) (withReply frame)).outLeft h o.outseq
    else s := by
  simp only [State.replyOutput, hfind, hout, hn, hsrc, if_pos (And.intro hkind hlen)]
  rfl

/-- A reply to an accepted item goes into the herd transport class of its MAC. -/
theorem runs_replyOutput (hup : (s.mac (s.macLeader (replyMacOf st src))).up = true) :
    let m := s.macLeader (replyMacOf st src)
    Runs (.replyOutput h) s (fun t =>
      (t.mac m).ht = (s.mac m).ht ++ [.frame { bytes := frame, tsMode := 0, tsId := 0, ref := 0 }] ∧ MacsBut m s t ∧
      t.jrn.outs = markLeft s.jrn.outs h o.outseq ∧ KeepsBut [.macs, .jrn] s t) := by
  intro m
  have hreply : s.replyOutput h = (s.updMac m (withReply frame)).outLeft h o.outseq :=
    (replyOutput_named hfind hout hn hsrc hkind hlen).trans (if_pos hup)
  have hkeeps : KeepsBut [.macs, .jrn] s ((s.updMac m (withReply frame)).outLeft h o.outseq) :=
    KeepsBut_append (keeps_updMac s m _) (keeps_setJrn _ _)
  refine runs_of_actJrn (exec_replyOutput h s) hreply hkeeps (by decide) ⟨?_, fun k hk => ?_, rfl, hkeeps⟩
  · show ((s.updMac m (withReply frame)).mac m).ht = _
    rw [mac_updMac, if_pos rfl, withReply]
  · show (s.updMac m (withReply frame)).mac k = _
    rw [mac_updMac, if_neg hk]

/-- A reply waits while its link is down. -/
theorem exec_replyOutput_waits (hup : (s.mac (s.macLeader (replyMacOf st src))).up = false) :
    exec (.replyOutput h) s = .next s :=
  exec_of_actJrn_same (exec_replyOutput h s)
    ((replyOutput_named hfind hout hn hsrc hkind hlen).trans (if_neg (by rw [hup]; decide)))

end Named

/-- A reply that names no accepted item of a RIM stream is dropped. -/
theorem runs_replyOutput_dropped (hno : NatMap.find s.jrn.srcs (n * 2 ^ 64 + seq.toNat) = none ∨ st.kind ≠ 2) :
    Runs (.replyOutput h) s (fun t => t.jrn.outs = markLeft s.jrn.outs h o.outseq ∧ KeepsBut [.jrn] s t) := by
  have hdrop : s.replyOutput h = s.outLeft h o.outseq := by
    cases hsrc : NatMap.find s.jrn.srcs (n * 2 ^ 64 + seq.toNat) with
    | none => simp only [State.replyOutput, hfind, hout, hn, hsrc]
    | some src =>
      have hkind : st.kind ≠ 2 := hno.resolve_left (by rw [hsrc]; exact Option.some_ne_none src)
      simp only [State.replyOutput, hfind, hout, hn, hsrc]
      exact if_neg fun hrim => hkind hrim.1
  exact runs_of_actJrn (exec_replyOutput h s) hdrop (keeps_setJrn s _) (by decide) ⟨rfl, keeps_setJrn s _⟩

end Reply

end Sys2Proof.Proofs.HerdOutputs
end

section
/-! Items and outputs from end to end: the statement, assembled from the lemmas about each command. -/

namespace Sys2Proof.Proofs.ItemsAndOutputs

open Sys2Proof.Proofs.JournalItems Sys2Proof.Proofs.HerdOutputs

/-- Settles O49: each command by its own lemmas, in the order of an item's and an output's way. -/
theorem itemsAndOutputs : Obligations.ItemsAndOutputs := by
  refine ⟨?submit, ?arrival, ?accept, ?complete, ?deliver, ?output, ?sent, ?reply⟩
  case submit =>
    intro s ring e hfront hpd hbusy
    refine ⟨fun hn => ?_, fun st hn hre hring => ?_, fun st hn hfed => ⟨fun hlong => ?_, fun hmax hlen => ⟨?_, ?_⟩⟩⟩
    · exact runs_refused (submitEntry_no_stream hfront hpd hbusy hn)
    · exact runs_refused (submitEntry_wrong_ring hfront hpd hbusy hn hre hring)
    · exact runs_refused (submitEntry_too_long hfront hpd hbusy hn hfed hlong)
    · exact exec_submitEntry_waits hfront hpd hbusy hn hfed hmax hlen
    · exact runs_submitEntry_arrives hfront hpd hbusy hn hfed hmax hlen
  case arrival =>
    intro s p it hfind
    refine ⟨runs_itemArrival_dup hfind, exec_itemArrival_waits hfind, fun hdup hpair hre => ⟨?_, ?_⟩⟩
    · exact runs_itemArrival_room hfind hdup hpair hre
    · exact runs_itemArrival_full hfind hdup hpair hre
  case accept =>
    intro s p r it rest hwriting
    exact ⟨exec_itemAccept_waits hwriting, fun _ => runs_itemAccept_host hwriting⟩
  case complete => exact fun _ _ _ => lineQ_of_recComplete
  case deliver =>
    intro s h n st key dst r hn htaker hnext
    exact ⟨runs_itemDeliver hn htaker hnext, exec_itemDeliver_waits hn htaker hnext, nextItem_spec hnext⟩
  case output =>
    intro s h hrun
    refine ⟨fun o hok hsent => runs_herdOutput_discarded hrun hok hsent, fun hsent => ⟨?_, ?_, ?_, ?_, ?_, ?_⟩⟩
    · exact fun _ _ => runs_herdOutput_completion hrun hsent
    · exact fun _ _ => runs_herdOutput_unfit hrun hsent
    · exact fun _ _ => exec_herdOutput_ring_full hrun hsent
    · exact fun _ _ hok => ⟨runs_herdOutput_stream hrun hsent hok, exec_herdOutput_stream_stalls hrun hsent hok⟩
    · exact fun _ _ _ hok => ⟨runs_herdOutput_wafer hrun hsent hok, exec_herdOutput_wafer_stalls hrun hsent hok⟩
    · exact runs_herdOutput_reply hrun hsent
  case sent => exact fun _ _ _ hfind => ⟨runs_outputSent hfind, exec_outputSent_waits hfind⟩
  case reply =>
    intro s h o n seq frame st hfind hout hn
    refine ⟨fun src hsrc hkind hlen => ⟨?_, ?_⟩, runs_replyOutput_dropped hfind hout hn⟩
    · exact runs_replyOutput hfind hout hn hsrc hkind hlen
    · exact exec_replyOutput_waits hfind hout hn hsrc hkind hlen

end Sys2Proof.Proofs.ItemsAndOutputs
end

section
/-! The long accumulator: a finite product of FP16 or FP8 values adds exactly (R73), and partials combine in any order
(R77, R80, R147). -/

namespace Sys2Proof.Proofs.LongAccumulator

open Sys2Proof.Machine Sys2Proof.Safety

/-! ### Finite values of a format -/

/-- The range of a finite element: its exponent between those of the lowest and the highest binade, its magnitude one bit
wider than the mantissa (R59). -/
theorem decodeFlt_fin {f : Fmt} {c m : Nat} {neg : Bool} {e : Int} (h : decodeFlt f c = .fin neg m e) :
    f.emin ≤ e ∧ e + 2 ≤ f.emin + (2 ^ f.flt.eb : Nat) ∧ m < 2 ^ (f.flt.mb + 1) := by
  have hmant : c % 2 ^ f.flt.mb < 2 ^ f.flt.mb := Nat.mod_lt _ (by positivity)
  have hexp : c / 2 ^ f.flt.mb % 2 ^ f.flt.eb < 2 ^ f.flt.eb := Nat.mod_lt _ (by positivity)
  have heb : 2 ≤ 2 ^ f.flt.eb := by cases f <;> decide
  rw [pow_succ]
  unfold decodeFlt at h
  simp only at h
  generalize 2 ^ f.flt.eb = expCount, c / 2 ^ f.flt.mb = high at *
  split_ifs at h <;> obtain ⟨-, rfl, rfl⟩ := Machine.Num.fin.inj h <;> omega

/-- A finite FP16 or FP8 value in units of 2^-56 is an integer below 2^73 in magnitude. -/
theorem decodeFlt_scaled {f : Fmt} {c m : Nat} {neg : Bool} {e : Int} (hf : f ∈ [Fmt.fp16, .e4m3, .e5m2])
    (h : decodeFlt f c = .fin neg m e) : -56 ≤ e ∧ m * 2 ^ (e + 56).toNat < 2 ^ 73 := by
  obtain ⟨hlow, hhigh, hm⟩ := decodeFlt_fin h
  have hfmt : -56 ≤ f.emin ∧ f.flt.mb + 1 + (f.emin + (2 ^ f.flt.eb : Nat) - 2 + 56).toNat ≤ 73 := by
    clear h hlow hhigh hm
    revert f; decide
  refine ⟨by omega, ?_⟩
  calc m * 2 ^ (e + 56).toNat < 2 ^ (f.flt.mb + 1) * 2 ^ (e + 56).toNat := by gcongr
    _ = 2 ^ (f.flt.mb + 1 + (e + 56).toNat) := (pow_add ..).symm
    _ ≤ 2 ^ 73 := Nat.pow_le_pow_right (by decide) (by omega)

/-- Such an element of a tensor, if it is finite. -/
theorem elemAt_scaled {f : Fmt} (hf : f ∈ [Fmt.fp16, .e4m3, .e5m2]) {m : Mem} {addr i : Nat}
    (h : (elemAt m f addr i).special = false) :
    ∃ neg k e, elemAt m f addr i = .fin neg k e ∧ -56 ≤ e ∧ k * 2 ^ (e + 56).toNat < 2 ^ 73 := by
  have hdec : elemAt m f addr i = decodeFlt f (codeAt m f addr i) := if_neg (by clear h; revert f; decide)
  rw [hdec] at h ⊢
  cases hx : decodeFlt f (codeAt m f addr i) with
  | nan => rw [hx] at h; cases h
  | inf _ => rw [hx] at h; cases h
  | fin neg k e => exact ⟨neg, k, e, rfl, decodeFlt_scaled hf hx⟩

/-! ### Exact products -/

theorem plus_zero (c : Acc) : c.plus 0 = c := by simp [Acc.plus]

theorem plus_plus (c : Acc) (u v : Int) : (c.plus u).plus v = c.plus (u + v) := by
  simp [Acc.plus, BitVec.ofInt_add, BitVec.add_assoc]

/-- The sign of a product of two signed magnitudes. -/
theorem sgn_mul_sgn (n1 n2 : Bool) (a b : Nat) : sgn n1 a * sgn n2 b = sgn (n1 != n2) (a * b) := by
  cases n1 <;> cases n2 <;> simp [sgn]

/-- Two factors that are integers below 2^73 in units of 2^-56 have a product on the accumulator's grid and below its
limit: it adds exactly, and no flag changes (R73). -/
theorem product_exact (c : Acc) {n1 n2 : Bool} {m1 m2 : Nat} {e1 e2 : Int} (h1 : -56 ≤ e1) (h2 : -56 ≤ e2)
    (b1 : m1 * 2 ^ (e1 + 56).toNat < 2 ^ 73) (b2 : m2 * 2 ^ (e2 + 56).toNat < 2 ^ 73) :
    c.product (.fin n1 m1 e1) (.fin n2 m2 e2) =
      (c.plus (scaled 56 (.fin n1 m1 e1) * scaled 56 (.fin n2 m2 e2)), false) := by
  have hgrid : toGrid (m1 * m2) (e1 + e2) = m1 * 2 ^ (e1 + 56).toNat * (m2 * 2 ^ (e2 + 56).toNat) := by
    have hexp : (e1 + e2 + 112).toNat = (e1 + 56).toNat + (e2 + 56).toNat := by omega
    rw [toGrid, if_pos (by omega), hexp, pow_add]
    ring
  have hon : onGrid (m1 * m2) (e1 + e2) = true := by simp [onGrid, show -112 ≤ e1 + e2 by omega]
  have hlim : ¬2 ^ 150 ≤ m1 * 2 ^ (e1 + 56).toNat * (m2 * 2 ^ (e2 + 56).toNat) := by
    have := Nat.mul_lt_mul'' b1 b2
    omega
  simp only [Acc.product, Machine.Num.mul, Acc.term, hgrid, hon, if_neg hlim, decide_eq_false hlim, Bool.not_true,
    Bool.or_false, scaled, sgn_mul_sgn]
  rfl

/-- A run of exact products adds their sum. -/
theorem foldl_product_exact {x y : Nat → Machine.Num} {l : List Nat}
    (h : ∀ j ∈ l, ∀ c : Acc, c.product (x j) (y j) = (c.plus (scaled 56 (x j) * scaled 56 (y j)), false)) (a : Acc) :
    l.foldl (fun st j => ((st.1.product (x j) (y j)).1, st.2 || (st.1.product (x j) (y j)).2)) (a, false) =
      (a.plus ((l.map fun j => scaled 56 (x j) * scaled 56 (y j)).sum), false) := by
  induction l generalizing a with
  | nil => simp [plus_zero]
  | cons j l ih =>
    rw [List.foldl_cons, h j List.mem_cons_self, Bool.or_false, ih fun i hi => h i (List.mem_cons_of_mem j hi),
      plus_plus, List.map_cons, List.sum_cons]

/-- Settles O9: each product of finite operands is exact, so that the fold over them adds their sum. -/
theorem dotProductIsExact : Obligations.DotProductIsExact := by
  intro m op r c a hA hB hfin
  refine foldl_product_exact (fun j hj acc => ?_) a
  obtain ⟨finA, finB⟩ := hfin j (List.mem_range.mp hj)
  obtain ⟨n1, m1, e1, hx, h1, b1⟩ := elemAt_scaled hA finA
  obtain ⟨n2, m2, e2, hy, h2, b2⟩ := elemAt_scaled hB finB
  rw [hx, hy]
  exact product_exact acc h1 h2 b1 b2

/-! ### Partials -/

/-- The four flags of a partial are the bits of a number below 16. -/
theorem testBit_flags (a b c d : Bool) (i : Nat) :
    (b2n a + 2 * b2n b + 4 * b2n c + 8 * b2n d).testBit i =
      if i = 0 then a else if i = 1 then b else if i = 2 then c else if i = 3 then d else false := by
  match i with
  | 0 | 1 | 2 | 3 => revert a b c d; decide
  | i + 4 =>
    rw [if_neg (by omega), if_neg (by omega), if_neg (by omega), if_neg (by omega)]
    refine Nat.testBit_lt_two_pow (lt_of_lt_of_le (b := 2 ^ 4) ?_ (Nat.pow_le_pow_right (by decide) (by omega)))
    revert a b c d; decide

/-- The bits of the fourth word of a partial (R80). -/
theorem getLsbD_flagWord (a b c d : Bool) (i : Nat) :
    (BitVec.ofNat 64 (b2n a + 2 * b2n b + 4 * b2n c + 8 * b2n d)).getLsbD i =
      if i = 0 then a else if i = 1 then b else if i = 2 then c else if i = 3 then d else false := by
  rw [BitVec.getLsbD_ofNat, testBit_flags]
  split_ifs <;> simp_all

/-- The first three words of a partial hold its A field (R80). -/
theorem words_field (a : BitVec 192) :
    (BitVec.ofNat 64 a.toNat).toNat + (BitVec.ofNat 64 (a.toNat / 2 ^ 64)).toNat * 2 ^ 64 +
      (BitVec.ofNat 64 (a.toNat / 2 ^ 128)).toNat * 2 ^ 128 = a.toNat := by
  have := a.isLt
  simp only [BitVec.toNat_ofNat]
  omega

/-- A partial read back from its words (R80). -/
theorem ofWords_words (x : Acc) : Acc.ofWords x.words = x := by
  have hbit (w : Word) (i : Nat) : bit w.toNat i = w.getLsbD i := rfl
  simp only [Acc.ofWords, Acc.words, nthD, List.getElem?_cons_zero, List.getElem?_cons_succ, Option.getD_some, words_field,
    hbit, getLsbD_flagWord]
  simp

theorem combine_comm (x y : Acc) : Acc.combine x y = Acc.combine y x := by
  simp only [Acc.combine, AccFlags.join, Acc.mk.injEq]
  refine ⟨BitVec.add_comm .., ?_, Bool.or_comm .., Bool.or_comm .., Bool.or_comm ..⟩
  grind

theorem combine_assoc (x y z : Acc) : Acc.combine (Acc.combine x y) z = Acc.combine x (Acc.combine y z) := by
  simp only [Acc.combine, AccFlags.join, Acc.mk.injEq]
  refine ⟨BitVec.add_assoc .., ?_, Bool.or_assoc .., Bool.or_assoc .., Bool.or_assoc ..⟩
  grind

/-- An accumulator whose flags are joined already takes nothing from the empty one (R77). -/
theorem combine_zero {x : Acc} (h : x.pinf = true ∧ x.ninf = true → x.nan = true) : Acc.combine x Acc.zero = x := by
  obtain ⟨a, nan, pinf, ninf, win⟩ := x
  simpa [Acc.combine, AccFlags.join, Acc.zero] using h

/-- Settles O10: the words of a partial, and the laws of combining field by field. -/
theorem partialsCombineInAnyOrder : Obligations.PartialsCombineInAnyOrder := by
  refine ⟨fun x => ⟨_, _, _, _, rfl, words_field x.a, getLsbD_flagWord _ _ _ _⟩, fun x y => ?_, combine_comm, combine_assoc,
    fun x => combine_zero, ofWords_words⟩
  exact ⟨BitVec.toNat_add .., rfl, rfl, rfl, rfl⟩

end Sys2Proof.Proofs.LongAccumulator
end

section
/-! Instructions that a tile issues, each as a change of its own tile (R50 to R54): the arithmetic instructions, the
sequencer's own and the scalar ones. -/

namespace Sys2Proof.Proofs.TileSteps

open Sys2Proof.Machine Sys2Proof.Safety Sys2Proof.Laws

/-! ### The step of one tile -/

theorem runs_mono {i : Instr} {s : State} {P Q : State → Prop} (h : Runs i s P) (hPQ : ∀ t, P t → Q t) : Runs i s Q := by
  obtain ⟨t, ht, hP⟩ := h
  exact ⟨t, ht, hPQ t hP⟩

section Issued

variable {i : Instr} {s : State} {key : Nat} {legal : Bool} {reads : Tile → List Nat} {effect : State → State}

/-- A tile that issues nothing executes nothing (log entry 3). -/
theorem exec_idle (hidle : (s.tile key).active = false)
    (hi : exec i s = actTile (fun s => s.tileInstr key legal reads effect) s) : exec i s = .next s := by
  rw [hi, actTile, actHerd, tileInstr_idle s key legal reads effect hidle]

variable {g : Tile → Tile}

/-- A legal instruction whose effect is a change `g` of its own tile makes that change and no other (R54). -/
theorem runs_ready {x : Tile} (hr : Ready s key) (hl : legal = true)
    (hi : exec i s = actTile (fun s => s.tileInstr key legal reads effect) s)
    (he : effect (issued s key) = (issued s key).updTile key g) (hx : g (s.tile key) = x) :
    Runs i s (TileBecomes key x s) := by
  obtain ⟨hactive, hclean⟩ := hr
  obtain ⟨t, ht, hbecomes⟩ := runs_tile s key legal reads effect x hactive hclean hl
    (he.trans (by rw [State.updTile, State.updTile, tile_issued, hx]))
  exact ⟨t, hi.trans ht, hbecomes⟩

/-- An instruction that writes one scalar register of a tile `y` and goes on. -/
theorem runs_setSreg {y : Tile} {d : Nat} {w : Word} (hr : Ready s key) (hl : legal = true)
    (hi : exec i s = actTile (fun s => s.tileInstr key legal reads effect) s)
    (he : effect (issued s key) = (issued s key).updTile key g) (hx : g (s.tile key) = (y.setSreg d w).advance) :
    Runs i s (fun t => (∀ j, (t.tile key).sreg j = if j = d then w else y.sreg j) ∧
      TileBecomes key { y.advance with sregs := (t.tile key).sregs } s t) := by
  refine runs_mono (runs_ready hr hl hi he hx) fun t ⟨htile, hrest⟩ => ⟨fun j => ?_, ?_, hrest⟩
  · rw [htile]
    exact NatMap.get_put ..
  · rw [htile]
    rfl

end Issued

/-! ### Arithmetic -/

/-- Settles O5: each arithmetic instruction's effect is a change of its own tile. -/
theorem tileArithmeticRuns : Obligations.TileArithmeticRuns := fun _ _ hr =>
  ⟨fun _ hlegal => runs_ready hr hlegal rfl rfl rfl, fun _ => runs_ready hr rfl rfl rfl rfl,
    fun _ => runs_ready hr rfl rfl rfl rfl, fun _ => runs_ready hr rfl rfl rfl rfl,
    fun _ => runs_ready hr rfl rfl rfl rfl, fun _ => runs_ready hr rfl rfl rfl rfl⟩

/-! ### The sequencer -/

/-- With the herd controller at rest a change of a tile reaches no barrier. -/
theorem checkBarrier_updTile {s : State} {key h : Nat} (hrest : AtRest s h) (g : Tile → Tile) :
    ((issued s key).updTile key g).checkBarrier h = (issued s key).updTile key g :=
  checkBarrier_rest _ h hrest

theorem runs_halt {s : State} {c : Coord} (hr : Ready s c.key) (hrest : AtRest s (herdOfKey c.key)) :
    Runs (.haltInstruction c) s (TileBecomes c.key { s.tile c.key with run := .finished } s) :=
  runs_ready hr rfl rfl (checkBarrier_updTile hrest _) rfl

/-- A barrier point that no barrier asks for is passed, but in a FAULTED herd (R100, R369). -/
theorem runs_barrierPoint {s : State} {c : Coord} (hr : Ready s c.key) (hrest : AtRest s (herdOfKey c.key)) :
    Runs (.epochBarrierPoint c) s (TileBecomes c.key
      (if (s.herd (herdOfKey c.key)).st = .faulted then { (s.tile c.key).advance with run := .atBarrier }
        else (s.tile c.key).advance) s) := by
  have hbarrier : ((issued s c.key).herd (herdOfKey c.key)).barrier = none := hrest.1
  split_ifs with hfault
  · have hfault' : ((issued s c.key).herd (herdOfKey c.key)).st = .faulted := hfault
    refine runs_ready (g := fun x => { x.advance with run := .atBarrier }) hr rfl rfl ?_ rfl
    rw [if_pos (by simp [hfault']), checkBarrier_updTile hrest]
  · have hfault' : ((issued s c.key).herd (herdOfKey c.key)).st ≠ .faulted := hfault
    exact runs_ready hr rfl rfl (if_neg (by simp [hbarrier, hfault'])) rfl

/-- Setting an arrival counter (R122). -/
theorem runs_counterSet {s : State} {c : Coord} (hr : Ready s c.key) (k r : Fin 16) (v : BitVec 32) :
    Runs (.counterSet c k r (some v)) s (fun t => (∀ j, NatMap.get (t.tile c.key).ctrs 0 j =
        if j = k.val then v else NatMap.get (s.tile c.key).ctrs 0 j) ∧
      TileBecomes c.key { (s.tile c.key).advance with ctrs := (t.tile c.key).ctrs } s t) := by
  refine runs_mono (runs_ready hr rfl rfl rfl rfl) fun t ⟨htile, hrest⟩ => ⟨fun j => ?_, ?_, hrest⟩
  · rw [htile]
    exact NatMap.get_put ..
  · rw [htile]
    rfl

/-- Settles O15: each instruction of the sequencer as a change of its tile, and the rule for a tile that issues none. -/
theorem sequencerInstructionsRun : Obligations.SequencerInstructionsRun := by
  refine ⟨fun s c hr => ⟨fun hrest => ⟨runs_halt hr hrest, runs_barrierPoint hr hrest⟩, fun k n => ?wait,
    fun k r v => ⟨runs_counterSet hr k r v, ?read⟩, fun n d => ?take⟩, fun s c hidle => ?idle⟩
  case wait => exact runs_ready hr rfl rfl rfl rfl
  case read => exact runs_setSreg hr rfl rfl rfl rfl
  case take => exact runs_ready hr rfl rfl rfl rfl
  case idle =>
    refine ⟨?_, ?_, ?_, ?_, ?_, ?_, ?_, ?_, ?_, ?_, ?_, ?_, ?_, ?_, ?_, ?_, ?_, ?_, ?_, ?_, ?_⟩ <;> intros <;>
      exact exec_idle hidle rfl

/-! ### Data SRAM -/

/-- Bytes written inside data SRAM read back (R50). -/
theorem read_put {t : Tile} {addr k n : Nat} {bs : List Byte} (hk : k + n ≤ bs.length) (hfit : addr + bs.length ≤ sramSize) :
    Mem.read (t.put addr bs).sram (addr + k) n = (bs.drop k).take n := by
  rw [Mem.read_eq]
  refine List.ext_getElem (by simp; omega) fun i hi _ => ?_
  rw [List.length_map, List.length_range] at hi
  have hat : addr + k + i - addr = k + i := by omega
  rw [List.getElem_map, List.getElem_range, byte_put, if_pos (by omega), hat, List.getElem?_eq_getElem (by omega)]
  simp

theorem read_put_all {t : Tile} {addr : Nat} {bs : List Byte} (hfit : addr + bs.length ≤ sramSize) :
    Mem.read (t.put addr bs).sram addr bs.length = bs := by
  simpa using read_put (t := t) (k := 0) (Nat.zero_add _).le hfit

/-- A write of data SRAM changes its own bytes alone. -/
theorem bytesBut_put (t : Tile) (addr : Nat) (bs : List Byte) : BytesBut addr bs.length t.sram (t.put addr bs).sram := by
  intro x hx
  rw [byte_put, if_neg (by omega)]

/-! ### Scalar instructions -/

@[simp] theorem sreg_readReg (t : Tile) (off j : Nat) : (t.readReg off).1.sreg j = t.sreg j := by
  unfold Tile.readReg
  split_ifs <;> rfl

section Scalar

variable {s : State} {c : Coord}

/-- A store into data SRAM writes the register's eight bytes (R50). -/
theorem runs_store (hr : Ready s c.key) (src : Fin 16) {addr : Nat} (hfit : addr + 8 ≤ sramSize) :
    let x := s.tile c.key
    Runs (.scalarInstruction c (.store src addr)) s (fun t =>
      leNat (Mem.read (t.tile c.key).sram addr 8) = (x.sreg src.val).toNat ∧
        BytesBut addr 8 x.sram (t.tile c.key).sram ∧ (t.tile c.key).accs = x.accs ∧ (t.tile c.key).sregs = x.sregs ∧
        (t.tile c.key).pc = x.advance.pc ∧ TilesBut c.key s t ∧ KeepsBut [.tiles] s t) := by
  intro x
  have hruns : Runs (.scalarInstruction c (.store src addr)) s
      (TileBecomes c.key (x.put addr (leBytes 8 (x.sreg src.val).toNat)).advance s) := runs_ready hr rfl rfl rfl rfl
  refine runs_mono hruns fun t ⟨htile, hrest⟩ => ?_
  generalize hbs : leBytes 8 (x.sreg src.val).toNat = bs at htile
  have hlen : bs.length = 8 := by rw [← hbs, leBytes_length]
  have hsram : (t.tile c.key).sram = (x.put addr bs).sram := by rw [htile]; rfl
  obtain ⟨-, -, haccs, hsregs, hpc, -⟩ := put_keeps x addr bs
  refine ⟨?_, ?_, ?_, ?_, ?_, hrest⟩
  · have hread : Mem.read (x.put addr bs).sram addr 8 = bs := hlen ▸ read_put_all (hlen ▸ hfit)
    rw [hsram, hread, ← hbs, leNat_leBytes]
    exact Nat.mod_eq_of_lt (x.sreg src.val).isLt
  · rw [hsram]
    exact hlen ▸ bytesBut_put x addr bs
  · rw [htile]; exact haccs
  · rw [htile]; exact hsregs
  · rw [htile, Tile.advance, Tile.advance, hpc]

/-- Settles O16: each scalar instruction as a change of its tile. -/
theorem scalarInstructionsRun : Obligations.ScalarInstructionsRun := by
  intro s c hr x
  refine ⟨fun dst a b => ?alu, fun dst addr => ?load, fun src addr hfit => runs_store hr src hfit, fun src addr => ?program,
    fun target => ?jump, fun dst off => ?readReg, fun src off => ?writeReg⟩
  case alu =>
    refine runs_mono (runs_setSreg hr rfl rfl rfl rfl) fun t ⟨hsreg, hrest⟩ => ⟨fun j hj => ?_, hrest⟩
    rw [hsreg, if_neg hj]
  case load => exact runs_setSreg hr rfl rfl rfl rfl
  case program => exact runs_ready hr rfl rfl rfl rfl
  case jump => exact runs_ready hr rfl rfl rfl rfl
  case readReg => simpa using runs_setSreg (y := (x.readReg off.toNat).1) hr rfl rfl rfl rfl
  case writeReg => exact runs_ready hr rfl rfl rfl rfl

end Scalar

end Sys2Proof.Proofs.TileSteps
end

section
/-! Packets that a tile sends: one goes into the sender's router, or a READ_REQ waits for a free slot (R80, R120, R123,
R124, R155). -/

namespace Sys2Proof.Proofs.TilePackets

open Sys2Proof.Machine Sys2Proof.Safety Sys2Proof.Laws
open Sys2Proof.Proofs.Frames Sys2Proof.Proofs.TileSteps

/-- What a send leaves: the sending tile has become `x`, the packet stands in the input buffer of its router's local
port, and nothing else has changed. -/
def SentPacket (key : Nat) (p : Packet) (x : Tile) (s t : State) : Prop :=
  t.tile key = x ∧ TilesBut key s t ∧ KeepsBut [.tiles, .mesh] s t ∧
    t.mesh = { s.mesh with flights := s.mesh.flights ++ [
      { pkt := p, loc := .router (s.physOf key).1 (s.physOf key).2 .local_, poisoned := false }] }

/-- A change of the tile followed by a send of a packet. -/
theorem sentPacket_sendFromTile (s : State) (key : Nat) (p : Packet) (x : Tile) :
    SentPacket key p x s (((issued s key).setTile key x).sendFromTile key p) := by
  have hat (k : Nat) : (((issued s key).setTile key x).sendFromTile key p).tile k = if k = key then x else s.tile k := by
    rw [← tile_issued s key k, ← tile_setTile]
    rfl
  refine ⟨by rw [hat, if_pos rfl], fun k hk => by rw [hat, if_neg hk], ?_, rfl⟩
  exact KeepsBut_append (keeps_tiles s _) (keeps_mesh _ _)

section Issued

variable {i : Instr} {s : State} {key : Nat} {legal : Bool} {reads : Tile → List Nat} {effect : State → State} {p : Packet}

/-- An instruction whose effect changes its tile and sends a packet. -/
theorem runs_sends {x : Tile} (hr : Ready s key) (hl : legal = true)
    (hi : exec i s = actTile (fun s => s.tileInstr key legal reads effect) s)
    (he : effect (issued s key) = ((issued s key).setTile key x).sendFromTile key p) : Runs i s (SentPacket key p x s) := by
  subst hl
  obtain ⟨hactive, hclean⟩ := hr
  have hsent : SentPacket key p x s (effect (issued s key)) := he ▸ sentPacket_sendFromTile s key p x
  have ⟨_, _, hkeeps, _⟩ := hsent
  rw [Runs, hi, answer_ready s key reads effect hactive hclean]
  exact run_actHerd _ s [.tiles, .mesh] _ hkeeps (by decide) hsent

/-- A READ_REQ below the eighth is sent and counts as outstanding (R123). -/
theorem runs_sendRead (hr : Ready s key) (hl : legal = true)
    (hi : exec i s = actTile (fun s => s.tileInstr key legal reads effect) s)
    (he : effect (issued s key) = (issued s key).sendRead key p) (hslot : (s.tile key).reads.length < 8) :
    Runs i s (SentPacket key p
      { (s.tile key).advance with reads := (s.tile key).reads ++ [⟨p.tag, false⟩], wait := .none } s) := by
  refine runs_sends hr hl hi (he.trans ?_)
  simp only [State.sendRead, tile_issued, if_pos hslot]

/-- A READ_REQ beyond the eighth waits for a slot (R123). -/
theorem runs_readWaits (hr : Ready s key) (hl : legal = true)
    (hi : exec i s = actTile (fun s => s.tileInstr key legal reads effect) s)
    (he : effect (issued s key) = (issued s key).sendRead key p) (hfull : 8 ≤ (s.tile key).reads.length) :
    Runs i s (TileBecomes key { s.tile key with wait := .readSlot p } s) := by
  refine runs_ready (g := fun x => { x with wait := .readSlot p }) hr hl hi (he.trans ?_) rfl
  simp only [State.sendRead, State.updTile, tile_issued, if_neg (Nat.not_lt.mpr hfull)]

end Issued

/-! ### The packet that a send builds -/

/-- An accumulator leaves the tile as four words (R80). -/
theorem words_length (x : Acc) : x.words.length = 4 := rfl

/-- A payload of accumulators, word by word (R80). -/
theorem payload_of_accs {op : SendOp} {x : Tile} {first : Fin 32} {ws : List Word} (hsrc : op.src = .accs first)
    (hlen : ws.length = op.len.toNat)
    (hws : ∀ i, i < op.len.toNat → ws[i]? = (x.acc (first.val + i / 4)).words[i % 4]?) : sendWords op x = ws := by
  simp only [sendWords, hsrc]
  refine List.ext_getElem (by simp [hlen]) fun i _ hi => ?_
  have hword : i % 4 < (x.acc (first.val + i / 4)).words.length := by rw [words_length]; omega
  have hget := hws i (by omega)
  rw [List.getElem?_eq_getElem hi, List.getElem?_eq_getElem hword] at hget
  simp [nthD, List.getElem?_eq_getElem hword, Option.some.inj hget]

/-- Settles O17: a send of another kind, and a READ_REQ with a slot free and with none, by either instruction. -/
theorem packetsAreSent : Obligations.PacketsAreSent := by
  intro s c hr x place sent pktOf ask read words
  have hpayload {op : SendOp} {ws : List Word} (hwords : words op ws) : sendPacketOf op c.key x = pktOf op ws := by
    have : sendWords op x = ws := by
      cases hsrc : op.src with
      | sram a =>
        simp only [words, hsrc] at hwords
        simp only [sendWords, hsrc, hwords]
      | accs first =>
        simp only [words, hsrc] at hwords
        obtain ⟨hlen, hword⟩ := hwords
        exact payload_of_accs hsrc hlen hword
    simp only [sendPacketOf, this, pktOf]
  refine ⟨fun op ws hkind hwords => ⟨fun hop => ?_, fun hop hslot => ?_, fun hop hfull => ?_⟩,
    fun op => ⟨fun hslot => runs_sendRead hr rfl rfl rfl hslot, fun hfull => runs_readWaits hr rfl rfl rfl hfull⟩⟩
  all_goals rw [← hpayload hwords]
  · refine runs_sends hr hkind rfl ?_
    simp only [State.updTile, tile_issued, if_neg hop]
    rfl
  · refine runs_sendRead hr hkind rfl ?_ hslot
    simp only [tile_issued, if_pos hop]
    rfl
  · refine runs_readWaits hr hkind rfl ?_ hfull
    simp only [tile_issued, if_pos hop]
    rfl

end Sys2Proof.Proofs.TilePackets
end

section
/-! Faults that halt a tile (R53, R97, R99, R100, R502), and window writes of a tile's registers (R57, R116, R144). -/

namespace Sys2Proof.Proofs.TileFaults

open Sys2Proof.Machine Sys2Proof.Safety Sys2Proof.Laws
open Sys2Proof.Proofs.Frames Sys2Proof.Proofs.TileSteps

/-! ### Faults -/

/-- A tile written back as it is changes no tile. -/
theorem tile_setTile_same (s : State) (key k : Nat) : (s.setTile key (s.tile key)).tile k = s.tile k := by
  rw [tile_setTile]
  split_ifs with hk
  · rw [hk]
  · rfl

section Fault

variable {i : Instr} {s : State} {key : Nat} {legal : Bool} {reads : Tile → List Nat} {effect : State → State}

/-- An instruction that comes to a fault of its tile, with the herd controller at rest: the tile becomes what the fault
makes of it, and the rest of the fault is its record and its herd's state. -/
theorem runs_fault {f : State → State} {s0 : State} {code detail : Nat} {g : Tile → Tile}
    (hrest : AtRest s (herdOfKey key)) (hi : exec i s = actTile f s)
    (hf : f s = ((s0.updTile key g).faultHerd (herdOfKey key) code false).post code Source.tile key detail)
    (htile : ∀ k, s0.tile k = s.tile k) (hkeeps : KeepsBut [.tiles] s s0) (hg : ∀ x, (g x).run = .faulted code) :
    Runs i s (fun t => TileFaulted key code detail s t ∧ t.tile key = g (s.tile key)) := by
  obtain ⟨hnext, hfaulted, hbecomes⟩ := tile_fault s s0 key code detail g hrest htile hkeeps hg
  rw [← hf] at hnext hfaulted hbecomes
  exact ⟨f s, hi.trans hnext, hfaulted, hbecomes⟩

/-- An illegal instruction halts the tile before it reads its operands (R502). -/
theorem runs_illegal (hrest : AtRest s (herdOfKey key)) (hr : Ready s key) (hl : legal = false)
    (hi : exec i s = actTile (fun s => s.tileInstr key legal reads effect) s) :
    Runs i s (TileFaulted key Code.tileIllegalInstr ((s.tile key).pc % 2048 + (s.tile key).instrWord * 2 ^ 32) s) := by
  subst hl
  obtain ⟨hactive, hclean⟩ := hr
  refine runs_mono (runs_fault (g := fun x => { x with run := .faulted Code.tileIllegalInstr }) hrest
    (hi.trans (answer_illegal s key reads effect hactive hclean)) ?_ (tile_setTile_same s key)
    (keeps_setTile s key _) fun _ => rfl) fun _ ⟨hfaulted, _⟩ => hfaulted
  simp only [State.tileIllegal, tile_setTile_same]

/-- A sparse operand that fails its check: the record says where, and a fault register that holds no fault takes this one
(R99, R116). -/
theorem runs_sparseFault {f : SFault} (hrest : AtRest s (herdOfKey key)) (hr : Ready s key) (hl : legal = true)
    (hi : exec i s = actTile (fun s => s.tileInstr key legal reads effect) s)
    (he : effect (issued s key) = (issued s key).tileSparseFault key f) :
    Runs i s (fun t =>
      TileFaulted key f.code (f.brow + f.bcol * 2 ^ 16 + f.sub * 2 ^ 32 + f.kind * 2 ^ 40 + f.seg * 2 ^ 48) s t ∧
        t.tile key = { s.tile key with
          run := .faulted f.code
          sparseFault := if bit (s.tile key).sparseFault.toNat 24 then (s.tile key).sparseFault
            else BitVec.ofNat 64 (f.code + f.sub * 2 ^ 16 + 2 ^ 24 + f.brow * 2 ^ 32 + f.bcol * 2 ^ 48) }) := by
  subst hl
  obtain ⟨hactive, hclean⟩ := hr
  exact runs_fault hrest (hi.trans (answer_ready s key reads effect hactive hclean)) he (tile_issued s key)
    (KeepsBut_trans (keeps_setTile s key _) (keeps_setTile _ key _)) fun _ => rfl

/-- A double-bit error in the instruction's word of program SRAM halts the tile (R53, R507). -/
theorem runs_fetchError (hrest : AtRest s (herdOfKey key)) (hactive : (s.tile key).active = true)
    (hbad : NatMap.find (s.tile key).bad (sramWords + (s.tile key).pc / 2) = some 2)
    (hi : exec i s = actTile (fun s => s.tileInstr key legal reads effect) s) :
    Runs i s (TileFaulted key Code.tileEccUncorr 0 s) := by
  -- The read takes a draw of the model's own, which no part of the fault shows.
  have hread : s.tileInstr key legal reads effect = (s.draw.setTile key (s.tile key)).tileEcc key := by
    rw [State.tileInstr, if_pos hactive, State.readStage]
    simp only [Tile.readWords, hbad, Tile.readBad]
    rfl
  obtain ⟨-, ⟨hrun, htiles, hst, hherds, hnew, hold, hevents, hout, hkeeps⟩, -⟩ := tile_fault s.draw
    (s.draw.setTile key (s.tile key)) key Code.tileEccUncorr 0 (fun x => { x with run := .faulted Code.tileEccUncorr })
    hrest (tile_setTile_same s.draw key) (keeps_setTile _ key _) fun _ => rfl
  have hkeeps' : KeepsBut [.tiles, .herds, .io] s (s.tileInstr key legal reads effect) :=
    hread ▸ KeepsBut_trans (KeepsBut_mono (keeps_draw s) (by decide)) hkeeps
  refine ⟨_, hi.trans (actTile_eq _ s (KeepsBut_mono hkeeps' (by decide))), ?_⟩
  rw [hread] at hkeeps' ⊢
  exact ⟨hrun, htiles, hst, hherds, hnew, hold, hevents, hout, hkeeps'⟩

end Fault

/-! ### The window -/

section Window

variable {s : State} {c : Coord}

/-- A window write of a tile register reaches it where the tile's herd is present and not DARK (R144). -/
theorem runs_tileRegWrite {i : Instr} {off : Nat} {v : Word} {x : Tile} (hlit : (s.herd (herdOfKey c.key)).st ≠ .dark)
    (hpresent : s.herdPresent (herdOfKey c.key) = true) (hi : exec i s = actTile (fun s => s.tileRegWrite c.key off v) s)
    (hx : (s.tile c.key).writeReg off v fullMask = x) : Runs i s (TileBecomes c.key x s) := by
  have hwrite : s.tileRegWrite c.key off v = s.updTile c.key (fun x => x.writeReg off v fullMask) :=
    if_neg (by simp [hlit, hpresent])
  obtain ⟨t, ht, hbecomes⟩ := runs_change s c.key fun x => x.writeReg off v fullMask
  refine ⟨t, ?_, hx ▸ hbecomes⟩
  rw [hi, ← ht, actTile, actTile, actHerd, actHerd, hwrite]

/-- A window write to a herd that is DARK or absent is dropped and sets WIN_ERR (R144). -/
theorem runs_tileRegWrite_dropped {i : Instr} {off : Nat} {v : Word}
    (hdark : (s.herd (herdOfKey c.key)).st = .dark ∨ s.herdPresent (herdOfKey c.key) = false)
    (hi : exec i s = actTile (fun s => s.tileRegWrite c.key off v) s) :
    Runs i s (fun t =>
      t.rd Reg.HRD_CMD_STATUS_WIN_ERR = 1 ∧ RegsBut [Reg.HRD_CMD_STATUS] s t ∧ KeepsBut [.regs] s t) := by
  have hwrite : s.tileRegWrite c.key off v = s.wr Reg.HRD_CMD_STATUS_WIN_ERR 1 := if_pos (by simpa using hdark)
  have hkeeps := keeps_wr s Reg.HRD_CMD_STATUS_WIN_ERR 1
  rw [Runs, hi]
  refine run_actHerd _ s [.regs] _ (hwrite ▸ hkeeps) (by decide) ?_
  rw [hwrite]
  exact ⟨rd_wr s _ 1 (by decide) (by decide), RegsBut_wr s Reg.HRD_CMD_STATUS_WIN_ERR 1, hkeeps⟩

/-- A write of STEP clears SEQ (R57). -/
theorem writeReg_step (x : Tile) (v : BitVec 32) :
    x.writeReg tStep (BitVec.ofNat 64 v.toNat) fullMask = { x with step := BitVec.ofNat 64 v.toNat } := by
  have hwrite : x.writeReg tStep (BitVec.ofNat 64 v.toNat) fullMask =
      { x with step := BitVec.ofNat 64 ((BitVec.ofNat 64 v.toNat).toNat % 2 ^ 32) } := rfl
  have hv : (BitVec.ofNat 64 v.toNat).toNat % 2 ^ 32 = v.toNat := by
    have := v.isLt
    rw [BitVec.toNat_ofNat]
    omega
  rw [hwrite, hv]

/-- A write of 1 to VALID clears the sparse fault register (R116). -/
theorem writeReg_sparseFault (x : Tile) :
    x.writeReg tSparseFault (BitVec.ofNat 64 (2 ^ 24)) fullMask = { x with sparseFault := 0 } := rfl

end Window

/-- Settles O18: each fault by the lemma of its kind, and the two window writes, made and dropped. -/
theorem tileFaultsAndRegisters : Obligations.TileFaultsAndRegisters := by
  refine ⟨fun s c hrest => ⟨fun hr => ⟨fun op hl => ?dot, ?reserved, fun op hl => ?send, fun op hl => ?sparse,
    fun op f hl hcheck => ?check⟩, rfl, fun hactive hbad => ?fetch⟩,
    fun s c => ⟨fun hlit hpresent => ⟨fun v => ?step, ?clear⟩, fun hdark => ⟨fun v => ?dropped, ?dropped'⟩⟩⟩
  case dot => exact runs_illegal hrest hr hl rfl
  case reserved => exact runs_illegal hrest hr rfl rfl
  case send => exact runs_illegal hrest hr hl rfl
  case sparse => exact runs_illegal hrest hr hl rfl
  case check =>
    refine runs_mono (runs_sparseFault (f := f) hrest hr hl rfl ?_) fun t ⟨hfaulted, htile⟩ => ⟨hfaulted, ?_⟩
    · simp only [tile_issued, hcheck]
    · rw [htile]
      exact ⟨rfl, rfl, rfl, rfl⟩
  case fetch => exact runs_fetchError hrest hactive hbad rfl
  case step => exact runs_tileRegWrite hlit hpresent rfl (writeReg_step _ v)
  case clear => exact runs_tileRegWrite hlit hpresent rfl (writeReg_sparseFault _)
  case dropped => exact runs_tileRegWrite_dropped hdark rfl
  case dropped' => exact runs_tileRegWrite_dropped hdark rfl

end Sys2Proof.Proofs.TileFaults
end

section
/-! Rounding of a magnitude (R67), and the codes that the vector unit, a conversion and an accumulator output leave in
data SRAM (R66, R71, R78). -/

namespace Sys2Proof.Proofs.LaneResults

open Sys2Proof.Machine Sys2Proof.Safety Sys2Proof.Laws
open Sys2Proof.Proofs.TileSteps

/-! ### Rounding -/

section Rounding

variable {mag drop rnd : Nat}

theorem roundMag_rne (hd : 0 < drop) : roundMag mag drop .rne rnd =
    if 2 ^ (drop - 1) < mag % 2 ^ drop ∨ (mag % 2 ^ drop = 2 ^ (drop - 1) ∧ mag / 2 ^ drop % 2 = 1) then mag / 2 ^ drop + 1
    else mag / 2 ^ drop := if_neg hd.ne'

theorem roundMag_rtz (hd : 0 < drop) : roundMag mag drop .rtz rnd = mag / 2 ^ drop := if_neg hd.ne'

theorem roundMag_sr (hd : 0 < drop) : roundMag mag drop .sr rnd =
    if 2 ^ 32 ≤ (if 32 ≤ drop then mag % 2 ^ drop / 2 ^ (drop - 32) else mag % 2 ^ drop * 2 ^ (32 - drop)) + rnd
    then mag / 2 ^ drop + 1 else mag / 2 ^ drop := if_neg hd.ne'

/-- Round to nearest: the kept magnitude is within half of the last place, and even on a tie. -/
theorem roundMag_rne_nearest (hd : 0 < drop) : let k := roundMag mag drop .rne rnd
    2 * (k * 2 ^ drop) ≤ 2 * mag + 2 ^ drop ∧ 2 * mag ≤ 2 * (k * 2 ^ drop) + 2 ^ drop ∧
      ((2 * (k * 2 ^ drop) = 2 * mag + 2 ^ drop ∨ 2 * mag = 2 * (k * 2 ^ drop) + 2 ^ drop) → k % 2 = 0) := by
  have hhalf : 2 ^ drop = 2 * 2 ^ (drop - 1) := by rw [← pow_succ', Nat.sub_add_cancel hd]
  have hsplit := Nat.div_add_mod' mag (2 ^ drop)
  have hrest : mag % 2 ^ drop < 2 ^ drop := Nat.mod_lt _ (by positivity)
  rw [roundMag_rne hd]
  split_ifs with hup
  · simp only [Nat.add_mul, Nat.one_mul]
    omega
  · simp only
    omega

/-- Rounding toward zero drops what lies below the last place. -/
theorem roundMag_rtz_cuts (hd : 0 < drop) : let k := roundMag mag drop .rtz rnd
    k * 2 ^ drop ≤ mag ∧ mag < (k + 1) * 2 ^ drop := by
  rw [roundMag_rtz hd]
  exact ⟨Nat.div_mul_le_self .., Nat.lt_mul_of_div_lt (Nat.lt_succ_self _) (by positivity)⟩

/-- Stochastic rounding takes one of the two neighbours. -/
theorem roundMag_sr_neighbour (hd : 0 < drop) :
    roundMag mag drop .sr rnd = mag / 2 ^ drop ∨ roundMag mag drop .sr rnd = mag / 2 ^ drop + 1 := by
  rw [roundMag_sr hd]
  split_ifs <;> simp

/-- Stochastic rounding keeps an exact value: its draw alone never reaches 2^32. -/
theorem roundMag_sr_exact (hd : 0 < drop) (hrnd : rnd < 2 ^ 32) (hexact : mag % 2 ^ drop = 0) :
    roundMag mag drop .sr rnd = mag / 2 ^ drop := by
  rw [roundMag_sr hd, hexact, Nat.zero_div, Nat.zero_mul, ite_self, Nat.zero_add, if_neg (Nat.not_le.mpr hrnd)]

end Rounding

/-- Settles O8: the three modes one by one. -/
theorem roundingStep : Obligations.RoundingStep := fun _ _ _ hd =>
  ⟨roundMag_rne_nearest hd, roundMag_rtz_cuts hd,
    fun hrnd => ⟨roundMag_sr_neighbour hd, fun hexact => roundMag_sr_exact hd hrnd hexact⟩⟩

/-! ### Codes in data SRAM -/

/-- Bytes inside data SRAM read as the memory holds them. -/
theorem sramRead_eq_read (m : Mem) {addr n : Nat} (hfit : addr + n ≤ sramSize) : sramRead m addr n = Mem.read m addr n := by
  induction n generalizing addr with
  | zero => rfl
  | succ n ih => rw [sramRead, Mem.read, ih (by omega), sramByte, if_pos (by omega)]

/-- Codes of `n` bytes one after another: the bytes of the code at place `i`. -/
theorem take_drop_codes {α : Type} (v : α → Nat) (n : Nat) {rs : List α} {i : Nat} (hi : i < rs.length) :
    ((rs.flatMap fun r => leBytes n (v r)).drop (i * n)).take n = leBytes n (v rs[i]) := by
  induction rs generalizing i with
  | nil => exact absurd hi (Nat.not_lt_zero i)
  | cons r rs ih =>
    rw [List.flatMap_cons]
    cases i with
    | zero => simp
    | succ i =>
      have hskip : (i + 1) * n = (leBytes n (v r)).length + i * n := by rw [leBytes_length]; ring
      rw [hskip, List.drop_length_add_append]
      exact ih _

theorem length_codes {α : Type} (v : α → Nat) (n : Nat) (rs : List α) :
    (rs.flatMap fun r => leBytes n (v r)).length = n * rs.length := by
  simp [List.length_flatMap, Nat.mul_comm]

/-- Codes written inside data SRAM read back, cut to the format's width. -/
theorem codeAt_put {α : Type} (v : α → Nat) (t : Tile) (f : Fmt) {addr i : Nat} {rs : List α} (hi : i < rs.length)
    (hfit : addr + f.bytes * rs.length ≤ sramSize) :
    codeAt (t.put addr (rs.flatMap fun r => leBytes f.bytes (v r))).sram f addr i = v rs[i] % 2 ^ (8 * f.bytes) := by
  have hend : i * f.bytes + f.bytes ≤ f.bytes * rs.length := by
    rw [← Nat.succ_mul, Nat.mul_comm f.bytes]
    exact Nat.mul_le_mul_right _ hi
  have hlen := length_codes v f.bytes rs
  have hwidth : 2 ^ (8 * f.bytes) = 256 ^ f.bytes := pow_mul 2 8 f.bytes
  rw [codeAt, sramRead_eq_read _ (by omega), read_put (by omega) (by omega), take_drop_codes v _ hi, leNat_leBytes, hwidth]

@[simp] theorem sram_setFlags (t : Tile) (x : Flags) : (t.setFlags x).sram = t.sram := rfl

@[simp] theorem sram_bumpSeq (t : Tile) (sr : Bool) : (t.bumpSeq sr).sram = t.sram := by
  unfold Tile.bumpSeq
  split <;> rfl

/-- Clearing accumulators leaves data SRAM. -/
theorem sram_foldl_setAcc (f : Nat → Nat) (l : List Nat) (t : Tile) :
    (l.foldl (fun t i => t.setAcc (f i) Acc.zero) t).sram = t.sram := by
  induction l generalizing t with
  | nil => rfl
  | cons i l ih => exact ih _

/-- Values written in a format that is no Tine format: each lane's code (R66). -/
theorem codeAt_putElems (t : Tile) {f : Fmt} (mode : RMode) (rnd : Nat → Nat) {addr i : Nat} {xs : List Machine.Num}
    (hf : f.isTine = false) (hi : i < xs.length) (hfit : addr + f.bytes * xs.length ≤ sramSize) :
    codeAt (putElems t f mode rnd addr xs).sram f addr i = (toFlt f mode t.sat (rnd i) xs[i]).1 % 2 ^ (8 * f.bytes) := by
  rw [putElems, if_neg (by simp [hf]), sram_setFlags, codeAt_put Prod.fst t f (by simpa using hi) (by simpa using hfit)]
  simp

/-- Settles O7: each unit's results as codes written one after another. -/
theorem vectorResults : Obligations.VectorResults := by
  intro key t i
  refine ⟨fun op hi hfit => ?_, fun op hf hi hfit => ?_, fun op hf hi hfit => ?_⟩
  · rw [vecTile, sram_bumpSeq, sram_setFlags]
    refine (codeAt_put Prod.fst t .fp32 (by simpa using hi) (by simpa [Fmt.bytes] using hfit)).trans ?_
    simp [Fmt.bytes]
  · rw [convTile, sram_bumpSeq, codeAt_putElems t _ _ hf (by simpa using hi) (by simpa using hfit)]
    simp
  · have hsram : (accOutTile key op t).sram =
        (putElems t op.dst (t.mode op.mode) (t.rnd key) op.addr
          ((List.range op.n).map fun i => (t.acc (op.acc + i)).value)).sram := by
      rw [accOutTile]
      split_ifs
      · rw [sram_foldl_setAcc, sram_bumpSeq]
      · rw [sram_bumpSeq]
    rw [hsram, codeAt_putElems t _ _ hf (by simpa using hi) (by simpa using hfit)]
    simp

end Sys2Proof.Proofs.LaneResults
end

section
/-! The sparse dot product against the dense one: a zero times a finite number adds nothing (R89, R92, R107). -/

namespace Sys2Proof.Proofs.SparseDots

open Sys2Proof.Machine

/-- A product with +0 leaves an accumulator as it is: it lies on the grid, below the limit, and adds 0 (R75). -/
theorem product_zero (c : Acc) {y : Machine.Num} (hy : y.special = false) : c.product (.fin false 0 0) y = (c, false) := by
  cases y with
  | nan => cases hy
  | inf neg => cases hy
  | fin neg m e =>
    have hgrid : toGrid 0 (0 + e) = 0 := by simp [toGrid]
    have hon : onGrid 0 (0 + e) = true := by simp [onGrid]
    have hlim : ¬2 ^ 150 ≤ 0 := by decide
    have hsgn : sgn (false != neg) 0 = 0 := by cases neg <;> rfl
    simp only [Acc.product, Machine.Num.mul, Nat.zero_mul, Acc.term, hgrid, hon, if_neg hlim, decide_eq_false hlim, hsgn,
      Bool.not_true, Bool.or_false]
    exact congrArg (·, false) (LongAccumulator.plus_zero c)

/-- Settles O13: at each index the sparse step is the dense one, an absent element standing for +0. -/
theorem sparseDotIsDenseDot : Obligations.SparseDotIsDenseDot := by
  intro m d op r c a hB
  refine List.foldl_ext _ _ _ fun st j hj => ?_
  cases sparseElem m d op.fmtA op.transposed r j with
  | some x => rfl
  | none =>
    rw [Option.getD_none, product_zero st.1 (hB j (List.mem_range.mp hj))]
    exact Prod.ext rfl (Bool.or_false _).symm

end Sys2Proof.Proofs.SparseDots
end

section
/-! Sparse instructions that a tile issues and whose checks pass, each as a change of its own tile (R86, R96, R97, R101,
R503). -/

namespace Sys2Proof.Proofs.SparseSteps

open Sys2Proof.Machine Sys2Proof.Safety Sys2Proof.Laws
open Sys2Proof.Proofs.TileSteps

/-! ### Reading operands after the checks -/

theorem ins_ins_same {α : Type} (m : NatMap α) (k : Nat) (v : α) :
    NatMap.ins (NatMap.ins m k v) k v = NatMap.ins m k v := by
  induction m with
  | nil => simp [NatMap.ins]
  | cons e r ih =>
    obtain ⟨k', v'⟩ := e
    rcases lt_trichotomy k k' with hlt | rfl | hgt
    · simp [NatMap.ins, hlt]
    · simp [NatMap.ins]
    · simp [NatMap.ins, hgt.not_gt, hgt.ne', ih]

/-- Writing an entry a second time changes nothing. -/
theorem put_put_same {α : Type} [DecidableEq α] (m : NatMap α) (d : α) (k : Nat) (v : α) :
    NatMap.put (NatMap.put m d k v) d k v = NatMap.put m d k v := by
  unfold NatMap.put
  split_ifs
  · simp [NatMap.del_eq_filter]
  · exact ins_ins_same m k v

/-- Once an instruction is issued, more clean words that it reads change nothing (R53). -/
theorem readStage_issued {s : State} {key : Nat} (hr : Ready s key) (ws : List Nat) (next : State → State) :
    (issued s key).readStage key ws next = next (issued s key) := by
  obtain ⟨-, hclean⟩ := hr
  have hsame : (issued s key).setTile key (s.tile key) = issued s key := by
    simp only [issued, State.setTile, put_put_same]
  rw [readStage_clean _ _ _ _ (by rwa [tile_issued]), tile_issued, hsame]

/-! ### The instructions -/

section Issued

variable {s : State} {c : Coord}

/-- A sparse dot product whose metadata passes reads its operands and takes the path of R102 (R97). -/
theorem runs_sparseDot (hr : Ready s c.key) {op : SparseOp} {d : Desc} (hl : legalSparse op = true)
    (hd : metaCheck (s.tile c.key).sram op.desc (askOf op) = .ok d) :
    Runs (.sparseDot c op) s (TileBecomes c.key (sparseTile op d (s.tile c.key)) s) := by
  refine runs_ready hr hl rfl ?_ rfl
  simp only [tile_issued, hd, readStage_issued hr]

/-- The check unit notes the descriptor that has passed (R97, R101). -/
theorem runs_metadataCheck (hr : Ready s c.key) {op : SparseOp} {d : Desc} (hl : legalSparse op = true)
    (hd : metaCheck (s.tile c.key).sram op.desc (askOf op) = .ok d) :
    Runs (.metadataCheck c op) s (TileBecomes c.key { s.tile c.key with checked := some op.desc } s) := by
  refine runs_ready (g := fun x => { x with checked := some op.desc }) hr hl rfl ?_ rfl
  simp only [tile_issued, hd]

/-- A compress of a matrix whose groups pass writes the operand of its non-zero elements (R96). -/
theorem runs_s24Compress (hr : Ready s c.key) {op : BuildOp} {br bc : Nat} (hbr : ceilDiv op.rows 4 = br)
    (hbc : ceilDiv op.cols 4 = bc)
    (hspans : buildChecks s24 br bc [op.src, op.desc, op.metaA, op.value] (s24Spans op br bc) = none)
    (hgroups : groupFault bc (denseMask (s.tile c.key).sram op bc) (br * bc) 0 = none) :
    Runs (.s24Compress c op) s (TileBecomes c.key
      (putS24 c.key op br bc (denseMask (s.tile c.key).sram op bc) (s.tile c.key)).advance s) := by
  refine runs_ready
    (g := fun x => (putS24 c.key op br bc (denseMask (s.tile c.key).sram op bc) x).advance) hr rfl rfl ?_ rfl
  simp only [hbr, hbc, hspans, readStage_issued hr, tile_issued, hgroups]

/-- A masked compress by a mask of the matrix's size, without its bits in the padding (R96, R503). -/
theorem runs_s24MaskedCompress (hr : Ready s c.key) {op : BuildOp} {d : Desc} {br bc : Nat} (hbr : ceilDiv op.rows 4 = br)
    (hbc : ceilDiv op.cols 4 = bc)
    (hspans : buildChecks s24 br bc [op.src, op.desc, op.metaA, op.value] (s24Spans op br bc) = none)
    (hd : metaCheck (s.tile c.key).sram op.descIn (maskAsk op) = .ok d) (hdr : d.brows = br) (hdc : d.bcols = bc) :
    Runs (.s24MaskedCompress c op) s (TileBecomes c.key
      (putS24 c.key op br bc (trimMask op.rows op.cols bc (maskOf (s.tile c.key).sram d)) (s.tile c.key)).advance s) := by
  refine runs_ready
    (g := fun x => (putS24 c.key op br bc (trimMask op.rows op.cols bc (maskOf (s.tile c.key).sram d)) x).advance)
    hr rfl rfl ?_ rfl
  simp only [tile_issued, hd, hbr, hbc, hspans, hdr, hdc, ne_eq, not_true_eq_false, or_self, if_false,
    readStage_issued hr]

/-- The dense matrix that a decompress leaves: whole blocks row after row, zeros where absent (R96). -/
def unpacked (key : Nat) (op : DecompOp) (d : Desc) (x : Tile) : Tile :=
  copyElems key x op.fmt d.value op.dst ((List.range (d.rows false * d.cols false)).map fun i =>
    sparseAt x.sram d false (i / d.cols false) (i % d.cols false))

/-- A decompress of an operand of the KIND it asks for (R96, R101). -/
theorem runs_decompress {i : Instr} (hr : Ready s c.key) {op : DecompOp} {d : Desc} {kind : Nat}
    (hd : metaCheck (s.tile c.key).sram op.desc { kind := some kind, fmt := op.fmt, trans := false, dot := none } = .ok d)
    (hspans : buildChecks kind d.brows d.bcols [op.desc, op.dst]
      [(op.dst, tensorBytes op.fmt (d.rows false * d.cols false))] = none)
    (hi : exec i s = actTile (fun s => s.decompress c.key kind op) s) :
    Runs i s (TileBecomes c.key (unpacked c.key op d (s.tile c.key)).advance s) := by
  refine runs_ready (g := fun x => (unpacked c.key op d x).advance) hr rfl hi ?_ rfl
  simp only [tile_issued, hd, hspans, readStage_issued hr]
  rfl

end Issued

/-- Settles O11: each instruction by its own lemma, a decompress of either KIND by the one they share. -/
theorem sparseInstructionsRun : Obligations.SparseInstructionsRun := by
  refine fun s c hr => ⟨fun op d hl hd => ⟨runs_sparseDot hr hl hd, runs_metadataCheck hr hl hd⟩, fun op => ?compress,
    fun op d kind hd hspans => ?decompress⟩
  case compress =>
    intro m br bc hspans
    exact ⟨runs_s24Compress hr rfl rfl hspans, fun d => runs_s24MaskedCompress hr rfl rfl hspans⟩
  case decompress =>
    refine ⟨fun hkind => ?_, fun hkind => ?_⟩ <;> subst hkind <;> exact runs_decompress hr hd hspans rfl

end Sys2Proof.Proofs.SparseSteps
end

section
/-! Sparse operands that a tile builds: the descriptor reads back, and registers and accumulators stay (R88, R96, R503). -/

namespace Sys2Proof.Proofs.SparseBuilds

open Sys2Proof.Machine Sys2Proof.Safety Sys2Proof.Laws
open Sys2Proof.Proofs.TileSteps Sys2Proof.Proofs.SparseSteps

/-! ### The checks of R503 -/

theorem buildChecks_eq_none {kind brows bcols : Nat} {addrs : List Nat} {spans : List (Nat × Nat)} :
    buildChecks kind brows bcols addrs spans = none ↔
      brows ≤ 65535 ∧ bcols ≤ 65535 ∧ (∀ a ∈ addrs, a % 8 = 0) ∧ ∀ e ∈ spans, e.1 + e.2 ≤ sramSize := by
  unfold buildChecks
  split_ifs with hdims haddrs hspans
  · exact iff_of_false (by simp) fun ⟨hrows, hcols, _⟩ => by omega
  · obtain ⟨a, hmem, hodd⟩ := List.any_eq_true.mp haddrs
    exact iff_of_false (by simp) fun ⟨_, _, ha, _⟩ => of_decide_eq_true hodd (ha a hmem)
  · obtain ⟨e, hmem, hbeyond⟩ := List.any_eq_true.mp hspans
    exact iff_of_false (by simp) fun ⟨_, _, _, hs⟩ => Nat.not_lt.mpr (hs e hmem) (of_decide_eq_true hbeyond)
  · exact iff_of_true rfl ⟨by omega, by omega, by simpa using haddrs, by simpa using hspans⟩

/-- Fewer addresses and fewer spans pass as well. -/
theorem buildChecks_subset {kind brows bcols : Nat} {addrs addrs' : List Nat} {spans spans' : List (Nat × Nat)}
    (h : buildChecks kind brows bcols addrs spans = none) (haddrs : addrs' ⊆ addrs) (hspans : spans' ⊆ spans) :
    buildChecks kind brows bcols addrs' spans' = none := by
  rw [buildChecks_eq_none] at h ⊢
  obtain ⟨hrows, hcols, ha, hs⟩ := h
  exact ⟨hrows, hcols, fun a hmem => ha a (haddrs hmem), fun e hmem => hs e (hspans hmem)⟩

/-! ### The descriptor (R88) -/

theorem fmtCode_lt (f : Fmt) : fmtCode f < 16 := by cases f <;> decide

/-- The first word of a descriptor whose fields fit, field by field. -/
theorem bits_descWord {kind fmt brows bcols : Nat} (hkind : kind < 16) (hfmt : fmt < 16) (hrows : brows ≤ 65535)
    (hcols : bcols ≤ 65535) : let w := (kind + fmt * 16 + brows * 2 ^ 16 + bcols * 2 ^ 32) % 256 ^ 8
    bits w 3 0 = kind ∧ bits w 7 4 = fmt ∧ bits w 31 16 = brows ∧ bits w 47 32 = bcols := by
  simp only [bits, Nat.shiftRight_eq_div_pow]
  omega

/-- A descriptor written inside data SRAM reads back with its KIND, format and size. -/
theorem readDesc_put {t : Tile} {addr : Nat} {d : Desc} (hfit : addr + 32 ≤ sramSize) (hkind : d.kind < 16)
    (hfmt : d.fmt < 16) (hrows : d.brows ≤ 65535) (hcols : d.bcols ≤ 65535) :
    let e := readDesc (t.put addr d.bytes).sram addr
    e.kind = d.kind ∧ e.fmt = d.fmt ∧ e.brows = d.brows ∧ e.bcols = d.bcols := by
  have hlen : d.bytes.length = 32 := by simp [Desc.bytes]
  have hword : leNat (Mem.read (t.put addr d.bytes).sram (addr + 8 * 0) 8) =
      (d.kind + d.fmt * 16 + d.brows * 2 ^ 16 + d.bcols * 2 ^ 32) % 256 ^ 8 := by
    rw [read_put (by omega) (by omega), ← leNat_leBytes]
    rfl
  simp only [readDesc, hword]
  exact bits_descWord hkind hfmt hrows hcols

/-- The descriptor of an S24 operand that fits (R96). -/
theorem readDesc_putS24 {key : Nat} {op : BuildOp} {br bc : Nat} {mask : Nat → Nat} {t : Tile}
    (h : buildChecks s24 br bc [op.src, op.desc, op.metaA, op.value] (s24Spans op br bc) = none) :
    let d := readDesc (putS24 key op br bc mask t).sram op.desc
    d.kind = s24 ∧ d.fmt = fmtCode op.fmt ∧ d.brows = br ∧ d.bcols = bc := by
  obtain ⟨hrows, hcols, -, hspans⟩ := buildChecks_eq_none.mp h
  exact readDesc_put (hspans (op.desc, 32) (by simp [s24Spans])) (by decide : s24 < 16) (fmtCode_lt op.fmt) hrows hcols

/-- The descriptor of a BSR operand that fits (R96). -/
theorem readDesc_putBsr {key : Nat} {op : BuildOp} {br bc : Nat} {t : Tile} (hfit : op.desc + 32 ≤ sramSize)
    (hrows : br ≤ 65535) (hcols : bc ≤ 65535) :
    let d := readDesc (putBsr key op br bc t).sram op.desc
    d.kind = bsr ∧ d.fmt = fmtCode op.fmt ∧ d.brows = br ∧ d.bcols = bc :=
  readDesc_put hfit (by decide : bsr < 16) (fmtCode_lt op.fmt) hrows hcols

/-! ### What a copy of elements leaves -/

section Keeps

variable {α : Type} {g : Tile → α} (hput : ∀ t addr bs, g (Tile.put t addr bs) = g t)
  (hflags : ∀ t f, g (Tile.setFlags t f) = g t) (hseq : ∀ t sr, g (Tile.bumpSeq t sr) = g t)
include hput hflags

/-- A part of the tile that writes of data SRAM and of the flags keep, the blocks of a Tine tensor keep. -/
theorem putTine_keeps (t : Tile) (f : Fmt) (mode : RMode) (rnd : Nat → Nat) (addr : Nat) (xs : List Machine.Num) :
    g (putTine t f mode rnd addr xs) = g t :=
  List.foldlRecOn (motive := fun u => g u = g t) _ _ rfl fun u hu b _ => by rw [hflags, hput, hput, hu]

include hseq

theorem copyElems_keeps (key : Nat) (t : Tile) (f : Fmt) (src dst : Nat) (es : List (Option Nat)) :
    g (copyElems key t f src dst es) = g t := by
  unfold copyElems
  split_ifs
  · rw [hseq]
    exact List.foldlRecOn (motive := fun u => g u = g t) _ _ rfl fun u hu l _ =>
      (putTine_keeps hput hflags u ..).trans hu
  · exact hput ..

theorem putBsr_keeps (key : Nat) (op : BuildOp) (br bc : Nat) (t : Tile) : g (putBsr key op br bc t) = g t := by
  simp only [putBsr, hput, copyElems_keeps hput hflags hseq]

end Keeps

theorem pc_putBsr (key : Nat) (op : BuildOp) (br bc : Nat) (t : Tile) : (putBsr key op br bc t).pc = t.pc := by
  refine putBsr_keeps (g := Tile.pc) (fun t addr bs => ?_) (fun _ _ => rfl) (fun t sr => ?_) ..
  · obtain ⟨-, -, -, -, hpc, -⟩ := put_keeps t addr bs
    exact hpc
  · unfold Tile.bumpSeq
    split <;> rfl

theorem accs_putBsr (key : Nat) (op : BuildOp) (br bc : Nat) (t : Tile) : (putBsr key op br bc t).accs = t.accs := by
  refine putBsr_keeps (g := Tile.accs) (fun t addr bs => ?_) (fun _ _ => rfl) (fun t sr => ?_) ..
  · obtain ⟨-, -, haccs, -⟩ := put_keeps t addr bs
    exact haccs
  · unfold Tile.bumpSeq
    split <;> rfl

/-! ### BSR_BUILD (R93, R96) -/

/-- The segments of a build are those of its block rows, each cut into lengths of L. -/
theorem length_buildSegs (m : Mem) (op : BuildOp) (br bc : Nat) : (buildSegs m op br bc).length =
    (((List.range br).map (presentBlocks m op bc)).map fun l => ceilDiv l.length op.segLen).sum := by
  simp [buildSegs, segLens, List.length_flatMap, Function.comp_def]

/-- The spans of a build's metadata, indices and values, from the blocks present. -/
theorem bsrSpans_eq (m : Mem) (op : BuildOp) (br bc : Nat) :
    let blocks := (List.range br).map (presentBlocks m op bc)
    let nnz := (blocks.map List.length).sum
    bsrSpans m op br bc = [(op.metaA, 8 * (blocks.map fun l => ceilDiv l.length op.segLen).sum),
      (op.index, roundUp (2 * nnz) 8),
      (op.value, if op.fmt.isTine then ceilDiv nnz 2 * tineLine op.fmt else 64 * nnz * op.fmt.bytes)] := by
  intro blocks nnz
  have hnnz : (buildDesc m op br bc).nnz = nnz := by simp [buildDesc, nnz, blocks, Function.comp_def]
  have hnseg : (buildDesc m op br bc).nseg = _ := length_buildSegs m op br bc
  have hkind : (buildDesc m op br bc).kind ≠ s24 := (by decide : bsr ≠ s24)
  simp only [bsrSpans, Desc.metaSize, Desc.indexSize, Desc.valueSize, if_neg hkind, hnnz, hnseg, blocks]

/-- A build whose operand fits writes it and goes on (R96, R503). -/
theorem runs_bsrBuild {s : State} {c : Coord} (hr : Ready s c.key) {op : BuildOp} {br bc : Nat}
    (hbr : ceilDiv op.rows 8 = br) (hbc : ceilDiv op.cols 8 = bc)
    (hfixed : buildChecks bsr br bc [op.src, op.desc, op.metaA, op.index, op.value]
      [(op.src, tensorBytes op.fmt (op.rows * op.cols)), (op.desc, 32)] = none)
    (harrays : buildChecks bsr br bc [] (bsrSpans (s.tile c.key).sram op br bc) = none) :
    Runs (.bsrBuild c op) s (TileBecomes c.key (putBsr c.key op br bc (s.tile c.key)).advance s) := by
  refine runs_ready (g := fun x => (putBsr c.key op br bc x).advance) hr rfl rfl ?_ rfl
  simp only [hbr, hbc, hfixed, readStage_issued hr, tile_issued, harrays]

/-- Settles O12: the descriptor is the last thing that a build or a compress writes, so that it reads back. -/
theorem builtOperands : Obligations.BuiltOperands := by
  refine ⟨fun s c op hr => ?build, fun key op br bc mask t hchecks => readDesc_putS24 hchecks⟩
  intro m br bc blocks nnz nseg pad hchecks
  have hfixed := buildChecks_subset (addrs' := [op.src, op.desc, op.metaA, op.index, op.value])
    (spans' := [(op.src, tensorBytes op.fmt (op.rows * op.cols)), (op.desc, 32)]) hchecks (by simp) (by simp)
  have harrays : buildChecks bsr br bc [] (bsrSpans m op br bc) = none := by
    rw [bsrSpans_eq]
    exact buildChecks_subset hchecks (by simp) (by simp [pad, nnz, nseg, blocks])
  obtain ⟨hrows, hcols, -, hspans⟩ := buildChecks_eq_none.mp hfixed
  have hfit : op.desc + 32 ≤ sramSize := hspans (op.desc, 32) (by simp)
  refine runs_mono (runs_bsrBuild hr rfl rfl hfixed harrays) fun t ⟨htile, hrest⟩ => ?_
  obtain ⟨hkind, hfmt, hbr, hbc⟩ := readDesc_putBsr (key := c.key) (t := s.tile c.key) hfit hrows hcols
  rw [htile]
  exact ⟨hkind, hfmt, hbr, hbc, by simp only [Tile.advance, pc_putBsr], accs_putBsr .., hrest⟩

end Sys2Proof.Proofs.SparseBuilds
end

section
/-! Eight lanes that share the segments of a sparse dot product: the deal, a lane that goes on, steals or retires, and the
merge of its partial (R105 to R109, R114). -/

namespace Sys2Proof.Proofs.SparseLanes

open Sys2Proof.Machine Sys2Proof.Safety Sys2Proof.Laws
open Sys2Proof.Proofs.TileSteps

/-! ### The deal (R105) -/

/-- Starting its next segment moves none: a lane holds what it had not started. -/
@[simp] theorem laneSegs_next (x : SparseRun) (l : Lane) : laneSegs (l.next x) = l.todo := by
  unfold Lane.next
  split <;> simp_all [laneSegs]

@[simp] theorem merged_next (x : SparseRun) (l : Lane) : (l.next x).merged = l.merged := by
  unfold Lane.next
  split <;> rfl

theorem dealSegs_eq_Ico (n i : Nat) : dealSegs n i = List.Ico (i * n / 8) ((i + 1) * n / 8) :=
  List.range'_eq_map_range.symm

/-- A stretch of the segments dealt out is a filter of them all. -/
theorem filter_range_eq_Ico {n lo hi : Nat} (hhi : hi ≤ n) :
    (List.range n).filter (fun g => decide (lo ≤ g ∧ g < hi)) = List.Ico lo hi := by
  calc (List.range n).filter (fun g => decide (lo ≤ g ∧ g < hi))
      = ((List.Ico 0 n).filter fun g => g < hi).filter fun g => lo ≤ g := by
        rw [List.Ico.zero_bot, List.filter_filter]
        simp only [Bool.decide_and]
    _ = List.Ico lo hi := by rw [List.Ico.filter_lt, List.Ico.filter_le, Nat.zero_max, Nat.min_eq_right hhi]

/-- Stretches that begin where the one before ends join into one. -/
theorem flatMap_Ico {f : Nat → Nat} (hf : Monotone f) (k : Nat) :
    (List.range k).flatMap (fun i => List.Ico (f i) (f (i + 1))) = List.Ico (f 0) (f k) := by
  induction k with
  | zero => simp
  | succ k ih =>
    rw [List.range_succ, List.flatMap_append, ih, List.flatMap_singleton,
      List.Ico.append_consecutive (hf k.zero_le) (hf k.le_succ)]

theorem map_laneSegs_dealLanes (x : SparseRun) (n : Nat) :
    (dealLanes x n).map laneSegs = (List.range 8).map fun i => List.Ico (i * n / 8) ((i + 1) * n / 8) := by
  simp [dealLanes, dealSegs_eq_Ico]

/-- The lanes hold every segment, in ascending order. -/
theorem flatMap_laneSegs_dealLanes (x : SparseRun) (n : Nat) : (dealLanes x n).flatMap laneSegs = List.range n := by
  have hmono : Monotone fun i => i * n / 8 := fun i j hij => Nat.div_le_div_right (Nat.mul_le_mul_right n hij)
  rw [List.flatMap_def, map_laneSegs_dealLanes, ← List.flatMap_def, flatMap_Ico hmono]
  simp [List.Ico.zero_bot]

/-- The segments that lane i is dealt. -/
theorem getElem?_dealLanes (x : SparseRun) (n : Nat) {i : Nat} (hi : i < 8) : ((dealLanes x n)[i]?).map laneSegs =
    some ((List.range n).filter fun g => decide (i * n / 8 ≤ g ∧ g < (i + 1) * n / 8)) := by
  have hlast : (i + 1) * n / 8 ≤ n := Nat.div_le_of_le_mul (Nat.mul_le_mul_right n hi)
  rw [← List.getElem?_map, map_laneSegs_dealLanes, filter_range_eq_Ico hlast]
  simp [hi]

/-! ### Asking the other lanes (R106) -/

/-- What lane v gives to a lane that asks it: half of its unstarted segments, if it has any. -/
def victim (lanes : List Lane) (v : Nat) : Option (Nat × List Nat × List Nat) :=
  match lanes[v]? with
  | some l => if l.todo.isEmpty then none else some (v, halve l.todo)
  | none => none

theorem stealFrom_eq (lanes : List Lane) (i : Nat) :
    stealFrom lanes i = (List.range 7).findSome? fun k => victim lanes ((i + 1 + k) % 8) :=
  List.findSome?_map

theorem victim_eq_none {lanes : List Lane} {v : Nat} (h : ∀ m, lanes[v]? = some m → m.todo = []) :
    victim lanes v = none := by
  unfold victim
  split
  next m hm => rw [h m hm]; rfl
  next => rfl

theorem victim_eq_some {lanes : List Lane} {v : Nat} {r : Nat × List Nat × List Nat} : victim lanes v = some r ↔
    ∃ m, lanes[v]? = some m ∧ m.todo ≠ [] ∧
      (v, m.todo.take (m.todo.length / 2), m.todo.drop (m.todo.length / 2)) = r := by
  unfold victim
  split
  next m hm => simp [hm, halve]
  next hm => simp [hm]

/-- A search of numbers in rising order ends at the first that answers. -/
theorem findSome?_range_first {β : Type} {f : Nat → Option β} {n k : Nat} {b : β} (hk : k < n) (hb : f k = some b)
    (hbefore : ∀ j < k, f j = none) : (List.range n).findSome? f = some b := by
  have hsplit : List.range n = List.range k ++ k :: List.Ico (k + 1) n := by
    rw [← List.Ico.eq_cons hk, ← List.Ico.zero_bot, ← List.Ico.zero_bot, List.Ico.append_consecutive k.zero_le hk.le]
  rw [List.findSome?_eq_some_iff]
  exact ⟨_, _, _, hsplit, hb, fun j hj => hbefore j (List.mem_range.mp hj)⟩

/-- Where no lane has an unstarted segment there is nothing to steal. -/
theorem stealFrom_eq_none {lanes : List Lane} (i : Nat) (h : ∀ v < 8, ∀ m, lanes[v]? = some m → m.todo = []) :
    stealFrom lanes i = none := by
  rw [stealFrom_eq, List.findSome?_eq_none_iff]
  exact fun k _ => victim_eq_none (h _ (Nat.mod_lt _ (by decide)))

/-- The first lane asked that has an unstarted segment is the one stolen from. -/
theorem stealFrom_first {lanes : List Lane} {i j : Nat} {m : Lane} (hj : 1 ≤ j) (hj8 : j < 8)
    (hbefore : ∀ j', 1 ≤ j' → j' < j → ∀ m', lanes[(i + j') % 8]? = some m' → m'.todo = [])
    (hm : lanes[(i + j) % 8]? = some m) (htodo : m.todo ≠ []) : stealFrom lanes i =
      some ((i + j) % 8, m.todo.take (m.todo.length / 2), m.todo.drop (m.todo.length / 2)) := by
  obtain ⟨k, rfl⟩ := Nat.exists_eq_add_of_le hj
  rw [← Nat.add_assoc] at hm ⊢
  rw [stealFrom_eq]
  refine findSome?_range_first (k := k) (by omega) (victim_eq_some.mpr ⟨m, hm, htodo, rfl⟩) fun j' hj' =>
    victim_eq_none ?_
  rw [Nat.add_assoc]
  exact hbefore (1 + j') (by omega) (by omega)

/-- What a steal takes is the end of another lane's unstarted segments. -/
theorem stealFrom_eq_some {lanes : List Lane} {i v : Nat} {keep got : List Nat}
    (h : stealFrom lanes i = some (v, keep, got)) : v ≠ i ∧ ∃ m, lanes[v]? = some m ∧ m.todo = keep ++ got := by
  rw [stealFrom_eq] at h
  obtain ⟨k, hk, hvictim⟩ := List.exists_of_findSome?_eq_some h
  obtain ⟨m, hm, -, hr⟩ := victim_eq_some.mp hvictim
  obtain ⟨rfl, rfl, rfl⟩ := by simpa using hr
  have := List.mem_range.mp hk
  exact ⟨by omega, m, hm, by simp⟩

/-! ### No segment is lost or run twice (R107) -/

/-- Replacing one entry of a list replaces its share of what the entries hold. -/
theorem flatMap_set_perm {α β : Type} {l : List α} {i : Nat} {a : α} (h : l[i]? = some a) (b : α)
    (f : α → List β) : ((l.set i b).flatMap f ++ f a).Perm (l.flatMap f ++ f b) := by
  obtain ⟨hi, rfl⟩ := List.getElem?_eq_some_iff.mp h
  have hset := (List.set_perm_cons_eraseIdx hi b).flatMap_right f
  have hget := (List.getElem_cons_eraseIdx_perm hi).flatMap_right f
  rw [List.flatMap_cons] at hset hget
  calc ((l.set i b).flatMap f ++ f l[i]).Perm ((f b ++ (l.eraseIdx i).flatMap f) ++ f l[i]) := hset.append_right _
    _ = f b ++ ((l.eraseIdx i).flatMap f ++ f l[i]) := List.append_assoc ..
    List.Perm _ (f b ++ (f l[i] ++ (l.eraseIdx i).flatMap f)) := List.perm_append_comm.append_left _
    List.Perm _ (f b ++ l.flatMap f) := hget.append_left _
    List.Perm _ _ := List.perm_append_comm

/-! ### The merge (R108, R109) -/

/-- One partial merged into its output's accumulator. -/
def mergeOne (x : SparseRun) (t : Tile) (e : Nat × Machine.Acc) : Tile :=
  (t.setAcc (x.op.acc + e.1) ((t.acc (x.op.acc + e.1)).combine e.2)).setFlags ⟨e.2.win, false, false, false⟩

theorem mergeSeg_eq (x : SparseRun) (p : Partial) (t : Tile) :
    mergeSeg x p t = { p.accs.foldl (mergeOne x) t with
      sparseRun := some { x with prods := p.prods.foldl (fun m e => NatMap.put m 0 e.1 e.2) x.prods } } := rfl

/-- A merge adds to accumulators and flags, and keeps the products of a format that the tree sums; no other part of the
tile changes. -/
theorem mergeSeg_frame (x : SparseRun) (p : Partial) (t : Tile) : ∃ accs status prods,
    mergeSeg x p t = { t with accs := accs, status := status, sparseRun := some { x with prods := prods } } := by
  have hfold : ∃ (accs : NatMap Machine.Acc) (status : Word),
      p.accs.foldl (mergeOne x) t = { t with accs := accs, status := status } := by
    induction p.accs using List.reverseRecOn with
    | nil => exact ⟨t.accs, t.status, rfl⟩
    | append_singleton l e ih =>
      obtain ⟨accs, status, ih⟩ := ih
      rw [List.foldl_append, ih]
      exact ⟨_, _, rfl⟩
  obtain ⟨accs, status, hfold⟩ := hfold
  exact ⟨accs, status, _, by rw [mergeSeg_eq, hfold]⟩

@[simp] theorem lanes_mergeSeg (x : SparseRun) (p : Partial) (t : Tile) : (mergeSeg x p t).lanes = t.lanes := by
  obtain ⟨accs, status, prods, h⟩ := mergeSeg_frame x p t
  rw [h]

@[simp] theorem sparseStat_mergeSeg (x : SparseRun) (p : Partial) (t : Tile) :
    (mergeSeg x p t).sparseStat = t.sparseStat := by
  obtain ⟨accs, status, prods, h⟩ := mergeSeg_frame x p t
  rw [h]

theorem acc_setAcc (t : Tile) (i : Nat) (a : Acc) {k : Nat} (hk : k < 32) :
    (t.setAcc i a).acc k = if i % 32 = k then a else t.acc k := by
  simp only [Tile.setAcc, Tile.acc, NatMap.get_put, Nat.mod_eq_of_lt hk, eq_comm]

/-- A partial reaches the accumulator of its own output alone. -/
theorem acc_mergeOne (x : SparseRun) (t : Tile) (e : Nat × Machine.Acc) {k : Nat} (hk : k < 32) :
    (mergeOne x t e).acc k = if (x.op.acc + e.1) % 32 = k then (t.acc k).combine e.2 else t.acc k := by
  refine (acc_setAcc t _ _ hk).trans (ite_congr rfl (fun hown => ?_) fun _ => rfl)
  rw [Tile.acc, Tile.acc, hown, Nat.mod_eq_of_lt hk]

/-- Accumulator k takes in the partials of its own outputs, one after another, and no other. -/
theorem acc_mergeSeg (x : SparseRun) (p : Partial) (t : Tile) {k : Nat} (hk : k < 32) : (mergeSeg x p t).acc k =
    (p.accs.filter fun e => decide ((x.op.acc + e.1) % 32 = k)).foldl (fun a e => Acc.combine a e.2) (t.acc k) := by
  show (p.accs.foldl (mergeOne x) t).acc k = _
  induction p.accs generalizing t with
  | nil => rfl
  | cons e l ih =>
    rw [List.foldl_cons, ih, acc_mergeOne x t e hk, List.filter_cons]
    by_cases hown : (x.op.acc + e.1) % 32 = k <;> simp [hown]

/-! ### The lane goes on (R105, R106, R109, R114) -/

theorem laneNext_own {x : SparseRun} {t : Tile} {i : Nat} {l : Lane}
    (h : l.todo ≠ [] ∨ x.steal = false ∨ stealFrom t.lanes i = none) :
    laneNext x t i l = { t with lanes := t.lanes.set i (l.next x) } := by
  unfold laneNext
  split_ifs with hsteal
  · obtain ⟨htodo, hon⟩ := by simpa using hsteal
    have hnone : stealFrom t.lanes i = none := by simpa [htodo, hon] using h
    rw [hnone]
    rfl
  · rfl

theorem laneNext_steal {x : SparseRun} {t : Tile} {i v : Nat} {l m : Lane} {keep got : List Nat} (htodo : l.todo = [])
    (hon : x.steal = true) (hsteal : stealFrom t.lanes i = some (v, keep, got)) (hm : t.lanes[v]? = some m) :
    laneNext x t i l = { t with
      lanes := (t.lanes.set v { m with todo := keep }).set i ({ l with todo := got }.next x) }.countStat 63 48 := by
  have hmodify : t.lanes.modify v (fun y => { y with todo := keep }) = t.lanes.set v { m with todo := keep } := by
    rw [List.modify_eq_set_getElem?, hm]
    rfl
  rw [laneNext, if_pos (by simp [htodo, hon]), hsteal, ← hmodify]
  rfl

/-- The two ways in which a lane goes on: alone, or with the end of another lane's unstarted segments. -/
theorem laneNext_cases (x : SparseRun) (t : Tile) (i : Nat) (l : Lane) :
    laneNext x t i l = { t with lanes := t.lanes.set i (l.next x) } ∨
      ∃ v m keep got, v ≠ i ∧ t.lanes[v]? = some m ∧ m.todo = keep ++ got ∧ l.todo = [] ∧
        laneNext x t i l = { t with
          lanes := (t.lanes.set v { m with todo := keep }).set i ({ l with todo := got }.next x) }.countStat 63 48 := by
  by_cases hown : l.todo ≠ [] ∨ x.steal = false ∨ stealFrom t.lanes i = none
  · exact Or.inl (laneNext_own hown)
  · simp only [not_or, not_not, Bool.not_eq_false] at hown
    obtain ⟨hempty, hon, hfound⟩ := hown
    obtain ⟨⟨v, keep, got⟩, hsteal⟩ := Option.ne_none_iff_exists'.mp hfound
    obtain ⟨hv, m, hm, hsplit⟩ := stealFrom_eq_some hsteal
    exact Or.inr ⟨v, m, keep, got, hv, hm, hsplit, hempty, laneNext_steal hempty hon hsteal hm⟩

/-- Whichever way a lane goes on, only the lanes and the count of steals change. -/
theorem laneNext_frame (x : SparseRun) (t : Tile) (i : Nat) (l : Lane) :
    ∃ lanes stat, laneNext x t i l = { t with lanes := lanes, sparseStat := stat } := by
  obtain hown | ⟨v, m, keep, got, -, -, -, -, hsteal⟩ := laneNext_cases x t i l
  · exact ⟨_, _, hown⟩
  · exact ⟨_, _, hsteal⟩

/-- The count of merged segments goes with the lane. -/
theorem merged_laneNext (x : SparseRun) {t : Tile} {i : Nat} (hi : i < t.lanes.length) (l : Lane) :
    ((laneNext x t i l).lanes[i]?).map Lane.merged = some l.merged := by
  obtain hown | ⟨v, m, keep, got, -, -, -, -, hsteal⟩ := laneNext_cases x t i l
  · simp [hown, hi]
  · simp [hsteal, hi]

/-- However a lane goes on, the lanes hold what they held but for the segment it has run (R107). -/
theorem laneNext_perm (x : SparseRun) {t : Tile} {i g : Nat} {l l' : Lane} (hl : t.lanes[i]? = some l)
    (hg : l.current = some g) (htodo : l'.todo = l.todo) :
    ((laneNext x t i l').lanes.flatMap laneSegs ++ [g]).Perm (t.lanes.flatMap laneSegs) := by
  have hsegs : laneSegs l = [g] ++ l'.todo := by rw [laneSegs, hg, htodo]; rfl
  obtain hown | ⟨v, m, keep, got, hv, hm, hsplit, hempty, hsteal⟩ := laneNext_cases x t i l'
  · have hset := flatMap_set_perm hl (l'.next x) laneSegs
    rw [hsegs, laneSegs_next, ← List.append_assoc, List.perm_append_right_iff] at hset
    rwa [hown]
  · -- What the victim gives, the thief gets.
    have hthief := flatMap_set_perm (l := t.lanes.set v { m with todo := keep }) (by rw [List.getElem?_set_ne hv, hl])
      ({ l' with todo := got }.next x) laneSegs
    rw [hsegs, hempty, List.append_nil, laneSegs_next] at hthief
    have hgives : (laneSegs m).Perm (got ++ laneSegs { m with todo := keep }) := by
      rw [laneSegs, hsplit, ← List.append_assoc]
      exact List.perm_append_comm
    have hvictim := (hgives.symm.append_left _).trans (flatMap_set_perm hm { m with todo := keep } laneSegs)
    rw [← List.append_assoc, List.perm_append_right_iff] at hvictim
    rw [hsteal]
    exact hthief.trans hvictim

/-- A field of HRD_TILE_SPARSE_STAT counts up to its maximum (R115). -/
theorem bits_countStat (t : Tile) {hi lo : Nat} (hlo : lo ≤ hi) (hhi : hi < 64) :
    bits (t.countStat hi lo).sparseStat.toNat hi lo =
      min (bits t.sparseStat.toNat hi lo + 1) (2 ^ (hi + 1 - lo) - 1) := by
  have hpos : 0 < 2 ^ (hi + 1 - lo) := by positivity
  rw [Tile.countStat, BitVec.toNat_ofNat, Nat.mod_eq_of_lt (setBits_lt hlo hhi t.sparseStat.isLt),
    bits_setBits _ _ _ _ hlo, Nat.mod_eq_of_lt (by omega)]

/-! ### The end of the instruction (R108, R111) -/

/-- The results of a format that the fixed tree sums. -/
def treeResults (x : SparseRun) : List Byte :=
  (sparseOuts x.op x.desc).flatMap fun o => leBytes 4
    (sparseRoot x.mem x.op o.1 o.2 fun j => NatMap.get x.prods 0 ((o.1 * x.op.n + o.2) * x.op.k + j)).toNat

theorem length_treeResults (x : SparseRun) : (treeResults x).length = 4 * (x.desc.rows x.op.transposed * x.op.n) := by
  simp [treeResults, sparseOuts, Function.comp_def, Nat.mul_comm]

theorem sparseEnd_running {t : Tile} (h : t.lanes.any (fun m => m.current.isSome) = true) : sparseEnd t = t := by
  unfold sparseEnd
  split
  · rfl
  · rw [if_pos h]

theorem sparseEnd_ended {t : Tile} {x : SparseRun} (hx : t.sparseRun = some x)
    (h : t.lanes.any (fun m => m.current.isSome) = false) : sparseEnd t =
      { (if treeFmt x.op.fmtA then t.put x.op.dst (treeResults x) else t).advance with
        wait := .none, sparseRun := none } := by
  simp only [sparseEnd, hx, h, Bool.false_eq_true, if_false]
  rfl

/-- The end of the instruction keeps the lanes, the accumulators and the counts. -/
theorem sparseEnd_keeps {t : Tile} {x : SparseRun} (hx : t.sparseRun = some x) : (sparseEnd t).lanes = t.lanes ∧
    (sparseEnd t).accs = t.accs ∧ (sparseEnd t).sparseStat = t.sparseStat := by
  cases h : t.lanes.any fun m => m.current.isSome with
  | true => rw [sparseEnd_running h]; exact ⟨rfl, rfl, rfl⟩
  | false =>
    rw [sparseEnd_ended hx h]
    split_ifs
    · obtain ⟨-, -, haccs, -, -, -, -, -, -, -, -, -, -, -, hstat, -, -, -, hlanes⟩ :=
        put_keeps t x.op.dst (treeResults x)
      exact ⟨hlanes, haccs, hstat⟩
    · exact ⟨rfl, rfl, rfl⟩

/-- The end of the instruction writes the results of a tree format in their place, and no other byte of data SRAM. -/
theorem sparseEnd_sram {t : Tile} {x : SparseRun} (hx : t.sparseRun = some x) :
    (treeFmt x.op.fmtA = false → (sparseEnd t).sram = t.sram) ∧
      BytesBut x.op.dst (4 * (x.desc.rows x.op.transposed * x.op.n)) t.sram (sparseEnd t).sram := by
  cases h : t.lanes.any fun m => m.current.isSome with
  | true => rw [sparseEnd_running h]; exact ⟨fun _ => rfl, fun _ _ => rfl⟩
  | false =>
    rw [sparseEnd_ended hx h, ← length_treeResults]
    split_ifs with htree
    · exact ⟨fun hacc => absurd htree (by simp [hacc]), bytesBut_put t x.op.dst (treeResults x)⟩
    · exact ⟨fun _ => rfl, fun _ _ => rfl⟩

/-- The tile waits while a lane runs a segment, and goes on when none does. -/
theorem sparseEnd_sequencer {t : Tile} {x : SparseRun} (hx : t.sparseRun = some x) :
    (t.lanes.any (fun m => m.current.isSome) = true → (sparseEnd t).pc = t.pc ∧ (sparseEnd t).wait = t.wait) ∧
      (t.lanes.any (fun m => m.current.isSome) = false → (sparseEnd t).pc = t.advance.pc ∧
        (sparseEnd t).wait = .none ∧ (sparseEnd t).sparseRun = none) := by
  refine ⟨fun h => by rw [sparseEnd_running h]; exact ⟨rfl, rfl⟩, fun h => ?_⟩
  rw [sparseEnd_ended hx h]
  split_ifs
  · obtain ⟨-, -, -, -, hpc, -⟩ := put_keeps t x.op.dst (treeResults x)
    exact ⟨by simp only [Tile.advance, hpc], rfl, rfl⟩
  · exact ⟨rfl, rfl, rfl⟩

/-! ### SEGMENT_DONE -/

section Done

variable {t : Tile} {x : SparseRun} {i g : Nat} {l : Lane}

/-- The tile once lane i's segment is merged and the lane has gone on, before the instruction ends. -/
def afterLane (x : SparseRun) (t : Tile) (i : Nat) (l : Lane) : Tile :=
  laneNext x (mergeSeg x l.partial_ t) i { l with merged := l.merged + 1 }

/-- Data SRAM and the sequencer stay, and the instruction runs on with the operands that it has. -/
theorem afterLane_keeps (x : SparseRun) (t : Tile) (i : Nat) (l : Lane) : (afterLane x t i l).sram = t.sram ∧
    (afterLane x t i l).pc = t.pc ∧ (afterLane x t i l).wait = t.wait ∧
    ∃ y, (afterLane x t i l).sparseRun = some y ∧ y.op = x.op ∧ y.desc = x.desc := by
  obtain ⟨accs, status, prods, hmerge⟩ := mergeSeg_frame x l.partial_ t
  obtain ⟨lanes, stat, hnext⟩ := laneNext_frame x (mergeSeg x l.partial_ t) i { l with merged := l.merged + 1 }
  rw [afterLane, hnext, hmerge]
  exact ⟨rfl, rfl, rfl, _, rfl, rfl, rfl⟩

theorem accs_afterLane (x : SparseRun) (t : Tile) (i : Nat) (l : Lane) :
    (afterLane x t i l).accs = (mergeSeg x l.partial_ t).accs := by
  obtain ⟨lanes, stat, hnext⟩ := laneNext_frame x (mergeSeg x l.partial_ t) i { l with merged := l.merged + 1 }
  rw [afterLane, hnext]

/-- The segments of the lanes after the lane has gone on (R107). -/
theorem afterLane_perm (hl : t.lanes[i]? = some l) (hg : l.current = some g) :
    ((afterLane x t i l).lanes.flatMap laneSegs ++ [g]).Perm (t.lanes.flatMap laneSegs) := by
  have hperm := laneNext_perm x (t := mergeSeg x l.partial_ t) (i := i) (l' := { l with merged := l.merged + 1 })
    (by rwa [lanes_mergeSeg]) hg rfl
  rwa [lanes_mergeSeg] at hperm

theorem lanes_afterLane_own (h : l.todo ≠ [] ∨ x.steal = false ∨ stealFrom t.lanes i = none) :
    (afterLane x t i l).lanes = t.lanes.set i ({ l with merged := l.merged + 1 }.next x) := by
  rw [afterLane, laneNext_own (by simpa using h)]
  simp

theorem lanes_afterLane_steal {v : Nat} {m : Lane} {keep got : List Nat} (htodo : l.todo = [])
    (hon : x.steal = true) (hsteal : stealFrom t.lanes i = some (v, keep, got)) (hm : t.lanes[v]? = some m) :
    (afterLane x t i l).lanes = (t.lanes.set v { m with todo := keep }).set i
      ({ l with merged := l.merged + 1, todo := got }.next x) ∧
    bits (afterLane x t i l).sparseStat.toNat 63 48 = min (bits t.sparseStat.toNat 63 48 + 1) 0xFFFF := by
  rw [afterLane, laneNext_steal (l := { l with merged := l.merged + 1 }) htodo hon (by simpa using hsteal)
    (by simpa using hm), bits_countStat _ (by decide) (by decide)]
  simp

theorem merged_afterLane (hl : t.lanes[i]? = some l) :
    ((afterLane x t i l).lanes[i]?).map Lane.merged = some (l.merged + 1) := by
  obtain ⟨hi, -⟩ := List.getElem?_eq_some_iff.mp hl
  exact merged_laneNext x (by rwa [lanes_mergeSeg]) _

section Running

variable (hx : t.sparseRun = some x) (hl : t.lanes[i]? = some l) (hg : l.current = some g)
include hx hl hg

theorem laneDone_eq : laneDone t i = sparseEnd (afterLane x t i l) := by
  simp only [laneDone, hx, hl, hg, Option.isSome_some, if_true]
  rfl

/-- The end of the instruction leaves the lanes, the accumulators and the counts as the lane has left them. -/
theorem laneDone_keeps : (laneDone t i).lanes = (afterLane x t i l).lanes ∧
    (laneDone t i).accs = (mergeSeg x l.partial_ t).accs ∧
      (laneDone t i).sparseStat = (afterLane x t i l).sparseStat := by
  obtain ⟨-, -, -, y, hy, -, -⟩ := afterLane_keeps x t i l
  rw [laneDone_eq hx hl hg, ← accs_afterLane x t i l]
  exact sparseEnd_keeps hy

/-- A lane goes on with the first of its own unstarted segments (R105). -/
theorem laneDone_own {y : Nat} {r : List Nat} (htodo : l.todo = y :: r) : (laneDone t i).lanes =
      t.lanes.set i { current := some y, partial_ := segPartial x y, todo := r, merged := l.merged + 1 } := by
  obtain ⟨hlanes, -, -⟩ := laneDone_keeps hx hl hg
  rw [hlanes, lanes_afterLane_own (Or.inl (by simp [htodo]))]
  simp only [Lane.next, htodo]

/-- A lane with none left that may not steal, or finds nothing to steal, retires (R106, R109, R114). -/
theorem laneDone_retires (htodo : l.todo = [])
    (hnone : x.steal = false ∨ ∀ v < 8, ∀ m, t.lanes[v]? = some m → m.todo = []) : (laneDone t i).lanes =
      t.lanes.set i { l with current := none, partial_ := noPartial, merged := l.merged + 1 } := by
  obtain ⟨hlanes, -, -⟩ := laneDone_keeps hx hl hg
  rw [hlanes, lanes_afterLane_own (Or.inr (hnone.imp_right (stealFrom_eq_none i)))]
  simp only [Lane.next, htodo]

/-- A steal takes the end of the first list found and counts; every other lane keeps what it has (R106). -/
theorem laneDone_steals {j : Nat} {m : Lane} (htodo : l.todo = []) (hon : x.steal = true) (hj : 1 ≤ j) (hj8 : j < 8)
    (hbefore : ∀ j', 1 ≤ j' → j' < j → ∀ m', t.lanes[(i + j') % 8]? = some m' → m'.todo = [])
    (hm : t.lanes[(i + j) % 8]? = some m) (hsome : m.todo ≠ []) :
    ((laneDone t i).lanes[i]?).map laneSegs = some (m.todo.drop (m.todo.length / 2)) ∧
      (laneDone t i).lanes[(i + j) % 8]? = some { m with todo := m.todo.take (m.todo.length / 2) } ∧
      (∀ k, k ≠ i → k ≠ (i + j) % 8 → (laneDone t i).lanes[k]? = t.lanes[k]?) ∧
      bits (laneDone t i).sparseStat.toNat 63 48 = min (bits t.sparseStat.toNat 63 48 + 1) 0xFFFF := by
  obtain ⟨hend, -, hcount⟩ := laneDone_keeps hx hl hg
  obtain ⟨hlanes, hstat⟩ := lanes_afterLane_steal htodo hon (stealFrom_first hj hj8 hbefore hm hsome) hm
  have hthief : i ≠ (i + j) % 8 := by omega
  obtain ⟨hi', -⟩ := List.getElem?_eq_some_iff.mp hl
  obtain ⟨hv, -⟩ := List.getElem?_eq_some_iff.mp hm
  rw [hend, hlanes, hcount]
  refine ⟨?_, ?_, fun k hk hkv => ?_, hstat⟩
  · rw [List.getElem?_set_self (by simpa using hi')]
    simp
  · rw [List.getElem?_set_ne hthief, List.getElem?_set_self hv]
  · rw [List.getElem?_set_ne hk.symm, List.getElem?_set_ne hkv.symm]

/-- A merge reaches the accumulators of the segment's outputs alone, exactly (R108, R109). -/
theorem acc_laneDone {k : Nat} (hk : k < 32) : (laneDone t i).acc k =
    (l.partial_.accs.filter fun e => decide ((x.op.acc + e.1) % 32 = k)).foldl (fun a e => Acc.combine a e.2)
      (t.acc k) := by
  obtain ⟨-, haccs, -⟩ := laneDone_keeps hx hl hg
  rw [← acc_mergeSeg x l.partial_ t hk, Tile.acc, haccs, Tile.acc]

end Running

end Done

/-- SEGMENT_DONE is a change of its tile. -/
theorem runs_segmentDone (s : State) (c : Coord) (i : Fin 8) :
    Runs (.segmentDone c i) s (TileBecomes c.key (laneDone (s.tile c.key) i.val) s) :=
  runs_change s c.key fun x => laneDone x i.val

/-- Settles O14: the deal, the three ways in which a lane goes on, and the merge with the end of the instruction. -/
theorem lanesShareSegments : Obligations.LanesShareSegments := by
  refine ⟨fun x n => ⟨by simp [dealLanes], flatMap_laneSegs_dealLanes x n, fun i => getElem?_dealLanes x n⟩,
    fun t x i g l _ _ hx hl hg => ⟨fun y r => laneDone_own hx hl hg, laneDone_retires hx hl hg,
      fun j m htodo hon hj hj8 => laneDone_steals hx hl hg htodo hon hj hj8⟩,
    runs_segmentDone, fun t x i g l _ hx hl hg => ?merge⟩
  intro u
  obtain ⟨hlanes, -, -⟩ := laneDone_keeps hx hl hg
  obtain ⟨hsram, hpc, hwait, y, hy, hop, hdesc⟩ := afterLane_keeps x t i l
  obtain ⟨hacc, htree⟩ := sparseEnd_sram hy
  obtain ⟨hwaits, hends⟩ := sparseEnd_sequencer hy
  have hadvance : (afterLane x t i l).advance.pc = t.advance.pc := by simp only [Tile.advance, hpc]
  rw [hop, hsram, ← laneDone_eq hx hl hg] at hacc htree
  rw [← laneDone_eq hx hl hg, ← hlanes, hpc, hwait] at hwaits
  rw [← laneDone_eq hx hl hg, ← hlanes, hadvance] at hends
  rw [hdesc] at htree
  refine ⟨?_, ?_, fun k => acc_laneDone hx hl hg, hacc, fun _ => htree, hwaits, hends⟩
  · rw [hlanes]
    exact afterLane_perm hl hg
  · rw [hlanes]
    exact merged_afterLane hl

end Sys2Proof.Proofs.SparseLanes
end

section
/-! Commands that a herd controller at rest carries out (R140, R142, R145): whoever gives one, it runs at once, and what it
leaves is what its own function leaves. -/

namespace Sys2Proof.Proofs.HerdCommands

open Sys2Proof.Machine Sys2Proof.Safety Sys2Proof.Laws
open Sys2Proof.Proofs.Frames Sys2Proof.Proofs.HerdLoads

/-! ### Answers -/

/-- What a step may change that goes through `actHerd`. -/
def herdParts : List Part := [.regs, .tiles, .herds, .mesh, .stks, .snaps, .jrn, .bru, .flt, .io]

section Answers

variable {i : Instr} {f : State → State} {s u : State} {l : List Part} {P : State → Prop}

/-- A command of a herd or of the mesh whose function changes nothing. -/
theorem exec_of_actHerd_same (hi : exec i s = actHerd f s) (hf : f s = s) : exec i s = .next s := by rw [hi, actHerd, hf]

/-- A command of a herd or of the mesh whose function changes no more than it may answers its function's state. -/
theorem runs_of_actHerd (hi : exec i s = actHerd f s) (hf : f s = u) (hk : KeepsBut l s u) (hl : l ⊆ herdParts) (h : P u) :
    Runs i s P := by
  subst hf
  obtain ⟨t, ht, hP⟩ := run_actHerd f s l P hk hl h
  exact ⟨t, hi.trans ht, hP⟩

end Answers

/-! ### A table written twice -/

section Tables

variable {α : Type} (m : NatMap α) (k : Nat) (v w : α)

theorem ins_ins_over : NatMap.ins (NatMap.ins m k v) k w = NatMap.ins m k w := by
  induction m with
  | nil => simp [NatMap.ins]
  | cons e r ih =>
    obtain ⟨k', v'⟩ := e
    rcases lt_trichotomy k k' with hlt | rfl | hgt
    · simp [NatMap.ins, hlt]
    · simp [NatMap.ins]
    · simp [NatMap.ins, hgt.not_gt, hgt.ne', ih]

theorem del_ins_over : NatMap.del (NatMap.ins m k v) k = NatMap.del m k := by
  induction m with
  | nil => simp [NatMap.ins, NatMap.del]
  | cons e r ih =>
    obtain ⟨k', v'⟩ := e
    rcases lt_trichotomy k k' with hlt | rfl | hgt
    · simp [NatMap.ins, NatMap.del, hlt]
    · simp [NatMap.ins, NatMap.del]
    · simp [NatMap.ins, NatMap.del, hgt.not_gt, hgt.ne', hgt.ne, ih]

/-- The entries of a table after a write: those from before, and the one written. -/
theorem mem_put [DecidableEq α] {d : α} {e : Nat × α} (he : e ∈ NatMap.put m d k v) : e = (k, v) ∨ e ∈ m := by
  unfold NatMap.put at he
  split at he
  · rw [NatMap.del_eq_filter] at he
    exact .inr (List.mem_of_mem_filter he)
  · induction m with
    | nil => simpa [NatMap.ins] using he
    | cons e' r ih =>
      obtain ⟨k', v'⟩ := e'
      simp only [NatMap.ins] at he
      split_ifs at he <;> simp only [List.mem_cons] at he ⊢ <;> tauto

end Tables

/-- A herd controller written twice: the first write is lost, unless it is of a controller at reset. -/
theorem setHerd_setHerd (s : State) (h : Nat) {x : Herd} (y : Herd) (hx : x ≠ Herd.reset) :
    (s.setHerd h x).setHerd h y = s.setHerd h y := by
  have hput : NatMap.put (NatMap.put s.herds Herd.reset h x) Herd.reset h y = NatMap.put s.herds Herd.reset h y := by
    simp only [NatMap.put, if_neg hx]
    rw [ins_ins_over, del_ins_over]
  simp only [State.setHerd, hput]

/-! ### The queue of a controller at rest (R140) -/

/-- A herd controller that has taken its one command: it differs at most in whose turn is next. -/
def turned (s : State) (h : Nat) (b : Bool) : State := s.setHerd h { s.herd h with lastFw := b }

/-- A lone command is the next one, whoever gave it. -/
theorem nextCmd_single {x : Herd} {q : QCmd} (hq : x.queue = [q]) (hb : x.barrier = none)
    (hsrc : q.src ∈ [CmdSrc.fault, .firmware, .host]) :
    ∃ b, x.nextCmd = some (q, { x with queue := [], lastFw := b }) := by
  simp only [List.mem_cons, List.not_mem_nil, or_false] at hsrc
  obtain hs | hs | hs := hsrc
  · exact ⟨x.lastFw, by simp [Herd.nextCmd, hq, takeSrc, hs]⟩
  · refine ⟨true, ?_⟩
    cases hl : x.lastFw <;> simp [Herd.nextCmd, hq, hb, takeSrc, hs, hl]
  · refine ⟨false, ?_⟩
    cases hl : x.lastFw <;> simp [Herd.nextCmd, hq, hb, takeSrc, hs, hl]

/-- A controller at rest carries out at once a command that enters its queue. -/
theorem serve_enqueue {s : State} {h : Nat} {q : QCmd} (hrest : AtRest s h)
    (hsrc : q.src ∈ [CmdSrc.fault, .firmware, .host]) :
    ∃ b, (s.enqueue h q).serve h = (turned s h b).herdRun h q := by
  obtain ⟨hbarrier, hqueue⟩ := hrest
  have hherd : (s.enqueue h q).herd h = { s.herd h with queue := [q] } := by
    simp [State.enqueue, hqueue]
  obtain ⟨b, hnext⟩ := nextCmd_single (x := { s.herd h with queue := [q] }) rfl hbarrier hsrc
  have hx : { { s.herd h with queue := [q] } with queue := [], lastFw := b } = { s.herd h with lastFw := b } := by
    rw [← hqueue]
  have hturned : (s.enqueue h q).setHerd h { s.herd h with lastFw := b } = turned s h b :=
    setHerd_setHerd s h _ fun he => by simpa [Herd.reset] using congrArg Herd.queue he
  refine ⟨b, ?_⟩
  have hbar : ((turned s h b).herd h).barrier = none := by simp [turned, hbarrier]
  have hdrop : (turned s h b).dropBarrier h = turned s h b := by
    rw [State.dropBarrier, hbar]
  rw [State.serve, hherd]
  simp only [List.length_singleton, State.serveHerd, hherd, hnext, hx, hturned, hdrop, ite_self]

/-- The state in which a controller at rest carries out a command of `src`: no more has changed than whose turn is next, and
nothing for the loader, whose commands do not queue. -/
structure Taken (s : State) (h : Nat) (src : CmdSrc) (u : State) : Prop where
  herd : ∃ b, u.herd h = { s.herd h with lastFw := b }
  others : HerdsBut h s u
  keeps : KeepsBut [.herds] s u
  loader : src = .loader → u = s

namespace Taken

theorem refl (s : State) (h : Nat) (src : CmdSrc) : Taken s h src s :=
  ⟨⟨_, rfl⟩, fun _ _ => rfl, KeepsBut_refl _ s, fun _ => rfl⟩

theorem turned (s : State) (h : Nat) {src : CmdSrc} (hsrc : src ≠ .loader) (b : Bool) : Taken s h src (turned s h b) :=
  ⟨⟨b, by simp [HerdCommands.turned]⟩, fun k hk => by simp [HerdCommands.turned, hk], keeps_setHerd s h _,
    fun he => absurd he hsrc⟩

variable {s u : State} {h : Nat} {src : CmdSrc}

theorem tiles (hu : Taken s h src u) : u.tiles = s.tiles := hu.keeps.2 .tiles (by decide)
theorem mesh (hu : Taken s h src u) : u.mesh = s.mesh := hu.keeps.2 .mesh (by decide)
theorem stks (hu : Taken s h src u) : u.stks = s.stks := hu.keeps.2 .stks (by decide)
theorem bru (hu : Taken s h src u) : u.bru = s.bru := hu.keeps.2 .bru (by decide)

theorem tile (hu : Taken s h src u) (k : Nat) : u.tile k = s.tile k := by rw [State.tile, hu.tiles]; rfl
theorem pherd (hu : Taken s h src u) (k : Nat) : u.pherd k = s.pherd k := by rw [State.pherd, hu.bru]; rfl

theorem router (hu : Taken s h src u) (px py : Nat) : u.router px py = s.router px py := by
  rw [State.router, hu.mesh]; rfl

theorem st (hu : Taken s h src u) : (u.herd h).st = (s.herd h).st := by obtain ⟨b, hb⟩ := hu.herd; rw [hb]

theorem barrier (hu : Taken s h src u) : (u.herd h).barrier = (s.herd h).barrier := by
  obtain ⟨b, hb⟩ := hu.herd; rw [hb]

theorem rest (hu : Taken s h src u) (hrest : AtRest s h) : AtRest u h := by
  obtain ⟨b, hb⟩ := hu.herd
  rw [AtRest, hb]
  exact hrest

theorem stackFault (hu : Taken s h src u) : (u.herd h).stackFault = (s.herd h).stackFault := by
  obtain ⟨b, hb⟩ := hu.herd; rw [hb]

end Taken

/-! ### Frames of herds and tiles -/

theorem HerdsBut_trans {h : Nat} {s t u : State} (hst : HerdsBut h s t) (htu : HerdsBut h t u) : HerdsBut h s u :=
  fun k hk => (htu k hk).trans (hst k hk)

theorem herdsBut_of_herds {s t : State} (h : Nat) (he : t.herds = s.herds) : HerdsBut h s t :=
  fun k _ => by rw [State.herd, he]; rfl

theorem herdsBut_updHerd (s : State) (h : Nat) (f : Herd → Herd) : HerdsBut h s (s.updHerd h f) :=
  fun k hk => by rw [herd_updHerd, if_neg hk]

/-- A herd's controller and its tiles changed, the tiles each by the same function. -/
def changed (u : State) (h : Nat) (f : Herd → Herd) (g : Tile → Tile) : State := (u.updHerd h f).mapTiles h g

section Changed

variable {s u : State} {h : Nat} {src : CmdSrc} (f : Herd → Herd) {g : Tile → Tile}

theorem herd_changed : (changed u h f g).herd h = f (u.herd h) := by
  show (u.updHerd h f).herd h = _
  rw [herd_updHerd, if_pos rfl]

theorem tile_changed (hg : g Tile.reset = Tile.reset) (k : Nat) :
    (changed u h f g).tile k = if herdOfKey k = h then g (u.tile k) else u.tile k := tile_mapTiles _ h hg k

theorem keeps_changed : KeepsBut [.tiles, .herds] u (changed u h f g) :=
  KeepsBut_append (keeps_tiles u _) (keeps_updHerd _ h f)

/-- No other herd, no tile of another and nothing else is touched. -/
theorem changed_frame (hu : Taken s h src u) (hg : g Tile.reset = Tile.reset) :
    (∀ k, (changed u h f g).tile k = if herdOfKey k = h then g (s.tile k) else s.tile k) ∧
      HerdsBut h s (changed u h f g) ∧ KeepsBut [.tiles, .herds] s (changed u h f g) := by
  refine ⟨fun k => ?_, HerdsBut_trans hu.others (herdsBut_updHerd u h f), ?_⟩
  · rw [tile_changed f hg, hu.tile]
  · exact KeepsBut_mono (KeepsBut_append hu.keeps (keeps_changed f)) (by decide)

end Changed

/-! ### RELEASE (R142, R373, R507) -/

/-- A herd controller that RELEASE has made RUNNING. -/
def releasedHerd (x : Herd) : Herd :=
  let y := if x.st = .loaded then { x with relTaken := x.taken, relOutseq := x.outseq, committed := false } else x
  { y with st := .running, fault := 0, stackFault := false, atEpoch := none, drained := false }

theorem releasedHerd_barrier (x : Herd) : (releasedHerd x).barrier = x.barrier := by
  unfold releasedHerd
  dsimp only
  split_ifs <;> rfl

theorem releasedHerd_queue (x : Herd) : (releasedHerd x).queue = x.queue := by
  unfold releasedHerd
  dsimp only
  split_ifs <;> rfl

/-- What a release notes of a LOADED herd for a later return to it (R373). -/
theorem releasedHerd_loaded {s u : State} {h : Nat} {src : CmdSrc} (hu : Taken s h src u) (hst : (s.herd h).st = .loaded) :
    (releasedHerd (u.herd h)).relTaken = (s.herd h).taken ∧ (releasedHerd (u.herd h)).relOutseq = (s.herd h).outseq ∧
      (releasedHerd (u.herd h)).committed = false := by
  obtain ⟨b, hb⟩ := hu.herd
  simp [releasedHerd, hb, hst]

/-- The reads that were answered poisoned are served again where the herd is FAULTED (R507). -/
def servedAgain (u : State) (h : Nat) : State := if (u.herd h).st = .faulted then u.serveAgain h else u

theorem keeps_servedAgain (u : State) (h : Nat) : KeepsBut [.stks] u (servedAgain u h) := by
  unfold servedAgain
  split_ifs
  · exact ⟨rfl, fun p hp => by cases p <;> simp_all [Part.same, State.serveAgain]⟩
  · exact KeepsBut_refl _ u

/-- Every tile of the herd released, and its controller as `y`. -/
def released (u : State) (h : Nat) (y : Herd) : State := changed (servedAgain u h) h (fun _ => y) Tile.go

section Release

variable {s u : State} {h : Nat} {src : CmdSrc}

theorem herd_released (u : State) (h : Nat) (y : Herd) : (released u h y).herd h = y := herd_changed _

theorem released_frame (hu : Taken s h src u) (y : Herd) :
    ((s.herd h).st ≠ .faulted → (released u h y).stks = s.stks) ∧
      (∀ k, (released u h y).tile k = if herdOfKey k = h then (s.tile k).go else s.tile k) ∧
      HerdsBut h s (released u h y) ∧ KeepsBut [.tiles, .herds, .stks] s (released u h y) := by
  have hserved := keeps_servedAgain u h
  have htile (k : Nat) : (servedAgain u h).tile k = s.tile k := by
    rw [State.tile, hserved.2 .tiles (by decide)]
    exact hu.tile k
  refine ⟨fun hst => ?_, fun k => ?_, ?_, ?_⟩
  · rw [released, servedAgain, if_neg (hu.st ▸ hst)]
    exact hu.stks
  · rw [released, tile_changed _ rfl, htile]
  · exact HerdsBut_trans (HerdsBut_trans hu.others (herdsBut_of_herds h (hserved.2 .herds (by decide))))
      (herdsBut_updHerd _ h fun _ => y)
  · exact KeepsBut_mono (KeepsBut_append (KeepsBut_append hu.keeps hserved) (keeps_changed _)) (by decide)

theorem tileFault_released (hu : Taken s h src u) (y : Herd) :
    (released u h y).tileFault h = (s.mapTiles h Tile.go).tileFault h := by
  have htiles : (released u h y).tiles = (s.mapTiles h Tile.go).tiles := by
    show NatMap.mapIf _ _ _ (servedAgain u h).tiles = NatMap.mapIf _ _ _ s.tiles
    rw [(keeps_servedAgain u h).2 .tiles (by decide), hu.tiles]
  rw [State.tileFault, htiles]
  rfl

/-- A fault of a herd with no barrier in progress changes its controller alone. -/
theorem faultState_rest {code : Nat} {sf : Bool} (hb : (u.herd h).barrier = none) :
    u.faultState h code sf = u.updHerd h (faulted code sf) := by
  simp only [State.faultState, hb]
  rfl

section Allowed

variable (hst : (u.herd h).st = .loaded ∨ (u.herd h).st = .halted ∨ ((u.herd h).st = .faulted ∧ (u.herd h).stackFault = true))
include hst

theorem cmdRelease_running (hfault : (released u h (releasedHerd (u.herd h))).tileFault h = none) :
    u.cmdRelease h = cmdOk (released u h (releasedHerd (u.herd h))) := by
  rw [State.cmdRelease, if_pos hst]
  show (match (released u h (releasedHerd (u.herd h))).tileFault h with
    | some code => cmdOk ((released u h (releasedHerd (u.herd h))).faultState h code false)
    | none => cmdOk (released u h (releasedHerd (u.herd h)))) = _
  rw [hfault]

/-- A herd just released that a fault of one of its tiles makes FAULTED again: what the release has noted stays. -/
theorem cmdRelease_faulted {code : Nat} (hb : (u.herd h).barrier = none)
    (hfault : (released u h (releasedHerd (u.herd h))).tileFault h = some code) : u.cmdRelease h =
      cmdOk (released u h { releasedHerd (u.herd h) with st := .faulted, fault := code, barrier := none }) := by
  have hne : releasedHerd (u.herd h) ≠ Herd.reset := fun he => nomatch congrArg Herd.st he
  have hherd : (released u h (releasedHerd (u.herd h))).herd h = releasedHerd (u.herd h) := herd_changed _
  have hover := setHerd_setHerd (servedAgain u h) h
    { releasedHerd (u.herd h) with st := .faulted, fault := code, barrier := none } hne
  rw [State.cmdRelease, if_pos hst]
  show (match (released u h (releasedHerd (u.herd h))).tileFault h with
    | some code => cmdOk ((released u h (releasedHerd (u.herd h))).faultState h code false)
    | none => cmdOk (released u h (releasedHerd (u.herd h)))) = _
  rw [hfault]
  refine congrArg cmdOk ((faultState_rest (by rw [hherd, releasedHerd_barrier, hb])).trans ?_)
  rw [State.updHerd, hherd]
  exact congrArg (State.mapTiles · h Tile.go) hover

end Allowed

end Release

/-! ### Commands to one herd at rest -/

/-- A command that has ended well leaves its own state, where its giver is told nothing. -/
theorem herdRun_ok {u v : State} {h : Nat} {q : QCmd} (hdo : u.herdDo h q = cmdOk v) (hsrc : q.src ≠ .host) :
    u.herdRun h q = v := by
  simp only [State.herdRun, hdo, cmdOk, State.cmdEnd, if_neg hsrc]
  simp

/-- A command that the host does not give, nor a sequence, reaches its one herd. -/
theorem command_one (s : State) {c : HerdCmd} (hall : c.all = false) (hsrc : c.src ∈ [CmdSrc.loader, .firmware, .fault])
    (op : Nat) (still : List (Nat × Nat)) :
    s.command op c still = s.herdCmd c.herd { src := c.src, op := op, arg := c.arg.toNat, still := still } := by
  obtain ⟨src, h, all, arg⟩ := c
  subst hall
  simp only [List.mem_cons, List.not_mem_nil, or_false] at hsrc
  obtain rfl | rfl | rfl := hsrc <;> rfl

/-- A controller at rest carries a command out at once. -/
theorem herdCmd_rest {s : State} {h : Nat} {q : QCmd} (hrest : AtRest s h)
    (hsrc : q.src ∈ [CmdSrc.loader, .firmware, .fault]) : ∃ u, Taken s h q.src u ∧ s.herdCmd h q = u.herdRun h q := by
  rw [State.herdCmd]
  split_ifs with hloader
  · exact ⟨s, Taken.refl s h _, rfl⟩
  · obtain ⟨b, hb⟩ := serve_enqueue (q := q) hrest (by simp only [List.mem_cons] at hsrc ⊢; tauto)
    exact ⟨_, Taken.turned s h hloader b, hb⟩

/-- A command to one herd at rest leaves what its function leaves of the state in which it is carried out. -/
theorem runs_command {i : Instr} {s : State} {c : HerdCmd} {op : Nat} {still : List (Nat × Nat)} {l : List Part}
    {P : State → Prop} (hi : exec i s = actHerd (fun s => s.command op c still) s) (hall : c.all = false)
    (hsrc : c.src ∈ [CmdSrc.loader, .firmware, .fault]) (hrest : AtRest s c.herd) (hl : l ⊆ herdParts)
    (h : ∀ u, Taken s c.herd c.src u → ∃ v,
      u.herdDo c.herd { src := c.src, op := op, arg := c.arg.toNat, still := still } = cmdOk v ∧ KeepsBut l s v ∧ P v) :
    Runs i s P := by
  obtain ⟨u, hu, hcommand⟩ := herdCmd_rest (q := ⟨c.src, op, c.arg.toNat, still⟩) hrest hsrc
  obtain ⟨v, hdo, hkeeps, hP⟩ := h u hu
  have hhost : c.src ≠ .host := fun he => by simp [he] at hsrc
  exact runs_of_actHerd hi ((command_one s hall hsrc op still).trans (hcommand.trans (herdRun_ok hdo hhost))) hkeeps hl hP

/-! ### ROUTE_REPAIR (R135) -/

theorem herdOfPos_routerKey {px : Nat} (hpx : px < 1089) (py : Nat) : herdOfPos (routerKey px py) = pherdAt px py := by
  have hx : routerKey px py % 1089 = px := by unfold routerKey; omega
  have hy : routerKey px py / 1089 = py := by unfold routerKey; omega
  rw [herdOfPos, hx, hy]

/-- The written entries of the herd's routers are gone, and the marks of wrong bits with them, broadcast entries apart. -/
theorem router_repairRoutes (u : State) (h : Nat) {px : Nat} (hpx : px < 1089) (py : Nat) :
    (u.repairRoutes h).router px py = if pherdAt px py = u.pherd h then
      { u.router px py with herdTab := [], localTab := [], edgeTab := []
                            bad := (u.router px py).bad.filter (fun e => decide (2112 ≤ e.1)) } else u.router px py := by
  have hget := NatMap.get_mapIf u.mesh.routers Router.reset (fun k => decide (herdOfPos k = u.pherd h))
    (fun r => { r with herdTab := [], localTab := [], edgeTab := [], bad := r.bad.filter (fun e => decide (2112 ≤ e.1)) })
    rfl (routerKey px py)
  simp only [herdOfPos_routerKey hpx, decide_eq_true_eq] at hget
  exact hget

/-- The tables are generated around what is bypassed then. -/
theorem mesh_repairRoutes (u : State) (h : Nat) : (u.repairRoutes h).mesh =
    { u.mesh with routers := (u.repairRoutes h).mesh.routers
                  gens := NatMap.ins u.mesh.gens (u.pherd h) { all := (u.repairRoutes h).bypassList, herd := [] } } := rfl

/-! ### ROLLCALL and REPAIR (R414, R415) -/

/-- A herd controller that a ROLLCALL has told what its tiles miss. -/
def heardHerd (m : BitVec 16) (x : Herd) : Herd := { x with missing := m }

/-- The bring-up engine's segments after a REPAIR of one herd (R415). -/
def repairedBru (u : State) (h : Nat) (still : List (Nat × Nat)) (b : Bru) : Bru :=
  { b with missing := repairLeft (fun k => decide (herdOfPos k = u.pherd h)) still b.copies b.missing }

/-- A REPAIR that is not the loader's is of one LOADED herd. -/
theorem cmdRepair_loaded (u : State) (h : Nat) (still : List (Nat × Nat)) {src : CmdSrc} (hsrc : src ≠ .loader) :
    u.cmdRepair h still src =
      if (u.herd h).st = .loaded then cmdOk (u.updBru (repairedBru u h still)) else cmdRefused u :=
  if_neg fun he => hsrc he.1

/-- BRU_BCAST_STAT alone is written. -/
theorem noteBcast_frame (s : State) : RegsBut [Reg.BRU_BCAST_STAT] s s.noteBcast ∧ KeepsBut [.regs] s s.noteBcast :=
  ⟨RegsBut_trans (RegsBut_trans (RegsBut_wr s Reg.BRU_BCAST_STAT_NUMBER _) (RegsBut_wr _ Reg.BRU_BCAST_STAT_ROUNDS _))
      (RegsBut_wr _ Reg.BRU_BCAST_STAT_MISSING _),
    KeepsBut_trans (KeepsBut_trans (keeps_wr s _ _) (keeps_wr _ _ _)) (keeps_wr _ _ _)⟩

/-- A round before the third, in automatic mode, notes itself and does no more (R414). -/
theorem repairRound_early {s : State} (still : List (Nat × Nat)) (hmissing : s.bru.missing ≠ []) (hround : s.bru.round < 2)
    (hstops : s.bru.stops = []) (hmode : s.assisted 1 = false) :
    (s.repairRound still).bru = { s.bru with
      missing := repairLeft (fun _ => true) still s.bru.copies s.bru.missing, round := s.bru.round + 1 } ∧
    RegsBut [Reg.BRU_BCAST_STAT] s (s.repairRound still) ∧ KeepsBut [.regs, .bru] s (s.repairRound still) := by
  have hopen : ¬(s.bru.missing.isEmpty = true ∨ 3 ≤ s.bru.round ∨ s.bru.stops.any BruStop.ofRepair = true) := by
    simp [hmissing, hstops]
    omega
  set u := s.updBru fun b =>
    { b with missing := repairLeft (fun _ => true) still s.bru.copies s.bru.missing, round := s.bru.round + 1 } with hu
  obtain ⟨hregs, hkeeps⟩ := noteBcast_frame u
  have hmode' : u.noteBcast.assisted 1 = false := by
    have hreg : u.noteBcast.reg Reg.GLB_MODE = s.reg Reg.GLB_MODE := hregs Reg.GLB_MODE (by decide)
    rw [← hmode]
    simp only [State.assisted, State.rd]
    exact congrArg (fun w : Word => bit (bits w.toNat _ _) 1) hreg
  have hlast : ¬(3 ≤ u.noteBcast.bru.round) := by
    show ¬(3 ≤ s.bru.round + 1)
    omega
  have hnoted : s.repairRound still = u.noteBcast := by
    rw [State.repairRound, if_neg hopen]
    show (if u.noteBcast.bru.missing.isEmpty then u.noteBcast
      else if u.noteBcast.assisted 1 then _
      else if 3 ≤ u.noteBcast.bru.round then u.noteBcast.retireMissing else u.noteBcast) = _
    rw [hmode', if_neg hlast]
    simp
  rw [hnoted]
  exact ⟨rfl, hregs, KeepsBut_mono (KeepsBut_append (keeps_updBru s _) hkeeps) (by decide)⟩

/-! ### HALT and RESET_TILES -/

/-- A herd controller that HALT has stopped. -/
def haltedHerd (x : Herd) : Herd := { x with st := .halted, atEpoch := none, drained := false }

/-- A tile that HALT has stopped at an instruction boundary. -/
def haltedTile (y : Tile) : Tile := if y.run = .running then { y with run := .halted } else y

/-- A herd controller after RESET_TILES. -/
def clearedHerd (x : Herd) : Herd :=
  { x with st := .loaded, fault := 0, stackFault := false, atEpoch := none, drained := false, snapAll := 3 }

/-- Settles O27: each command leaves what its own function leaves of the state in which the controller takes it. -/
theorem herdCommandsRun : Obligations.HerdCommandsRun := by
  intro s c hall hsrc hrest h x tiles
  refine ⟨fun hst => ?release, fun hst => ?halt, fun hst => ?reset, fun hst => ?routes, fun hst => ?rollcall,
    fun still hst hloader => ?repair, fun still hst hloader hmissing hround hstops hmode => ?round⟩
  case release =>
    refine runs_command rfl hall hsrc hrest (l := [.tiles, .herds, .stks]) (by decide) fun u hu => ?_
    have hst' : (u.herd h).st = .loaded ∨ (u.herd h).st = .halted ∨
        ((u.herd h).st = .faulted ∧ (u.herd h).stackFault = true) := by
      rw [hu.st, hu.stackFault]
      exact hst
    have hloaded := releasedHerd_loaded hu
    cases hfault : (s.mapTiles h Tile.go).tileFault h with
    | none =>
      obtain ⟨hstks, htiles, hherds, hkeeps⟩ := released_frame hu (releasedHerd (u.herd h))
      refine ⟨_, cmdRelease_running hst' ((tileFault_released hu _).trans hfault), hkeeps, ?_⟩
      rw [herd_released]
      exact ⟨fun _ => ⟨rfl, rfl⟩, fun _ => nofun, rfl, rfl, hloaded, hstks, htiles, hherds, hkeeps⟩
    | some code =>
      obtain ⟨hstks, htiles, hherds, hkeeps⟩ := released_frame hu
        { releasedHerd (u.herd h) with st := .faulted, fault := code, barrier := none }
      refine ⟨_, cmdRelease_faulted hst' (hu.barrier.trans hrest.1) ((tileFault_released hu _).trans hfault), hkeeps, ?_⟩
      rw [herd_released]
      exact ⟨nofun, fun _ he => ⟨rfl, Option.some.inj he⟩, rfl, rfl, hloaded, hstks, htiles, hherds, hkeeps⟩
  case halt =>
    refine runs_command rfl hall hsrc hrest (l := [.tiles, .herds]) (by decide) fun u hu => ?_
    have hherd : (changed u h haltedHerd haltedTile).herd h = _ := herd_changed _
    obtain ⟨htiles, hherds, hkeeps⟩ := changed_frame haltedHerd (g := haltedTile) hu rfl
    exact ⟨_, if_pos (hu.st.trans hst), hkeeps, congrArg Herd.st hherd, congrArg Herd.atEpoch hherd, htiles, hherds, hkeeps⟩
  case reset =>
    refine runs_command rfl hall hsrc hrest (l := [.tiles, .herds]) (by decide) fun u hu => ?_
    have hherd : (changed u h clearedHerd Tile.clear).herd h = _ := herd_changed _
    obtain ⟨htiles, hherds, hkeeps⟩ := changed_frame clearedHerd (g := Tile.clear) hu rfl
    exact ⟨_, if_pos (hu.st ▸ hst), hkeeps, congrArg Herd.st hherd, congrArg Herd.fault hherd, congrArg Herd.atEpoch hherd,
      htiles, hherds, hkeeps⟩
  case routes =>
    refine runs_command rfl hall hsrc hrest (l := [.mesh, .herds]) (by decide) fun u hu => ?_
    have hkeeps : KeepsBut [.mesh, .herds] s (u.repairRoutes h) :=
      KeepsBut_mono (KeepsBut_append hu.keeps (keeps_mesh u (u.repairRoutes h).mesh)) (by decide)
    refine ⟨_, if_pos (hu.st ▸ hst), hkeeps, fun px py hpx => ?_, ?_, hu.others, hu.st, hkeeps⟩
    · rw [router_repairRoutes u h hpx py, hu.pherd, hu.router]
    · have hmesh := mesh_repairRoutes u h
      rwa [hu.mesh, hu.pherd] at hmesh
  case rollcall =>
    refine runs_command rfl hall hsrc hrest (l := [.herds]) (by decide) fun u hu => ?_
    have hkeeps := KeepsBut_trans hu.keeps (keeps_updHerd u h (heardHerd (u.missingOf (u.pherd h) c.arg.toNat)))
    have hherd : (u.updHerd h (heardHerd (u.missingOf (u.pherd h) c.arg.toNat))).herd h = _ :=
      (herd_updHerd u h h _).trans (if_pos rfl)
    refine ⟨_, if_pos (hu.st ▸ hst), hkeeps, (congrArg Herd.missing hherd).trans ?_, (congrArg Herd.st hherd).trans hu.st,
      HerdsBut_trans hu.others (herdsBut_updHerd u h _), hkeeps⟩
    rw [heardHerd, hu.pherd, State.missingOf, hu.bru]
    rfl
  case repair =>
    refine runs_command rfl hall hsrc hrest (l := [.herds, .bru]) (by decide) fun u hu => ?_
    have hkeeps := KeepsBut_append hu.keeps (keeps_updBru u (repairedBru u h still))
    refine ⟨_, (cmdRepair_loaded u h still hloader).trans (if_pos (hu.st.trans hst)), hkeeps, ?_, hu.st, hu.others, hkeeps⟩
    show repairedBru u h still u.bru = _
    rw [repairedBru, hu.bru, hu.pherd]
  case round =>
    refine runs_command rfl hall hsrc hrest (l := [.regs, .bru]) (by decide) fun u hu => ?_
    obtain rfl := hu.loader hloader
    obtain ⟨hbru, hregs, hkeeps⟩ := repairRound_early still hmissing hround hstops hmode
    exact ⟨_, if_pos ⟨hloader, hst⟩, hkeeps, hbru, hregs, hkeeps⟩

end Sys2Proof.Proofs.HerdCommands
end

section
/-! Herd commands of the host (R142, R145): one at a time, and to one herd at rest each ends at once and reports in
HRD_CMD_STATUS. -/

namespace Sys2Proof.Proofs.HostCommands

open Sys2Proof.Machine Sys2Proof.Safety Sys2Proof.Laws
open Sys2Proof.Proofs.Frames Sys2Proof.Proofs.HerdCommands

/-! ### No host command waits or runs -/

theorem hostCmdOpen_setHerd {s : State} {h : Nat} {y : Herd} (hs : s.hostCmdOpen = false) (hq : y.queue = [])
    (hb : y.barrier = none) : (s.setHerd h y).hostCmdOpen = false := by
  rw [State.hostCmdOpen, List.any_eq_false] at hs ⊢
  intro e he
  obtain rfl | he := mem_put _ _ _ he
  · simp [hq, hb]
  · exact hs e he

/-! ### HRD_CMD_STATUS -/

/-- PENDING set, and the outcome of the command before cleared. -/
def begun (s : State) (op : Nat) : State :=
  let s := (s.wr Reg.HRD_CMD_STATUS_PENDING 1).wr Reg.HRD_CMD_STATUS_OPCODE op
  let s := ((s.wr Reg.HRD_CMD_STATUS_DONE 0).wr Reg.HRD_CMD_STATUS_FAIL 0).wr Reg.HRD_CMD_STATUS_CODE 0
  (s.wr Reg.HRD_CMD_STATUS_HX 0).wr Reg.HRD_CMD_STATUS_HY 0

/-- FAIL set with CODE 0 and the herd. -/
def noted (v : State) (h : Nat) : State :=
  (((v.wr Reg.HRD_CMD_STATUS_FAIL 1).wr Reg.HRD_CMD_STATUS_CODE 0).wr Reg.HRD_CMD_STATUS_HX (h % 32)).wr
    Reg.HRD_CMD_STATUS_HY (h / 32)

/-- PENDING clear and DONE set. -/
def ended (v : State) : State := (v.wr Reg.HRD_CMD_STATUS_PENDING 0).wr Reg.HRD_CMD_STATUS_DONE 1

/-- Writing a field of HRD_CMD_STATUS changes that register alone. -/
theorem status_wr {s t : State} {f : Fld} (v : Nat) (h : RegsBut [Reg.HRD_CMD_STATUS] s t)
    (hf : f.off = Reg.HRD_CMD_STATUS) : RegsBut [Reg.HRD_CMD_STATUS] s (t.wr f v) :=
  RegsBut_trans h (hf ▸ RegsBut_wr t f v)

theorem rd_of_regs {u v : State} (h : v.regs = u.regs) (f : Fld) : v.rd f = u.rd f := by
  simp only [State.rd, State.reg, h]

section Report

variable {s v : State} {op h : Nat} (hv : v.regs = (begun s op).regs)
include hv

theorem regsBut_begun : RegsBut [Reg.HRD_CMD_STATUS] s v := by
  refine RegsBut_trans ?_ (RegsBut_of_regs hv _)
  unfold begun
  iterate 7 refine status_wr _ ?_ rfl
  exact RegsBut_refl _ s

/-- The status of a command that has ended well. -/
theorem status_ok (hop : op ≤ 10) : (ended v).rd Reg.HRD_CMD_STATUS_PENDING = 0 ∧
    (ended v).rd Reg.HRD_CMD_STATUS_DONE = 1 ∧ (ended v).rd Reg.HRD_CMD_STATUS_OPCODE = op ∧
    (ended v).rd Reg.HRD_CMD_STATUS_CODE = 0 ∧ (ended v).rd Reg.HRD_CMD_STATUS_FAIL = 0 ∧
    RegsBut [Reg.HRD_CMD_STATUS] s (ended v) := by
  have hwidth : op % 2 ^ (Reg.HRD_CMD_STATUS_OPCODE.hi + 1 - Reg.HRD_CMD_STATUS_OPCODE.lo) = op :=
    Nat.mod_eq_of_lt (show op < 2 ^ 8 by omega)
  refine ⟨?_, ?_, ?_, ?_, ?_, status_wr _ (status_wr _ (regsBut_begun hv) rfl) rfl⟩ <;>
    simp (disch := decide) only [ended, rd_wr, rd_wr_other, rd_of_regs hv, begun, hwidth] <;> rfl

/-- The status of a command that has failed, with the herd's place. -/
theorem status_failed (hop : op ≤ 10) (hh : h < 1024) : (ended (noted v h)).rd Reg.HRD_CMD_STATUS_PENDING = 0 ∧
    (ended (noted v h)).rd Reg.HRD_CMD_STATUS_DONE = 1 ∧ (ended (noted v h)).rd Reg.HRD_CMD_STATUS_OPCODE = op ∧
    (ended (noted v h)).rd Reg.HRD_CMD_STATUS_CODE = 0 ∧ (ended (noted v h)).rd Reg.HRD_CMD_STATUS_FAIL = 1 ∧
    (ended (noted v h)).rd Reg.HRD_CMD_STATUS_HX = h % 32 ∧ (ended (noted v h)).rd Reg.HRD_CMD_STATUS_HY = h / 32 ∧
    RegsBut [Reg.HRD_CMD_STATUS] s (ended (noted v h)) := by
  have hwidth : op % 2 ^ (Reg.HRD_CMD_STATUS_OPCODE.hi + 1 - Reg.HRD_CMD_STATUS_OPCODE.lo) = op :=
    Nat.mod_eq_of_lt (show op < 2 ^ 8 by omega)
  have hx : h % 32 % 2 ^ (Reg.HRD_CMD_STATUS_HX.hi + 1 - Reg.HRD_CMD_STATUS_HX.lo) = h % 32 :=
    Nat.mod_eq_of_lt (show h % 32 < 2 ^ 5 by omega)
  have hy : h / 32 % 2 ^ (Reg.HRD_CMD_STATUS_HY.hi + 1 - Reg.HRD_CMD_STATUS_HY.lo) = h / 32 :=
    Nat.mod_eq_of_lt (show h / 32 < 2 ^ 5 by omega)
  have hnoted : RegsBut [Reg.HRD_CMD_STATUS] s (noted v h) :=
    status_wr _ (status_wr _ (status_wr _ (status_wr _ (regsBut_begun hv) rfl) rfl) rfl) rfl
  refine ⟨?_, ?_, ?_, ?_, ?_, ?_, ?_, status_wr _ (status_wr _ hnoted rfl) rfl⟩ <;>
    simp (disch := decide) only [ended, noted, rd_wr, rd_wr_other, rd_of_regs hv, begun, hwidth, hx, hy] <;> rfl

end Report

/-! ### The command -/

/-- One command at a time (R145). -/
theorem hostCommand_pending {s : State} (hpending : s.rd Reg.HRD_CMD_STATUS_PENDING = 1) (op h : Nat) (all : Bool)
    (arg : Nat) (still : List (Nat × Nat)) : s.hostCommand op h all arg still = s.wr Reg.HRD_CMD_STATUS_REJECTED 1 := by
  rw [State.hostCommand, if_pos (.inl (by simp [State.rdb, hpending]))]

theorem keeps_wr_after {s t : State} (h : KeepsBut [.regs] s t) (f : Fld) (v : Nat) : KeepsBut [.regs] s (t.wr f v) :=
  KeepsBut_trans h (keeps_wr t f v)

theorem keeps_begun (s : State) (op : Nat) : KeepsBut [.regs] s (begun s op) := by
  unfold begun
  iterate 7 refine keeps_wr_after ?_ _ _
  exact KeepsBut_refl _ s

theorem keeps_noted (v : State) (h : Nat) : KeepsBut [.regs] v (noted v h) := by
  unfold noted
  iterate 4 refine keeps_wr_after ?_ _ _
  exact KeepsBut_refl _ v

theorem keeps_ended (v : State) : KeepsBut [.regs] v (ended v) := keeps_wr_after (keeps_wr v _ _) _ _

theorem hostCmdOpen_of_herds {s v : State} (h : v.herds = s.herds) : v.hostCmdOpen = s.hostCmdOpen := by
  rw [State.hostCmdOpen, h, State.hostCmdOpen]

section Command

variable {s : State} {op h arg : Nat} {still : List (Nat × Nat)}

/-- With none in progress, a command to one herd goes into its controller's queue, which is served. -/
theorem hostCommand_one (hpending : s.rd Reg.HRD_CMD_STATUS_PENDING = 0) (hop : 1 ≤ op ∧ op ≤ 10) :
    s.hostCommand op h false arg still =
      ((begun s op).enqueue h { src := .host, op := op, arg := arg, still := still }).serve h := by
  have hgo : ¬(s.rdb Reg.HRD_CMD_STATUS_PENDING = true ∨ op = 0 ∨ 10 < op) := by
    simp [State.rdb, hpending]
    omega
  rw [State.hostCommand, if_neg hgo]
  simp only [cmdHerds, State.forEach, Bool.false_eq_true, if_false, List.foldl_cons, List.foldl_nil, begun]

/-- With none in progress, a command to one herd at rest is carried out at once. -/
theorem hostCommand_rest (hpending : s.rd Reg.HRD_CMD_STATUS_PENDING = 0) (hop : 1 ≤ op ∧ op ≤ 10) (hrest : AtRest s h)
    (hclosed : s.hostCmdOpen = false) : ∃ u, Taken (begun s op) h .host u ∧ u.hostCmdOpen = false ∧
      s.hostCommand op h false arg still = u.herdRun h { src := .host, op := op, arg := arg, still := still } := by
  have hherds : (begun s op).herds = s.herds := (keeps_begun s op).2 .herds (by decide)
  have hrest' : AtRest (begun s op) h := by
    rw [AtRest, State.herd, hherds]
    exact hrest
  have hclosed' : (begun s op).hostCmdOpen = false := (hostCmdOpen_of_herds hherds).trans hclosed
  have hsrc : CmdSrc.host ∈ [CmdSrc.fault, .firmware, .host] := by decide
  obtain ⟨b, hb⟩ := serve_enqueue (q := { src := .host, op := op, arg := arg, still := still }) hrest' hsrc
  exact ⟨_, Taken.turned _ h (by decide) b, hostCmdOpen_setHerd hclosed' hrest'.2 hrest'.1,
    (hostCommand_one hpending hop).trans hb⟩

/-- A command that has ended well. -/
theorem herdRun_host_ok {u v : State} {q : QCmd} (hq : q.src = .host) (hdo : u.herdDo h q = cmdOk v)
    (hclosed : v.hostCmdOpen = false) : u.herdRun h q = ended v := by
  simp [State.herdRun, hdo, cmdOk, State.cmdEnd, hq, hclosed, ended]

/-- A command that has failed at once. -/
theorem herdRun_host_refused {u : State} {q : QCmd} (hq : q.src = .host) (hdo : u.herdDo h q = cmdRefused u)
    (hclosed : u.hostCmdOpen = false) (hfail : u.rd Reg.HRD_CMD_STATUS_FAIL = 0) :
    u.herdRun h q = ended (noted u h) := by
  have hopen : (noted u h).hostCmdOpen = false := (hostCmdOpen_of_herds ((keeps_noted u h).2 .herds (by decide))).trans hclosed
  have hfail' : u.rdb Reg.HRD_CMD_STATUS_FAIL = false := by simp [State.rdb, hfail]
  simp only [State.herdRun, hdo, cmdRefused, State.cmdEnd, hq, hfail', if_true, Bool.false_eq_true, if_false]
  rw [← noted, hopen]
  rfl

end Command

/-! ### What each command leaves -/

/-- The state in which a controller at rest carries out the host's command. -/
structure HostTaken (s : State) (h : Nat) (u : State) : Prop where
  rest : AtRest u h
  closed : u.hostCmdOpen = false
  st : (u.herd h).st = (s.herd h).st
  stackFault : (u.herd h).stackFault = (s.herd h).stackFault

/-- What a command that has ended well leaves: no register and no other herd is changed, and it waits nowhere. -/
structure Done (u : State) (h : Nat) (v : State) : Prop where
  others : HerdsBut h u v
  closed : v.hostCmdOpen = false
  keeps : KeepsBut [.tiles, .herds, .mesh, .stks, .bru] u v

section Done

variable {u : State} {h : Nat} (hclosed : u.hostCmdOpen = false)
include hclosed

/-- A command that touches no herd controller. -/
theorem done_of_herds {v : State} (hherds : v.herds = u.herds) (hkeeps : KeepsBut [.mesh, .bru] u v) : Done u h v :=
  ⟨herdsBut_of_herds h hherds, (hostCmdOpen_of_herds hherds).trans hclosed, KeepsBut_mono hkeeps (by decide)⟩

theorem done_changed {f : Herd → Herd} (g : Tile → Tile) (hq : (f (u.herd h)).queue = [])
    (hb : (f (u.herd h)).barrier = none) : Done u h (changed u h f g) :=
  ⟨herdsBut_updHerd u h f, hostCmdOpen_setHerd hclosed hq hb, KeepsBut_mono (keeps_changed f) (by decide)⟩

theorem done_updHerd {f : Herd → Herd} (hq : (f (u.herd h)).queue = []) (hb : (f (u.herd h)).barrier = none) :
    Done u h (u.updHerd h f) :=
  ⟨herdsBut_updHerd u h f, hostCmdOpen_setHerd hclosed hq hb, KeepsBut_mono (keeps_updHerd u h f) (by decide)⟩

theorem done_released {y : Herd} (hq : y.queue = []) (hb : y.barrier = none) : Done u h (released u h y) := by
  obtain ⟨-, -, hothers, hkeeps⟩ := released_frame (Taken.refl u h .host) y
  have hserved := (keeps_servedAgain u h).2 .herds (by decide)
  exact ⟨hothers, hostCmdOpen_setHerd ((hostCmdOpen_of_herds hserved).trans hclosed) hq hb, KeepsBut_mono hkeeps (by decide)⟩

theorem done_release (hrest : AtRest u h) (hst : (u.herd h).st = .loaded ∨ (u.herd h).st = .halted ∨
    ((u.herd h).st = .faulted ∧ (u.herd h).stackFault = true)) : ∃ v, u.cmdRelease h = cmdOk v ∧ Done u h v := by
  have hqueue : (releasedHerd (u.herd h)).queue = [] := by rw [releasedHerd_queue, hrest.2]
  have hbarrier : (releasedHerd (u.herd h)).barrier = none := by rw [releasedHerd_barrier, hrest.1]
  cases hfault : (released u h (releasedHerd (u.herd h))).tileFault h with
  | none => exact ⟨_, cmdRelease_running hst hfault, done_released hclosed hqueue hbarrier⟩
  | some code => exact ⟨_, cmdRelease_faulted hst hrest.1 hfault, done_released hclosed hqueue rfl⟩

end Done

/-- A herd at rest carries the host's command out where `p` holds of it, and refuses it otherwise (R142). -/
def Answers (s : State) (h : Nat) (q : QCmd) (p : Prop) : Prop := ∀ u, HostTaken s h u →
  (p → ∃ v, u.herdDo h q = cmdOk v ∧ Done u h v) ∧ (¬p → u.herdDo h q = cmdRefused u)

section Answers

variable (s : State) (h arg : Nat) (still : List (Nat × Nat))

theorem answers_release : Answers s h { src := .host, op := 1, arg := arg, still := still }
    ((s.herd h).st = .loaded ∨ (s.herd h).st = .halted ∨ ((s.herd h).st = .faulted ∧ (s.herd h).stackFault = true)) := by
  intro u hu
  rw [← hu.st, ← hu.stackFault]
  exact ⟨done_release hu.closed hu.rest, fun hp => if_neg hp⟩

theorem answers_halt : Answers s h { src := .host, op := 2, arg := arg, still := still } ((s.herd h).st = .running) := by
  intro u hu
  rw [← hu.st]
  exact ⟨fun hp => ⟨_, if_pos hp, done_changed (f := haltedHerd) hu.closed haltedTile hu.rest.2 hu.rest.1⟩,
    fun hp => if_neg hp⟩

theorem answers_resetTiles : Answers s h { src := .host, op := 6, arg := arg, still := still }
    ((s.herd h).st = .loaded ∨ (s.herd h).st = .halted ∨ (s.herd h).st = .faulted) := by
  intro u hu
  rw [← hu.st]
  refine ⟨fun hp => ⟨_, if_pos (by tauto), done_changed (f := clearedHerd) hu.closed Tile.clear hu.rest.2 hu.rest.1⟩,
    fun hp => if_neg ?_⟩
  rintro (hst | hst | hst | ⟨hloader, -⟩)
  · exact hp (.inl hst)
  · exact hp (.inr (.inl hst))
  · exact hp (.inr (.inr hst))
  · exact nomatch hloader

theorem answers_routeRepair : Answers s h { src := .host, op := 7, arg := arg, still := still }
    ((s.herd h).st = .loaded ∨ (s.herd h).st = .halted ∨ (s.herd h).st = .faulted) := by
  intro u hu
  rw [← hu.st]
  exact ⟨fun hp => ⟨_, if_pos hp, done_of_herds hu.closed rfl (KeepsBut_mono (keeps_mesh u _) (by decide))⟩,
    fun hp => if_neg hp⟩

theorem answers_rollcall : Answers s h { src := .host, op := 9, arg := arg, still := still } ((s.herd h).st = .loaded) := by
  intro u hu
  rw [← hu.st]
  refine ⟨fun hp => ⟨_, if_pos (.inl hp), done_updHerd (f := heardHerd (u.missingOf (u.pherd h) arg)) hu.closed hu.rest.2
    hu.rest.1⟩, fun hp => if_neg ?_⟩
  rintro (hst | ⟨hloader, -⟩)
  · exact hp hst
  · exact nomatch hloader

theorem answers_repair : Answers s h { src := .host, op := 10, arg := arg, still := still } ((s.herd h).st = .loaded) := by
  intro u hu
  rw [← hu.st]
  have hrepair := cmdRepair_loaded u h still (src := .host) (by decide)
  exact ⟨fun hp => ⟨_, hrepair.trans (if_pos hp), done_of_herds hu.closed rfl (KeepsBut_mono (keeps_updBru u _) (by decide))⟩,
    fun hp => hrepair.trans (if_neg hp)⟩

end Answers

section Runs

variable {i : Instr} {s : State} {c : HerdCmd} {op : Nat} {still : List (Nat × Nat)}
  (hi : exec i s = actHerd (fun s => s.command op c still) s) (hlink : Linked s) (hsrc : c.src = .host)
include hi hlink hsrc

/-- While a host command is in progress another is rejected (R145). -/
theorem runs_rejected (hpending : s.rd Reg.HRD_CMD_STATUS_PENDING = 1) : Runs i s (fun t =>
    t.rd Reg.HRD_CMD_STATUS_REJECTED = 1 ∧ RegsBut [Reg.HRD_CMD_STATUS] s t ∧ KeepsBut [.regs] s t) := by
  have hcommand : s.command op c still = s.wr Reg.HRD_CMD_STATUS_REJECTED 1 := by
    simp only [State.command, hsrc, show s.host.linkUp = true from hlink, if_true]
    exact hostCommand_pending hpending _ _ _ _ _
  have hkeeps := keeps_wr s Reg.HRD_CMD_STATUS_REJECTED 1
  exact runs_of_actHerd hi hcommand hkeeps (by decide)
    ⟨rd_wr s _ 1 (by decide) (by decide), RegsBut_wr s Reg.HRD_CMD_STATUS_REJECTED 1, hkeeps⟩

/-- A host command to one herd at rest ends at once, well where `ok` says that the herd's state lets it run. -/
theorem runs_hostCommand (hpending : s.rd Reg.HRD_CMD_STATUS_PENDING = 0) (hop : 1 ≤ op ∧ op ≤ 10) (hall : c.all = false)
    (hrest : AtRest s c.herd) (hclosed : s.hostCmdOpen = false) {ok : Bool} {p : Prop} (hok : ok = true ↔ p)
    (hanswers : Answers s c.herd { src := .host, op := op, arg := c.arg.toNat, still := still } p) :
    Runs i s (fun t => t.rd Reg.HRD_CMD_STATUS_PENDING = 0 ∧ t.rd Reg.HRD_CMD_STATUS_DONE = 1 ∧
      t.rd Reg.HRD_CMD_STATUS_OPCODE = op ∧ t.rd Reg.HRD_CMD_STATUS_CODE = 0 ∧
      t.rd Reg.HRD_CMD_STATUS_FAIL = (if ok then 0 else 1) ∧
      (ok = false → t.rd Reg.HRD_CMD_STATUS_HX = c.herd % 32 ∧ t.rd Reg.HRD_CMD_STATUS_HY = c.herd / 32 ∧
        t.tiles = s.tiles ∧ (t.herd c.herd).st = (s.herd c.herd).st) ∧
      RegsBut [Reg.HRD_CMD_STATUS] s t ∧ HerdsBut c.herd s t) := by
  obtain ⟨u, hu, huclosed, hcommand⟩ := hostCommand_rest (arg := c.arg.toNat) (still := still) hpending hop hrest hclosed
  replace hcommand : s.command op c still =
      u.herdRun c.herd { src := .host, op := op, arg := c.arg.toNat, still := still } := by
    simp only [State.command, hsrc, show s.host.linkUp = true from hlink, if_true, hall]
    exact hcommand
  have hkeeps : KeepsBut [.regs, .herds] s u := KeepsBut_append (keeps_begun s op) hu.keeps
  have hherd : (begun s op).herds = s.herds := (keeps_begun s op).2 .herds (by decide)
  have hregs : u.regs = (begun s op).regs := hu.keeps.2 .regs (by decide)
  have hothers : HerdsBut c.herd s u := HerdsBut_trans (herdsBut_of_herds _ hherd) hu.others
  have hready : HostTaken s c.herd u := by
    have hsame : (begun s op).herd c.herd = s.herd c.herd := by rw [State.herd, hherd]; rfl
    exact ⟨hu.rest (by rw [AtRest, hsame]; exact hrest), huclosed, hsame ▸ hu.st, hsame ▸ hu.stackFault⟩
  obtain ⟨hyes, hno⟩ := hanswers u hready
  cases ok with
  | true =>
    obtain ⟨v, hdo, hdone⟩ := hyes (hok.1 rfl)
    obtain ⟨hpend, hdn, hopc, hcode, hfail, hbut⟩ := status_ok ((hdone.keeps.2 .regs (by decide)).trans hregs) hop.2
    refine runs_of_actHerd hi (hcommand.trans (herdRun_host_ok rfl hdo hdone.closed))
      (KeepsBut_append (KeepsBut_append hkeeps hdone.keeps) (keeps_ended v)) (by decide)
      ⟨hpend, hdn, hopc, hcode, hfail, nofun, hbut, ?_⟩
    exact HerdsBut_trans (HerdsBut_trans hothers hdone.others)
      (herdsBut_of_herds _ ((keeps_ended v).2 .herds (by decide)))
  | false =>
    obtain ⟨hpend, hdn, hopc, hcode, hfail, hx, hy, hbut⟩ := status_failed hregs hop.2 c.herd.isLt
    have hlast : KeepsBut [.regs] u (ended (noted u c.herd)) := KeepsBut_trans (keeps_noted u _) (keeps_ended _)
    have hherds : (ended (noted u c.herd)).herds = u.herds := hlast.2 .herds (by decide)
    have hfail0 : u.rd Reg.HRD_CMD_STATUS_FAIL = 0 := by
      simp (disch := decide) only [rd_of_regs hregs, begun, rd_wr, rd_wr_other]
      rfl
    refine runs_of_actHerd hi (hcommand.trans (herdRun_host_refused rfl (hno fun hp => nomatch hok.2 hp) huclosed hfail0))
      (KeepsBut_append hkeeps hlast) (by decide)
      ⟨hpend, hdn, hopc, hcode, hfail, fun _ => ⟨hx, hy, ?_, ?_⟩, hbut, ?_⟩
    · exact (hlast.2 .tiles (by decide)).trans (hkeeps.2 .tiles (by decide))
    · rw [State.herd, hherds]
      exact hready.st
    · exact HerdsBut_trans hothers (herdsBut_of_herds _ hherds)

end Runs

/-- Settles O29: one command at a time, and each of the six runs or fails by its own rule of R142. -/
theorem hostHerdCommands : Obligations.HostHerdCommands := by
  intro s c still hlink hsrc h st ops
  refine ⟨fun e he hpending => ?rejected, fun e he hpending hall hrest hclosed => ?runs⟩
  case rejected =>
    simp only [ops, List.mem_cons, List.not_mem_nil, or_false] at he
    obtain rfl | rfl | rfl | rfl | rfl | rfl := he <;> exact runs_rejected rfl hlink hsrc hpending
  case runs =>
    simp only [ops, List.mem_cons, List.not_mem_nil, or_false] at he
    obtain rfl | rfl | rfl | rfl | rfl | rfl := he
    · exact runs_hostCommand (op := 1) rfl hlink hsrc hpending (by decide) hall hrest hclosed (by simp [st, h, or_assoc])
        (answers_release s c.herd _ _)
    · exact runs_hostCommand (op := 2) rfl hlink hsrc hpending (by decide) hall hrest hclosed decide_eq_true_iff
        (answers_halt s c.herd _ _)
    · exact runs_hostCommand (op := 6) rfl hlink hsrc hpending (by decide) hall hrest hclosed decide_eq_true_iff
        (answers_resetTiles s c.herd _ _)
    · exact runs_hostCommand (op := 7) rfl hlink hsrc hpending (by decide) hall hrest hclosed decide_eq_true_iff
        (answers_routeRepair s c.herd _ _)
    · exact runs_hostCommand (op := 9) rfl hlink hsrc hpending (by decide) hall hrest hclosed decide_eq_true_iff
        (answers_rollcall s c.herd _ _)
    · exact runs_hostCommand (op := 10) rfl hlink hsrc hpending (by decide) hall hrest hclosed decide_eq_true_iff
        (answers_repair s c.herd _ _)

end Sys2Proof.Proofs.HostCommands
end

section
/-! A herd's sequence, which runs its own word only (R143), and the window to the tile registers (R144). -/

namespace Sys2Proof.Proofs.HerdSequences

open Sys2Proof.Machine Sys2Proof.Safety Sys2Proof.Laws
open Sys2Proof.Proofs.Frames Sys2Proof.Proofs.TileSteps Sys2Proof.Proofs.HerdCommands

/-! ### The sequence (R143) -/

section Sequence

variable {i : Instr} {f : State → State} {s : State} {h : Nat}

/-- A step that changes one herd controller. -/
theorem runs_updHerd {g : Herd → Herd} {y : Herd} (hi : exec i s = actHerd (fun _ => s.updHerd h g) s)
    (hy : g (s.herd h) = y) : Runs i s (fun t => t.herd h = y ∧ HerdsBut h s t ∧ KeepsBut [.herds] s t) := by
  have hkeeps := keeps_updHerd s h g
  refine runs_of_actHerd hi rfl hkeeps (by decide) ⟨?_, herdsBut_updHerd s h g, hkeeps⟩
  rw [herd_updHerd, if_pos rfl, hy]

/-- A sequence that has taken the epoch timer. -/
def timedHerd (x : Herd) : Herd := { x with timer := false, seqEpoch := true }

/-- The sequence goes on to its next word. -/
def nextHerd (x : Herd) : Herd := { x with seqPos := x.seqPos.map (· + 1) }

theorem nextHerd_at {x : Herd} {p : Nat} (hp : x.seqPos = some p) : nextHerd x = { x with seqPos := some (p + 1) } := by
  rw [nextHerd, hp]
  rfl

variable {n : HerdNo} {a : Nat}

theorem exec_waitEpochTimer (hword : (s.herd n).seqArg 0x80 = some a) (htimer : (s.herd n).timer = true) :
    exec (.waitEpochTimer n) s = actHerd (fun _ => (s.updHerd n timedHerd).updHerd n nextHerd) s := by
  show execWaitEpochTimer n s = _
  simp only [execWaitEpochTimer, actHerd, hword, htimer, if_true]
  rfl

theorem exec_waitEvent (hword : (s.herd n).seqArg 0x81 = some a) :
    exec (.waitEvent n) s = actHerd (fun _ => s.updHerd n nextHerd) s := by
  show execWaitEvent n s = _
  simp only [execWaitEvent, actHerd, hword]
  rfl

theorem exec_sequenceJump (hword : (s.herd n).seqArg 0x82 = some a) :
    exec (.sequenceJump n) s = actHerd (fun _ => s.updHerd n fun x => { x with seqPos := some a }) s := by
  show execSequenceJump n s = _
  simp only [execSequenceJump, actHerd, hword]

theorem exec_sequenceStop (hword : (s.herd n).seqArg 0x83 = some a) :
    exec (.sequenceStop n) s = actHerd (fun _ => s.updHerd n fun x => { x with seqPos := none }) s := by
  show execSequenceStop n s = _
  simp only [execSequenceStop, actHerd, hword]

/-- The sequence waits at a word that is another opcode's. -/
theorem command_sequence_none {c : HerdCmd} {op : Nat} (hsrc : c.src = .sequence)
    (hword : (s.herd c.herd).seqArg op = none) (still : List (Nat × Nat)) : s.command op c still = s := by
  simp only [State.command, hsrc, hword]

/-- A HALT of a running herd's own sequence. -/
theorem command_sequence_halt {c : HerdCmd} {a : Nat} (hsrc : c.src = .sequence)
    (hword : (s.herd c.herd).seqArg 2 = some a) (hst : (s.herd c.herd).st = .running) :
    s.command 2 c [] = changed (s.seqNext c.herd) c.herd haltedHerd haltedTile := by
  have hrunning : ((s.seqNext c.herd).herd c.herd).st = .running := by simp [State.seqNext, hst]
  simp only [State.command, hsrc, hword]
  exact herdRun_ok (if_pos hrunning) (by simp)

end Sequence

/-! ### The window (R144) -/

section Window

variable {s : State} (hlink : Linked s)
include hlink

theorem exec_windowRead : exec .windowRead s =
    actHerd (fun _ => s.windowRead.1.emit (.read (leBytes 8 s.windowRead.2.toNat))) s := by
  show execWindowRead s = _
  simp only [execWindowRead, actHerd, show s.host.linkUp = true from hlink, if_true]

theorem exec_windowWrite (v : Word) : exec (.windowWrite v) s = actHerd (fun _ => s.windowWrite v fullMask) s := by
  show execWindowWrite v s = _
  simp only [execWindowWrite, actHerd, show s.host.linkUp = true from hlink, if_true]

theorem exec_windowTimeout_read : exec (.windowTimeout false) s =
    actHerd (fun _ => (s.wr Reg.HRD_CMD_STATUS_WIN_ERR 1).emit (.read (leBytes 8 (2 ^ 64 - 1)))) s := by
  show execWindowTimeout false s = _
  simp only [execWindowTimeout, actHerd, show s.host.linkUp = true from hlink, if_true]
  rfl

theorem exec_windowTimeout_write : exec (.windowTimeout true) s =
    actHerd (fun _ => s.wr Reg.HRD_CMD_STATUS_WIN_ERR 1) s := by
  show execWindowTimeout true s = _
  simp only [execWindowTimeout, actHerd, show s.host.linkUp = true from hlink, if_true]

end Window

section WinErr

variable {i : Instr} {s : State}

/-- A window write that does not reach its register sets WIN_ERR. -/
theorem runs_winErr (hi : exec i s = actHerd (fun _ => s.wr Reg.HRD_CMD_STATUS_WIN_ERR 1) s) : Runs i s (fun t =>
    (t.rd Reg.HRD_CMD_STATUS_WIN_ERR = 1 ∧ RegsBut [Reg.HRD_CMD_STATUS] s t) ∧ KeepsBut [.regs] s t) :=
  runs_of_actHerd hi rfl (keeps_wr s _ 1) (by decide)
    ⟨⟨rd_wr s _ 1 (by decide) (by decide), RegsBut_wr s Reg.HRD_CMD_STATUS_WIN_ERR 1⟩, keeps_wr s _ 1⟩

/-- A window read that does not reach its register puts out all ones and sets WIN_ERR. -/
theorem runs_winErr_read (hi : exec i s =
      actHerd (fun _ => (s.wr Reg.HRD_CMD_STATUS_WIN_ERR 1).emit (.read (leBytes 8 (2 ^ 64 - 1)))) s) : Runs i s (fun t =>
    t.io.out = s.io.out ++ [.read (List.replicate 8 0xFF)] ∧
      (t.rd Reg.HRD_CMD_STATUS_WIN_ERR = 1 ∧ RegsBut [Reg.HRD_CMD_STATUS] s t) ∧ KeepsBut [.regs, .io] s t) := by
  have hones : leBytes 8 (2 ^ 64 - 1) = List.replicate 8 0xFF := by decide
  have hkeeps := KeepsBut_append (keeps_wr s Reg.HRD_CMD_STATUS_WIN_ERR 1)
    (keeps_emit (s.wr Reg.HRD_CMD_STATUS_WIN_ERR 1) (.read (leBytes 8 (2 ^ 64 - 1))))
  refine runs_of_actHerd hi rfl hkeeps (by decide)
    ⟨?_, ⟨rd_wr s Reg.HRD_CMD_STATUS_WIN_ERR 1 (by decide) (by decide), RegsBut_wr s Reg.HRD_CMD_STATUS_WIN_ERR 1⟩, hkeeps⟩
  rw [← hones]
  rfl

end WinErr

/-- Settles O30: each word of a sequence by its own rule, then the window by whether its register is reached. -/
theorem herdSequencesAndWindow : Obligations.HerdSequencesAndWindow := by
  refine ⟨fun s h => ?sequence, fun s hlink => ?window⟩
  case sequence =>
    intro x only
    refine ⟨fun a p hword htimer hpos => ?timer, fun a p hword hpos => ?event, fun a hword => ?jump, fun a hword => ?stop,
      fun c hc hsrc => ?other, fun c a p hc hsrc hword hpos hst => ?halt⟩
    case timer =>
      have hkeeps : KeepsBut [.herds] s ((s.updHerd h timedHerd).updHerd h nextHerd) :=
        KeepsBut_trans (keeps_updHerd s h _) (keeps_updHerd _ h _)
      refine runs_of_actHerd (exec_waitEpochTimer hword htimer) rfl hkeeps (by decide)
        ⟨?_, HerdsBut_trans (herdsBut_updHerd s h _) (herdsBut_updHerd _ h _), hkeeps⟩
      rw [herd_updHerd, if_pos rfl, herd_updHerd, if_pos rfl]
      exact nextHerd_at (x := timedHerd x) hpos
    case event => exact runs_updHerd (exec_waitEvent hword) (nextHerd_at hpos)
    case jump => exact runs_updHerd (exec_sequenceJump hword) rfl
    case stop => exact runs_updHerd (exec_sequenceStop hword) rfl
    case other =>
      subst hc
      exact ⟨fun hword => exec_of_actHerd_same (f := fun s => s.command 1 c []) rfl (command_sequence_none hsrc hword []),
        fun hword => exec_of_actHerd_same (f := fun s => s.command 2 c []) rfl (command_sequence_none hsrc hword []),
        fun hword => exec_of_actHerd_same (f := fun s => s.command 4 c []) rfl (command_sequence_none hsrc hword []),
        fun hword => exec_of_actHerd_same (f := fun s => s.command 5 c []) rfl (command_sequence_none hsrc hword [])⟩
    case halt =>
      subst hc
      have hkeeps : KeepsBut [.tiles, .herds] s (changed (s.seqNext c.herd) c.herd haltedHerd haltedTile) :=
        KeepsBut_mono (KeepsBut_append (keeps_updHerd s c.herd _) (keeps_changed haltedHerd)) (by decide)
      have hothers : HerdsBut c.herd (s.seqNext c.herd) (changed (s.seqNext c.herd) c.herd haltedHerd haltedTile) :=
        herdsBut_updHerd _ c.herd haltedHerd
      have hherd : (changed (s.seqNext c.herd) c.herd haltedHerd haltedTile).herd c.herd = haltedHerd (nextHerd x) := by
        rw [herd_changed]
        exact congrArg haltedHerd ((herd_updHerd s c.herd c.herd nextHerd).trans (if_pos rfl))
      refine runs_of_actHerd (f := fun s => s.command 2 c []) rfl (command_sequence_halt hsrc hword hst) hkeeps (by decide)
        ⟨congrArg Herd.st hherd, (congrArg Herd.seqPos hherd).trans ?_,
          HerdsBut_trans (herdsBut_updHerd s c.herd nextHerd) hothers, hkeeps⟩
      rw [nextHerd_at hpos]
      rfl
  case window =>
    refine ⟨fun hlit hctrl => ⟨?read, fun v => ?write⟩, fun hdark => ⟨?readDark, fun v => ?writeDark⟩,
      runs_winErr_read (exec_windowTimeout_read hlink), runs_winErr (exec_windowTimeout_write hlink)⟩
    case read =>
      have hread : s.windowRead = (s.setTile s.winTile ((s.tile s.winTile).readReg s.winOff).1,
          ((s.tile s.winTile).readReg s.winOff).2) := by
        simp [State.windowRead, hlit, hctrl]
      have hkeeps := KeepsBut_append (keeps_setTile s s.winTile ((s.tile s.winTile).readReg s.winOff).1)
        (keeps_emit _ (.read (leBytes 8 ((s.tile s.winTile).readReg s.winOff).2.toNat)))
      refine runs_of_actHerd (exec_windowRead hlink) (by rw [hread]) hkeeps (by decide) ⟨rfl, ?_, fun k hk => ?_, hkeeps⟩
      · simp
      · simp [hk]
    case write =>
      have hwrite : s.windowWrite v fullMask = s.updTile s.winTile fun x => x.writeReg s.winOff v fullMask := by
        simp [State.windowWrite, hlit, hctrl]
      have hkeeps := keeps_updTile s s.winTile fun x => x.writeReg s.winOff v fullMask
      refine runs_of_actHerd (exec_windowWrite hlink v) hwrite hkeeps (by decide) ⟨?_, fun k hk => ?_, hkeeps⟩
      · simp
      · simp [hk]
    case readDark =>
      have hread : s.windowRead = (s.wr Reg.HRD_CMD_STATUS_WIN_ERR 1, BitVec.allOnes 64) := by
        simp [State.windowRead, hdark]
      exact runs_winErr_read (by rw [exec_windowRead hlink, hread]; rfl)
    case writeDark =>
      have hwrite : s.windowWrite v fullMask = s.wr Reg.HRD_CMD_STATUS_WIN_ERR 1 := by simp [State.windowWrite, hdark]
      exact runs_winErr (by rw [exec_windowWrite hlink, hwrite])

end Sys2Proof.Proofs.HerdSequences
end

section
/-! Generated routes where no router is bypassed (R135, R187): one hop nearer at every router, and the end at the place. -/

namespace Sys2Proof.Proofs.Routes

open Sys2Proof.Machine Sys2Proof.Safety

/-- Around no bypass a route runs along the row to its column, and then along the column to its rows. -/
theorem toward_free (px py x lo hi here : Nat) : toward [] px py x lo hi here =
    if px = x then (if lo ≤ py ∧ py ≤ hi then here else vert py lo) else if x < px then west else east := by
  simp [toward, bypassBeyond]

section Neighbours

variable {px py : Nat}

theorem neighbour_east (hpx : px + 1 < 1089) : neighbour px py east = some (px + 1, py) := by
  simp [neighbour, north, east, hpx]

theorem neighbour_west (hpx : 0 < px) : neighbour px py west = some (px - 1, py) := by
  simp [neighbour, north, east, south, west, hpx.ne']

theorem neighbour_south (hpy : py + 1 < 1056) : neighbour px py south = some (px, py + 1) := by
  simp [neighbour, north, east, south, hpy]

theorem neighbour_north (hpy : 0 < py) : neighbour px py north = some (px, py - 1) := by
  simp [neighbour, hpy.ne']

end Neighbours

/-- Settles O32: along the row while the column differs, and along the column then. -/
theorem routesMakeProgress : Obligations.RoutesMakeProgress := by
  intro px py x lo hi here hpx hpy hx hlo hhi away
  rw [toward_free]
  refine ⟨fun ⟨hcol, hrows⟩ => by rw [if_pos hcol, if_pos hrows], fun hout => ?_⟩
  rcases lt_trichotomy px x with hlt | rfl | hgt
  · refine ⟨(px + 1, py), ?_, ?_⟩
    · rw [if_neg hlt.ne, if_neg hlt.not_gt, neighbour_east (by omega)]
    · simp only [away]
      omega
  · have hrows : ¬(lo ≤ py ∧ py ≤ hi) := fun hrows => hout ⟨rfl, hrows⟩
    rw [if_pos rfl, if_neg hrows, vert]
    split_ifs with habove
    · refine ⟨(px, py + 1), neighbour_south (by omega), ?_⟩
      simp only [away]
      split_ifs <;> omega
    · refine ⟨(px, py - 1), neighbour_north (by omega), ?_⟩
      simp only [away]
      split_ifs <;> omega
  · refine ⟨(px - 1, py), ?_, ?_⟩
    · rw [if_neg hgt.ne', if_pos hgt, neighbour_west (by omega)]
    · simp only [away]
      omega

end Sys2Proof.Proofs.Routes
end

section
/-! Routers (R117, R119, R125 to R136, R379): where a router sends a packet, the place that takes it, and what a router's
time-out, its failure and a ROUTE_PATCH leave. -/

namespace Sys2Proof.Proofs.MeshRouting

open Sys2Proof.Machine Sys2Proof.Safety Sys2Proof.Laws
open Sys2Proof.Proofs.Frames Sys2Proof.Proofs.HerdLoads Sys2Proof.Proofs.HerdCommands

/-! ### The output and the turn of a packet -/

/-- The output by which a router sends a packet on: straight through where it is bypassed, by its table elsewhere, and
none for a packet that follows a tree. -/
def outputOf (s : State) (f : Flight) (px py : Nat) (inp : Port) : Option Nat :=
  if s.bypassed px py then straight inp else if treeKind f.pkt.kind then none else some (s.lookup px py f.pkt)

/-- The packet's turn has come. -/
def turnOf (s : State) (f : Flight) (px py : Nat) (inp : Port) : Bool :=
  if s.bypassed px py then s.isHead f && s.hasCredit px py ((outputOf s f px py inp).getD 0) f.pkt else s.hasTurn f

section Route

variable {s : State} {i px py : Nat} {inp : Port} {err : LinkErr} {f : Flight}

theorem readEntry_good {entry : Nat} (hgood : NatMap.find (s.router px py).bad entry = none) :
    s.readEntry px py entry = (s, true) := by
  simp only [State.readEntry, hgood]

/-- A router sends a packet on by its output when its turn has come, and keeps it otherwise. -/
theorem routePacket_eq (hf : s.mesh.flights[i]? = some f) (hloc : f.loc = .router px py inp)
    (hgood : s.bypassed px py = true ∨ NatMap.find (s.router px py).bad (s.routeEntry px py f.pkt) = none) :
    s.routePacket i err = match outputOf s f px py inp with
      | some o => if turnOf s f px py inp then s.routeOut i f px py o err else s
      | none => s := by
  by_cases hb : s.bypassed px py = true
  · cases ho : straight inp <;> simp [State.routePacket, turnOf, outputOf, hf, hloc, hb, ho]
  · have hread := readEntry_good (hgood.resolve_left hb)
    by_cases ht : treeKind f.pkt.kind = true <;>
      simp [State.routePacket, turnOf, outputOf, hf, hloc, hb, ht, hread]

/-- A kind that follows no tree does not go on VC1. -/
theorem vc_ne_one {p : Packet} (h : treeKind p.kind = false) : p.vc ≠ 1 := by
  simp only [treeKind, decide_eq_false_iff_not, not_or] at h
  simp only [Packet.vc, vcOf]
  split_ifs <;> simp_all

theorem wants_lookup (hloc : f.loc = .router px py inp) (h : treeKind f.pkt.kind = false) :
    s.wants f = [s.lookup px py f.pkt] := by
  simp [State.wants, hloc, vc_ne_one h, h]

/-- A packet of a channel that the output serves first keeps the others waiting (R126). -/
theorem hasTurn_false_of_rank {g : Flight} {gi : Port} (hloc : f.loc = .router px py inp)
    (hkind : treeKind f.pkt.kind = false) (hg : g ∈ s.mesh.flights) (hgloc : g.loc = .router px py gi)
    (hleave : s.canLeave g = true) (hwants : s.lookup px py f.pkt ∈ s.wants g) (hrank : vcRank g.pkt.vc < vcRank f.pkt.vc) :
    s.hasTurn f = false := by
  have hbefore : s.goesBefore px py (s.lookup px py f.pkt) g f = true := by
    simp [State.goesBefore, hgloc, hloc, hwants, hleave, hrank]
  have hany : s.mesh.flights.any (fun g => s.goesBefore px py (s.lookup px py f.pkt) g f) = true :=
    List.any_eq_true.mpr ⟨g, hg, hbefore⟩
  simp [State.hasTurn, hloc, wants_lookup hloc hkind, hany]

end Route

/-! ### The place that takes a packet -/

section Outputs

variable {s : State} {i px py : Nat} {inp : Port} {err : LinkErr} {f : Flight}

/-- The packet has left a router for a place. -/
def sentTo (s : State) (i : Nat) (f : Flight) (px py o : Nat) (g : Flight) (l : Loc) : State :=
  (s.noteServed px py f [o]).moveFlight i { g with loc := l }

theorem noteServed_eq (s : State) (f : Flight) (px py : Nat) (outs : List Nat) :
    s.noteServed px py f outs = s ∨ ∃ r, s.noteServed px py f outs = s.setRouter px py r := by
  cases h : f.loc <;> simp [State.noteServed, h]

theorem noteServed_flights (s : State) (f : Flight) (px py : Nat) (outs : List Nat) :
    (s.noteServed px py f outs).mesh.flights = s.mesh.flights := by
  obtain h | ⟨r, h⟩ := noteServed_eq s f px py outs <;> simp [h, State.setRouter]

theorem noteServed_edgeDiscards (s : State) (f : Flight) (px py : Nat) (outs : List Nat) :
    (s.noteServed px py f outs).mesh.edgeDiscards = s.mesh.edgeDiscards := by
  obtain h | ⟨r, h⟩ := noteServed_eq s f px py outs <;> simp [h, State.setRouter]

theorem keeps_noteServed (s : State) (f : Flight) (px py : Nat) (outs : List Nat) :
    KeepsBut [.mesh] s (s.noteServed px py f outs) := by
  obtain h | ⟨r, h⟩ := noteServed_eq s f px py outs <;> rw [h]
  · exact KeepsBut_refl _ s
  · exact keeps_setRouter s px py r

theorem keeps_sentTo (o : Nat) (g : Flight) (l : Loc) : KeepsBut [.mesh] s (sentTo s i f px py o g l) :=
  KeepsBut_trans (keeps_noteServed s f px py [o]) (keeps_mesh _ _)

theorem flights_sentTo (o : Nat) (g : Flight) (l : Loc) :
    (sentTo s i f px py o g l).mesh.flights = dropAt s.mesh.flights i ++ [{ g with loc := l }] := by
  show dropAt (s.noteServed px py f [o]).mesh.flights i ++ _ = _
  rw [noteServed_flights]

theorem routeOut_side {o x y : Nat} (ho : o < 4) (hchild : s.childAt px py o = some (x, y)) :
    s.routeOut i f px py o err = (sentTo s i f px py o (f.over err s.io.draws) (.router x y (enters o))).draw := by
  simp only [State.routeOut, if_pos ho, hchild]; rfl

theorem routeOut_tile {k : Nat} (hk : s.tileAt px py = some k) :
    s.routeOut i f px py 4 err = sentTo s i f px py 4 f (.tile (keyX k) (keyY k)) := by
  simp [State.routeOut, hk, sentTo]

theorem routeOut_controller {h : Nat} (hh : s.lherd (pherdAt px py) = some h) :
    s.routeOut i f px py 5 err = sentTo s i f px py 5 f (.herd h) := by
  simp [State.routeOut, hh, sentTo]

theorem routeOut_block (hb : (boundaryStack px py).isSome = true) (he : f.pkt.edge = true) (hd : f.pkt.dx ≤ 0x25) :
    s.routeOut i f px py 6 err = sentTo s i f px py 6 f (.edge f.pkt.dx (routerKey px py)) := by
  simp [State.routeOut, hb, he, edgeBlock, hd, sentTo]

/-- A packet to a reserved edge port is gone and counted. -/
def reservedGone (s : State) (i : Nat) (f : Flight) (px py : Nat) : State :=
  let u := (s.noteServed px py f [6]).dropFlight i
  { u with mesh := { u.mesh with edgeDiscards := u.mesh.edgeDiscards + 1 } }

theorem keeps_reservedGone (s : State) (i : Nat) (f : Flight) (px py : Nat) : KeepsBut [.mesh] s (reservedGone s i f px py) :=
  KeepsBut_trans (keeps_noteServed s f px py [6]) (keeps_mesh _ _)

theorem routeOut_reserved (hb : (boundaryStack px py).isSome = true) (hd : 0x25 < f.pkt.dx) :
    s.routeOut i f px py 6 err = reservedGone s i f px py := by
  simp [State.routeOut, hb, edgeBlock, Nat.not_le.mpr hd, reservedGone]

theorem routeOut_invalid : s.routeOut i f px py 7 err = s.routeInvalid i px py := by
  simp [State.routeOut]

end Outputs

/-! ### One router of the mesh -/

theorem router_setRouter (s : State) (px py : Nat) (r : Router) (x y : Nat) :
    (s.setRouter px py r).router x y = if routerKey x y = routerKey px py then r else s.router x y :=
  NatMap.get_put _ _ _ _ _

/-! ### ROUTE_PATCH (R136, R379) -/

/-- The map and the tables after a ROUTE_PATCH, before it is counted and reported. -/
def patched (s : State) (h row : Nat) : State :=
  { (s.generateFor h) with
    bru := { s.bru with map := { s.bru.map with moved := NatMap.ins s.bru.map.moved h (row * 33 + 32) } }
    mesh := { (s.generateFor h).mesh with routers := forgetHerd s.mesh.routers h }
    flt := { s.flt with
      moveTo := none, failed := s.flt.failed.drop 1, st := if (s.flt.failed.drop 1).isEmpty then .reload else .decide } }

/-- A ROUTE_PATCH is counted and noted. -/
def counted (s : State) (h px py : Nat) : State := (s.count Reg.FLT_COUNT_MOVES 1).noteRemap h 2 px py

section Patch

variable (s : State) (h row px py : Nat)

theorem keeps_patched : KeepsBut [.mesh, .bru, .flt] s (patched s h row) :=
  ⟨rfl, fun q hq => by cases q <;> simp_all [Part.same, patched, State.generateFor]⟩

theorem pherd_patched (g : Nat) : (patched s h row).pherd g = if g = h then row * 33 + 32 else s.pherd g := by
  by_cases hg : g = h <;> simp [State.pherd, patched, NatMap.find_ins, hg]

theorem herdTab_patched (x y : Nat) : NatMap.find ((patched s h row).router x y).herdTab h = none := by
  show NatMap.find (NatMap.get (forgetHerd s.mesh.routers h) Router.reset _).herdTab h = none
  rw [forgetHerd, NatMap.get_mapIf]
  · simp [NatMap.find_del]
  · rfl

theorem rd_patched (f : Fld) : (patched s h row).rd f = s.rd f := rfl

theorem keeps_counted : KeepsBut [.regs] s (counted s h px py) := by
  simp only [counted, State.noteRemap]
  exact KeepsBut_trans (KeepsBut_trans (KeepsBut_trans (KeepsBut_trans (KeepsBut_trans (keeps_count _ _ _) (keeps_wr _ _ _))
    (keeps_wr _ _ _)) (keeps_wr _ _ _)) (keeps_wr _ _ _)) (keeps_wr _ _ _)

theorem moves_counted :
    (counted s h px py).rd Reg.FLT_COUNT_MOVES = min (s.rd Reg.FLT_COUNT_MOVES + 1) Reg.FLT_COUNT_MOVES.max := by
  simp (disch := decide) only [counted, State.noteRemap, rd_wr_other, rd_count]

end Patch

theorem routePatch_eq {s : State} {h row : Nat} (hrow : s.flt.moveTo = some row) (hh : s.flt.herd = h) :
    ∃ px py, s.routePatch h =
      (counted (patched s h row) h px py).post Code.herdMoved Source.flt 0 (h + row * 2 ^ 10) := by
  simp only [State.routePatch, hrow, if_pos hh]
  exact ⟨_, _, rfl⟩

theorem routePatch_none {s : State} {h : Nat} (hno : s.flt.moveTo = none ∨ s.flt.herd ≠ h) : s.routePatch h = s := by
  unfold State.routePatch
  split
  · rfl
  · next row hrow => exact if_neg (hno.resolve_left (by simp [hrow]))

/-! ### The steps -/

/-- The packet has moved to a place as `g`, and nothing else is told of. -/
def MovedTo (s : State) (i : Nat) (g : Flight) (l : Loc) (t : State) : Prop :=
  t.mesh.flights = dropAt s.mesh.flights i ++ [{ g with loc := l }] ∧ t.mesh.edgeDiscards = s.mesh.edgeDiscards ∧
    t.io.events = s.io.events ∧ t.io.out = s.io.out ∧ KeepsBut [.mesh, .io] s t

section Steps

variable {s : State} {i px py : Nat} {err : LinkErr} {f : Flight}

theorem movedTo_sentTo (o : Nat) (g : Flight) (l : Loc) : MovedTo s i g l (sentTo s i f px py o g l) := by
  have hkeeps := keeps_sentTo (s := s) (i := i) (f := f) (px := px) (py := py) o g l
  have hio := hkeeps.2 .io (by decide)
  exact ⟨flights_sentTo o g l, noteServed_edgeDiscards s f px py [o], congrArg Io.events hio, congrArg Io.out hio,
    KeepsBut_mono hkeeps (by decide)⟩

theorem MovedTo.draw {g : Flight} {l : Loc} {t : State} (h : MovedTo s i g l t) : MovedTo s i g l t.draw := by
  obtain ⟨hflights, hedge, hevents, hout, hkeeps⟩ := h
  exact ⟨hflights, hedge, hevents, hout, KeepsBut_trans hkeeps (KeepsBut_mono (keeps_draw t) (by decide))⟩

theorem runs_movedTo {u : State} {g : Flight} {l : Loc} (hu : s.routePacket i err = u) (h : MovedTo s i g l u) :
    Runs (.routePacket ⟨i, err⟩) s (MovedTo s i g l) := by
  have ⟨_, _, _, _, hkeeps⟩ := h
  exact runs_of_actHerd (f := fun s => s.routePacket i err) rfl hu hkeeps (by decide) h

theorem exec_routePacket_same (h : s.routePacket i err = s) : exec (.routePacket ⟨i, err⟩) s = .next s :=
  exec_of_actHerd_same (f := fun s => s.routePacket i err) rfl h

theorem runs_reserved (hu : s.routePacket i err = s.routeOut i f px py 6 err)
    (hb : (boundaryStack px py).isSome = true) (hd : 0x25 < f.pkt.dx) :
    Runs (.routePacket ⟨i, err⟩) s (fun t => t.mesh.flights = dropAt s.mesh.flights i ∧
      t.mesh.edgeDiscards = s.mesh.edgeDiscards + 1 ∧ KeepsBut [.mesh] s t) := by
  have hkeeps := keeps_reservedGone s i f px py
  refine runs_of_actHerd (f := fun s => s.routePacket i err) rfl (hu.trans (routeOut_reserved hb hd)) hkeeps (by decide)
    ⟨?_, ?_, hkeeps⟩
  · exact congrArg (dropAt · i) (noteServed_flights s f px py [6])
  · exact congrArg (· + 1) (noteServed_edgeDiscards s f px py [6])

theorem runs_invalid (hu : s.routePacket i err = s.routeOut i f px py 7 err) :
    Runs (.routePacket ⟨i, err⟩) s (fun t => t.mesh.flights = dropAt s.mesh.flights i ∧
      (t.router px py).discards = (s.router px py).discards + 1 ∧
      t.io.events = s.io.events ++ [{ code := Code.tileHandshakeTimeout, stop := false, source := Source.tile
                                      loc := s.locOf px py, stream := none, time := s.now64, detail := 0 }] ∧
      t.io.out = s.io.out ∧ KeepsBut [.mesh, .io] s t) := by
  have hkeeps : KeepsBut [.mesh, .io] s (s.routeInvalid i px py) :=
    KeepsBut_append (l := [.mesh]) (KeepsBut_trans (keeps_mesh s _) (keeps_setRouter _ px py _)) (keeps_post _ _ _ _ _)
  refine runs_of_actHerd (f := fun s => s.routePacket i err) rfl (hu.trans routeOut_invalid) hkeeps (by decide)
    ⟨rfl, ?_, rfl, rfl, hkeeps⟩
  show ((State.setRouter _ px py _).router px py).discards = _
  rw [router_setRouter, if_pos rfl]; rfl

end Steps

section Waits

variable (s : State) (r : Phys)

/-- A router that waits too long reports it once (R119). -/
theorem runs_timeout (hwait : s.mesh.flights.any (fun f => f.atRouter r.x r.y) = true)
    (hnew : (s.router r.x r.y).timedOut = false) : Runs (.tileHandshakeTimeout r) s (fun t =>
      (t.router r.x r.y).timedOut = true ∧ t.mesh.flights = s.mesh.flights ∧
      t.io.events = s.io.events ++ [{ code := Code.tileHandshakeTimeout, stop := false, source := Source.tile
                                      loc := s.locOf r.x r.y, stream := none, time := s.now64, detail := 0 }] ∧
      KeepsBut [.mesh, .io] s t) := by
  have hkeeps := KeepsBut_append (keeps_setRouter s r.x r.y { s.router r.x r.y with timedOut := true })
    (keeps_post _ Code.tileHandshakeTimeout Source.tile (s.locOf r.x r.y) 0)
  refine runs_of_actHerd rfl (if_pos ⟨hwait, hnew⟩) hkeeps (by decide) ⟨?_, rfl, rfl, hkeeps⟩
  show ((State.setRouter _ r.x r.y _).router r.x r.y).timedOut = true
  rw [router_setRouter, if_pos rfl]

theorem timeout_again (hold : (s.router r.x r.y).timedOut = true) : exec (.tileHandshakeTimeout r) s = .next s :=
  exec_of_actHerd_same rfl (if_neg fun h => by simp [hold] at h)

/-- The mesh without the packets in a router. -/
def emptied : State :=
  { s with mesh := { s.mesh with flights := s.mesh.flights.filter (fun f => !(f.atRouter r.x r.y)) } }

/-- The mesh after a router's failure: bypassed, unless its herd must move. -/
def failedRouter : State :=
  if herdBreaking r.x r.y || s.besideBypass r.x r.y then emptied s r
  else (emptied s r).setRouter r.x r.y { s.router r.x r.y with bypass := true }

/-- A router that fails loses the packets in it (R132, R134). -/
theorem runs_failure : Runs (.routerFailure r) s (fun t =>
    t.mesh.flights = s.mesh.flights.filter (fun f => !(f.atRouter r.x r.y)) ∧
    (t.router r.x r.y).bypass = ((s.router r.x r.y).bypass || !(herdBreaking r.x r.y || s.besideBypass r.x r.y)) ∧
    (∀ px py, routerKey px py ≠ routerKey r.x r.y → t.router px py = s.router px py) ∧
    t.mesh.gens = s.mesh.gens ∧ t.mesh.genAll = s.mesh.genAll ∧ KeepsBut [.mesh] s t) := by
  have hexec : exec (.routerFailure r) s = actHerd (failedRouter · r) s := rfl
  by_cases hmove : (herdBreaking r.x r.y || s.besideBypass r.x r.y) = true
  · have hkeeps : KeepsBut [.mesh] s (emptied s r) := keeps_mesh s _
    refine runs_of_actHerd hexec (if_pos hmove) hkeeps (by decide) ⟨rfl, ?_, fun _ _ _ => rfl, rfl, rfl, hkeeps⟩
    rw [hmove, Bool.not_true, Bool.or_false]; rfl
  · have hkeeps : KeepsBut [.mesh] s ((emptied s r).setRouter r.x r.y { s.router r.x r.y with bypass := true }) :=
      KeepsBut_trans (keeps_mesh s _) (keeps_setRouter _ _ _ _)
    refine runs_of_actHerd hexec (if_neg hmove) hkeeps (by decide) ⟨rfl, ?_, fun px py hne => ?_, rfl, rfl, hkeeps⟩
    · rw [router_setRouter, if_pos rfl, Bool.eq_false_iff.mpr hmove, Bool.not_false, Bool.or_true]
    · rw [router_setRouter, if_neg hne]; rfl

/-- What a ROUTE_PATCH leaves: the entries for the herd that moves come from the map with its new place (R136, R379). -/
def PatchDone (s : State) (h : HerdNo) (row : Nat) (t : State) : Prop :=
  t.pherd h = row * 33 + 32 ∧ (∀ g, g ≠ h.val → t.pherd g = s.pherd g) ∧
  (∀ px py, NatMap.find (t.router px py).herdTab h = none) ∧ t.flt.moveTo = none ∧
  t.rd Reg.FLT_COUNT_MOVES = min (s.rd Reg.FLT_COUNT_MOVES + 1) Reg.FLT_COUNT_MOVES.max ∧
  t.io.events = s.io.events ++ [{ code := Code.herdMoved, stop := false, source := Source.flt, loc := 0
                                  stream := none, time := s.now64, detail := BitVec.ofNat 64 (h + row * 2 ^ 10) }] ∧
  t.tiles = s.tiles ∧ t.herds = s.herds ∧ t.mesh.flights = s.mesh.flights ∧
  KeepsBut [.regs, .mesh, .bru, .flt, .io] s t

theorem patchDone_post {h : HerdNo} {row : Nat} {c : State} (hc : KeepsBut [.regs] (patched s h row) c)
    (hmoves : c.rd Reg.FLT_COUNT_MOVES = min (s.rd Reg.FLT_COUNT_MOVES + 1) Reg.FLT_COUNT_MOVES.max) :
    PatchDone s h row (c.post Code.herdMoved Source.flt 0 (h + row * 2 ^ 10)) := by
  have hp := keeps_patched s h row
  have hkeeps := KeepsBut_mono (KeepsBut_append (KeepsBut_append hp hc)
    (keeps_post c Code.herdMoved Source.flt 0 (h + row * 2 ^ 10)))
    (by decide : ∀ p ∈ _, p ∈ [Part.regs, .mesh, .bru, .flt, .io])
  have hmesh : c.mesh = (patched s h row).mesh := hc.2 .mesh (by decide)
  have hbru : c.bru = (patched s h row).bru := hc.2 .bru (by decide)
  have hflt : c.flt = (patched s h row).flt := hc.2 .flt (by decide)
  have hio : c.io = s.io := (hc.2 .io (by decide)).trans (hp.2 .io (by decide))
  have htime : c.time = s.time := (hc.2 .time (by decide)).trans (hp.2 .time (by decide))
  have hpherd (g : Nat) : c.pherd g = if g = h then row * 33 + 32 else s.pherd g := by
    rw [← pherd_patched, State.pherd, hbru]; rfl
  have hrouter (x y : Nat) : c.router x y = (patched s h row).router x y := by rw [State.router, hmesh]; rfl
  have hnow : c.now64 = s.now64 := by rw [State.now64, State.devTime, htime]; rfl
  refine ⟨?_, fun g hg => ?_, fun x y => ?_, ?_, hmoves, ?_, hkeeps.2 .tiles (by decide), hkeeps.2 .herds (by decide),
    ?_, hkeeps⟩
  · exact (hpherd h).trans (if_pos rfl)
  · exact (hpherd g).trans (if_neg hg)
  · exact (congrArg (fun r => NatMap.find r.herdTab h) (hrouter x y)).trans (herdTab_patched s h row x y)
  · rw [post_flt, hflt]; rfl
  · rw [← hio, ← hnow]; rfl
  · rw [post_mesh, hmesh]; rfl

theorem runs_patch (h : HerdNo) {row : Nat} (hrow : s.flt.moveTo = some row) (hh : s.flt.herd = h) :
    Runs (.routePatch h) s (PatchDone s h row) := by
  obtain ⟨px, py, hu⟩ := routePatch_eq hrow hh
  have hmoves := moves_counted (patched s h row) h px py
  rw [rd_patched] at hmoves
  have hdone := patchDone_post s (keeps_counted (patched s h row) h px py) hmoves
  have ⟨_, _, _, _, _, _, _, _, _, hkeeps⟩ := hdone
  exact runs_of_actHerd (f := fun s => s.routePatch h.val) rfl hu hkeeps (by decide) hdone

theorem exec_routePatch_same {h : HerdNo} (hsame : s.routePatch h = s) : exec (.routePatch h) s = .next s :=
  exec_of_actHerd_same (f := fun s => s.routePatch h.val) rfl hsame

end Waits

/-- Settles O31: a router's choice is `routePacket_eq`, and each output has its own place. -/
theorem packetsAreRouted : Obligations.PacketsAreRouted := by
  unfold Obligations.PacketsAreRouted
  refine ⟨?_, fun s => ⟨fun r hwait => ?_, runs_failure s,
    fun h row hrow hh => runs_patch s h hrow hh, fun h hno => exec_routePatch_same s (routePatch_none hno)⟩⟩
  · intro s i err f px py inp hf hloc hgood out turn cmd moves
    have hroute : s.routePacket i err = match out with
      | some o => if turn then s.routeOut i f px py o err else s
      | none => s := routePacket_eq hf hloc hgood
    have hkept (h : out = none ∨ turn = false) : exec cmd s = .next s := by
      refine exec_routePacket_same (hroute.trans ?_)
      rcases h with hnone | hfalse
      · rw [hnone]
      · rw [hfalse]; cases out <;> rfl
    refine ⟨fun hout => hkept (.inl hout), fun hturn => hkept (.inr hturn), fun hturn => ?_,
      fun g hg gi hgloc hleave hb hwants hrank => hkept ?_, fun d => ⟨rfl, rfl, rfl⟩⟩
    · have hsent {o : Nat} (ho : out = some o) : s.routePacket i err = s.routeOut i f px py o err := by
        rw [hroute, ho, hturn]; rfl
      refine ⟨fun o x y ho hlt hchild => ?_, fun k ho hk => ?_, fun h ho hh => ?_, fun ho hb he hd => ?_,
        fun ho hb he hd => runs_reserved (hsent ho) hb hd, fun ho => runs_invalid (hsent ho)⟩
      · exact runs_movedTo ((hsent ho).trans (routeOut_side hlt hchild)) (movedTo_sentTo _ _ _).draw
      · exact runs_movedTo ((hsent ho).trans (routeOut_tile hk)) (movedTo_sentTo _ _ _)
      · exact runs_movedTo ((hsent ho).trans (routeOut_controller hh)) (movedTo_sentTo _ _ _)
      · exact runs_movedTo ((hsent ho).trans (routeOut_block hb he hd)) (movedTo_sentTo _ _ _)
    · by_cases hkind : treeKind f.pkt.kind = true
      · exact .inl (by simp [out, hb, hkind])
      · have hturn := hasTurn_false_of_rank hloc (Bool.eq_false_iff.mpr hkind) hg hgloc hleave hwants hrank
        exact .inr (by simp [turn, hb, hturn])
  · exact ⟨runs_timeout s r hwait, timeout_again s r⟩

end Sys2Proof.Proofs.MeshRouting
end

section
/-! Delivery of packets (R117, R122, R123, R146, R148, R150, R206): what the destination of a packet does with it. -/

namespace Sys2Proof.Proofs.PacketDelivery

open Sys2Proof.Machine Sys2Proof.Safety Sys2Proof.Laws
open Sys2Proof.Proofs.Frames Sys2Proof.Proofs.HerdLoads Sys2Proof.Proofs.HerdCommands

section Delivery

variable {s : State} {i : Nat} {f : Flight}

theorem runs_deliver {u : State} {l : List Part} {P : State → Prop} (hu : s.deliver i = u) (hk : KeepsBut l s u)
    (hl : l ⊆ herdParts) (h : P u) : Runs (.packetDeliver i) s P :=
  runs_of_actHerd (f := fun s => s.deliver i) rfl hu hk hl h

theorem keeps_dropFlight (s : State) (i : Nat) : KeepsBut [.mesh] s (s.dropFlight i) := keeps_mesh s _

/-! ### At a tile -/

/-- The port of a tile discards data and collective packets, and the tile takes or refuses the others. -/
theorem deliver_tile {x y : Nat} (hf : s.mesh.flights[i]? = some f) (hloc : f.loc = .tile x y) :
    s.deliver i =
      if s.localDiscards (herdOfKey (tileKey x y)) = true ∧ (vcOf f.pkt.kind = some 2 ∨ vcOf f.pkt.kind = some 3) then
        (s.dropFlight i).count Reg.IMG_DISCARD_COUNT 1
      else if f.poisoned then (s.dropFlight i).poisonAtTile (tileKey x y) f.pkt
      else (s.dropFlight i).sinkAtTile (tileKey x y) f.pkt := by
  simp only [State.deliver, hf, hloc]
  rfl

/-- A tile that has taken a packet: its words, its arrival counter and, for an answer, one read less. -/
def sunk (p : Packet) (t : Tile) : Tile :=
  let t := t.put (p.addr * 8) (wordBytes p.payload)
  { t with
    ctrs := NatMap.put t.ctrs 0 p.ctr (NatMap.get t.ctrs 0 p.ctr + BitVec.ofNat 32 p.payload.length)
    reads := if p.kind = 0x2 then dropRead t.reads p.tag else t.reads }

theorem sunk_wait (p : Packet) (t : Tile) : (sunk p t).wait = t.wait := by
  obtain ⟨-, -, -, -, -, -, hwait, -⟩ := put_keeps t (p.addr * 8) (wordBytes p.payload)
  exact hwait

theorem wakeTile_none {key : Nat} (h : (s.tile key).wait = .none) : s.wakeTile key = s := by
  simp only [State.wakeTile, h]

/-- A tile that waits for nothing takes a packet and does nothing else. -/
theorem sinkAtTile_eq {key : Nat} {p : Packet} (hkind : p.kind ∈ [0x0, 0x2, 0x3, 0x6]) (hwait : (s.tile key).wait = .none) :
    s.sinkAtTile key p = s.updTile key (sunk p) := by
  have hk : p.kind = 0x0 ∨ p.kind = 0x2 ∨ p.kind = 0x3 ∨ p.kind = 0x6 := by simpa using hkind
  have hsunk : ((s.updTile key (sunk p)).tile key).wait = .none := by
    rw [tile_updTile, if_pos rfl, sunk_wait, hwait]
  exact (if_pos hk).trans (wakeTile_none hsunk)

theorem tilesBut_updTile (s : State) (key : Nat) (g : Tile → Tile) : TilesBut key s (s.updTile key g) := fun k hk => by
  rw [tile_updTile, if_neg hk]

theorem runs_sink {x y : Nat} (hf : s.mesh.flights[i]? = some f) (hloc : f.loc = .tile x y)
    (hopen : s.localDiscards (herdOfKey (tileKey x y)) = false) (hgood : f.poisoned = false)
    (hkind : f.pkt.kind ∈ [0x0, 0x2, 0x3, 0x6]) (hwait : (s.tile (tileKey x y)).wait = .none) :
    let key := tileKey x y
    let t0 := s.tile key
    Runs (.packetDeliver i) s (fun t =>
      t.mesh = { s.mesh with flights := dropAt s.mesh.flights i } ∧ TilesBut key s t ∧
      (t.tile key).sram = (t0.put (f.pkt.addr * 8) (wordBytes f.pkt.payload)).sram ∧
      (∀ j, NatMap.get (t.tile key).ctrs 0 j = if j = f.pkt.ctr
        then NatMap.get t0.ctrs 0 j + BitVec.ofNat 32 f.pkt.payload.length else NatMap.get t0.ctrs 0 j) ∧
      (t.tile key).reads = (if f.pkt.kind = 0x2 then dropRead t0.reads f.pkt.tag else t0.reads) ∧
      (t.tile key).pc = t0.pc ∧ (t.tile key).run = t0.run ∧ (t.tile key).accs = t0.accs ∧
      (t.tile key).sregs = t0.sregs ∧ KeepsBut [.tiles, .mesh] s t) := by
  intro key t0
  have hu : s.deliver i = (s.dropFlight i).updTile key (sunk f.pkt) := by
    rw [deliver_tile hf hloc, if_neg (by simp [hopen]), if_neg (by simp [hgood])]
    exact sinkAtTile_eq hkind hwait
  have htile : ((s.dropFlight i).updTile key (sunk f.pkt)).tile key = sunk f.pkt t0 := by
    rw [tile_updTile, if_pos rfl]; rfl
  obtain ⟨-, -, haccs, hsregs, hpc, hrun, -, hctrs, -, -, -, -, -, -, -, -, hreads, -⟩ :=
    put_keeps t0 (f.pkt.addr * 8) (wordBytes f.pkt.payload)
  have hkeeps := KeepsBut_mono (KeepsBut_append (keeps_dropFlight s i) (keeps_updTile _ key (sunk f.pkt)))
    (by decide : ∀ p ∈ _, p ∈ [Part.tiles, .mesh])
  refine runs_deliver hu hkeeps (by decide) ⟨rfl, tilesBut_updTile _ key _, ?_⟩
  rw [htile]
  refine ⟨rfl, fun j => ?_, ?_, hpc, hrun, haccs, hsregs, hkeeps⟩
  · show NatMap.get (NatMap.put _ 0 _ _) 0 j = _
    rw [hctrs, NatMap.get_put]
    split
    · next hj => rw [hj]
    · rfl
  · show (if f.pkt.kind = 0x2 then dropRead _ _ else _) = _
    rw [hreads]

/-- A poisoned packet that answers no read is reported and commits nothing (R117). -/
theorem runs_poisoned {x y : Nat} (hf : s.mesh.flights[i]? = some f) (hloc : f.loc = .tile x y)
    (hopen : s.localDiscards (herdOfKey (tileKey x y)) = false) (hbad : f.poisoned = true) (hkind : f.pkt.kind ≠ 0x2) :
    Runs (.packetDeliver i) s (fun t => t.mesh = { s.mesh with flights := dropAt s.mesh.flights i } ∧
      t.io.events = s.io.events ++ [{ code := Code.tileEccUncorr, stop := false, source := Source.tile, loc := tileKey x y
                                      stream := none, time := s.now64, detail := 0 }] ∧
      KeepsBut [.mesh, .io] s t) := by
  have hu : s.deliver i = (s.dropFlight i).post Code.tileEccUncorr Source.tile (tileKey x y) 0 := by
    rw [deliver_tile hf hloc, if_neg (by simp [hopen]), if_pos hbad]
    exact if_neg hkind
  have hkeeps := KeepsBut_append (keeps_dropFlight s i) (keeps_post _ Code.tileEccUncorr Source.tile (tileKey x y) 0)
  exact runs_deliver hu hkeeps (by decide) ⟨rfl, rfl, hkeeps⟩

/-- The tile of a poisoned answer: it is halted by the fault of the stack. -/
def answerPoisoned (p : Packet) (t : Tile) : Tile := { t with run := .stackFault, reads := poisonRead t.reads p.tag }

/-- A tile and a herd at rest after a poisoned answer; a report follows unless the stack is down (R173). -/
theorem poisonAtTile_read {key : Nat} {p : Packet} (hkind : p.kind = 0x2) (hrest : AtRest s (herdOfKey key)) :
    ∃ code sf, s.poisonAtTile key p = ((s.updTile key (answerPoisoned p)).updHerd (herdOfKey key) (faulted code sf)) ∨
      s.poisonAtTile key p = ((s.updTile key (answerPoisoned p)).updHerd (herdOfKey key) (faulted code sf)).post
        Code.tileEccUncorr Source.tile key 0 := by
  simp only [State.poisonAtTile, if_pos hkind]
  split_ifs
  · exact ⟨_, _, .inl (faultHerd_rest _ _ _ _ hrest)⟩
  · exact ⟨_, _, .inr (congrArg (State.post · _ _ _ _) (faultHerd_rest _ _ _ _ hrest))⟩

/-- What a poisoned answer leaves. -/
def ReadLost (s : State) (i key : Nat) (t : State) : Prop :=
  t.mesh = { s.mesh with flights := dropAt s.mesh.flights i } ∧ (t.tile key).run = .stackFault ∧
    (t.tile key).sram = (s.tile key).sram ∧ TilesBut key s t ∧ (t.herd (herdOfKey key)).st = .faulted ∧
    HerdsBut (herdOfKey key) s t ∧ KeepsBut [.tiles, .herds, .mesh, .io] s t

theorem readLost_faulted (s : State) (i key : Nat) (p : Packet) (code : Nat) (sf : Bool) :
    ReadLost s i key (((s.dropFlight i).updTile key (answerPoisoned p)).updHerd (herdOfKey key) (faulted code sf)) := by
  have htile : ((s.dropFlight i).updTile key (answerPoisoned p)).tile key = answerPoisoned p (s.tile key) := by
    rw [tile_updTile, if_pos rfl]; rfl
  have hkeeps := KeepsBut_append (KeepsBut_append (keeps_dropFlight s i) (keeps_updTile _ key (answerPoisoned p)))
    (keeps_updHerd _ (herdOfKey key) (faulted code sf))
  refine ⟨rfl, congrArg Tile.run htile, (congrArg Tile.sram htile).trans rfl, tilesBut_updTile (s.dropFlight i) key _, ?_,
    herdsBut_updHerd _ _ _, KeepsBut_mono hkeeps (by decide)⟩
  rw [herd_updHerd, if_pos rfl, faulted_st]

theorem ReadLost.post {t : State} {key : Nat} (h : ReadLost s i key t) (code source loc detail : Nat) :
    ReadLost s i key (t.post code source loc detail) := by
  obtain ⟨hmesh, hrun, hsram, htiles, hst, hherds, hkeeps⟩ := h
  exact ⟨hmesh, hrun, hsram, htiles, hst, hherds,
    KeepsBut_trans hkeeps (KeepsBut_mono (keeps_post t code source loc detail) (by decide))⟩

/-- A poisoned answer to a read stops the tile and its herd (R117, R173). -/
theorem runs_readLost {x y : Nat} (hf : s.mesh.flights[i]? = some f) (hloc : f.loc = .tile x y)
    (hopen : s.localDiscards (herdOfKey (tileKey x y)) = false) (hbad : f.poisoned = true) (hkind : f.pkt.kind = 0x2)
    (hrest : AtRest s (herdOfKey (tileKey x y))) : Runs (.packetDeliver i) s (ReadLost s i (tileKey x y)) := by
  have hu : s.deliver i = (s.dropFlight i).poisonAtTile (tileKey x y) f.pkt := by
    rw [deliver_tile hf hloc, if_neg (by simp [hopen]), if_pos hbad]
  have hlost : ReadLost s i (tileKey x y) ((s.dropFlight i).poisonAtTile (tileKey x y) f.pkt) := by
    obtain ⟨code, sf, h | h⟩ := poisonAtTile_read (s := s.dropFlight i) hkind hrest
    · exact h ▸ readLost_faulted s i _ f.pkt code sf
    · exact h ▸ (readLost_faulted s i _ f.pkt code sf).post _ _ _ _
  have ⟨_, _, _, _, _, _, hkeeps⟩ := hlost
  exact runs_deliver hu hkeeps (by decide) hlost

/-- A port that discards counts the packet (R206). -/
theorem runs_discarded {x y : Nat} (hf : s.mesh.flights[i]? = some f) (hloc : f.loc = .tile x y)
    (hshut : s.localDiscards (herdOfKey (tileKey x y)) = true)
    (hvc : vcOf f.pkt.kind = some 2 ∨ vcOf f.pkt.kind = some 3) : Runs (.packetDeliver i) s (fun t =>
      t.mesh = { s.mesh with flights := dropAt s.mesh.flights i } ∧
      t.rd Reg.IMG_DISCARD_COUNT = min (s.rd Reg.IMG_DISCARD_COUNT + 1) Reg.IMG_DISCARD_COUNT.max ∧
      RegsBut [Reg.IMG_DISCARD_COUNT.off] s t ∧ KeepsBut [.regs, .mesh] s t) := by
  have hkeeps := KeepsBut_mono (KeepsBut_append (keeps_dropFlight s i) (keeps_count _ Reg.IMG_DISCARD_COUNT 1))
    (by decide : ∀ p ∈ _, p ∈ [Part.regs, .mesh])
  exact runs_deliver ((deliver_tile hf hloc).trans (if_pos ⟨hshut, hvc⟩)) hkeeps (by decide)
    ⟨rfl, rd_count _ Reg.IMG_DISCARD_COUNT 1 (by decide) (by decide), RegsBut_count (s.dropFlight i) _ 1, hkeeps⟩

/-! ### At a collectives engine -/

theorem deliver_herd {h : Nat} (hf : s.mesh.flights[i]? = some f) (hloc : f.loc = .herd h) :
    s.deliver i = s.deliverHerd i h f := by
  simp only [State.deliver, hf, hloc]

/-- A controller whose herd drains keeps a contribution waiting (R150). -/
theorem deliverHerd_held {h : Nat} (hkind : f.pkt.kind = 0x5 ∨ f.pkt.kind = 0x6)
    (hwaits : s.contributionWaits f.pkt.herd (f.pkt.tag / 4) = true) : s.deliverHerd i h f = s := by
  have hpartial : f.pkt.kind ≠ 0x4 := by omega
  rw [State.deliverHerd, if_neg hpartial, if_pos hkind, if_pos hwaits]

/-- A subtree result or a piece that has to wait for nothing enters the engine. -/
theorem deliverHerd_taken {h : Nat} (hkind : f.pkt.kind = 0x5 ∨ f.pkt.kind = 0x6)
    (hfree : s.contributionWaits f.pkt.herd (f.pkt.tag / 4) = false) (hgood : f.poisoned = false) :
    s.deliverHerd i h f =
      if f.pkt.kind = 0x5 then (s.dropFlight i).takeSlice h f.pkt else (s.dropFlight i).takePiece h f.pkt := by
  have hpartial : f.pkt.kind ≠ 0x4 := by omega
  simp [State.deliverHerd, hpartial, hkind, hfree, hgood]

section Engine

variable {h j : Nat} (hf : s.mesh.flights[i]? = some f) (hloc : f.loc = .herd h) (hgood : f.poisoned = false)
  (hslice : s.sliceOf (f.pkt.tag / 4) f.pkt.herd = some j)
  (hfree : s.contributionWaits f.pkt.herd (f.pkt.tag / 4) = false)

include hf hloc hgood hslice hfree

/-- A subtree result becomes a node of its own slice (R148). -/
theorem runs_takeSlice (hkind : f.pkt.kind = 0x5) : Runs (.packetDeliver i) s (fun t =>
    t.mesh = { s.mesh with flights := dropAt s.mesh.flights i, nodes := s.mesh.nodes ++
        [{ herd := h, coll := f.pkt.tag / 4, slice := j, width := 1, addr := f.pkt.addr, ctr := f.pkt.ctr, tag := f.pkt.tag
           sent := false, values := f.pkt.payload.flatMap fp32Of }] } ∧ KeepsBut [.mesh] s t) := by
  have hslice' : (s.dropFlight i).sliceOf (f.pkt.tag / 4) f.pkt.herd = some j := hslice
  have hu := (deliver_herd hf hloc).trans ((deliverHerd_taken (.inl hkind) hfree hgood).trans (if_pos hkind))
  simp only [State.takeSlice, hslice'] at hu
  exact runs_deliver hu (keeps_mesh s _) (by decide) ⟨rfl, keeps_mesh s _⟩

/-- The first piece of a member opens its place in the engine (R146). -/
theorem runs_takePiece (hkind : f.pkt.kind = 0x6)
    (hnew : s.mesh.gathers.any (fun g => decide (g.herd = h ∧ g.coll = f.pkt.tag / 4 ∧ g.slice = j)) = false) :
    Runs (.packetDeliver i) s (fun t => t.mesh = { s.mesh with
        flights := dropAt s.mesh.flights i, gathers := s.mesh.gathers ++
        [{ herd := h, coll := f.pkt.tag / 4, slice := j, words := f.pkt.payload, addr := f.pkt.addr, ctr := f.pkt.ctr
           tag := f.pkt.tag, sent := 0 }] } ∧ KeepsBut [.mesh] s t) := by
  have hslice' : (s.dropFlight i).sliceOf (f.pkt.tag / 4) f.pkt.herd = some j := hslice
  have hnew' : ¬ (s.dropFlight i).mesh.gathers.any
      (fun g => decide (g.herd = h ∧ g.coll = f.pkt.tag / 4 ∧ g.slice = j)) = true := Bool.eq_false_iff.mp hnew
  have hu := (deliver_herd hf hloc).trans ((deliverHerd_taken (.inr hkind) hfree hgood).trans (if_neg (by omega)))
  simp only [State.takePiece, hslice', if_neg hnew'] at hu
  exact runs_deliver hu (keeps_mesh s _) (by decide) ⟨rfl, keeps_mesh s _⟩

end Engine

end Delivery

/-- Settles O33: one rule per destination and kind of packet. -/
theorem packetsAreDelivered : Obligations.PacketsAreDelivered := by
  unfold Obligations.PacketsAreDelivered
  intro s i f hf gone
  refine ⟨fun x y hloc hopen => ⟨runs_sink hf hloc hopen, runs_poisoned hf hloc hopen, runs_readLost hf hloc hopen⟩,
    fun x y hloc hshut hvc => runs_discarded hf hloc hshut hvc, fun h j hloc hgood hslice => ⟨fun hfree => ⟨?_, ?_⟩, ?_⟩⟩
  · exact runs_takeSlice hf hloc hgood hslice hfree
  · exact runs_takePiece hf hloc hgood hslice hfree
  · exact fun hwaits hkind => exec_of_actHerd_same (f := fun s => s.deliver i) rfl
      ((deliver_herd hf hloc).trans (deliverHerd_held hkind hwaits))

end Sys2Proof.Proofs.PacketDelivery
end

section
/-! Steps of the stack controllers: how their commands answer, which stacks a change leaves, what a written line reads as,
and what the ECC codes and the counters of a stack leave (R161, R166, R173, R176, R177). -/

namespace Sys2Proof.Proofs.StackSteps

open Sys2Proof.Machine Sys2Proof.Safety Sys2Proof.Laws
open Sys2Proof.Proofs.Frames Sys2Proof.Proofs.StackLines
open Sys2Proof.Proofs.HostCommands (rd_of_regs)

/-! ### Answers -/

/-- What a step may change that goes through `actStack`. -/
def stackParts : List Part := [.regs, .mesh, .stks, .snaps, .ibx, .jrn, .io]

section Answers

variable {i : Instr} {f : State → State} {s u : State} {l : List Part} {P : State → Prop}

/-- A command of a stack whose function changes nothing. -/
theorem exec_of_actStack_same (hi : exec i s = actStack f s) (hf : f s = s) : exec i s = .next s := by rw [hi, actStack, hf]

/-- A command of a stack whose function changes no more than it may answers its function's state. -/
theorem runs_of_actStack (hi : exec i s = actStack f s) (hf : f s = u) (hk : KeepsBut l s u) (hl : l ⊆ stackParts) (h : P u) :
    Runs i s P := by
  subst hf
  obtain ⟨t, ht, hP⟩ := run_actStack f s l P hk hl h
  exact ⟨t, hi.trans ht, hP⟩

end Answers

/-! ### Frames -/

theorem StksBut_trans {l : List Nat} {s t u : State} (h : StksBut l s t) (h' : StksBut l t u) : StksBut l s u :=
  fun j hj => (h' j hj).trans (h j hj)

theorem StksBut_mono {l m : List Nat} {s t : State} (h : StksBut l s t) (hl : l ⊆ m) : StksBut m s t :=
  fun j hj => h j fun hmem => hj (hl hmem)

theorem StksBut_of_stks {s t : State} (h : t.stks = s.stks) (l : List Nat) : StksBut l s t :=
  fun j _ => by simp only [State.stk, h]

theorem stksBut_updStk (s : State) (k : Nat) (g : Stk → Stk) : StksBut [k] s (s.updStk k g) := fun j hj => by
  rw [stk_updStk, if_neg (by simpa using hj)]

theorem stksBut_setStk (s : State) (k : Nat) (x : Stk) : StksBut [k] s (s.setStk k x) := fun j hj => by
  rw [stk_setStk, if_neg (by simpa using hj)]

theorem stk_updStk_same (s : State) (k : Nat) (g : Stk → Stk) : (s.updStk k g).stk k = g (s.stk k) := by simp

theorem stk_updStk_other (s : State) {j k : Nat} (g : Stk → Stk) (h : j ≠ k) : (s.updStk k g).stk j = s.stk j := by simp [h]

/-- A stack is not its own partner (R36). -/
theorem partner_ne (k : Nat) : partner k ≠ k := by unfold partner; omega

theorem stkServes_iff {s : State} {k : Nat} : s.stkServes k = true ↔ (s.stk k).st = .service := decide_eq_true_iff

/-! ### Lines -/

theorem slice_length (bs : List Byte) (a n : Nat) : (slice bs a n).length = n := by simp [slice]

/-- A written line reads back. -/
theorem read_writeLine (x : Stk) (l : Nat) (bs : List Byte) : Mem.read (x.writeLine l bs).mem (l * 64) 64 = slice bs 0 64 := by
  have hread := Mem.read_write_same x.mem (l * 64) (slice bs 0 64)
  rwa [slice_length] at hread

/-- A written line changes no byte of another. -/
theorem bytesBut_writeLine (x : Stk) (l : Nat) (bs : List Byte) : BytesBut (l * 64) 64 x.mem (x.writeLine l bs).mem := by
  have hbut := BytesBut_write x.mem (l * 64) (slice bs 0 64)
  rwa [slice_length] at hbut

theorem mem_bad_writeLine {x : Stk} {l : Nat} {bs : List Byte} {b : Nat} :
    b ∈ (x.writeLine l bs).bad ↔ b ∈ x.bad ∧ b ≠ l := by
  simp [Stk.writeLine]

/-- A written line is correct. -/
theorem not_mem_bad_writeLine (x : Stk) (l : Nat) (bs : List Byte) : l ∉ (x.writeLine l bs).bad := fun hbad =>
  (mem_bad_writeLine.1 hbad).2 rfl

/-! ### Fields of one register -/

/-- A field lies in a register. -/
def inWord (f : Fld) : Bool := decide (f.lo ≤ f.hi ∧ f.hi < 64)

/-- Two fields lie in their registers, and share no bit there. -/
def apartIn (f g : Fld) : Bool := inWord f && inWord g && decide (f.hi < g.lo ∨ g.hi < f.lo)

theorem rd_wr_same (s : State) {f : Fld} (v : Nat) (h : inWord f = true) : (s.wr f v).rd f = v % 2 ^ (f.hi + 1 - f.lo) := by
  obtain ⟨hle, hlt⟩ := of_decide_eq_true h
  exact rd_wr s f v hle hlt

theorem rd_wr_apart (s : State) {f g : Fld} (v : Nat) (h : apartIn f g = true) : (s.wr f v).rd g = s.rd g := by
  simp only [apartIn, inWord, Bool.and_eq_true, decide_eq_true_eq] at h
  obtain ⟨⟨⟨hle, hlt⟩, hle', -⟩, hd⟩ := h
  exact rd_wr_other s f g v hle hlt hle' (.inr hd)

theorem rd_count_same (s : State) {f : Fld} (n : Nat) (h : inWord f = true) : (s.count f n).rd f = min (s.rd f + n) f.max := by
  obtain ⟨hle, hlt⟩ := of_decide_eq_true h
  exact rd_count s f n hle hlt

theorem rd_count_apart (s : State) {f g : Fld} (n : Nat) (h : apartIn f g = true) : (s.count f n).rd g = s.rd g :=
  rd_wr_apart s _ h

/-- A field holds no more than its width. -/
theorem rd_le_max (s : State) (f : Fld) : s.rd f ≤ f.max := Nat.le_sub_one_of_lt (Nat.mod_lt _ (by positivity))

/-- A counter that counts when a condition holds. -/
theorem rd_when_count (s : State) {f : Fld} (b : Bool) (h : inWord f = true) :
    (s.when b (fun s => s.count f 1)).rd f = min (s.rd f + b2n b) f.max := by
  cases b
  · exact (Nat.min_eq_left (rd_le_max s f)).symm
  · exact rd_count_same s 1 h

theorem rd_when_count_apart (s : State) {f g : Fld} (b : Bool) (h : apartIn f g = true) :
    (s.when b (fun s => s.count f 1)).rd g = s.rd g := by
  cases b
  · rfl
  · exact rd_count_apart s 1 h

/-! ### Corrections (R166, R176) -/

/-- Without an error of the line neither code has anything to do. -/
theorem correct_none {s : State} {k l : Nat} (hcorr : l ∉ (s.stk k).corr) (hodie : l ∉ (s.stk k).odie) :
    s.correct k l = s := by
  simp [State.correct, State.when, hcorr, hodie]

/-- Both codes have acted on a line. -/
structure Corrected (k l : Nat) (s t : State) : Prop where
  mem    : (t.stk k).mem = (s.stk k).mem
  bad    : (t.stk k).bad = (s.stk k).bad
  st     : (t.stk k).st = (s.stk k).st
  corr   : l ∉ (t.stk k).corr
  odie   : l ∉ (t.stk k).odie
  onDie  : t.rd (Reg.STK_ECC_COUNT_ODIE_CORR k) =
    min (s.rd (Reg.STK_ECC_COUNT_ODIE_CORR k) + b2n ((s.stk k).odie.contains l)) (2 ^ 24 - 1)
  ctrl   : t.rd (Reg.STK_ECC_COUNT_CTRL_CORR k) =
    min (s.rd (Reg.STK_ECC_COUNT_CTRL_CORR k) + b2n ((s.stk k).corr.contains l)) (2 ^ 24 - 1)
  uncorr : t.rd (Reg.STK_ECC_COUNT_CTRL_UNCORR k) = s.rd (Reg.STK_ECC_COUNT_CTRL_UNCORR k)
  regs   : RegsBut [Reg.STK_ECC_COUNT k] s t
  others : StksBut [k] s t
  keeps  : KeepsBut [.regs, .stks] s t

/-- What both codes take off the errors of a stack. -/
def healed (l : Nat) (x : Stk) : Stk :=
  { x with corr := x.corr.filter (fun b => decide (b ≠ l)), odie := x.odie.filter (fun b => decide (b ≠ l)) }

theorem healed_none {x : Stk} {l : Nat} (hcorr : l ∉ x.corr) (hodie : l ∉ x.odie) : healed l x = x := by
  have hfilter : ∀ m : List Nat, l ∉ m → m.filter (fun b => decide (b ≠ l)) = m := fun m hm =>
    List.filter_eq_self.2 fun b hb => decide_eq_true fun heq => hm (heq ▸ hb)
  simp only [healed, hfilter _ hcorr, hfilter _ hodie]

/-- A change under a condition keeps what it keeps. -/
theorem when_induction {P : State → Prop} {s : State} {b : Bool} {f : State → State} (hs : P s) (hf : P (f s)) :
    P (s.when b f) := by
  cases b
  · exact hs
  · exact hf

/-- The channel's note of a correction, when there was one. -/
def notedCorr (s : State) (k l : Nat) : State :=
  s.when ((s.stk k).corr.contains l) (fun s => s.updStk k (fun x => x.noteCorr (lineChannel l) s.devTime.toNat))

/-- The counters after both codes have acted. -/
def countedCorr (s : State) (k l : Nat) : State :=
  ((notedCorr s k l).when ((s.stk k).odie.contains l) (fun s => s.count (Reg.STK_ECC_COUNT_ODIE_CORR k) 1)).when
    ((s.stk k).corr.contains l) (fun s => s.count (Reg.STK_ECC_COUNT_CTRL_CORR k) 1)

section Correction

variable (s : State) (k l : Nat)

theorem correct_eq : s.correct k l =
    (countedCorr s k l).when ((s.stk k).odie.contains l || (s.stk k).corr.contains l) (fun s => s.updStk k (healed l)) := rfl

theorem stks_when_count (f : Fld) (b : Bool) : (s.when b (fun s => s.count f 1)).stks = s.stks :=
  when_induction (P := fun t => t.stks = s.stks) rfl (count_stks ..)

theorem stks_countedCorr : (countedCorr s k l).stks = (notedCorr s k l).stks := by
  unfold countedCorr
  rw [stks_when_count, stks_when_count]

theorem stk_countedCorr (j : Nat) : (countedCorr s k l).stk j = (notedCorr s k l).stk j := by
  rw [State.stk, stks_countedCorr, State.stk]

/-- Of its stack a correction changes the lists of errors and the channel's note alone. -/
theorem stk_correct : ∃ notes, (s.correct k l).stk k = { healed l (s.stk k) with corrAt := notes } := by
  have hnoted : ∃ notes, (notedCorr s k l).stk k = { s.stk k with corrAt := notes } :=
    when_induction (P := fun t => ∃ notes, t.stk k = { s.stk k with corrAt := notes }) ⟨_, rfl⟩
      ⟨_, stk_updStk_same s k _⟩
  obtain ⟨notes, hnotes⟩ := hnoted
  refine ⟨notes, ?_⟩
  rw [correct_eq, State.when]
  split
  · rw [stk_updStk_same, stk_countedCorr, hnotes]
    rfl
  · next hnone =>
    simp only [Bool.or_eq_true, List.contains_iff_mem, not_or] at hnone
    rw [stk_countedCorr, hnotes, healed_none hnone.2 hnone.1]

theorem regs_notedCorr : (notedCorr s k l).regs = s.regs :=
  when_induction (P := fun t => t.regs = s.regs) rfl (updStk_regs ..)

theorem regs_correct : (s.correct k l).regs = (countedCorr s k l).regs := by
  rw [correct_eq]
  exact when_induction (P := fun t => t.regs = (countedCorr s k l).regs) rfl (updStk_regs ..)

theorem stksBut_countedCorr : StksBut [k] s (countedCorr s k l) :=
  StksBut_trans (t := notedCorr s k l) (when_induction (P := StksBut [k] s) (fun _ _ => rfl) (stksBut_updStk s k _))
    (StksBut_of_stks (stks_countedCorr s k l) _)

theorem keeps_when_count (f : Fld) (b : Bool) : KeepsBut [.regs] s (s.when b (fun s => s.count f 1)) :=
  when_induction (KeepsBut_refl _ s) (keeps_count s f 1)

theorem regsBut_when_count (f : Fld) (b : Bool) : RegsBut [f.off] s (s.when b (fun s => s.count f 1)) :=
  when_induction (RegsBut_refl _ s) (RegsBut_count s f 1)

theorem keeps_countedCorr : KeepsBut [.regs, .stks] s (countedCorr s k l) := by
  have hnoted : KeepsBut [.stks] s (notedCorr s k l) := when_induction (KeepsBut_refl _ s) (keeps_updStk s k _)
  unfold countedCorr
  exact KeepsBut_mono (KeepsBut_append hnoted (KeepsBut_trans (keeps_when_count ..) (keeps_when_count ..))) (by decide)

theorem regsBut_countedCorr : RegsBut [Reg.STK_ECC_COUNT k] s (countedCorr s k l) := by
  unfold countedCorr
  have hfirst := regsBut_when_count (notedCorr s k l) (Reg.STK_ECC_COUNT_ODIE_CORR k) ((s.stk k).odie.contains l)
  exact RegsBut_trans (RegsBut_of_regs (regs_notedCorr s k l) _)
    (RegsBut_trans hfirst (regsBut_when_count _ (Reg.STK_ECC_COUNT_CTRL_CORR k) _))

theorem correct_corrected : Corrected k l s (s.correct k l) := by
  obtain ⟨notes, hstk⟩ := stk_correct s k l
  have hrd (f : Fld) : (s.correct k l).rd f = (countedCorr s k l).rd f := rd_of_regs (regs_correct s k l) f
  have hnoted (f : Fld) : (notedCorr s k l).rd f = s.rd f := rd_of_regs (regs_notedCorr s k l) f
  refine { mem := by rw [hstk]; rfl, bad := by rw [hstk]; rfl, st := by rw [hstk]; rfl, corr := by simp [hstk, healed]
           odie := by simp [hstk, healed], onDie := ?_, ctrl := ?_, uncorr := ?_, regs := ?_, others := ?_, keeps := ?_ }
  · rw [hrd, countedCorr, rd_when_count_apart _ _ rfl, rd_when_count _ _ rfl, hnoted]
    rfl
  · rw [hrd, countedCorr, rd_when_count _ _ rfl, rd_when_count_apart _ _ rfl, hnoted]
    rfl
  · rw [hrd, countedCorr, rd_when_count_apart _ _ rfl, rd_when_count_apart _ _ rfl, hnoted]
  · exact RegsBut_trans (regsBut_countedCorr s k l) (RegsBut_of_regs (regs_correct s k l) _)
  · rw [correct_eq]
    exact when_induction (P := StksBut [k] s) (stksBut_countedCorr s k l)
      (StksBut_trans (stksBut_countedCorr s k l) (stksBut_updStk _ _ _))
  · rw [correct_eq]
    exact when_induction (P := KeepsBut _ s) (keeps_countedCorr s k l)
      (KeepsBut_trans (keeps_countedCorr s k l) (KeepsBut_mono (keeps_updStk ..) (by decide)))

end Correction

/-! ### Reading a line (R162, R166) -/

section Read

variable {s : State} {k l : Nat} (hserves : s.stkServes k = true)
include hserves

theorem stkServes_correct : (s.correct k l).stkServes k = true :=
  stkServes_iff.2 ((correct_corrected s k l).st.trans (stkServes_iff.1 hserves))

/-- A line that the codes correct is read where it stands. -/
theorem readLine_good (src : Option Src) (hbad : l ∉ (s.stk k).bad) :
    s.readLine k l src = ⟨s.correct k l, (s.stk k).line l, false⟩ := by
  have hgood : (s.correct k l).lineGood k l = true := by
    simp [State.lineGood, stkServes_correct hserves, (correct_corrected s k l).bad, hbad]
  have hline : ((s.correct k l).stk k).line l = (s.stk k).line l := by simp only [Stk.line, (correct_corrected s k l).mem]
  simp only [State.readLine, hserves, if_true, hgood, hline]

/-- Reading a line without an error changes nothing. -/
theorem readLine_correct (src : Option Src) (hbad : l ∉ (s.stk k).bad) (hcorr : l ∉ (s.stk k).corr)
    (hodie : l ∉ (s.stk k).odie) : s.readLine k l src = ⟨s, (s.stk k).line l, false⟩ := by
  rw [readLine_good hserves src hbad, correct_none hcorr hodie]

end Read

/-! ### Uncorrectable lines (R173, R176, R177, R505) -/

/-- An uncorrectable line has been counted, and the first one is kept. -/
structure NotedBad (k addr typ : Nat) (copyOk : Bool) (s t : State) : Prop where
  onDie  : t.rd (Reg.STK_ECC_COUNT_ODIE_CORR k) = s.rd (Reg.STK_ECC_COUNT_ODIE_CORR k)
  ctrl   : t.rd (Reg.STK_ECC_COUNT_CTRL_CORR k) = s.rd (Reg.STK_ECC_COUNT_CTRL_CORR k)
  uncorr : t.rd (Reg.STK_ECC_COUNT_CTRL_UNCORR k) = min (s.rd (Reg.STK_ECC_COUNT_CTRL_UNCORR k) + 1) (2 ^ 16 - 1)
  first  : s.rd (Reg.STK_ECC_ADDR_VALID k) = 0 →
    t.rd (Reg.STK_ECC_ADDR_ADDR k) = addr % 2 ^ 37 ∧ t.rd (Reg.STK_ECC_ADDR_TYPE k) = typ % 16 ∧
      t.rd (Reg.STK_ECC_ADDR_COPY_OK k) = b2n copyOk ∧ t.rd (Reg.STK_ECC_ADDR_VALID k) = 1
  regs   : RegsBut [Reg.STK_ECC_COUNT k, Reg.STK_ECC_ADDR k] s t
  keeps  : KeepsBut [.regs] s t

/-- STKn_ECC_ADDR takes a line. -/
def keptBad (s : State) (k addr typ : Nat) (copyOk : Bool) : State :=
  (((s.wr (Reg.STK_ECC_ADDR_ADDR k) addr).wr (Reg.STK_ECC_ADDR_TYPE k) typ).wr (Reg.STK_ECC_ADDR_COPY_OK k) (b2n copyOk)).wr
    (Reg.STK_ECC_ADDR_VALID k) 1

section Bad

variable (s : State) (k addr typ : Nat) (copyOk : Bool)

theorem regsBut_keptBad : RegsBut [Reg.STK_ECC_ADDR k] s (keptBad s k addr typ copyOk) := by
  have haddr := RegsBut_wr s (Reg.STK_ECC_ADDR_ADDR k) addr
  have htype := RegsBut_trans haddr (RegsBut_wr _ (Reg.STK_ECC_ADDR_TYPE k) typ)
  have hcopy := RegsBut_trans htype (RegsBut_wr _ (Reg.STK_ECC_ADDR_COPY_OK k) (b2n copyOk))
  exact RegsBut_trans hcopy (RegsBut_wr _ (Reg.STK_ECC_ADDR_VALID k) 1)

theorem keeps_keptBad : KeepsBut [.regs] s (keptBad s k addr typ copyOk) :=
  KeepsBut_trans (KeepsBut_trans (KeepsBut_trans (keeps_wr ..) (keeps_wr ..)) (keeps_wr ..)) (keeps_wr ..)

theorem rd_keptBad : (keptBad s k addr typ copyOk).rd (Reg.STK_ECC_ADDR_ADDR k) = addr % 2 ^ 37 ∧
    (keptBad s k addr typ copyOk).rd (Reg.STK_ECC_ADDR_TYPE k) = typ % 16 ∧
    (keptBad s k addr typ copyOk).rd (Reg.STK_ECC_ADDR_COPY_OK k) = b2n copyOk ∧
    (keptBad s k addr typ copyOk).rd (Reg.STK_ECC_ADDR_VALID k) = 1 := by
  unfold keptBad
  refine ⟨?_, ?_, ?_, ?_⟩
  · rw [rd_wr_apart _ _ rfl, rd_wr_apart _ _ rfl, rd_wr_apart _ _ rfl, rd_wr_same _ _ rfl]
    rfl
  · rw [rd_wr_apart _ _ rfl, rd_wr_apart _ _ rfl, rd_wr_same _ _ rfl]
    rfl
  · rw [rd_wr_apart _ _ rfl, rd_wr_same _ _ rfl]
    cases copyOk <;> rfl
  · exact rd_wr_same _ _ rfl

/-- A register that a change leaves reads the same. -/
theorem rd_of_regsBut {l : List Nat} {s t : State} (h : RegsBut l s t) {f : Fld} (hf : f.off ∉ l) : t.rd f = s.rd f := by
  rw [State.rd, h _ hf, State.rd]

theorem eccAddr_ne_eccCount (k : Nat) : Reg.STK_ECC_ADDR k ≠ Reg.STK_ECC_COUNT k := by
  simp [Reg.STK_ECC_ADDR, Reg.STK_ECC_COUNT]

/-- The count of an uncorrectable line. -/
def countedBad (s : State) (k : Nat) : State := s.count (Reg.STK_ECC_COUNT_CTRL_UNCORR k) 1

theorem noteBad_eq : s.noteBad k addr typ copyOk =
    if (countedBad s k).rdb (Reg.STK_ECC_ADDR_VALID k) then countedBad s k else keptBad (countedBad s k) k addr typ copyOk := rfl

theorem regsBut_countedBad : RegsBut [Reg.STK_ECC_COUNT k] s (countedBad s k) :=
  RegsBut_count s (Reg.STK_ECC_COUNT_CTRL_UNCORR k) 1

/-- The counters of a noted line are those of the count. -/
theorem rd_noteBad {f : Fld} (hf : f.off = Reg.STK_ECC_COUNT k) :
    (s.noteBad k addr typ copyOk).rd f = (countedBad s k).rd f := by
  rw [noteBad_eq]
  split
  · rfl
  · exact rd_of_regsBut (regsBut_keptBad _ k addr typ copyOk) (by simpa [hf] using (eccAddr_ne_eccCount k).symm)

theorem noteBad_noted : NotedBad k addr typ copyOk s (s.noteBad k addr typ copyOk) := by
  have hvalid : (countedBad s k).rd (Reg.STK_ECC_ADDR_VALID k) = s.rd (Reg.STK_ECC_ADDR_VALID k) :=
    rd_of_regsBut (regsBut_countedBad s k) (mt List.mem_singleton.1 (eccAddr_ne_eccCount k))
  have hcount : RegsBut [Reg.STK_ECC_COUNT k, Reg.STK_ECC_ADDR k] s (countedBad s k) :=
    RegsBut_mono (regsBut_countedBad s k) (by simp)
  refine ⟨?_, ?_, ?_, fun hfree => ?_, ?_, ?_⟩
  · rw [rd_noteBad _ _ _ _ _ rfl, countedBad, rd_count_apart _ _ rfl]
  · rw [rd_noteBad _ _ _ _ _ rfl, countedBad, rd_count_apart _ _ rfl]
  · rw [rd_noteBad _ _ _ _ _ rfl, countedBad, rd_count_same _ _ rfl]
    rfl
  · rw [noteBad_eq, if_neg (by simp [State.rdb, hvalid, hfree])]
    exact rd_keptBad _ k addr typ copyOk
  · rw [noteBad_eq]
    split
    · exact hcount
    · exact RegsBut_trans hcount (RegsBut_mono (regsBut_keptBad _ k addr typ copyOk) (by simp))
  · rw [noteBad_eq]
    split
    · exact keeps_count s _ 1
    · exact KeepsBut_trans (keeps_count s _ 1) (keeps_keptBad _ k addr typ copyOk)

end Bad

end Sys2Proof.Proofs.StackSteps
end

section
/-! The mirror copies of a stack: they land at the partner, wait for it, or are dropped (R162 to R164, R173). -/

namespace Sys2Proof.Proofs.MirrorCopies

open Sys2Proof.Machine Sys2Proof.Safety Sys2Proof.Laws
open Sys2Proof.Proofs.Frames Sys2Proof.Proofs.StackLines Sys2Proof.Proofs.StackSteps

/-- Stack k without the copy that has gone, and its partner with the rim ring served last. -/
def copyTaken (s : State) (k : Nat) (rest : List CopyW) : State :=
  (s.updStk k (fun x => { x with copies := rest })).updStk (partner k) (fun y => { y with served := some ringInput })

section Copies

variable {s : State} {k : StkNo} {c : CopyW} {rest : List CopyW}

theorem stk_copyTaken : (copyTaken s k rest).stk k = { s.stk k with copies := rest } := by
  rw [copyTaken, stk_updStk_other _ _ (partner_ne k).symm, stk_updStk_same]

theorem stk_partner_copyTaken : (copyTaken s k rest).stk (partner k) = { s.stk (partner k) with served := some ringInput } := by
  rw [copyTaken, stk_updStk_same, stk_updStk_other _ _ (partner_ne k)]

theorem stksBut_copyTaken : StksBut [k.val, partner k] s (copyTaken s k rest) :=
  StksBut_trans (StksBut_mono (stksBut_updStk s k _) (by simp)) (StksBut_mono (stksBut_updStk _ (partner k) _) (by simp))

theorem keeps_copyTaken : KeepsBut [.stks] s (copyTaken s k rest) := KeepsBut_trans (keeps_updStk ..) (keeps_updStk ..)

theorem snap_copyTaken (j : Nat) : (copyTaken s k rest).snap j = s.snap j := by
  rw [copyTaken, snap_after_updStk, snap_after_updStk]

/-- The partner is down, and the home copy is all there is. -/
theorem runs_copyDropped {l : Nat} {bs : List Byte} (hcopies : (s.stk k).copies = .line l bs :: rest)
    (hdown : (s.stk (partner k)).st = .down) : Runs (.mirrorCopy k) s (fun t =>
      t.stk k = { s.stk k with copies := rest } ∧ StksBut [k.val] s t ∧ KeepsBut [.stks] s t) := by
  have hu : s.mirrorCopy k = s.updStk k (fun x => { x with copies := rest }) := by
    simp only [State.mirrorCopy, hcopies, if_pos hdown]
  exact runs_of_actStack (f := fun s => s.mirrorCopy k.val) rfl hu (keeps_updStk s k _) (by decide)
    ⟨stk_updStk_same s k _, stksBut_updStk s k _, keeps_updStk s k _⟩

/-- A copy waits for a partner that is neither in service nor down. -/
theorem exec_copyWaits (hcopies : (s.stk k).copies = c :: rest) (hdown : (s.stk (partner k)).st ≠ .down)
    (hst : (s.stk (partner k)).st ≠ .service) : exec (.mirrorCopy k) s = .next s := by
  have hserves : s.stkServes (partner k) = false := Bool.eq_false_iff.2 (mt stkServes_iff.1 hst)
  have hu : s.mirrorCopy k = s := by simp [State.mirrorCopy, hcopies, hdown, hserves]
  exact exec_of_actStack_same (f := fun s => s.mirrorCopy k.val) rfl hu

section Lands

variable (hst : (s.stk (partner k)).st = .service) (hjournal : s.journalFirst (partner k) = false)
  (hpick : s.pick (partner k) = some .copy)
include hst hjournal hpick

/-- A copy whose turn comes in a partner in service lands there. -/
theorem mirrorCopy_lands (hcopies : (s.stk k).copies = c :: rest) :
    s.mirrorCopy k = (copyTaken s k rest).landCopy k c := by
  have hup : (s.stk (partner k)).st ≠ .down := by simp [hst]
  have hturn : s.stkServes (partner k) = true ∧ s.journalFirst (partner k) = false ∧ s.pick (partner k) = some .copy :=
    ⟨stkServes_iff.2 hst, hjournal, hpick⟩
  simp only [State.mirrorCopy, hcopies, if_neg hup, if_pos hturn]
  rfl

theorem runs_lineLands {l a : Nat} {bs : List Byte} (hcopies : (s.stk k).copies = .line l bs :: rest)
    (haddr : s.copyAddr k l = some a) : Runs (.mirrorCopy k) s (fun t =>
      t.stk k = { s.stk k with copies := rest } ∧
      Mem.read (t.stk (partner k)).mem (a / 64 * 64) 64 = slice bs 0 64 ∧
      BytesBut (a / 64 * 64) 64 (s.stk (partner k)).mem (t.stk (partner k)).mem ∧
      a / 64 ∉ (t.stk (partner k)).bad ∧ StksBut [k.val, partner k] s t ∧ KeepsBut [.stks] s t) := by
  have haddr' : (copyTaken s k rest).copyAddr k l = some a := haddr
  have hu : s.mirrorCopy k = (copyTaken s k rest).updStk (partner k) (fun y => y.writeLine (a / 64) bs) := by
    rw [mirrorCopy_lands hst hjournal hpick hcopies, State.landCopy, haddr']
  have hkeeps := KeepsBut_trans (keeps_copyTaken (s := s) (k := k) (rest := rest))
    (keeps_updStk _ (partner k) (fun y => y.writeLine (a / 64) bs))
  have hline : StksBut [k.val, partner k] (copyTaken s k rest)
      ((copyTaken s k rest).updStk (partner k) (fun y => y.writeLine (a / 64) bs)) :=
    StksBut_mono (stksBut_updStk _ (partner k) _) (by simp)
  refine runs_of_actStack (f := fun s => s.mirrorCopy k.val) rfl hu hkeeps (by decide)
    ⟨?_, ?_, ?_, ?_, StksBut_trans stksBut_copyTaken hline, hkeeps⟩
  · rw [stk_updStk_other _ _ (partner_ne k).symm, stk_copyTaken]
  · rw [stk_updStk_same, read_writeLine]
  · have hbut := bytesBut_writeLine ((copyTaken s k rest).stk (partner k)) (a / 64) bs
    rw [stk_updStk_same]
    rwa [stk_partner_copyTaken] at hbut ⊢
  · rw [stk_updStk_same]
    exact not_mem_bad_writeLine _ _ _

theorem runs_snapLands {key : Nat} (hcopies : (s.stk k).copies = .snap key :: rest) : Runs (.mirrorCopy k) s (fun t =>
    t.stk k = { s.stk k with copies := rest } ∧ t.snap key = { s.snap key with copied := true } ∧
      (∀ j, j ≠ key → t.snap j = s.snap j) ∧ StksBut [k.val, partner k] s t ∧ KeepsBut [.stks, .snaps] s t) := by
  have hu := mirrorCopy_lands hst hjournal hpick hcopies
  rw [State.landCopy, snap_copyTaken] at hu
  have hkeeps := KeepsBut_append (keeps_copyTaken (s := s) (k := k) (rest := rest))
    (keeps_setSnap _ key { s.snap key with copied := true })
  refine runs_of_actStack (f := fun s => s.mirrorCopy k.val) rfl hu hkeeps (by decide) ⟨?_, ?_, fun j hj => ?_, ?_, hkeeps⟩
  · rw [stk_after_setSnap, stk_copyTaken]
  · rw [snap_setSnap, if_pos rfl]
  · rw [snap_setSnap, if_neg hj, snap_copyTaken]
  · exact fun j hj => (stk_after_setSnap ..).trans (stksBut_copyTaken j hj)

end Lands

end Copies

end Sys2Proof.Proofs.MirrorCopies
end

section
/-! The journal's double write: a log line lands in both stacks of its pair, or in the one that is left, and a control block
is valid when its last line has landed (R161, R173, R365). -/

namespace Sys2Proof.Proofs.JournalLines

open Sys2Proof.Machine Sys2Proof.Safety Sys2Proof.Laws
open Sys2Proof.Proofs.Frames Sys2Proof.Proofs.StackLines Sys2Proof.Proofs.StackSteps Sys2Proof.Proofs.Transport

/-- One stack of a pair takes a log line, where it is in service. -/
def tookLog (s : State) (k l : Nat) (bs : List Byte) : State :=
  match s.logAddr k l with
  | some a => if s.stkServes k then s.updStk k (fun y => y.writeLine a bs) else s
  | none => s

/-- A stack holds a log line at its place in the journal region, and is as before elsewhere. -/
def HoldsLog (s : State) (k l : Nat) (bs : List Byte) (t : State) : Prop :=
  ∀ r, s.regionOf k 7 = some r →
    Mem.read (t.stk k).mem (r.lo + 2 ^ 20 + 64 * (l % logLines)) 64 = slice bs 0 64 ∧
    BytesBut (r.lo + 2 ^ 20 + 64 * (l % logLines)) 64 (s.stk k).mem (t.stk k).mem

theorem HoldsLog.congr {s s' t t' : State} {k l : Nat} {bs : List Byte} (h : HoldsLog s k l bs t) (hmap : s'.pmap = s.pmap)
    (hs : s'.stk k = s.stk k) (ht : t'.stk k = t.stk k) : HoldsLog s' k l bs t' := by
  intro r hr
  rw [hs, ht]
  exact h r (by simpa only [State.regionOf, State.regions, hmap] using hr)

section Log

variable (s : State) (k l : Nat) (bs : List Byte)

theorem keeps_tookLog : KeepsBut [.stks] s (tookLog s k l bs) := by
  unfold tookLog
  split
  · split
    · exact keeps_updStk s k _
    · exact KeepsBut_refl _ s
  · exact KeepsBut_refl _ s

theorem stksBut_tookLog : StksBut [k] s (tookLog s k l bs) := by
  unfold tookLog
  split
  · split
    · exact stksBut_updStk s k _
    · exact fun _ _ => rfl
  · exact fun _ _ => rfl

theorem tookLog_idle {s : State} {k : Nat} (h : s.stkServes k = false) : tookLog s k l bs = s := by
  unfold tookLog
  split
  · rw [if_neg (by simp [h])]
  · rfl

theorem holdsLog_tookLog {s : State} {k : Nat} (h : s.stkServes k = true) : HoldsLog s k l bs (tookLog s k l bs) := by
  intro r hr
  have haddr : s.logAddr k l = some (r.lo / 64 + 16384 + l % logLines) := by rw [State.logAddr, hr]; rfl
  have hplace : (r.lo / 64 + 16384 + l % logLines) * 64 = r.lo + 2 ^ 20 + 64 * (l % logLines) := by
    unfold Region.lo mib64
    omega
  have htook : tookLog s k l bs = s.updStk k (fun y => y.writeLine (r.lo / 64 + 16384 + l % logLines) bs) := by
    simp only [tookLog, haddr, if_pos h]
  rw [htook, stk_updStk_same, ← hplace]
  exact ⟨read_writeLine .., bytesBut_writeLine _ _ _⟩

end Log

section Journal

variable {s : State} {n : Nat} {rest : List JLine}

theorem journalReady_eq : s.journalReady n = true ↔
    (s.stkServes n = true ∨ (s.stk n).st = .down) ∧ (s.stkServes (n + 8) = true ∨ (s.stk (n + 8)).st = .down) ∧
      (s.stkServes n = true ∨ s.stkServes (n + 8) = true) := by
  simp [State.journalReady, and_assoc]

theorem journalLineWrite_log {l : Nat} {bs : List Byte} (hq : (s.jrn.pair n).lineQ = .log l bs :: rest)
    (hready : s.journalReady n = true) (hfree : s.journalHeld n (.log l bs) = false) : s.journalLineWrite n =
      (tookLog (tookLog s n l bs) (n + 8) l bs).setPair n (Pair.settled { s.jrn.pair n with lineQ := rest }) := by
  have hdone : (s.jrn.pair n).lineDone = Pair.settled { s.jrn.pair n with lineQ := rest } := by simp only [Pair.lineDone, hq]
  simp only [State.journalLineWrite, hq, hready, hfree, and_self, if_true, hdone]
  rfl

theorem journalLineWrite_ctl {b : Bool} {c : Ctl} {m : Nat} (hq : (s.jrn.pair n).lineQ = .ctl b c m :: rest)
    (hready : s.journalReady n = true) : s.journalLineWrite n = s.setPair n (s.jrn.pair n).lineDone := by
  simp only [State.journalLineWrite, hq, hready, State.journalHeld, and_self, if_true]

theorem journalLineWrite_idle (h : s.stkServes n = false) (h' : s.stkServes (n + 8) = false) : s.journalLineWrite n = s := by
  have hready : ¬ s.journalReady n = true := by simp [journalReady_eq, h, h']
  simp only [State.journalLineWrite, hready]
  split <;> rfl

/-- One pair has changed, and nothing else of the journal. -/
def PairBecomes (n : Nat) (s : State) (y : Pair) (t : State) : Prop :=
  t.jrn.pair n = y ∧ (∀ q, q ≠ n → t.jrn.pair q = s.jrn.pair q) ∧ t.jrn = { s.jrn with pairs := t.jrn.pairs }

theorem pairBecomes_setPair (s : State) (n : Nat) (y : Pair) : PairBecomes n s y (s.setPair n y) :=
  ⟨(pair_setPair ..).trans (if_pos rfl), fun _ hq => (pair_setPair ..).trans (if_neg hq), rfl⟩

theorem PairBecomes.of_jrn {s s' t : State} {y : Pair} (h : PairBecomes n s y t) (hjrn : s'.jrn = s.jrn) :
    PairBecomes n s' y t := by
  simpa only [PairBecomes, hjrn] using h

end Journal

section Lines

variable {s : State} {n : Fin 8} {l : Nat} {bs : List Byte} {rest : List JLine}
  (hq : (s.jrn.pair n).lineQ = .log l bs :: rest) (hfree : s.journalHeld n (.log l bs) = false)
include hq hfree

/-- A log line that has been taken by what is left of its pair. -/
def LogTaken (s : State) (n : Nat) (rest : List JLine) (t : State) : Prop :=
  PairBecomes n s (Pair.settled { s.jrn.pair n with lineQ := rest }) t ∧ KeepsBut [.stks, .jrn] s t

/-- A log line that a pair with a stack in service takes. -/
theorem runs_journalLog {u : State} {P : State → Prop} (hready : s.journalReady n = true)
    (hu : tookLog (tookLog s n l bs) (n + 8) l bs = u)
    (h : P (u.setPair n (Pair.settled { s.jrn.pair n with lineQ := rest }))) :
    Runs (.journalLineWrite n) s (fun t => P t ∧ LogTaken s n rest t) := by
  subst hu
  have hstks := KeepsBut_trans (keeps_tookLog s n l bs) (keeps_tookLog _ (n + 8) l bs)
  have hkeeps := KeepsBut_append hstks (keeps_setPair _ n (Pair.settled { s.jrn.pair n with lineQ := rest }))
  have hpair := (pairBecomes_setPair (tookLog (tookLog s n l bs) (n + 8) l bs) n
    (Pair.settled { s.jrn.pair n with lineQ := rest })).of_jrn
    (hstks.2 .jrn (by decide)).symm
  exact runs_of_actStack (f := fun s => s.journalLineWrite n.val) rfl (journalLineWrite_log hq hready hfree) hkeeps (by decide)
    ⟨h, hpair, hkeeps⟩

theorem runs_logBoth (hup : (s.stk n).st = .service) (hup' : (s.stk (n.val + 8)).st = .service) :
    Runs (.journalLineWrite n) s (fun t => (HoldsLog s n l bs t ∧ HoldsLog s (n.val + 8) l bs t ∧
      StksBut [n.val, n.val + 8] s t) ∧ LogTaken s n rest t) := by
  have hserves := stkServes_iff.2 hup
  have hserves' := stkServes_iff.2 hup'
  have hfirst := stksBut_tookLog s n l bs
  have hsecond := stksBut_tookLog (tookLog s n l bs) (n + 8) l bs
  have hother : (tookLog s n l bs).stk (n + 8) = s.stk (n + 8) := hfirst _ (by simp)
  have hserves'' : (tookLog s n l bs).stkServes (n + 8) = true := stkServes_iff.2 (by rw [hother]; exact hup')
  have hmap := (keeps_tookLog s n l bs).2 .pmap (by decide)
  refine runs_journalLog hq hfree (journalReady_eq.2 ⟨.inl hserves, .inl hserves', .inl hserves⟩) rfl ⟨?_, ?_, ?_⟩
  · exact (holdsLog_tookLog l bs hserves).congr rfl rfl (hsecond _ (by simp))
  · exact (holdsLog_tookLog l bs hserves'').congr hmap.symm hother.symm rfl
  · exact StksBut_trans (StksBut_mono hfirst (by simp)) (StksBut_mono hsecond (by simp))

theorem runs_logFirst (hup : (s.stk n).st = .service) (hdown : (s.stk (n.val + 8)).st = .down) :
    Runs (.journalLineWrite n) s (fun t => (HoldsLog s n l bs t ∧ StksBut [n.val] s t) ∧ LogTaken s n rest t) := by
  have hserves := stkServes_iff.2 hup
  have hother : (tookLog s n l bs).stk (n + 8) = s.stk (n + 8) := stksBut_tookLog s n l bs _ (by simp)
  have hidle : (tookLog s n l bs).stkServes (n + 8) = false := by simp [State.stkServes, hother, hdown]
  refine runs_journalLog hq hfree (journalReady_eq.2 ⟨.inl hserves, .inr hdown, .inl hserves⟩) (tookLog_idle l bs hidle)
    ⟨?_, ?_⟩
  · exact holdsLog_tookLog l bs hserves
  · exact stksBut_tookLog s n l bs

theorem runs_logSecond (hdown : (s.stk n).st = .down) (hup : (s.stk (n.val + 8)).st = .service) :
    Runs (.journalLineWrite n) s (fun t =>
      (HoldsLog s (n.val + 8) l bs t ∧ StksBut [n.val + 8] s t) ∧ LogTaken s n rest t) := by
  have hserves := stkServes_iff.2 hup
  have hidle : s.stkServes n = false := by simp [State.stkServes, hdown]
  refine runs_journalLog hq hfree (journalReady_eq.2 ⟨.inr hdown, .inl hserves, .inr hserves⟩)
    (by rw [tookLog_idle l bs hidle]) ⟨?_, ?_⟩
  · exact holdsLog_tookLog l bs hserves
  · exact stksBut_tookLog s (n + 8) l bs

end Lines

section Blocks

variable {s : State} {n : Fin 8} {b : Bool} {c : Ctl} {m : Nat} {rest : List JLine}
  (hq : (s.jrn.pair n).lineQ = .ctl b c m :: rest) (hup : (s.stk n).st = .service) (hup' : (s.stk (n.val + 8)).st = .service)
include hq hup hup'

/-- A line of a control block goes to both stacks of the pair. -/
theorem runs_journalCtl {P : State → Prop} (h : P (s.setPair n (s.jrn.pair n).lineDone)) :
    Runs (.journalLineWrite n) s (fun t => P t ∧ PairBecomes n s (t.jrn.pair n) t ∧ KeepsBut [.jrn] s t) := by
  have hready : s.journalReady n = true :=
    journalReady_eq.2 ⟨.inl (stkServes_iff.2 hup), .inl (stkServes_iff.2 hup'), .inl (stkServes_iff.2 hup)⟩
  have hpair := pairBecomes_setPair s n (s.jrn.pair n).lineDone
  exact runs_of_actStack (f := fun s => s.journalLineWrite n.val) rfl (journalLineWrite_ctl hq hready) (keeps_setPair s n _)
    (by decide) ⟨h, ⟨rfl, hpair.2⟩, keeps_setPair s n _⟩

/-- With its last line a control block is valid (R365). -/
theorem runs_ctlLast (hm : m ≤ 1) : Runs (.journalLineWrite n) s (fun t =>
    ((if b then (t.jrn.pair n).ctlA else (t.jrn.pair n).ctlB) = { c with valid := true } ∧
      (t.jrn.pair n).tail = c.tail ∧ (t.jrn.pair n).lineQ = rest) ∧
      PairBecomes n s (t.jrn.pair n) t ∧ KeepsBut [.jrn] s t) := by
  refine runs_journalCtl hq hup hup' ?_
  have hdone : (s.jrn.pair n).lineDone = Pair.withCtl { s.jrn.pair n with lineQ := rest } b c := by
    simp only [Pair.lineDone, hq, if_pos hm]
  rw [(pairBecomes_setPair s n _).1, hdone]
  cases b
  · exact ⟨rfl, rfl, rfl⟩
  · exact ⟨rfl, rfl, rfl⟩

/-- Until then it is not. -/
theorem runs_ctlMore (hm : 1 < m) : Runs (.journalLineWrite n) s (fun t =>
    ((if b then (t.jrn.pair n).ctlA else (t.jrn.pair n).ctlB).valid = false ∧
      (t.jrn.pair n).lineQ = .ctl b c (m - 1) :: rest) ∧ PairBecomes n s (t.jrn.pair n) t ∧ KeepsBut [.jrn] s t) := by
  refine runs_journalCtl hq hup hup' ?_
  rw [(pairBecomes_setPair s n _).1]
  simp only [Pair.lineDone, hq, if_neg (Nat.not_le.2 hm)]
  cases b
  · exact ⟨rfl, rfl⟩
  · exact ⟨rfl, rfl⟩

end Blocks

/-- With neither stack of a pair in service its lines wait. -/
theorem exec_journalWaits {s : State} {n : Fin 8} (hfirst : (s.stk n).st ≠ .service)
    (hsecond : (s.stk (n.val + 8)).st ≠ .service) :
    exec (.journalLineWrite n) s = .next s :=
  exec_of_actStack_same (f := fun s => s.journalLineWrite n.val) rfl
    (journalLineWrite_idle (Bool.eq_false_iff.2 (mt stkServes_iff.1 hfirst)) (Bool.eq_false_iff.2 (mt stkServes_iff.1 hsecond)))

end Sys2Proof.Proofs.JournalLines
end

section
/-! Refresh, the scrubber, and the upkeep of a stack as a whole (R152, R164, R166, R167, R173, R176, R177, R505). -/

namespace Sys2Proof.Proofs.StackUpkeep

open Sys2Proof.Machine Sys2Proof.Safety Sys2Proof.Laws
open Sys2Proof.Proofs.Frames Sys2Proof.Proofs.StackLines Sys2Proof.Proofs.StackSteps
open Sys2Proof.Proofs.MirrorCopies Sys2Proof.Proofs.JournalLines
open Sys2Proof.Proofs.HostCommands (rd_of_regs)

/-! ### Refresh (R152, R164) -/

/-- A table without the keys of a kind. -/
theorem find_filter_keys {α : Type} (m : NatMap α) (which : Nat → Bool) (j : Nat) :
    NatMap.find (m.filter (fun e => !(which e.1))) j = if which j then none else NatMap.find m j := by
  induction m with
  | nil => simp [NatMap.find]
  | cons e m ih =>
    by_cases he : which e.1 = true
    · by_cases hj : e.1 = j
      · subst hj; simp [he, ih]
      · simp [he, ih, NatMap.find, hj]
    · by_cases hj : e.1 = j
      · subst hj; simp [he, NatMap.find]
      · simp [he, NatMap.find, hj, ih]

/-- A refresh has been counted: of its stack the refreshes, the halved interval and the rows of banks may differ. -/
def Refreshed (k : StkNo) (s t : State) : Prop :=
  t.stk k = { s.stk k with refreshes := (s.stk k).refreshes + 1, hot := decide (85 < (s.stk k).temp)
                           openRows := (t.stk k).openRows, hits := (t.stk k).hits } ∧
    StksBut [k.val] s t ∧ KeepsBut [.stks] s t

theorem refreshed_setStk (s : State) (k : StkNo) (rows hits : NatMap Nat) :
    Refreshed k s (s.setStk k { s.stk k with refreshes := (s.stk k).refreshes + 1, hot := decide (85 < (s.stk k).temp)
                                             openRows := rows, hits := hits }) := by
  refine ⟨?_, stksBut_setStk s k _, keeps_setStk s k _⟩
  rw [stk_setStk, if_pos rfl]

section Refresh

variable {s : State} {k : StkNo} (hst : (s.stk k).st = .service ∨ (s.stk k).st = .training)
include hst

/-- A refresh of a bank closes the rows of that bank, in training of all (R152). -/
theorem runs_refresh (b : Fin 48) : Runs (.refresh k b) s (fun t => Refreshed k s t ∧
    ∀ j, NatMap.find (t.stk k).openRows j =
      if (s.stk k).st = .training ∨ j % 48 = b.val then none else NatMap.find (s.stk k).openRows j) := by
  have hu : s.refresh k b = s.setStk k { (s.stk k).close (fun j => decide ((s.stk k).st = .training ∨ j % stackBanks = b)) with
      refreshes := (s.stk k).refreshes + 1, hot := decide (85 < (s.stk k).temp) } := if_pos hst
  refine runs_of_actStack (f := fun s => s.refresh k.val b.val) rfl hu (keeps_setStk s k _) (by decide)
    ⟨refreshed_setStk s k _ _, fun j => ?_⟩
  rw [stk_setStk, if_pos rfl]
  exact (find_filter_keys _ (fun j => decide ((s.stk k).st = .training ∨ j % stackBanks = b)) j).trans
    (if_congr decide_eq_true_iff rfl rfl)

theorem runs_refreshManagement : Runs (.refreshManagement k) s (fun t => Refreshed k s t ∧
    (t.stk k).openRows = (s.stk k).openRows) := by
  refine runs_of_actStack (f := fun s => s.refreshManagement k.val) rfl (if_pos hst) (keeps_setStk s k _) (by decide)
    ⟨refreshed_setStk s k _ _, ?_⟩
  rw [stk_setStk, if_pos rfl]

end Refresh

/-! ### Reading an uncorrectable line (R162, R173, R505) -/

/-- The codes have acted on an uncorrectable line, and it has been noted. -/
def correctedBad (s : State) (k l : Nat) (ok : Bool) : State :=
  (s.correct k l).noteBad k (l * 64) ((s.correct k l).lineType k (l * 64)) ok

theorem lineGood_correct_bad {s : State} {k l : Nat} (hbad : l ∈ (s.stk k).bad) : (s.correct k l).lineGood k l = false := by
  simp [State.lineGood, (correct_corrected s k l).bad, hbad]

section Read

variable {s : State} {k l : Nat} (hserves : s.stkServes k = true) (hbad : l ∈ (s.stk k).bad)
include hserves hbad

/-- An uncorrectable line without a copy is posted and left. -/
theorem readLine_lost (src : Option Src)
    (hno : (s.regionAt k (l * 64) 64).bind (fun r => s.mirrorAddr k r (l * 64)) = none) : s.readLine k l src =
      ⟨(correctedBad s k l false).postStackEcc k (l * 64) ((s.correct k l).lineType k (l * 64)) false (srcCode src).1
        (srcCode src).2, List.replicate 64 0, true⟩ := by
  simp only [State.readLine, hserves, if_true, lineGood_correct_bad hbad, hno, stkServes_correct hserves]
  rfl

/-- An uncorrectable line with a correct copy is rewritten from it. -/
theorem readLine_copied (src : Option Src) {a : Nat}
    (haddr : (s.regionAt k (l * 64) 64).bind (fun r => s.mirrorAddr k r (l * 64)) = some a)
    (hpartner : s.stkServes (partner k) = true) (hpbad : a / 64 ∉ (s.stk (partner k)).bad)
    (hpcorr : a / 64 ∉ (s.stk (partner k)).corr) (hpodie : a / 64 ∉ (s.stk (partner k)).odie) : s.readLine k l src =
      ⟨(correctedBad s k l true).updStk k (fun x => x.writeLine l ((s.stk (partner k)).line (a / 64))),
        (s.stk (partner k)).line (a / 64), false⟩ := by
  have hother : (s.correct k l).stk (partner k) = s.stk (partner k) :=
    (correct_corrected s k l).others _ (by simpa using partner_ne k)
  have hserves' : (s.correct k l).stkServes (partner k) = true := by
    rw [State.stkServes, hother]; exact hpartner
  have hsame : (s.correct k l).correct (partner k) (a / 64) = s.correct k l :=
    correct_none (by rw [hother]; exact hpcorr) (by rw [hother]; exact hpodie)
  have hgood : (s.correct k l).lineGood (partner k) (a / 64) = true := by simp [State.lineGood, hserves', hother, hpbad]
  simp only [State.readLine, hserves, if_true, lineGood_correct_bad hbad, haddr, hserves', hsame, hgood, hother,
    stkServes_correct hserves]
  rfl

end Read

/-! ### The scrubber (R166, R167, R173, R176, R177, R505) -/

/-- The counters of a stack hold the corrections of a line and `n` uncorrectable ones more. -/
structure Counted (k l n : Nat) (s t : State) : Prop where
  onDie  : t.rd (Reg.STK_ECC_COUNT_ODIE_CORR k) =
    min (s.rd (Reg.STK_ECC_COUNT_ODIE_CORR k) + b2n ((s.stk k).odie.contains l)) (2 ^ 24 - 1)
  ctrl   : t.rd (Reg.STK_ECC_COUNT_CTRL_CORR k) =
    min (s.rd (Reg.STK_ECC_COUNT_CTRL_CORR k) + b2n ((s.stk k).corr.contains l)) (2 ^ 24 - 1)
  uncorr : t.rd (Reg.STK_ECC_COUNT_CTRL_UNCORR k) = min (s.rd (Reg.STK_ECC_COUNT_CTRL_UNCORR k) + n) (2 ^ 16 - 1)
  regs   : RegsBut [Reg.STK_ECC_COUNT k, Reg.STK_ECC_ADDR k] s t
  others : StksBut [k] s t

/-- STKn_ECC_ADDR holds a line, if it was free (R177). -/
def Kept (k addr typ ok : Nat) (s t : State) : Prop := s.rd (Reg.STK_ECC_ADDR_VALID k) = 0 →
  t.rd (Reg.STK_ECC_ADDR_ADDR k) = addr % 2 ^ 37 ∧ t.rd (Reg.STK_ECC_ADDR_TYPE k) = typ % 16 ∧
    t.rd (Reg.STK_ECC_ADDR_COPY_OK k) = ok ∧ t.rd (Reg.STK_ECC_ADDR_VALID k) = 1

theorem Kept.of_regs {k addr typ ok : Nat} {s t u : State} (h : Kept k addr typ ok s t) (hregs : u.regs = t.regs) :
    Kept k addr typ ok s u := by
  simpa only [Kept, rd_of_regs hregs] using h

section Count

variable {k l n : Nat} {s t u : State}

/-- What changes no register and no other stack leaves the count. -/
theorem Counted.step (h : Counted k l n s t) (hregs : u.regs = t.regs) (hothers : StksBut [k] t u) : Counted k l n s u where
  onDie := (rd_of_regs hregs _).trans h.onDie
  ctrl := (rd_of_regs hregs _).trans h.ctrl
  uncorr := (rd_of_regs hregs _).trans h.uncorr
  regs := RegsBut_trans h.regs (RegsBut_of_regs hregs _)
  others := StksBut_trans h.others hothers

theorem counted_correct (s : State) (k l : Nat) : Counted k l 0 s (s.correct k l) where
  onDie := (correct_corrected s k l).onDie
  ctrl := (correct_corrected s k l).ctrl
  uncorr := (correct_corrected s k l).uncorr.trans (Nat.min_eq_left (rd_le_max s (Reg.STK_ECC_COUNT_CTRL_UNCORR k))).symm
  regs := RegsBut_mono (correct_corrected s k l).regs (by simp)
  others := (correct_corrected s k l).others

theorem noted_correctedBad (s : State) (k l : Nat) (ok : Bool) :
    NotedBad k (l * 64) ((s.correct k l).lineType k (l * 64)) ok (s.correct k l) (correctedBad s k l ok) :=
  noteBad_noted _ k _ _ ok

theorem stk_correctedBad (s : State) (k l : Nat) (ok : Bool) (j : Nat) :
    (correctedBad s k l ok).stk j = (s.correct k l).stk j := by
  rw [State.stk, (noted_correctedBad s k l ok).keeps.2 .stks (by decide), State.stk]

theorem counted_correctedBad (s : State) (k l : Nat) (ok : Bool) : Counted k l 1 s (correctedBad s k l ok) where
  onDie := (noted_correctedBad s k l ok).onDie.trans (correct_corrected s k l).onDie
  ctrl := (noted_correctedBad s k l ok).ctrl.trans (correct_corrected s k l).ctrl
  uncorr := by rw [(noted_correctedBad s k l ok).uncorr, (correct_corrected s k l).uncorr]
  regs := RegsBut_trans (counted_correct s k l).regs (noted_correctedBad s k l ok).regs
  others := StksBut_trans (correct_corrected s k l).others fun j _ => stk_correctedBad s k l ok j

theorem lineType_correct (s : State) (k l : Nat) {r : Region} (hr : s.regionAt k (l * 64) 64 = some r) :
    (s.correct k l).lineType k (l * 64) = r.typ := by
  have hmap : (s.correct k l).pmap = s.pmap := (correct_corrected s k l).keeps.2 .pmap (by decide)
  have hr' : (s.correct k l).regionAt k (l * 64) 64 = some r := by
    simpa only [State.regionAt, State.regions, hmap] using hr
  simp only [State.lineType, hr']

theorem kept_correctedBad {r : Region} (hr : s.regionAt k (l * 64) 64 = some r) (ok : Bool) :
    Kept k (l * 64) r.typ (b2n ok) s (correctedBad s k l ok) := by
  intro hfree
  have hvalid : (s.correct k l).rd (Reg.STK_ECC_ADDR_VALID k) = 0 :=
    (rd_of_regsBut (correct_corrected s k l).regs (mt List.mem_singleton.1 (eccAddr_ne_eccCount k))).trans hfree
  have hfirst := (noted_correctedBad s k l ok).first hvalid
  rwa [lineType_correct s k l hr] at hfirst

theorem keeps_correctedBad (s : State) (k l : Nat) (ok : Bool) : KeepsBut [.regs, .stks] s (correctedBad s k l ok) :=
  KeepsBut_trans (correct_corrected s k l).keeps (KeepsBut_mono (noted_correctedBad s k l ok).keeps (by decide))

end Count

/-- The scrubber has moved on from a line. -/
def movedOn (u : State) (k l : Nat) : State := u.updStk k (fun x => { x with scrubPos := (l + 1) % stackLines })

theorem stk_movedOn (u : State) (k l : Nat) : (movedOn u k l).stk k = { u.stk k with scrubPos := (l + 1) % stackLines } :=
  stk_updStk_same ..

theorem regs_movedOn (u : State) (k l : Nat) : (movedOn u k l).regs = u.regs := updStk_regs ..

theorem keeps_movedOn (u : State) (k l : Nat) : KeepsBut [.stks] u (movedOn u k l) := keeps_updStk u k _

theorem slice_line (x : Stk) (l : Nat) : slice (x.line l) 0 64 = x.line l := by
  rw [slice_of_le (by simp [Stk.line]), List.drop_zero, List.take_of_length_le (by simp [Stk.line])]

/-- What the scrubber has done with its line, the counters holding `n` uncorrectable lines more. -/
def Scrubbed (k : StkNo) (l n : Nat) (s t : State) : Prop :=
  (t.stk k).scrubPos = (l + 1) % stackLines ∧ StksBut [k.val] s t ∧
    t.rd (Reg.STK_ECC_COUNT_ODIE_CORR k) =
      min (s.rd (Reg.STK_ECC_COUNT_ODIE_CORR k) + b2n ((s.stk k).odie.contains l)) (2 ^ 24 - 1) ∧
    t.rd (Reg.STK_ECC_COUNT_CTRL_CORR k) =
      min (s.rd (Reg.STK_ECC_COUNT_CTRL_CORR k) + b2n ((s.stk k).corr.contains l)) (2 ^ 24 - 1) ∧
    t.rd (Reg.STK_ECC_COUNT_CTRL_UNCORR k) = min (s.rd (Reg.STK_ECC_COUNT_CTRL_UNCORR k) + n) (2 ^ 16 - 1) ∧
    RegsBut [Reg.STK_ECC_COUNT k, Reg.STK_ECC_ADDR k] s t

theorem scrubbed_movedOn {k : StkNo} {l n : Nat} {s u : State} (h : Counted k l n s u) : Scrubbed k l n s (movedOn u k l) := by
  have hmoved := h.step (regs_movedOn u k l) (stksBut_updStk u k _)
  exact ⟨by rw [stk_movedOn], hmoved.others, hmoved.onDie, hmoved.ctrl, hmoved.uncorr, hmoved.regs⟩

section Scrub

variable {s : State} {k : StkNo} {l : Nat} (hl : (s.stk k).scrubPos = l) (hst : (s.stk k).st = .service)
  (hen : s.rd (Reg.STK_CTRL_SCRUB_EN k) = 1) (hjournal : s.journalFirst k = false) (hpick : s.pick k = none)
  (hfree : (s.stk k).retraining = none)
include hl hst hen hjournal hpick hfree

/-- With nothing else to do the scrubber reads its line and moves on. -/
theorem runs_scrub {u : State} {bs : List Byte} {p : Bool} {m : List Part} {P : State → Prop}
    (hread : s.readLine k l none = ⟨u, bs, p⟩) (hk : KeepsBut m s u) (hm : m ⊆ stackParts) (hP : P (movedOn u k l)) :
    Runs (.scrubRead k) s P := by
  subst hl
  have hturn : s.scrubTurn k = true := by
    simp [State.scrubTurn, State.rdb, hen, stkServes_iff.2 hst, hjournal, hpick, Stk.channelFree, hfree]
  have hu : s.scrubRead k = movedOn u k (s.stk k).scrubPos := by
    simp only [State.scrubRead, hturn, if_true, hread]
    rfl
  exact runs_of_actStack (f := fun s => s.scrubRead k.val) rfl hu (KeepsBut_append hk (keeps_movedOn u k _))
    (List.append_subset.2 ⟨hm, by decide⟩) hP

theorem runs_scrubGood (hbad : l ∉ (s.stk k).bad) : Runs (.scrubRead k) s (fun t => Scrubbed k l 0 s t ∧
    (t.stk k).mem = (s.stk k).mem ∧ l ∉ (t.stk k).corr ∧ l ∉ (t.stk k).odie ∧ (t.stk k).bad = (s.stk k).bad ∧
    KeepsBut [.regs, .stks] s t) := by
  have hc := correct_corrected s k l
  have hkeeps := KeepsBut_trans hc.keeps (KeepsBut_mono (keeps_movedOn _ k l) (by decide))
  refine runs_scrub hl hst hen hjournal hpick hfree (readLine_good (stkServes_iff.2 hst) none hbad) hc.keeps (by decide)
    ⟨scrubbed_movedOn (counted_correct s k l), ?_⟩
  rw [stk_movedOn]
  exact ⟨hc.mem, hc.corr, hc.odie, hc.bad, hkeeps⟩

variable {r : Region} (hr : s.regionAt k (l * 64) 64 = some r) (hbad : l ∈ (s.stk k).bad)
include hr hbad

/-- An uncorrectable line is rewritten from its copy (R167, R173). -/
theorem runs_scrubCopied {a : Nat} (ha : s.mirrorAddr k r (l * 64) = some a) (hpst : (s.stk (partner k)).st = .service)
    (hpbad : a / 64 ∉ (s.stk (partner k)).bad) (hpcorr : a / 64 ∉ (s.stk (partner k)).corr)
    (hpodie : a / 64 ∉ (s.stk (partner k)).odie) : Runs (.scrubRead k) s (fun t =>
      Scrubbed k l 1 s t ∧ Kept k (l * 64) r.typ 1 s t ∧ l ∉ (t.stk k).bad ∧
      Mem.read (t.stk k).mem (l * 64) 64 = Mem.read (s.stk (partner k)).mem (a / 64 * 64) 64 ∧
      BytesBut (l * 64) 64 (s.stk k).mem (t.stk k).mem ∧ KeepsBut [.regs, .stks] s t) := by
  have haddr : (s.regionAt k (l * 64) 64).bind (fun r => s.mirrorAddr k r (l * 64)) = some a := by rw [hr]; exact ha
  have hread := readLine_copied (stkServes_iff.2 hst) hbad none haddr (stkServes_iff.2 hpst) hpbad hpcorr hpodie
  have hcounted := counted_correctedBad s k l true
  have hkept := kept_correctedBad hr true
  have hkeeps := keeps_correctedBad s k l true
  have hmem : ((correctedBad s k l true).stk k).mem = (s.stk k).mem := by
    rw [stk_correctedBad, (correct_corrected s k l).mem]
  generalize correctedBad s k l true = v at hread hcounted hkept hkeeps hmem
  generalize hbs : (s.stk (partner k)).line (a / 64) = bs at hread
  have hkeeps' := KeepsBut_trans hkeeps (KeepsBut_mono (keeps_updStk v k (fun x => x.writeLine l bs)) (by decide))
  refine runs_scrub hl hst hen hjournal hpick hfree hread hkeeps' (by decide)
    ⟨scrubbed_movedOn (hcounted.step (updStk_regs ..) (stksBut_updStk v k _)),
      hkept.of_regs ((regs_movedOn ..).trans (updStk_regs ..)), ?_⟩
  have hlast := KeepsBut_trans hkeeps' (KeepsBut_mono (keeps_movedOn _ k l) (by decide))
  rw [stk_movedOn, stk_updStk_same]
  refine ⟨not_mem_bad_writeLine (v.stk k) l bs, (read_writeLine (v.stk k) l bs).trans ?_, ?_, hlast⟩
  · rw [← hbs, slice_line, Stk.line]
  · have hbut := bytesBut_writeLine (v.stk k) l bs
    rwa [hmem] at hbut

/-- An uncorrectable line without a copy is posted and left (R167, R177, R505). -/
theorem runs_scrubLost (hno : s.mirrorAddr k r (l * 64) = none) : Runs (.scrubRead k) s (fun t =>
    Scrubbed k l 1 s t ∧ Kept k (l * 64) r.typ 0 s t ∧ (t.stk k).bad = (s.stk k).bad ∧ (t.stk k).mem = (s.stk k).mem ∧
      t.io.events = s.io.events ++ [{ code := Code.stackEccUncorr, stop := false, source := Source.stk, loc := k, stream := none
                                      time := s.now64, detail := BitVec.ofNat 64 (l * 64 + r.typ * 2 ^ 37 + 3 * 2 ^ 42) }] ∧
      KeepsBut [.regs, .stks, .io] s t) := by
  have hnone : (s.regionAt k (l * 64) 64).bind (fun r => s.mirrorAddr k r (l * 64)) = none := by rw [hr]; exact hno
  have hread := readLine_lost (stkServes_iff.2 hst) hbad none hnone
  rw [lineType_correct s k l hr, State.postStackEcc] at hread
  have hcounted := counted_correctedBad s k l false
  have hkept := kept_correctedBad hr false
  have hkeeps := keeps_correctedBad s k l false
  have hstk := stk_correctedBad s k l false k
  have hc := correct_corrected s k l
  generalize correctedBad s k l false = v at hread hcounted hkept hkeeps hstk
  have hio : v.io = s.io := hkeeps.2 .io (by decide)
  have htime : v.time = s.time := hkeeps.2 .time (by decide)
  have hdetail : l * 64 + r.typ * 2 ^ 37 + b2n false * 2 ^ 41 + (srcCode none).1 * 2 ^ 42 + (srcCode none).2 * 2 ^ 44 =
      l * 64 + r.typ * 2 ^ 37 + 3 * 2 ^ 42 := by simp [b2n, srcCode]
  rw [hdetail] at hread
  have hposted := KeepsBut_append hkeeps (keeps_post v Code.stackEccUncorr Source.stk k (l * 64 + r.typ * 2 ^ 37 + 3 * 2 ^ 42))
  refine runs_scrub hl hst hen hjournal hpick hfree hread hposted (by decide)
    ⟨scrubbed_movedOn (hcounted.step (post_regs ..) (StksBut_of_stks (post_stks ..) _)),
      hkept.of_regs ((regs_movedOn ..).trans (post_regs ..)), ?_⟩
  rw [stk_movedOn, stk_after_post, hstk]
  refine ⟨hc.bad, hc.mem, ?_, KeepsBut_trans hposted (KeepsBut_mono (keeps_movedOn _ k l) (by decide))⟩
  rw [movedOn, updStk_io]
  simp only [State.post, State.postEvent, hio, State.now64, State.devTime, htime]

end Scrub

/-- The host's clearing of STKn_ECC_ADDR (R177). -/
theorem runs_eccAddrClear {s : State} {k : StkNo} (hlink : Linked s) (hon : s.pdOn (66 + k.val) = true) :
    Runs (.stknEccAddrClear k) s (fun t => t.reg (Reg.STK_ECC_ADDR k) = 0 ∧ RegsBut [Reg.STK_ECC_ADDR k] s t ∧
      KeepsBut [.regs] s t) := by
  have hu : s.when (s.host.linkUp && s.pdOn (66 + k.val)) (fun s => s.setReg (Reg.STK_ECC_ADDR k.val) 0) =
      s.setReg (Reg.STK_ECC_ADDR k.val) 0 := if_pos (by rw [show s.host.linkUp = true from hlink, hon]; rfl)
  refine runs_of_actStack
    (f := fun s => s.when (s.host.linkUp && s.pdOn (66 + k.val)) (fun s => s.setReg (Reg.STK_ECC_ADDR k.val) 0))
    rfl hu (keeps_setReg s _ 0) (by decide) ⟨?_, regs_setReg s _ 0, keeps_setReg s _ 0⟩
  rw [reg_setReg, if_pos rfl]

/-- Settles O36: one rule for each kind of upkeep, in the order of the statement. -/
theorem stackUpkeep : Obligations.StackUpkeep := by
  unfold Obligations.StackUpkeep
  intro s k x p
  refine ⟨fun l bs rest hcopies => ⟨runs_copyDropped hcopies, ?_, exec_copyWaits hcopies⟩, ?_, fun n => ⟨?_, ?_, ?_⟩,
    fun hst => ⟨runs_refresh hst, runs_refreshManagement hst⟩, ?_, runs_eccAddrClear⟩
  · exact fun a hst hjournal hpick => runs_lineLands hst hjournal hpick hcopies
  · exact fun key rest hcopies hst hjournal hpick => runs_snapLands hst hjournal hpick hcopies
  · intro l bs rest hq hfree
    refine ⟨fun hup hup' => ?_, fun hup hdown => ?_, fun hdown hup => ?_⟩
    · obtain ⟨t, ht, ⟨h, h', hothers⟩, hgone⟩ := runs_logBoth hq hfree hup hup'
      exact ⟨t, ht, h, h', hothers, hgone⟩
    · obtain ⟨t, ht, ⟨h, hothers⟩, hgone⟩ := runs_logFirst hq hfree hup hdown
      exact ⟨t, ht, h, hothers, hgone⟩
    · obtain ⟨t, ht, ⟨h, hothers⟩, hgone⟩ := runs_logSecond hq hfree hdown hup
      exact ⟨t, ht, h, hothers, hgone⟩
  · intro b c m rest hq hup hup'
    refine ⟨fun hm => ?_, fun hm => ?_⟩
    · obtain ⟨t, ht, ⟨hctl, htail, hline⟩, hpair, hkeeps⟩ := runs_ctlLast hq hup hup' hm
      exact ⟨t, ht, hctl, htail, hline, hpair, hkeeps⟩
    · obtain ⟨t, ht, ⟨hctl, hline⟩, hpair, hkeeps⟩ := runs_ctlMore hq hup hup' hm
      exact ⟨t, ht, hctl, hline, hpair, hkeeps⟩
  · exact fun hfirst hsecond => exec_journalWaits hfirst hsecond
  · intro hst hen hjournal hpick hfree r hr l moved first
    refine ⟨runs_scrubGood rfl hst hen hjournal hpick hfree, fun hbad a ha hpst hpbad hpcorr hpodie =>
      runs_scrubCopied rfl hst hen hjournal hpick hfree hr hbad ha hpst hpbad hpcorr hpodie, fun hbad hno =>
      runs_scrubLost rfl hst hen hjournal hpick hfree hr hbad hno⟩

end Sys2Proof.Proofs.StackUpkeep
end

section
/-! Requests at a stack controller: which it permits, what a refusal counts, which request it serves next, and what serving
one leaves of the queue (R156, R159, R164, R169, R179). -/

namespace Sys2Proof.Proofs.StackService

open Sys2Proof.Machine Sys2Proof.Safety Sys2Proof.Laws
open Sys2Proof.Proofs.Frames Sys2Proof.Proofs.StackLines Sys2Proof.Proofs.StackSteps

/-! ### Permission (R159, R179) -/

/-- A refused request has been counted with its source (R179). -/
def Refused (k : Nat) (src : Src) (s t : State) : Prop :=
  t.rd (Reg.STK_REFUSED_COUNT k) = min (s.rd (Reg.STK_REFUSED_COUNT k) + 1) 0xFFFF_FFFF ∧
  t.rd (Reg.STK_REFUSED_SOURCE k) = src.code.2 % 2 ^ 20 ∧ t.rd (Reg.STK_REFUSED_SRC_KIND k) = src.code.1 ∧
  RegsBut [Reg.STK_REFUSED k] s t

theorem refused_refuse (s : State) (k : Nat) (src : Src) : Refused k src s (s.refuse k src) := by
  have hkind : src.code.1 % 2 ^ 2 = src.code.1 := by cases src <;> rfl
  have hcount := RegsBut_count s (Reg.STK_REFUSED_COUNT k) 1
  have hsource := RegsBut_trans hcount (RegsBut_wr _ (Reg.STK_REFUSED_SOURCE k) src.code.2)
  unfold State.refuse
  refine ⟨?_, ?_, ?_, RegsBut_trans hsource (RegsBut_wr _ (Reg.STK_REFUSED_SRC_KIND k) src.code.1)⟩
  · rw [rd_wr_apart _ _ rfl, rd_wr_apart _ _ rfl, rd_count_same _ _ rfl]
    rfl
  · rw [rd_wr_apart _ _ rfl, rd_wr_same _ _ rfl]
    rfl
  · exact (rd_wr_same _ _ rfl).trans hkind

theorem keeps_refuse (s : State) (k : Nat) (src : Src) : KeepsBut [.regs] s (s.refuse k src) :=
  KeepsBut_trans (KeepsBut_trans (keeps_count ..) (keeps_wr ..)) (keeps_wr ..)

/-- The count looks at the registers alone. -/
theorem Refused.of_regs {k : Nat} {src : Src} {s s' t t' : State} (h : Refused k src s t) (hs : s'.regs = s.regs)
    (ht : t'.regs = t.regs) : Refused k src s' t' := by
  simpa only [Refused, RegsBut, State.rd, State.reg, hs, ht] using h

theorem permitted_iff {s : State} {k : Nat} {q : StkReq} {w : Bool} : s.permitted k q w = true ↔
    ∃ r, s.regionAt k (q.addr / 64 * 64) (64 * q.lines) = some r ∧ s.allowed k r q.addr w q.src = true ∧
      s.allowed k r (q.addr / 64 * 64 + 64 * q.lines - 1) w q.src = true := by
  unfold State.permitted
  split
  · next r hr => simp [hr]
  · next hr => simp [hr]

/-! ### The order of service (R164, R169) -/

/-- What a fold that keeps or replaces gives is one of what it goes over. -/
theorem foldl_choice {α : Type} {f : Option α → α → Option α} (hf : ∀ b c, f b c = b ∨ f b c = some c) (l : List α)
    (b : Option α) {m : α} (h : l.foldl f b = some m) : b = some m ∨ m ∈ l := by
  induction l generalizing b with
  | nil => exact .inl h
  | cons c l ih =>
    obtain hfold | hmem := ih _ h
    · obtain hb | hc := hf b c
      · exact .inl (hb.symm.trans hfold)
      · exact .inr (List.mem_cons.2 (.inl (Option.some.inj (hfold.symm.trans hc))))
    · exact .inr (List.mem_cons_of_mem c hmem)

theorem mem_readyReqs {x : Stk} {i : Nat} {q : StkReq} (h : (i, q) ∈ x.readyReqs) :
    x.reqs[i]? = some q ∧ x.ready (x.reqs.take i) q = true := by
  obtain ⟨⟨q', i'⟩, hmem, heq⟩ := List.mem_map.1 h
  obtain ⟨rfl, rfl⟩ := Prod.mk.injEq .. ▸ heq
  obtain ⟨hzip, hready⟩ := List.mem_filter.1 hmem
  exact ⟨List.mk_mem_zipIdx_iff_getElem?.1 hzip, hready⟩

/-- The request that a stack serves next waits for nothing. -/
theorem pick_req {s : State} {k i : Nat} (h : s.pick k = some (.req i)) :
    ∃ q, (s.stk k).reqs[i]? = some q ∧ (s.stk k).ready ((s.stk k).reqs.take i) q = true := by
  obtain ⟨⟨turn, p⟩, hfold, rfl⟩ := Option.map_eq_some_iff.1 h
  have hmem := (foldl_choice (fun b c => ?_) _ none hfold).resolve_left (by simp)
  · obtain hreq | hcopy := List.mem_append.1 hmem
    · obtain ⟨⟨j, q⟩, hq, heq⟩ := List.mem_map.1 hreq
      obtain rfl : j = i := Pick.req.inj (Prod.mk.inj heq).2
      refine ⟨q, mem_readyReqs ?_⟩
      split at hq
      · exact hq
      · exact (List.mem_filter.1 hq).1
    · split at hcopy <;> simp at hcopy
  · cases b with
    | none => exact .inr rfl
    | some m =>
      by_cases hlt : c.1 < m.1
      · exact .inr (if_pos hlt)
      · exact .inl (if_neg hlt)

/-- The one request of a stack is served next, if it waits for nothing and no copy is to land. -/
theorem pick_single {s : State} {k : Nat} {q : StkReq} (hreqs : (s.stk k).reqs = [q]) (hready : (s.stk k).ready [] q = true)
    (hcopy : s.copyReady k = false) : s.pick k = some (.req 0) := by
  have hrs : (s.stk k).readyReqs = [(0, q)] := by simp [Stk.readyReqs, hreqs, hready]
  by_cases hturn : (s.stk k).mayTurn [(0, q)] q = true
  · simp [State.pick, hrs, hturn, hcopy]
  · simp [State.pick, hrs, hturn, hcopy]

/-- A request without an earlier one waits for nothing, with no copy to land and no channel retraining. -/
theorem ready_idle {x : Stk} (hcopies : x.copies = []) (hfree : x.retraining = none) (q : StkReq) : x.ready [] q = true := by
  simp [Stk.ready, Stk.channelFree, Stk.copyWaits, hcopies, hfree]

/-- A request that meets an earlier one waits behind it. -/
theorem not_ready_of_meets {x : Stk} {earlier : List StkReq} {q r : StkReq} (hr : r ∈ earlier) (hmeets : r.meets q = true) :
    x.ready earlier q = false := by
  have hsymm : q.meets r = true := by
    simp only [StkReq.meets, decide_eq_true_eq] at hmeets ⊢
    exact hmeets.symm
  simp [Stk.ready, List.any_eq_true.2 ⟨r, hr, hsymm⟩]

/-- Two states whose stacks differ in their queues alone. -/
structure SameService (s t : State) : Prop where
  jrn        : t.jrn = s.jrn
  pmap       : t.pmap = s.pmap
  st         : ∀ j, (t.stk j).st = (s.stk j).st
  retraining : ∀ j, (t.stk j).retraining = (s.stk j).retraining
  copies     : ∀ j, (t.stk j).copies = (s.stk j).copies

section Same

variable {s t : State} (h : SameService s t)
include h

theorem SameService.stkServes (j : Nat) : t.stkServes j = s.stkServes j := by simp only [State.stkServes, h.st]

theorem SameService.channelFree (j l : Nat) : (t.stk j).channelFree l = (s.stk j).channelFree l := by
  simp only [Stk.channelFree, h.retraining]

theorem SameService.journalFirst (k : Nat) : t.journalFirst k = s.journalFirst k := by
  have hready (p : Nat) : t.journalReady p = s.journalReady p := by simp only [State.journalReady, h.stkServes, h.st]
  have hheld (p : Nat) (j : JLine) : t.journalHeld p j = s.journalHeld p j := by
    simp only [State.journalHeld, State.logAddr, State.regionOf, State.regions, h.pmap, h.stkServes, h.channelFree]
  simp only [State.journalFirst, h.jrn, hready, hheld]

theorem SameService.copyReady (k : Nat) : t.copyReady k = s.copyReady k := by
  simp only [State.copyReady, State.copyAddr, State.regionAt, State.mirrorAddr, State.copyTwins, State.twins, State.regions,
    h.pmap, h.copies, h.channelFree]

end Same

/-! ### A request that is accepted (R156, R164) -/

/-- A stack with one request more. -/
def queued (s : State) (k : Nat) (q : StkReq) : State := s.updStk k (fun x => { x with reqs := x.reqs ++ [q] })

/-- Request i of a stack has left the queue. -/
def takenOff (s : State) (k i : Nat) (q : StkReq) : State := s.updStk k (fun x => x.taken i q)

section Queue

variable (s : State) (k : Nat) (q : StkReq)

theorem stk_queued : (queued s k q).stk k = { s.stk k with reqs := (s.stk k).reqs ++ [q] } := stk_updStk_same ..

theorem sameService_queued : SameService s (queued s k q) where
  jrn := updStk_jrn ..
  pmap := updStk_pmap ..
  st j := by rw [queued, stk_updStk]; split <;> simp_all
  retraining j := by rw [queued, stk_updStk]; split <;> simp_all
  copies j := by rw [queued, stk_updStk]; split <;> simp_all

theorem stksBut_queued : StksBut [k] s (queued s k q) := stksBut_updStk s k _

theorem keeps_queued : KeepsBut [.stks] s (queued s k q) := keeps_updStk s k _

theorem opened_eq (x : Stk) : ∃ rows hits, x.opened q = { x with openRows := rows, hits := hits } := by
  unfold Stk.opened
  generalize q.lineNos = ls
  induction ls generalizing x with
  | nil => exact ⟨x.openRows, x.hits, rfl⟩
  | cons l ls ih =>
    rw [List.foldl_cons]
    split
    · exact ih _
    · exact ih _

/-- A request that leaves the queue may open rows. -/
theorem stk_takenOff (i : Nat) : ∃ rows hits, (takenOff s k i q).stk k =
    { s.stk k with reqs := dropAt (s.stk k).reqs i, served := some q.input, openRows := rows, hits := hits } := by
  obtain ⟨rows, hits, hopened⟩ := opened_eq q (s.stk k)
  exact ⟨rows, hits, by rw [takenOff, stk_updStk_same, Stk.taken, hopened]⟩

theorem stksBut_takenOff (i : Nat) : StksBut [k] s (takenOff s k i q) := stksBut_updStk s k _

theorem keeps_takenOff (i : Nat) : KeepsBut [.stks] s (takenOff s k i q) := keeps_updStk s k _

end Queue

/-- A stack in service with nothing to do. -/
structure Idle (s : State) (k : Nat) : Prop where
  st         : (s.stk k).st = .service
  reqs       : (s.stk k).reqs = []
  copies     : (s.stk k).copies = []
  retraining : (s.stk k).retraining = none
  journal    : s.journalFirst k = false
  copyReady  : s.copyReady k = false

/-- The state in which a stack with nothing else to do serves a request. -/
def atOnce (s : State) (k : Nat) (q : StkReq) : State := takenOff (queued s k q) k 0 q

section Idle

variable {s : State} {k : Nat} (h : Idle s k) (q : StkReq)

theorem stk_atOnce (hreqs : (s.stk k).reqs = []) : ∃ rows hits, (atOnce s k q).stk k =
    { s.stk k with reqs := [], served := some q.input, openRows := rows, hits := hits } := by
  obtain ⟨rows, hits, htaken⟩ := stk_takenOff (queued s k q) k q 0
  refine ⟨rows, hits, ?_⟩
  rw [atOnce, htaken, stk_queued, hreqs]
  rfl

theorem stksBut_atOnce : StksBut [k] s (atOnce s k q) := StksBut_trans (stksBut_queued s k q) (stksBut_takenOff _ k q 0)

theorem keeps_atOnce : KeepsBut [.stks] s (atOnce s k q) := KeepsBut_trans (keeps_queued s k q) (keeps_takenOff _ k q 0)

include h

/-- With nothing else to do a request is served at once (R164). -/
theorem accept_idle : s.accept k q = (queued s k q).serveReq k 0 := by
  have hsame := sameService_queued s k q
  have hanswers : ((queued s k q).stk k).answers = true := by simp [Stk.answers, hsame.st, h.st]
  have hpick : (queued s k q).pick k = some (.req 0) := by
    refine pick_single (q := q) (by rw [stk_queued, h.reqs]; rfl) (ready_idle ?_ ?_ q) (by rw [hsame.copyReady, h.copyReady])
    · rw [hsame.copies, h.copies]
    · rw [hsame.retraining, h.retraining]
  have hturn : ((queued s k q).stk k).answers = true ∧ (queued s k q).journalFirst k = false ∧
      (queued s k q).pick k = some (.req (s.stk k).reqs.length) :=
    ⟨hanswers, by rw [hsame.journalFirst, h.journal], by rw [hpick, h.reqs]; rfl⟩
  have haccept : s.accept k q = (queued s k q).serveReq k (s.stk k).reqs.length := if_pos hturn
  rw [haccept, h.reqs]
  rfl

end Idle

/-- A request waits behind an earlier one for a line of its own (R156). -/
theorem accept_waits {s : State} {k : Nat} {q r : StkReq} (hr : r ∈ (s.stk k).reqs) (hmeets : r.meets q = true) :
    s.accept k q = queued s k q := by
  refine if_neg fun ⟨_, _, hpick⟩ => ?_
  obtain ⟨q', hq', hready⟩ := pick_req (s := queued s k q) hpick
  rw [stk_queued] at hq' hready
  obtain rfl : q = q' := by simpa using hq'
  simp only [List.take_left] at hready
  exact Bool.false_ne_true ((not_ready_of_meets hr hmeets).symm.trans hready)

section Serve

variable {s : State} {k i : Nat} {q : StkReq} (hq : (s.stk k).reqs[i]? = some q)
include hq

theorem serveReq_read (hkind : q.kind = .read) : s.serveReq k i = (takenOff s k i q).serveRead k q := by
  simp only [State.serveReq, hq, hkind]
  rfl

theorem serveReq_write {bytes : List Byte} (hkind : q.kind = .write bytes) :
    s.serveReq k i = (takenOff s k i q).writeLines k (q.addr / 64) bytes q.src := by
  simp only [State.serveReq, hq, hkind]
  rfl

theorem serveReq_hostRead {len : Nat} (hkind : q.kind = .hostRead len) :
    s.serveReq k i = (takenOff s k i q).serveHostRead k q len := by
  simp only [State.serveReq, hq, hkind]
  rfl

theorem serveReq_hostWrite {bytes : List Byte} (hkind : q.kind = .hostWrite bytes) :
    s.serveReq k i = (takenOff s k i q).serveHostWrite k q bytes := by
  simp only [State.serveReq, hq, hkind]
  rfl

end Serve

end Sys2Proof.Proofs.StackService
end

section
/-! Reads and writes of a stack by the mesh: a request is queued, served at once, or refused whole, and a read of correct
lines is answered with them (R123, R155, R156, R159, R164, R179). -/

namespace Sys2Proof.Proofs.MeshRequests

open Sys2Proof.Machine Sys2Proof.Safety Sys2Proof.Laws
open Sys2Proof.Proofs.Frames Sys2Proof.Proofs.StackLines Sys2Proof.Proofs.StackSteps Sys2Proof.Proofs.StackService
open Sys2Proof.Proofs.PacketDelivery (keeps_dropFlight)

/-! ### Words and bytes -/

/-- The words of a READ_RSP. -/
def rspWords (bytes : List Byte) (lines : Nat) : List Word :=
  (List.range (8 * lines)).map (fun i => BitVec.ofNat 64 (fld bytes (8 * i) 8))

theorem leBytes_leNat (bs : List Byte) : leBytes bs.length (leNat bs) = bs := by
  induction bs with
  | nil => rfl
  | cons b bs ih =>
    have hb := b.isLt
    have hhead : BitVec.ofNat 8 (b.toNat + 256 * leNat bs) = b := by bv_omega
    have htail : (b.toNat + 256 * leNat bs) / 256 = leNat bs := by omega
    rw [List.length_cons, leBytes, leNat, hhead, htail, ih]

theorem leNat_lt (bs : List Byte) : leNat bs < 256 ^ bs.length := by
  induction bs with
  | nil => simp [leNat]
  | cons b bs ih =>
    have hb := b.isLt
    rw [leNat, List.length_cons, pow_succ]
    omega

/-- Eight bytes as a word and back. -/
theorem leBytes_fld {bytes : List Byte} {a : Nat} (h : a + 8 ≤ bytes.length) :
    leBytes 8 (BitVec.ofNat 64 (fld bytes a 8)).toNat = (bytes.drop a).take 8 := by
  have hslice := slice_of_le h
  have hlen : ((bytes.drop a).take 8).length = 8 := by simp; omega
  have hlt := leNat_lt ((bytes.drop a).take 8)
  have hback := leBytes_leNat ((bytes.drop a).take 8)
  rw [hlen] at hlt hback
  rw [fld, hslice, BitVec.toNat_ofNat, Nat.mod_eq_of_lt (by simpa using hlt), hback]

/-- The words of an answer hold its bytes. -/
theorem bytes_rspWords {bytes : List Byte} {lines : Nat} (hlen : bytes.length = 64 * lines) :
    (rspWords bytes lines).flatMap (fun v => leBytes 8 v.toNat) = bytes := by
  have hprefix (n : Nat) (hn : 8 * n ≤ bytes.length) :
      ((List.range n).map (fun i => BitVec.ofNat 64 (fld bytes (8 * i) 8))).flatMap (fun v => leBytes 8 v.toNat) =
        bytes.take (8 * n) := by
    induction n with
    | zero => simp
    | succ n ih =>
      rw [List.range_succ, List.map_append, List.flatMap_append, ih (by omega), List.map_singleton, List.flatMap_singleton,
        leBytes_fld (by omega), ← List.take_add, Nat.mul_succ]
  rw [rspWords, hprefix _ (by omega), List.take_of_length_le (by omega)]

theorem leNat_zeros (n : Nat) : leNat (List.replicate n 0) = 0 := by
  induction n with
  | zero => rfl
  | succ n ih =>
    rw [List.replicate_succ, leNat, ih]
    rfl

/-- The answer to a refused read holds zeros (R159). -/
theorem rspWords_zeros (lines : Nat) : rspWords (List.replicate (64 * lines) 0) lines = List.replicate (8 * lines) 0 := by
  refine List.eq_replicate_iff.2 ⟨by simp [rspWords], fun w hw => ?_⟩
  obtain ⟨i, -, rfl⟩ := List.mem_map.1 hw
  have hslice : slice (List.replicate (64 * lines) (0 : Byte)) (8 * i) 8 = List.replicate 8 0 := by
    refine List.eq_replicate_iff.2 ⟨slice_length .., fun b hb => ?_⟩
    obtain hb | hb := List.mem_append.1 hb
    · exact List.eq_of_mem_replicate (List.mem_of_mem_drop (List.mem_of_mem_take hb))
    · exact List.eq_of_mem_replicate hb
  rw [fld, hslice, leNat_zeros]
  rfl

/-! ### Answers (R123, R155) -/

/-- The READ_RSP to a request. -/
def rspOf (k : Nat) (q : StkReq) (words : List Word) (dx dy : Nat) : Packet :=
  { dx := dx, dy := dy, edge := false, kind := 0x2, addr := q.dst, ctr := q.ctr, tag := q.tag, payload := words
    src := .block k }

section Answer

variable (s : State) (k : Nat) (q : StkReq) (bytes : List Byte) (poisoned : Bool)

theorem sendReadRsp_tile {key : Nat} (hsrc : q.src = .tile key) : ∃ px py, s.sendReadRsp k q bytes poisoned =
    s.inject { pkt := rspOf k q (rspWords bytes q.lines) (keyX key) (keyY key), loc := .router px py .edge
               poisoned := poisoned } := by
  simp only [State.sendReadRsp, hsrc]
  exact ⟨_, _, rfl⟩

theorem sendReadRsp_herd {h : Nat} (hsrc : q.src = .herd h) : s.sendReadRsp k q bytes poisoned =
    s.inject { pkt := rspOf k q (rspWords bytes q.lines) (h % 32 * 32) (h / 32 * 32), loc := .herd h
               poisoned := poisoned } := by
  simp only [State.sendReadRsp, hsrc]
  rfl

end Answer

theorem keeps_inject (s : State) (f : Flight) : KeepsBut [.mesh] s (s.inject f) := keeps_mesh s _

theorem stk_inject (s : State) (f : Flight) (j : Nat) : (s.inject f).stk j = s.stk j := rfl

/-- What a refused request leaves of its packet. -/
theorem keeps_refused (s : State) (k i : Nat) (src : Src) : KeepsBut [.regs, .mesh] s ((s.dropFlight i).refuse k src) :=
  KeepsBut_mono (KeepsBut_append (keeps_dropFlight s i) (keeps_refuse _ k src)) (by decide)

/-! ### Reading (R155, R159, R164, R166) -/

section Mesh

variable {s : State} {k : StkNo} {i link : Nat} {f : Flight} (hf : s.mesh.flights[i]? = some f) (hloc : f.loc = .edge k link)
  (hgood : f.poisoned = false)

/-- The read that a packet asks for. -/
def readOf (f : Flight) (link : Nat) : StkReq :=
  { src := f.pkt.src, input := link, kind := .read, addr := (nthD f.pkt.payload 0 0).toNat % 2 ^ 37
    lines := bits (nthD f.pkt.payload 0 0).toNat 44 40, dst := f.pkt.addr, ctr := f.pkt.ctr, tag := f.pkt.tag }

/-- The write that a packet asks for. -/
def writeOf (f : Flight) (link : Nat) : StkReq :=
  { src := f.pkt.src, input := link, kind := .write (wordBytes f.pkt.payload.tail)
    addr := (nthD f.pkt.payload 0 0).toNat % 2 ^ 37, lines := (f.pkt.payload.length - 1) / 8, dst := 0, ctr := 0, tag := 0 }

/-- A controller permits n lines from an address on to a packet's source. -/
def May (s : State) (k : Nat) (src : Src) (addr : Nat) (wr : Bool) (n : Nat) : Prop :=
  addr % 64 = 0 ∧ 1 ≤ n ∧ ∃ r, s.regionAt k addr (64 * n) = some r ∧ s.allowed k r addr wr src = true ∧
    s.allowed k r (addr + 64 * n - 1) wr src = true

theorem may_iff {q : StkReq} {wr : Bool} : May s k q.src q.addr wr q.lines ↔
    q.addr % 64 = 0 ∧ 1 ≤ q.lines ∧ s.permitted k q wr = true := by
  refine and_congr_right fun haddr => and_congr_right fun _ => ?_
  have hline : q.addr / 64 * 64 = q.addr := by omega
  rw [permitted_iff, hline]

theorem permitted_dropFlight (s : State) (i k : Nat) (q : StkReq) (w : Bool) :
    (s.dropFlight i).permitted k q w = s.permitted k q w := rfl

theorem atStack_edge (hloc : f.loc = .edge k link) : f.atStack k = some link := by simp [Flight.atStack, hloc]

include hf hloc hgood

theorem stackRead_eq (hkind : f.pkt.kind = 0x1) : s.stackRead k i =
    if f.pkt.payload.length = 1 ∧ (readOf f link).addr % 64 = 0 ∧ (readOf f link).lines ≠ 0 ∧
        (s.dropFlight i).permitted k (readOf f link) false = true then queued (s.dropFlight i) k (readOf f link)
    else ((s.dropFlight i).refuse k f.pkt.src).sendReadRsp k (readOf f link)
      (List.replicate (64 * (readOf f link).lines) 0) false := by
  simp only [State.stackRead, hf, atStack_edge hloc, if_pos hkind, hgood]
  rfl

/-- An allowed read is queued with the space of its answer (R155). -/
theorem runs_readQueued (hkind : f.pkt.kind = 0x1) (hlen : f.pkt.payload.length = 1)
    (hmay : May s k f.pkt.src (readOf f link).addr false (readOf f link).lines) : Runs (.stackRead k i) s (fun t =>
      t.stk k = { s.stk k with reqs := (s.stk k).reqs ++ [readOf f link] } ∧ StksBut [k.val] s t ∧
      t.mesh = { s.mesh with flights := dropAt s.mesh.flights i } ∧ KeepsBut [.mesh, .stks] s t) := by
  obtain ⟨haddr, hlines, hperm⟩ := (may_iff (q := readOf f link)).1 hmay
  have hu := (stackRead_eq hf hloc hgood hkind).trans
    (if_pos ⟨hlen, haddr, by omega, (permitted_dropFlight s i k _ _).trans hperm⟩)
  have hkeeps := KeepsBut_append (keeps_dropFlight s i) (keeps_queued _ k (readOf f link))
  exact runs_of_actStack (f := fun s => s.stackRead k.val i) rfl hu hkeeps (by decide)
    ⟨stk_queued .., stksBut_queued (s.dropFlight i) k _, updStk_mesh .., hkeeps⟩

section Refused

variable (hkind : f.pkt.kind = 0x1)
  (hno : ¬(f.pkt.payload.length = 1 ∧ May s k f.pkt.src (readOf f link).addr false (readOf f link).lines))
include hkind hno

theorem stackRead_refused : s.stackRead k i = ((s.dropFlight i).refuse k f.pkt.src).sendReadRsp k (readOf f link)
    (List.replicate (64 * (readOf f link).lines) 0) false := by
  refine (stackRead_eq hf hloc hgood hkind).trans (if_neg fun ⟨hlen, haddr, hlines, hperm⟩ => hno ⟨hlen, ?_⟩)
  exact (may_iff (q := readOf f link)).2 ⟨haddr, Nat.one_le_iff_ne_zero.2 hlines, hperm⟩

omit hf hloc hgood hkind hno in
/-- The answer of zeros to a refused read enters the mesh as a packet `g`. -/
theorem runs_zeros {g : Flight} (hu : s.stackRead k i = ((s.dropFlight i).refuse k f.pkt.src).inject g) :
    Runs (.stackRead k i) s (fun t => Refused k f.pkt.src s t ∧ t.mesh.flights = dropAt s.mesh.flights i ++ [g] ∧
      KeepsBut [.regs, .mesh] s t) := by
  have hkeeps := KeepsBut_mono (KeepsBut_append (keeps_refused s k i f.pkt.src) (keeps_inject _ g))
    (by decide : ∀ p ∈ _, p ∈ [Part.regs, .mesh])
  have hrefused := refused_refuse (s.dropFlight i) k f.pkt.src
  have hmesh : ((s.dropFlight i).refuse k f.pkt.src).mesh = (s.dropFlight i).mesh :=
    (keeps_refuse (s.dropFlight i) k f.pkt.src).2 .mesh (by decide)
  refine runs_of_actStack (f := fun s => s.stackRead k.val i) rfl hu hkeeps (by decide)
    ⟨hrefused.of_regs rfl rfl, ?_, hkeeps⟩
  rw [State.inject, hmesh]
  rfl

theorem runs_zerosTile {key : Nat} (hsrc : f.pkt.src = .tile key) : Runs (.stackRead k i) s (fun t =>
    Refused k f.pkt.src s t ∧ ∃ px py, t.mesh.flights = dropAt s.mesh.flights i ++
      [{ pkt := rspOf k (readOf f link) (List.replicate (8 * (readOf f link).lines) 0) (keyX key) (keyY key)
         loc := .router px py .edge, poisoned := false }] ∧ KeepsBut [.regs, .mesh] s t) := by
  obtain ⟨px, py, hsent⟩ := sendReadRsp_tile ((s.dropFlight i).refuse k f.pkt.src) k (readOf f link)
    (List.replicate (64 * (readOf f link).lines) 0) false hsrc
  rw [rspWords_zeros] at hsent
  obtain ⟨t, ht, hrefused, hflights, hkeeps⟩ :=
    runs_zeros ((stackRead_refused hf hloc hgood hkind hno).trans hsent)
  exact ⟨t, ht, hrefused, px, py, hflights, hkeeps⟩

theorem runs_zerosHerd {h : Nat} (hsrc : f.pkt.src = .herd h) : Runs (.stackRead k i) s (fun t =>
    Refused k f.pkt.src s t ∧ t.mesh.flights = dropAt s.mesh.flights i ++
      [{ pkt := rspOf k (readOf f link) (List.replicate (8 * (readOf f link).lines) 0) (h % 32 * 32) (h / 32 * 32)
         loc := .herd h, poisoned := false }] ∧ KeepsBut [.regs, .mesh] s t) := by
  have hsent := sendReadRsp_herd ((s.dropFlight i).refuse k f.pkt.src) k (readOf f link)
    (List.replicate (64 * (readOf f link).lines) 0) false hsrc
  rw [rspWords_zeros] at hsent
  exact runs_zeros ((stackRead_refused hf hloc hgood hkind hno).trans hsent)

end Refused

/-! ### Writing (R155, R156, R159, R161, R162) -/

section Write

variable (hkind : f.pkt.kind = 0x0) (hst : (s.stk k).st = .service)
include hkind hst

/-- A write whose lines come whole, and which its source is permitted. -/
def Fits (s : State) (k : Nat) (f : Flight) (link : Nat) : Prop :=
  (f.pkt.payload.length - 1) % 8 = 0 ∧ (writeOf f link).lines ≤ 31 ∧
    May s k f.pkt.src (writeOf f link).addr true (writeOf f link).lines

theorem stackWrite_eq : s.stackWrite k i =
    if (f.pkt.payload.length - 1) % 8 = 0 ∧ 1 ≤ (writeOf f link).lines ∧ (writeOf f link).lines ≤ 31 ∧
        (writeOf f link).addr % 64 = 0 ∧ (s.dropFlight i).permitted k (writeOf f link) true = true then
      (s.dropFlight i).accept k (writeOf f link)
    else (s.dropFlight i).refuse k f.pkt.src := by
  have htakes : f.pkt.kind = 0x0 ∧ (s.stk k).answers = true := ⟨hkind, by simp [Stk.answers, hst]⟩
  simp only [State.stackWrite, hf, atStack_edge hloc, if_pos htakes, hgood, Bool.false_eq_true, if_false]
  exact if_congr Iff.rfl rfl rfl

theorem stackWrite_fits (hfits : Fits s k f link) : s.stackWrite k i = (s.dropFlight i).accept k (writeOf f link) := by
  obtain ⟨hwhole, hfew, hmay⟩ := hfits
  obtain ⟨haddr, hlines, hperm⟩ := (may_iff (q := writeOf f link)).1 hmay
  exact (stackWrite_eq hf hloc hgood hkind hst).trans
    (if_pos ⟨hwhole, hlines, hfew, haddr, (permitted_dropFlight s i k _ _).trans hperm⟩)

/-- A write that is not allowed is dropped and counted (R159). -/
theorem runs_writeRefused (hno : ¬Fits s k f link) : Runs (.stackWrite k i) s (fun t =>
    Refused k f.pkt.src s t ∧ t.mesh = { s.mesh with flights := dropAt s.mesh.flights i } ∧
    KeepsBut [.regs, .mesh] s t) := by
  have hu := (stackWrite_eq hf hloc hgood hkind hst).trans (if_neg fun ⟨hwhole, hlines, hfew, haddr, hperm⟩ =>
    hno ⟨hwhole, hfew, (may_iff (q := writeOf f link)).2 ⟨haddr, hlines, hperm⟩⟩)
  have hkeeps := keeps_refused s k i f.pkt.src
  have hmesh := (keeps_refuse (s.dropFlight i) k f.pkt.src).2 .mesh (by decide)
  exact runs_of_actStack (f := fun s => s.stackWrite k.val i) rfl hu hkeeps (by decide)
    ⟨(refused_refuse (s.dropFlight i) k f.pkt.src).of_regs rfl rfl, hmesh, hkeeps⟩

/-- A write to a line of an earlier request waits behind it (R156). -/
theorem runs_writeWaits (hfits : Fits s k f link) (hmeets : ∃ r ∈ (s.stk k).reqs, r.meets (writeOf f link) = true) :
    Runs (.stackWrite k i) s (fun t => t.stk k = { s.stk k with reqs := (s.stk k).reqs ++ [writeOf f link] } ∧
      StksBut [k.val] s t ∧ t.mesh = { s.mesh with flights := dropAt s.mesh.flights i } ∧ KeepsBut [.mesh, .stks] s t) := by
  obtain ⟨r, hr, hrq⟩ := hmeets
  have hu := (stackWrite_fits hf hloc hgood hkind hst hfits).trans (accept_waits (s := s.dropFlight i) hr hrq)
  have hkeeps := KeepsBut_append (keeps_dropFlight s i) (keeps_queued _ k (writeOf f link))
  exact runs_of_actStack (f := fun s => s.stackWrite k.val i) rfl hu hkeeps (by decide)
    ⟨stk_queued .., stksBut_queued (s.dropFlight i) k _, updStk_mesh .., hkeeps⟩

end Write

end Mesh

end Sys2Proof.Proofs.MeshRequests
end

section
/-! Requests of the mesh that are served: the lines of a write are in place at once with their copies on the way, and a read of
correct lines is answered with them (R155, R161, R162, R164, R166). -/

namespace Sys2Proof.Proofs.MeshAnswers

open Sys2Proof.Machine Sys2Proof.Safety Sys2Proof.Laws
open Sys2Proof.Proofs.Frames Sys2Proof.Proofs.StackLines Sys2Proof.Proofs.StackSteps Sys2Proof.Proofs.StackService
open Sys2Proof.Proofs.MeshRequests
open Sys2Proof.Proofs.PacketDelivery (keeps_dropFlight)

/-! ### Lines written one after another -/

/-- The copies of a stack after a line's write: one more, where the region is mirrored and the partner is not down. -/
theorem copies_writeLine {s : State} {k : Nat} (h : s.stkServes k = true) (l : Nat) (bs : List Byte) :
    ((s.writeLine k l bs).stk k).copies = (s.stk k).copies ++
      if (s.copyAddr k l).isSome ∧ (s.stk (partner k)).st ≠ .down then [.line l (slice bs 0 64)] else [] := by
  unfold State.writeLine
  split
  · next a ha =>
    by_cases hdown : (s.stk (partner k)).st = .down
    · simp [h, hdown, Stk.writeLine]
    · simp [h, hdown, ha, Stk.writeLine]
  · next hnone => simp [h, hnone, Stk.writeLine]

/-- Where a line's copy lies is the partition map's. -/
theorem copyAddr_of_pmap {s t : State} (h : t.pmap = s.pmap) (k l : Nat) : t.copyAddr k l = s.copyAddr k l := by
  simp only [State.copyAddr, State.regionAt, State.mirrorAddr, State.copyTwins, State.twins, State.regions, h]

/-- Whole lines have been written from line l on: none of them is uncorrectable, and each has its copy on the way. -/
structure LinesWritten (k l n : Nat) (s t : State) : Prop where
  st     : (t.stk k).st = (s.stk k).st
  reqs   : (t.stk k).reqs = (s.stk k).reqs
  bad    : ∀ b, b ∈ (t.stk k).bad ↔ b ∈ (s.stk k).bad ∧ ¬(l ≤ b ∧ b < l + n)
  copies : (s.stk (partner k)).st ≠ .down → ∀ j < n, (s.copyAddr k (l + j)).isSome = true →
    ∃ bs, .line (l + j) bs ∈ (t.stk k).copies

theorem linesWritten_fold {s : State} {k : Nat} (h : s.stkServes k = true) (l : Nat) (bs : List Byte) (n : Nat)
    (hn : 64 * n ≤ bs.length) : LinesWritten k l n s
      ((List.range n).foldl (fun s i => s.writeLine k (l + i) (slice bs (64 * i) 64)) s) := by
  induction n with
  | zero => exact ⟨rfl, rfl, fun b => by simp, fun _ j hj => absurd hj (by omega)⟩
  | succ n ih =>
    have hfirst := ih (by omega)
    have hwrote := wrote_lines h l bs n (by omega)
    rw [List.range_succ, List.foldl_append, List.foldl_cons, List.foldl_nil]
    generalize (List.range n).foldl (fun s i => s.writeLine k (l + i) (slice bs (64 * i) 64)) s = u at hfirst hwrote
    obtain ⟨cs, hline⟩ := writeLine_serves hwrote.serves (l + n) (slice bs (64 * n) 64)
    have hcopies := copies_writeLine hwrote.serves (l + n) (slice bs (64 * n) 64)
    have hpartner : u.stk (partner k) = s.stk (partner k) := hwrote.others _ (by simpa using partner_ne k)
    have hmap : u.pmap = s.pmap := hwrote.keeps.2 .pmap (by decide)
    have haddr (j : Nat) : u.copyAddr k j = s.copyAddr k j := copyAddr_of_pmap hmap k j
    have hstk : (u.writeLine k (l + n) (slice bs (64 * n) 64)).stk k =
        { (u.stk k).writeLine (l + n) (slice bs (64 * n) 64) with copies := cs } := by rw [hline, stk_setStk, if_pos rfl]
    refine ⟨?_, ?_, fun b => ?_, fun hup j hj hsome => ?_⟩
    · rw [hstk, ← hfirst.st]; rfl
    · rw [hstk, ← hfirst.reqs]; rfl
    · have hb := hfirst.bad b
      have hw : b ∈ ((u.writeLine k (l + n) (slice bs (64 * n) 64)).stk k).bad ↔ b ∈ (u.stk k).bad ∧ b ≠ l + n := by
        rw [hstk]; exact mem_bad_writeLine (bs := slice bs (64 * n) 64)
      rw [hw, hb, and_assoc]
      exact and_congr_right fun _ => by omega
    · rw [hcopies, haddr, hpartner]
      obtain hj | rfl := Nat.lt_succ_iff_lt_or_eq.1 hj
      · obtain ⟨c, hc⟩ := hfirst.copies hup j hj hsome
        exact ⟨c, List.mem_append_left _ hc⟩
      · exact ⟨_, List.mem_append_right _ (by rw [if_pos ⟨hsome, hup⟩]; exact List.mem_singleton_self _)⟩

theorem linesWritten_writeLines {s : State} {k : Nat} (h : s.stkServes k = true) (l n : Nat) {bs : List Byte}
    (hlen : bs.length = 64 * n) (src : Src) : LinesWritten k l n s (s.writeLines k l bs src) := by
  have hn : ceilDiv bs.length 64 = n := by unfold ceilDiv; omega
  rw [State.writeLines, if_pos (by simp [State.writable, h]), hn]
  exact linesWritten_fold h l bs n hlen.ge

/-! ### A write at once -/

theorem wordBytes_length (ws : List Word) : (wordBytes ws).length = 8 * ws.length := by
  induction ws with
  | nil => rfl
  | cons w ws ih =>
    rw [wordBytes, List.flatMap_cons, List.length_append, leBytes_length, List.length_cons, ← wordBytes, ih]
    omega

theorem idle_dropFlight {s : State} {k : Nat} (h : Idle s k) (i : Nat) : Idle (s.dropFlight i) k :=
  have hsame : SameService s (s.dropFlight i) := ⟨rfl, rfl, fun _ => rfl, fun _ => rfl, fun _ => rfl⟩
  ⟨h.st, h.reqs, h.copies, h.retraining, (hsame.journalFirst k).trans h.journal, (hsame.copyReady k).trans h.copyReady⟩

section Write

variable {s : State} {k : StkNo} {i link : Nat} {f : Flight} (hf : s.mesh.flights[i]? = some f) (hloc : f.loc = .edge k link)
  (hgood : f.poisoned = false) (hkind : f.pkt.kind = 0x0)

include hf hloc hgood hkind

/-- With nothing else to do a write is performed at once (R156, R162, R164). -/
theorem runs_writeAtOnce (hfits : Fits s k f link) (hidle : Idle s k) : Runs (.stackWrite k i) s (fun t =>
    Mem.read (t.stk k).mem (writeOf f link).addr (64 * (writeOf f link).lines) = wordBytes f.pkt.payload.tail ∧
    BytesBut (writeOf f link).addr (64 * (writeOf f link).lines) (s.stk k).mem (t.stk k).mem ∧
    (∀ b, b ∈ (t.stk k).bad ↔ b ∈ (s.stk k).bad ∧
      ¬((writeOf f link).addr / 64 ≤ b ∧ b < (writeOf f link).addr / 64 + (writeOf f link).lines)) ∧
    ((s.stk (partner k)).st ≠ .down → ∀ j < (writeOf f link).lines,
      (s.copyAddr k ((writeOf f link).addr / 64 + j)).isSome = true →
      ∃ bs, .line ((writeOf f link).addr / 64 + j) bs ∈ (t.stk k).copies) ∧
    (t.stk k).st = .service ∧ (t.stk k).reqs = [] ∧ StksBut [k.val] s t ∧
    t.mesh = { s.mesh with flights := dropAt s.mesh.flights i } ∧ KeepsBut [.mesh, .stks] s t) := by
  have hidle' := idle_dropFlight hidle i
  obtain ⟨hwhole, hfew, hmay⟩ := id hfits
  have hlen : (wordBytes f.pkt.payload.tail).length = 64 * (writeOf f link).lines := by
    rw [wordBytes_length, List.length_tail, writeOf]
    simp only
    omega
  have haddr : (writeOf f link).addr / 64 * 64 = (writeOf f link).addr := by have := hmay.1; omega
  have hserve : (queued (s.dropFlight i) k (writeOf f link)).serveReq k 0 =
      (atOnce (s.dropFlight i) k (writeOf f link)).writeLines k
      ((writeOf f link).addr / 64) (wordBytes f.pkt.payload.tail) f.pkt.src :=
    serveReq_write (q := writeOf f link) (by rw [stk_queued, hidle'.reqs]; rfl) rfl
  have hu := ((stackWrite_fits hf hloc hgood hkind hidle.st hfits).trans (accept_idle hidle' _)).trans hserve
  obtain ⟨rows, hits, hstk⟩ := stk_atOnce (k := k) (writeOf f link) hidle'.reqs
  have hothers := stksBut_atOnce (s := s.dropFlight i) (k := k) (writeOf f link)
  have hkeeps := keeps_atOnce (s := s.dropFlight i) (k := k) (writeOf f link)
  generalize atOnce (s.dropFlight i) k (writeOf f link) = v at hu hstk hothers hkeeps
  have hserves : v.stkServes k = true := stkServes_iff.2 (by rw [hstk]; exact hidle.st)
  have hwrote := wrote_writeLines hserves ((writeOf f link).addr / 64) (bs := wordBytes f.pkt.payload.tail) (by omega) f.pkt.src
  have hlines := linesWritten_writeLines hserves ((writeOf f link).addr / 64) _ hlen f.pkt.src
  generalize v.writeLines k ((writeOf f link).addr / 64) (wordBytes f.pkt.payload.tail) f.pkt.src = t at hu hwrote hlines
  have hkeeps' : KeepsBut [.stks] (s.dropFlight i) t := KeepsBut_trans hkeeps hwrote.keeps
  have hmem : (t.stk k).mem = Mem.write (s.stk k).mem (writeOf f link).addr (wordBytes f.pkt.payload.tail) := by
    rw [hwrote.mem, haddr, hstk]
    rfl
  have hmap : v.pmap = s.pmap := hkeeps.2 .pmap (by decide)
  have hcopy (j : Nat) : v.copyAddr k j = s.copyAddr k j := copyAddr_of_pmap hmap k j
  have hpartner : v.stk (partner k) = s.stk (partner k) := hothers _ (by simpa using partner_ne k)
  have hall := KeepsBut_append (keeps_dropFlight s i) hkeeps'
  refine runs_of_actStack (f := fun s => s.stackWrite k.val i) rfl hu hall (by decide)
    ⟨?_, ?_, fun b => ?_, fun hup j hj hsome => ?_, ?_, ?_, ?_, hkeeps'.2 .mesh (by decide), hall⟩
  · rw [hmem, ← hlen]
    exact Mem.read_write_same ..
  · rw [hmem, ← hlen]
    exact BytesBut_write _ _ _
  · rw [hlines.bad b, hstk]
    rfl
  · exact hlines.copies (by rw [hpartner]; exact hup) j hj (by rw [hcopy]; exact hsome)
  · rw [hlines.st, hstk]
    exact hidle.st
  · rw [hlines.reqs, hstk]
  · exact StksBut_trans (s := s.dropFlight i) hothers hwrote.others

end Write

/-! ### A read of correct lines -/

theorem Mem.read_append (m : Mem) (a n n' : Nat) : Mem.read m a (n + n') = Mem.read m a n ++ Mem.read m (a + n) n' := by
  induction n generalizing a with
  | zero => rw [Nat.zero_add, Nat.add_zero]; rfl
  | succ n ih => rw [Nat.succ_add, Mem.read, Mem.read, ih, List.cons_append, Nat.add_assoc, Nat.add_comm 1]

/-- No line of n from l on holds an error. -/
def CorrectLines (x : Stk) (l n : Nat) : Prop := ∀ j, l ≤ j → j < l + n → j ∉ x.bad ∧ j ∉ x.corr ∧ j ∉ x.odie

theorem readLines_correct {s : State} {k : Nat} (hserves : s.stkServes k = true) (src : Option Src) (l n : Nat)
    (hgood : CorrectLines (s.stk k) l n) : s.readLines k src l n = ⟨s, Mem.read (s.stk k).mem (l * 64) (64 * n), false⟩ := by
  induction n generalizing l with
  | zero => rfl
  | succ n ih =>
    obtain ⟨hbad, hcorr, hodie⟩ := hgood l le_rfl (by omega)
    have hrest := ih (l + 1) fun j hj hj' => hgood j (by omega) (by omega)
    have hsplit : Mem.read (s.stk k).mem (l * 64) (64 * (n + 1)) =
        (s.stk k).line l ++ Mem.read (s.stk k).mem ((l + 1) * 64) (64 * n) := by
      rw [show 64 * (n + 1) = 64 + 64 * n by omega, Mem.read_append, Stk.line, show l * 64 + 64 = (l + 1) * 64 by omega]
    simp only [State.readLines, readLine_correct hserves src hbad hcorr hodie, hrest, hsplit, Bool.or_self]

section Read

variable {s : State} {k : StkNo} {i : Nat} {q : StkReq} (hpick : s.pick k = some (.req i))
  (hq : (s.stk k).reqs[i]? = some q) (hkind : q.kind = .read) (haddr : q.addr % 64 = 0) (hst : (s.stk k).st = .service)
  (hjournal : s.journalFirst k = false) (hgood : CorrectLines (s.stk k) (q.addr / 64) q.lines)
include hpick hq hkind hst hjournal

theorem serveStack_read : s.serveStack k = (takenOff s k i q).serveRead k q := by
  have hturn : (s.stk k).answers = true ∧ s.journalFirst k = false := ⟨by simp [Stk.answers, hst], hjournal⟩
  rw [State.serveStack, if_pos hturn, hpick]
  exact serveReq_read hq hkind

include haddr hgood

/-- A read of correct lines whose turn has come is answered with them (R155, R164). -/
theorem runs_readServed {key : Nat} (hsrc : q.src = .tile key) : Runs (.readRsp k) s (fun t =>
    t.stk k = { s.stk k with reqs := dropAt (s.stk k).reqs i, served := some q.input, openRows := (t.stk k).openRows
                             hits := (t.stk k).hits } ∧
    StksBut [k.val] s t ∧ KeepsBut [.mesh, .stks] s t ∧
    ∃ (g : Flight) (px py : Nat), t.mesh.flights = s.mesh.flights ++ [g] ∧
      g.loc = .router px py .edge ∧ g.poisoned = false ∧
      g.pkt.kind = 0x2 ∧ g.pkt.edge = false ∧ tileKey g.pkt.dx g.pkt.dy = key ∧ g.pkt.addr = q.dst ∧ g.pkt.ctr = q.ctr ∧
      g.pkt.tag = q.tag ∧
      g.pkt.payload.flatMap (fun v => leBytes 8 v.toNat) = Mem.read (s.stk k).mem q.addr (64 * q.lines)) := by
  have hu := serveStack_read hpick hq hkind hst hjournal
  obtain ⟨rows, hits, hstk⟩ := stk_takenOff s k q i
  have hothers := stksBut_takenOff s k q i
  have hkeeps := keeps_takenOff s k q i
  generalize takenOff s k i q = v at hu hstk hothers hkeeps
  have hserves : v.stkServes k = true := stkServes_iff.2 (by rw [hstk]; exact hst)
  have hread := readLines_correct hserves (some q.src) (q.addr / 64) q.lines (by rw [hstk]; exact hgood)
  have hline : q.addr / 64 * 64 = q.addr := by omega
  have hmem : (v.stk k).mem = (s.stk k).mem := by rw [hstk]
  rw [hline, hmem] at hread
  let w := v.updStk k (fun x => { x with poisoned := x.poisoned })
  obtain ⟨px, py, hsent⟩ := sendReadRsp_tile w k q (Mem.read (s.stk k).mem q.addr (64 * q.lines)) false hsrc
  have hserve : v.serveRead k q = w.sendReadRsp k q (Mem.read (s.stk k).mem q.addr (64 * q.lines)) false := by
    simp only [State.serveRead, hread]
    rfl
  have hw : w.stk k = v.stk k := stk_updStk_same v k _
  have hwkeeps : KeepsBut [.stks] s w := KeepsBut_trans hkeeps (keeps_updStk v k _)
  have hwothers : StksBut [k.val] s w := StksBut_trans hothers (stksBut_updStk v k _)
  have hmesh : w.mesh = s.mesh := hwkeeps.2 .mesh (by decide)
  rw [hserve, hsent] at hu
  generalize w = w at *
  have hall (g : Flight) : KeepsBut [.mesh, .stks] s (w.inject g) :=
    KeepsBut_mono (KeepsBut_append hwkeeps (keeps_inject w g)) (by decide)
  refine runs_of_actStack (f := fun s => s.serveStack k.val) rfl hu (hall _) (by decide) ?_
  refine ⟨?_, hwothers, hall _, _, px, py, congrArg (· ++ [_]) (congrArg Mesh.flights hmesh),
    rfl, rfl, rfl, rfl, ?_, rfl, rfl, rfl, ?_⟩
  · rw [stk_inject, hw, hstk]
  · simp only [rspOf, tileKey, keyX, keyY]
    omega
  · exact bytes_rspWords (Mem.read_length ..)

end Read

end Sys2Proof.Proofs.MeshAnswers
end

section
/-! Host accesses through BAR4: the pieces of an access, what is read and written of the lines of a stack without errors, and
what a refusal or a closed aperture answers (R159, R179, R462, R506). -/

namespace Sys2Proof.Proofs.HostAperture

open Sys2Proof.Machine Sys2Proof.Safety Sys2Proof.Laws
open Sys2Proof.Proofs.Frames Sys2Proof.Proofs.StackLines Sys2Proof.Proofs.StackSteps Sys2Proof.Proofs.StackService
open Sys2Proof.Proofs.MeshAnswers

/-! ### Bytes of a line -/

theorem getD_read (m : Mem) (a n i : Nat) (h : i < n) : ((Mem.read m a n)[i]?).getD 0 = Mem.byte m (a + i) := by
  simp [Mem.read_eq, h]

theorem take_read (m : Mem) (a : Nat) {n k : Nat} (h : k ≤ n) : (Mem.read m a n).take k = Mem.read m a k := by
  obtain ⟨j, rfl⟩ := Nat.exists_eq_add_of_le h
  rw [Mem.read_append, List.take_left' (Mem.read_length ..)]

theorem drop_read (m : Mem) (a : Nat) {n k : Nat} (h : k ≤ n) : (Mem.read m a n).drop k = Mem.read m (a + k) (n - k) := by
  obtain ⟨j, rfl⟩ := Nat.exists_eq_add_of_le h
  rw [Mem.read_append, List.drop_left' (Mem.read_length ..), Nat.add_sub_cancel_left]

/-- A slice of what is read of a memory. -/
theorem slice_read (m : Mem) (b a n k : Nat) (h : a + n ≤ k) : slice (Mem.read m b k) a n = Mem.read m (b + a) n := by
  rw [slice_of_le (by simpa using h), drop_read _ _ (by omega), take_read _ _ (by omega)]

/-- Memories that agree on every byte read the same. -/
theorem read_congr {m m' : Mem} (h : ∀ x, Mem.byte m x = Mem.byte m' x) (a n : Nat) : Mem.read m a n = Mem.read m' a n := by
  simp only [Mem.read_eq, h]

theorem patch_of_le {bs new : List Byte} {a : Nat} (h : a + new.length ≤ bs.length) :
    patch bs a new = bs.take a ++ new ++ bs.drop (a + new.length) := by
  rw [patch, if_pos (by omega), List.take_of_length_le (by simp; omega)]

/-- A line patched and written back holds the patch, and is as before elsewhere. -/
theorem byte_write_patch (m : Mem) (b o : Nat) {bs : List Byte} {n : Nat} (h : o + bs.length ≤ n) (x : Nat) :
    Mem.byte (Mem.write m b (patch (Mem.read m b n) o bs)) x = Mem.byte (Mem.write m (b + o) bs) x := by
  rw [patch_of_le (by simpa using h), take_read _ _ (by omega), drop_read _ _ h, Mem.write_append, Mem.write_append]
  simp only [Mem.byte_write, List.length_append, Mem.read_length]
  split_ifs with hafter hin hin hbefore
  · omega
  · rw [getD_read _ _ _ _ (by omega)]
    congr 1
    omega
  · rfl
  · rw [getD_read _ _ _ _ (by omega)]
    congr 1
    omega
  · rfl

/-! ### Reading (R506) -/

/-- The line of an address has a layout that the manual gives. -/
def Clear (s : State) (k addr : Nat) : Prop :=
  ∃ r, s.regionAt k (addr / 64 * 64) 64 = some r ∧ s.openLayout k r addr = false

theorem Clear.of_parts {s t : State} {k addr : Nat} (h : Clear s k addr) (hmap : t.pmap = s.pmap) (hsnaps : t.snaps = s.snaps)
    (hjrn : t.jrn = s.jrn) : Clear t k addr := by
  obtain ⟨r, hr, hopen⟩ := h
  have hhome (j : Nat) : t.homeStack j = s.homeStack j := by simp only [State.homeStack, hmap]
  have hregion : t.regionAt k (addr / 64 * 64) 64 = s.regionAt k (addr / 64 * 64) 64 := by
    simp only [State.regionAt, State.regions, hmap]
  have hlayout : t.openLayout k r addr = s.openLayout k r addr := by
    simp only [State.openLayout, State.holdsSnapshot, hhome, hsnaps, hjrn]
  exact ⟨r, hregion.trans hr, hlayout.trans hopen⟩

theorem bar4Pieces_succ (fuel a : Nat) {len : Nat} (h : len ≠ 0) : bar4Pieces (fuel + 1) a len =
    (a, min len (64 - a % 64)) :: bar4Pieces fuel (a + min len (64 - a % 64)) (len - min len (64 - a % 64)) := if_neg h

theorem bar4Pieces_zero (fuel a : Nat) : bar4Pieces fuel a 0 = [] := by cases fuel <;> rfl

section Read

variable {s : State} {k : Nat} (hclean : CleanStack s k)
include hclean

theorem bar4ReadPiece_clean {a n : Nat} (hfit : a % 64 + n ≤ 64) (hclear : Clear s k a) :
    s.bar4ReadPiece k a n = ⟨s, Mem.read (s.stk k).mem a n, false⟩ := by
  obtain ⟨r, hr, hopen⟩ := hclear
  have hbytes : slice ((s.stk k).line (a / 64)) (a % 64) n = Mem.read (s.stk k).mem a n := by
    rw [Stk.line, slice_read _ _ _ _ _ hfit, Nat.div_add_mod']
  simp [State.bar4ReadPiece, readLine_clean hclean, hr, hopen, hbytes]

theorem bar4ReadAll_clean (fuel a len : Nat) (hfuel : len ≤ 64 * fuel - a % 64) (hclear : ∀ j < len, Clear s k (a + j)) :
    s.bar4ReadAll k (bar4Pieces fuel a len) = ⟨s, Mem.read (s.stk k).mem a len, false⟩ := by
  induction fuel generalizing a len with
  | zero =>
    obtain rfl : len = 0 := by omega
    rfl
  | succ fuel ih =>
    by_cases hlen : len = 0
    · subst hlen
      rw [bar4Pieces_zero]
      rfl
    · rw [bar4Pieces_succ _ _ hlen]
      generalize hn : min len (64 - a % 64) = n
      have hrest := ih (a + n) (len - n) (by omega) fun j hj => by
        rw [Nat.add_assoc]; exact hclear (n + j) (by omega)
      have hpiece := bar4ReadPiece_clean hclean (n := n) (by omega) (hclear 0 (by omega))
      have hsplit : Mem.read (s.stk k).mem a len = Mem.read (s.stk k).mem a n ++ Mem.read (s.stk k).mem (a + n) (len - n) := by
        rw [← Mem.read_append, Nat.add_sub_cancel' (by omega)]
      rw [Nat.add_zero] at hpiece
      simp only [State.bar4ReadAll, hpiece, hrest, hsplit, Bool.or_self]

end Read

/-! ### Writing (R506) -/

/-- Bytes have been put in place in a stack that is still without errors. -/
structure Stored (k a : Nat) (bs : List Byte) (s t : State) : Prop where
  clean  : CleanStack t k
  reqs   : (t.stk k).reqs = (s.stk k).reqs
  byte   : ∀ x, Mem.byte (t.stk k).mem x = Mem.byte (Mem.write (s.stk k).mem a bs) x
  others : StksBut [k] s t
  keeps  : KeepsBut [.stks] s t

theorem Stored.nil {k a : Nat} {s : State} (h : CleanStack s k) : Stored k a [] s s :=
  ⟨h, rfl, fun _ => rfl, fun _ _ => rfl, KeepsBut_refl _ s⟩

theorem Stored.append {k a : Nat} {xs ys : List Byte} {s t u : State} (h : Stored k a xs s t)
    (h' : Stored k (a + xs.length) ys t u) : Stored k a (xs ++ ys) s u where
  clean := h'.clean
  reqs := h'.reqs.trans h.reqs
  byte x := by rw [h'.byte, Mem.write_append, Mem.byte_write, Mem.byte_write, h.byte]
  others := StksBut_trans h.others h'.others
  keeps := KeepsBut_trans h.keeps h'.keeps

section Write

variable {s : State} {k : Nat} (hclean : CleanStack s k)
include hclean

theorem stored_writeLine (l : Nat) {bs : List Byte} (hlen : bs.length = 64) : Stored k (l * 64) bs s (s.writeLine k l bs) := by
  have hwrote := wrote_writeLine hclean.serves l hlen
  obtain ⟨cs, hline⟩ := writeLine_serves hclean.serves l bs
  have hstk : (s.writeLine k l bs).stk k = { (s.stk k).writeLine l bs with copies := cs } := by rw [hline, stk_setStk, if_pos rfl]
  refine ⟨⟨hwrote.serves, ?_, ?_, ?_⟩, ?_, fun x => by rw [hwrote.mem], hwrote.others, hwrote.keeps⟩
  · simp [hstk, Stk.writeLine, hclean.bad]
  · simp [hstk, Stk.writeLine, hclean.corr]
  · simp [hstk, Stk.writeLine, hclean.odie]
  · rw [hstk]; rfl

theorem stored_writePiece {a : Nat} {bs : List Byte} (hfit : a % 64 + bs.length ≤ 64) :
    Stored k a bs s (s.bar4WritePiece k a bs) := by
  unfold State.bar4WritePiece
  split
  · next hlen =>
    have hstored := stored_writeLine hclean (a / 64) hlen
    rwa [show a / 64 * 64 = a by omega] at hstored
  · simp only [readLine_clean hclean, Bool.false_eq_true, if_false]
    have hlen : (patch ((s.stk k).line (a / 64)) (a % 64) bs).length = 64 := by
      rw [Stk.line, patch_of_le (by simpa using hfit)]
      simp
      omega
    obtain ⟨hclean', hreqs, hbyte, hothers, hkeeps⟩ := stored_writeLine hclean (a / 64) hlen
    refine ⟨hclean', hreqs, fun x => ?_, hothers, hkeeps⟩
    rw [hbyte, Stk.line, byte_write_patch _ _ _ hfit, Nat.div_add_mod']

omit hclean in
theorem stored_writeAll (start : Nat) (bytes : List Byte) (fuel a len : Nat) (s : State) (hclean : CleanStack s k)
    (hstart : start ≤ a) (hend : a + len = start + bytes.length) (hfuel : len ≤ 64 * fuel - a % 64) :
    Stored k a (bytes.drop (a - start)) s (s.bar4WriteAll k start bytes (bar4Pieces fuel a len)) := by
  induction fuel generalizing a len s with
  | zero =>
    rw [List.drop_eq_nil_of_le (by omega)]
    exact Stored.nil hclean
  | succ fuel ih =>
    by_cases hlen : len = 0
    · subst hlen
      rw [bar4Pieces_zero, List.drop_eq_nil_of_le (by omega)]
      exact Stored.nil hclean
    · rw [bar4Pieces_succ _ _ hlen]
      generalize hn : min len (64 - a % 64) = n
      have hslice : slice bytes (a - start) n = (bytes.drop (a - start)).take n := slice_of_le (by omega)
      have hcount : (slice bytes (a - start) n).length = n := slice_length ..
      have hpiece := stored_writePiece hclean (a := a) (bs := slice bytes (a - start) n) (by omega)
      have hrest := ih (a + n) (len - n) _ hpiece.clean (by omega) (by omega) (by omega)
      have hdrop : bytes.drop (a - start) = slice bytes (a - start) n ++ bytes.drop (a + n - start) := by
        rw [hslice, show a + n - start = a - start + n by omega, ← List.drop_drop, List.take_append_drop]
      rw [hdrop]
      exact hpiece.append (by rw [hcount]; exact hrest)

end Write

/-! ### The host's accesses (R462, R506) -/

/-- The lines of a host access are all permitted. -/
def MayHost (s : State) (k addr lines : Nat) (wr : Bool) : Prop :=
  ∃ r, s.regionAt k (addr / 64 * 64) (64 * lines) = some r ∧ s.allowed k r addr wr (.block 0x25) = true ∧
    s.allowed k r (addr / 64 * 64 + 64 * lines - 1) wr (.block 0x25) = true

theorem permitted_hostReq {s : State} {k addr n : Nat} {kind : ReqKind} {wr : Bool} (hn : 1 ≤ n) :
    s.permitted k (hostReq addr n kind) wr = true ↔ MayHost s k addr ((addr % 64 + n + 63) / 64) wr := by
  have hlines : (hostReq addr n kind).lines = (addr % 64 + n + 63) / 64 := if_neg (by omega)
  rw [permitted_iff, hlines]
  rfl

section Access

variable {s : State} {off : BitVec 36} {len : Nat} {bytes : List Byte} {P : State → Prop} (hlink : Linked s)
include hlink

/-- Over a link that is up a read of BAR4 answers its function's state. -/
theorem runs_bar4Read {u : State} {l : List Part} (hu : s.bar4Read off.toNat len = u) (hk : KeepsBut l s u)
    (hl : l ⊆ stackParts) (h : P u) : Runs (.bar4Read off len) s P :=
  runs_of_actStack (f := fun s => s.when s.host.linkUp (fun s => s.bar4Read off.toNat len)) rfl
    ((if_pos hlink).trans hu) hk hl h

theorem runs_bar4Write {u : State} {l : List Part} (hu : s.bar4Write off.toNat bytes = u) (hk : KeepsBut l s u)
    (hl : l ⊆ stackParts) (h : P u) : Runs (.bar4Write off bytes) s P :=
  runs_of_actStack (f := fun s => s.when s.host.linkUp (fun s => s.bar4Write off.toNat bytes)) rfl
    ((if_pos hlink).trans hu) hk hl h

/-- A closed aperture reads zeros (R462). -/
theorem runs_readClosed (hmap : s.bar4Map off.toNat = none) : Runs (.bar4Read off len) s (fun t =>
    t.io.out = s.io.out ++ [.read (List.replicate len 0)] ∧ t.io.events = s.io.events ∧ KeepsBut [.io] s t) := by
  have hu : s.bar4Read off.toNat len = s.emit (.read (List.replicate len 0)) := by simp only [State.bar4Read, hmap]
  exact runs_bar4Read hlink hu (keeps_emit s _) (by decide) ⟨rfl, rfl, keeps_emit s _⟩

/-- A closed aperture takes no write (R462). -/
theorem exec_writeClosed (hmap : s.bar4Map off.toNat = none) : exec (.bar4Write off bytes) s = .next s := by
  have hu : s.bar4Write off.toNat bytes = s := by simp only [State.bar4Write, hmap]
  exact exec_of_actStack_same (f := fun s => s.when s.host.linkUp (fun s => s.bar4Write off.toNat bytes)) rfl
    ((if_pos hlink).trans hu)

section Open

variable {k addr : Nat} (hmap : s.bar4Map off.toNat = some (k, addr)) (hlen : 1 ≤ len)
include hmap hlen

/-- A read that is not allowed answers zeros and is counted (R159, R179). -/
theorem runs_readRefused (hno : ¬MayHost s k addr ((addr % 64 + len + 63) / 64) false) : Runs (.bar4Read off len) s (fun t =>
    t.io.out = s.io.out ++ [.read (List.replicate len 0)] ∧ t.io.events = s.io.events ∧ Refused k (.block hostPort) s t ∧
      KeepsBut [.regs, .io] s t) := by
  have hu : s.bar4Read off.toNat len = (s.refuse k (.block hostPort)).emit (.read (List.replicate len 0)) := by
    simp only [State.bar4Read, hmap]
    exact if_neg (mt (permitted_hostReq hlen).1 hno)
  have hio : (s.refuse k (.block hostPort)).io = s.io := (keeps_refuse s k _).2 .io (by decide)
  have hkeeps := KeepsBut_append (keeps_refuse s k (.block hostPort)) (keeps_emit _ (.read (List.replicate len 0)))
  refine runs_bar4Read hlink hu hkeeps (by decide) ⟨?_, ?_, (refused_refuse s k _).of_regs rfl (emit_regs ..), hkeeps⟩
  · rw [State.emit, hio]
  · rw [State.emit, hio]

/-- A write that is not allowed is dropped and counted (R159, R179). -/
theorem runs_hostWriteRefused (hbytes : bytes.length = len) (hno : ¬MayHost s k addr ((addr % 64 + len + 63) / 64) true) :
    Runs (.bar4Write off bytes) s (fun t => Refused k (.block hostPort) s t ∧ KeepsBut [.regs] s t) := by
  subst hbytes
  have hu : s.bar4Write off.toNat bytes = s.refuse k (.block hostPort) := by
    simp only [State.bar4Write, hmap]
    exact if_neg (mt (permitted_hostReq hlen).1 hno)
  exact runs_bar4Write hlink hu (keeps_refuse s k _) (by decide) ⟨refused_refuse s k _, keeps_refuse s k _⟩

variable (hidle : Idle s k) (hclean : CleanStack s k)
include hidle hclean

omit hlink hmap hlen in
/-- A host access that is served at once finds the stack as it stood, but for its queue. -/
theorem atOnce_clean (q : StkReq) : CleanStack (atOnce s k q) k ∧ ((atOnce s k q).stk k).mem = (s.stk k).mem ∧
    ((atOnce s k q).stk k).reqs = [] := by
  obtain ⟨rows, hits, hstk⟩ := stk_atOnce (s := s) (k := k) q hidle.reqs
  rw [hstk]
  exact ⟨⟨stkServes_iff.2 (by rw [hstk]; exact hidle.st), by rw [hstk]; exact hclean.bad, by rw [hstk]; exact hclean.corr,
    by rw [hstk]; exact hclean.odie⟩, rfl, rfl⟩

/-- A read of allowed lines answers their bytes (R506). -/
theorem runs_readOpen (hmay : MayHost s k addr ((addr % 64 + len + 63) / 64) false) (hclear : ∀ j < len, Clear s k (addr + j)) :
    Runs (.bar4Read off len) s (fun t => t.io.out = s.io.out ++ [.read (Mem.read (s.stk k).mem addr len)] ∧
      t.io.events = s.io.events ∧ (t.stk k).mem = (s.stk k).mem ∧ (t.stk k).reqs = [] ∧ StksBut [k] s t ∧
      KeepsBut [.stks, .io] s t) := by
  let q := hostReq addr len (.hostRead len)
  obtain ⟨hvclean, hmem, hreqs⟩ := atOnce_clean hidle hclean q
  have hothers := stksBut_atOnce (s := s) (k := k) q
  have hkeeps := keeps_atOnce (s := s) (k := k) q
  have haccept : s.bar4Read off.toNat len = s.accept k q := by
    simp only [State.bar4Read, hmap]
    exact if_pos ((permitted_hostReq hlen).2 hmay)
  have hserve : (queued s k q).serveReq k 0 = (atOnce s k q).serveHostRead k q len :=
    serveReq_hostRead (q := q) (by rw [stk_queued, hidle.reqs]; rfl) rfl
  have hu := haccept.trans ((accept_idle hidle q).trans hserve)
  generalize atOnce s k q = v at hvclean hmem hreqs hothers hkeeps hu
  have hvclear : ∀ j < len, Clear v k (addr + j) := fun j hj =>
    (hclear j hj).of_parts (hkeeps.2 .pmap (by decide)) (hkeeps.2 .snaps (by decide)) (hkeeps.2 .jrn (by decide))
  have hread := bar4ReadAll_clean hvclean (len / 64 + 2) addr len (by omega) hvclear
  have hemit : v.serveHostRead k q len = v.emit (.read (Mem.read (s.stk k).mem addr len)) := by
    rw [State.serveHostRead, show q.addr = addr from rfl, hread, hmem]
    rfl
  have hio : v.io = s.io := hkeeps.2 .io (by decide)
  have hall := KeepsBut_append hkeeps (keeps_emit v (.read (Mem.read (s.stk k).mem addr len)))
  refine runs_bar4Read hlink (hu.trans hemit) hall (by decide) ⟨?_, ?_, ?_, ?_, fun j hj => ?_, hall⟩
  · rw [State.emit, hio]
  · rw [State.emit, hio]
  · rw [stk_after_emit, hmem]
  · rw [stk_after_emit, hreqs]
  · rw [stk_after_emit, hothers j hj]

/-- A write of allowed lines puts its bytes in place (R506). -/
theorem runs_writeOpen (hbytes : bytes.length = len) (hmay : MayHost s k addr ((addr % 64 + len + 63) / 64) true) :
    Runs (.bar4Write off bytes) s (fun t => Mem.read (t.stk k).mem addr len = bytes ∧
      BytesBut addr len (s.stk k).mem (t.stk k).mem ∧ (t.stk k).reqs = [] ∧ StksBut [k] s t ∧ KeepsBut [.stks] s t) := by
  subst hbytes
  let q := hostReq addr bytes.length (.hostWrite bytes)
  obtain ⟨hvclean, hmem, hreqs⟩ := atOnce_clean hidle hclean q
  have hothers := stksBut_atOnce (s := s) (k := k) q
  have hkeeps := keeps_atOnce (s := s) (k := k) q
  have haccept : s.bar4Write off.toNat bytes = s.accept k q := by
    simp only [State.bar4Write, hmap]
    exact if_pos ((permitted_hostReq hlen).2 hmay)
  have hserve : (queued s k q).serveReq k 0 = (atOnce s k q).serveHostWrite k q bytes :=
    serveReq_hostWrite (q := q) (by rw [stk_queued, hidle.reqs]; rfl) rfl
  have hu := haccept.trans ((accept_idle hidle q).trans hserve)
  generalize atOnce s k q = v at hvclean hmem hreqs hothers hkeeps hu
  have hwrite : v.serveHostWrite k q bytes = v.bar4WriteAll k addr bytes (bar4Pieces (bytes.length / 64 + 2) addr bytes.length) :=
    if_pos (by simp [State.writable, hvclean.serves])
  have hstored := stored_writeAll addr bytes (bytes.length / 64 + 2) addr bytes.length v hvclean le_rfl rfl (by omega)
  rw [Nat.sub_self, List.drop_zero] at hstored
  obtain ⟨-, htreqs, hbyte, htothers, htkeeps⟩ := hstored
  rw [hmem] at hbyte
  have hall := KeepsBut_trans hkeeps htkeeps
  refine runs_bar4Write hlink (hu.trans hwrite) hall (by decide)
    ⟨?_, fun x hx => ?_, htreqs.trans hreqs, StksBut_trans hothers htothers, hall⟩
  · rw [read_congr hbyte, Mem.read_write_same]
  · rw [hbyte, BytesBut_write _ _ _ x hx]

end Open

end Access

end Sys2Proof.Proofs.HostAperture
end

section
/-! The requests of a stack as a whole (R155, R156, R159, R164, R179, R462, R506). -/

namespace Sys2Proof.Proofs.StackRequests

open Sys2Proof.Machine Sys2Proof.Safety Sys2Proof.Laws
open Sys2Proof.Proofs.StackLines Sys2Proof.Proofs.StackSteps Sys2Proof.Proofs.StackService
open Sys2Proof.Proofs.MeshRequests Sys2Proof.Proofs.MeshAnswers Sys2Proof.Proofs.HostAperture

/-- Settles O35: one rule for each answer to a request of the mesh, then one for each of the host's accesses. -/
theorem stackRequests : Obligations.StackRequests := by
  unfold Obligations.StackRequests
  refine ⟨fun s k => ⟨fun i f link hf hloc hgood => ⟨fun hkind => ⟨?_, ?_⟩, fun hkind hst => ⟨?_, ?_, ?_⟩⟩, ?_⟩, ?_⟩
  · exact fun ⟨hlen, hmay⟩ => runs_readQueued hf hloc hgood hkind hlen hmay
  · exact fun hno => ⟨fun key hsrc => runs_zerosTile hf hloc hgood hkind hno hsrc,
      fun h hsrc => runs_zerosHerd hf hloc hgood hkind hno hsrc⟩
  · intro hfits ⟨hserves, hreqs, hcopies, hfree, hjournal, hcopy⟩
    exact runs_writeAtOnce hf hloc hgood hkind hfits ⟨hserves, hreqs, hcopies, hfree, hjournal, hcopy⟩
  · exact runs_writeWaits hf hloc hgood hkind hst
  · exact runs_writeRefused hf hloc hgood hkind hst
  · intro i q key hpick hq hkind hsrc haddr hst hjournal hgood
    exact runs_readServed hpick hq hkind haddr hst hjournal hgood hsrc
  · intro s off k addr len hlink
    refine ⟨?_, ?_, ?_⟩
    · intro hmap hlen hst hbad hcorr hodie hreqs hcopies hfree hjournal hcopy
      have hidle : Idle s k := ⟨hst, hreqs, hcopies, hfree, hjournal, hcopy⟩
      have hclean : CleanStack s k := ⟨stkServes_iff.2 hst, hbad, hcorr, hodie⟩
      exact ⟨runs_readOpen hlink hmap hlen hidle hclean,
        fun bytes hbytes => runs_writeOpen hlink hmap hlen hidle hclean hbytes⟩
    · exact fun hmap => ⟨runs_readClosed hlink hmap, fun bytes _ => exec_writeClosed hlink hmap⟩
    · exact fun hlen hmap => ⟨runs_readRefused hlink hmap hlen,
        fun hno bytes hbytes => runs_hostWriteRefused hlink hmap hlen hbytes hno⟩

end Sys2Proof.Proofs.StackRequests
end

section
/-! The fuses: what each way to burn them leaves, and that no command takes anything back (R192, R207). -/

namespace Sys2Proof.Proofs.FuseSteps

open Sys2Proof.Machine Sys2Proof.Safety Sys2Proof.Laws Sys2Proof.Proofs.Frames

/-! ### Growing -/

theorem fusesGrow_refl (f : Fuses) : FusesGrow f f :=
  ⟨.inr rfl, .inr rfl, .inr rfl, .inr rfl, BitVec.and_self, BitVec.and_self⟩

/-- A slot that was blank, or has been kept, along two changes. -/
theorem slot_trans {x y z : Option (BitVec 512)} (h : x = none ∨ y = x) (h' : y = none ∨ z = y) : x = none ∨ z = x := by
  rcases h with h | rfl
  · exact .inl h
  · exact h'

/-- Bits that stay set along two changes. -/
theorem bits_trans {n : Nat} {x y z : BitVec n} (h : x &&& y = x) (h' : y &&& z = y) : x &&& z = x :=
  calc x &&& z = x &&& y &&& z := by rw [h]
    _ = x &&& y := by rw [BitVec.and_assoc, h']
    _ = x := h

theorem fusesGrow_trans {f g h : Fuses} (a : FusesGrow f g) (b : FusesGrow g h) : FusesGrow f h where
  slot0 := slot_trans a.slot0 b.slot0
  slot1 := slot_trans a.slot1 b.slot1
  slot2 := slot_trans a.slot2 b.slot2
  slot3 := slot_trans a.slot3 b.slot3
  revoked := bits_trans a.revoked b.revoked
  thermo := bits_trans a.thermo b.thermo

theorem and_or_self {n : Nat} (x y : BitVec n) : x &&& (x ||| y) = x := by
  ext i hi
  simp only [BitVec.getElem_and, BitVec.getElem_or]
  cases x[i] <;> simp

/-! ### Programming and revoking a slot -/

/-- A digest goes into a blank slot alone. -/
theorem slot_or (x : Option (BitVec 512)) (d : BitVec 512) : x = none ∨ x.or (some d) = x := by
  cases x
  · exact .inl rfl
  · exact .inr rfl

theorem fusesGrow_burn (f : Fuses) (k : Nat) (d : BitVec 512) : FusesGrow f (f.burn k d) := by
  have hsame := fusesGrow_refl f
  unfold Fuses.burn
  split
  · exact { hsame with slot0 := slot_or _ d }
  · exact { hsame with slot1 := slot_or _ d }
  · exact { hsame with slot2 := slot_or _ d }
  · exact { hsame with slot3 := slot_or _ d }
  · exact hsame

theorem fusesGrow_revoke (f : Fuses) (k : Nat) : FusesGrow f (f.revoke k) :=
  { fusesGrow_refl f with revoked := and_or_self _ _ }

/-- A digest burnt into a blank slot is what the slot holds, and the other slots hold what they held. -/
theorem slot_burn {f : Fuses} {k : Fin 4} (hblank : f.slot k = none) (d : BitVec 512) (j : Fin 4) :
    (f.burn k d).slot j = if j = k then some d else f.slot j := by
  match k, hblank with
  | 0, h | 1, h | 2, h | 3, h => fin_cases j <;> simp_all [Fuses.slot, Fuses.burn]

theorem revoked_burn (f : Fuses) (k : Nat) (d : BitVec 512) :
    (f.burn k d).revoked = f.revoked ∧ (f.burn k d).thermo = f.thermo := by
  unfold Fuses.burn
  split <;> exact ⟨rfl, rfl⟩

/-- Revoking a slot sets its bit and no other. -/
theorem isRevoked_revoke (f : Fuses) (k j : Fin 4) : (f.revoke k).isRevoked j = (decide (j = k) || f.isRevoked j) := by
  have hbit : (BitVec.ofNat 4 (2 ^ k.val)).getLsbD j = decide (j = k) := by
    rw [BitVec.getLsbD_ofNat, Nat.testBit_two_pow]
    simp [Fin.ext_iff, eq_comm]
  rw [Fuses.isRevoked, Fuses.revoke, BitVec.getLsbD_or, hbit, Bool.or_comm]
  rfl

/-- The slot is the last one that is programmed and unrevoked. -/
def LastLive (f : Fuses) (k : Fin 4) : Prop := f.live k = true ∧ ∀ j : Fin 4, j ≠ k → f.live j = false

theorem lastLive_iff (f : Fuses) (k : Fin 4) :
    (f.live k && !((List.range 4).any (fun j => decide (j ≠ k.val) && f.live j))) = true ↔ LastLive f k := by
  have hothers : (List.range 4).any (fun j => decide (j ≠ k.val) && f.live j) = false ↔
      ∀ j : Fin 4, j ≠ k → f.live j = false := by
    rw [List.any_eq_false]
    constructor
    · intro h j hj
      simpa [Fin.ext_iff.not.1 hj] using h j (List.mem_range.2 j.isLt)
    · intro h j hj
      by_cases hk : j = k.val
      · simp [hk]
      · simp [h ⟨j, List.mem_range.1 hj⟩ (Fin.ext_iff.not.2 hk)]
  rw [Bool.and_eq_true, Bool.not_eq_true', hothers]
  rfl

/-! ### MIN_SVN -/

/-- A loop over fuses that burns at each step only grows them. -/
theorem fusesGrow_advance (f : Fuses) (n : Nat) : FusesGrow f (f.advance n) := by
  unfold Fuses.advance
  induction List.range 64 generalizing f with
  | nil => exact fusesGrow_refl f
  | cons i is ih =>
    refine fusesGrow_trans ?_ (ih _)
    dsimp only
    split
    · exact { fusesGrow_refl f with thermo := and_or_self _ _ }
    · exact fusesGrow_refl f

theorem fusesGrow_burns (g : Image) (f : Fuses) : FusesGrow f (g.burns f) := by
  unfold Image.burns
  split
  · exact fusesGrow_advance f _
  · exact fusesGrow_refl f

/-! ### The fuse commands -/

@[simp] theorem fuses_fuseAns (s : State) (ok : Bool) : (s.fuseAns ok).fuses = s.fuses := rfl

theorem fuseProgram_eq (s : State) (k confirm : Nat) : s.fuseProgram k confirm = s.fuseAns false ∨
    s.fuseProgram k confirm = { s.fuseAns true with fuses := s.fuses.burn k s.fuseData } := by
  unfold State.fuseProgram
  exact (ite_eq_or_eq _ _ _).symm

theorem fuseRevoke_eq (s : State) (k confirm : Nat) : s.fuseRevoke k confirm = s.fuseAns false ∨
    s.fuseRevoke k confirm = { s.fuseAns true with fuses := s.fuses.revoke k } := by
  unfold State.fuseRevoke
  exact (ite_eq_or_eq _ _ _).symm

theorem fusesGrow_fuseProgram (s : State) (k confirm : Nat) : FusesGrow s.fuses (s.fuseProgram k confirm).fuses := by
  rcases fuseProgram_eq s k confirm with h | h <;> rw [h]
  · rw [fuses_fuseAns]
    exact fusesGrow_refl _
  · exact fusesGrow_burn s.fuses k s.fuseData

theorem fusesGrow_fuseRevoke (s : State) (k confirm : Nat) : FusesGrow s.fuses (s.fuseRevoke k confirm).fuses := by
  rcases fuseRevoke_eq s k confirm with h | h <;> rw [h]
  · rw [fuses_fuseAns]
    exact fusesGrow_refl _
  · exact fusesGrow_revoke s.fuses k

theorem fusesGrow_fuseCmd (s : State) (op k confirm : Nat) : FusesGrow s.fuses (s.fuseCmd op k confirm).fuses := by
  unfold State.fuseCmd
  split
  · exact fusesGrow_fuseProgram s k confirm
  · exact fusesGrow_fuseRevoke s k confirm
  · exact fusesGrow_refl _

/-! ### The commands -/

theorem fusesGrow_writeReg (s : State) (off v mask : Nat) : FusesGrow s.fuses (s.writeReg off v mask).fuses := by
  unfold State.writeReg
  split_ifs
  · exact fusesGrow_refl _
  · exact fusesGrow_fuseCmd s _ _ _
  · exact fusesGrow_refl _

theorem fusesGrow_access (s : State) (a : HostAccess) : FusesGrow s.fuses (s.access a).fuses := by
  cases a with
  | write64 off v => exact fusesGrow_writeReg s _ _ _
  | write32 off v =>
    simp only [State.access, State.write32]
    split
    · exact fusesGrow_writeReg s _ _ _
    · exact fusesGrow_writeReg s _ _ _
  | read64 | read32 | bar2Write | bar2Read => exact fusesGrow_refl _

theorem fusesGrow_commit (s : State) : FusesGrow s.fuses s.commit.fuses := by
  unfold State.commit
  split
  · split
    · exact fusesGrow_burns _ _
    · exact fusesGrow_refl _
  · exact fusesGrow_refl _

/-- What applies only where a condition holds grows the fuses where it applies. -/
theorem fusesGrow_when {s : State} {f : State → State} (c : Bool) (h : FusesGrow s.fuses (f s).fuses) :
    FusesGrow s.fuses (s.when c f).fuses := by
  cases c
  · exact fusesGrow_refl _
  · exact h

theorem fusesGrow_of_next {f : State → State} {s t : State} (h : FusesGrow s.fuses (f s).fuses)
    (ht : actFuses f s = .next t) : FusesGrow s.fuses t.fuses := by
  cases ht
  exact h

/-- A command may burn fuses: a register write, which may reach IMG_FUSE_CMD, COMMIT, or a fuse command. -/
def mayBurn : Instr → Bool
  | .registerWrite _ | .commit | .fuseProgram _ _ | .fuseRevoke _ _ => true
  | _ => false

/-- The state that an answer gives has the fuses that the answer's state is written with. -/
theorem fuses_of_next {u s t : State} (h : (.next u : Result) = .next t) (hu : u.fuses = s.fuses) : t.fuses = s.fuses := by
  cases h
  exact hu

/-- Every other command answers a state written with the fuses before it. -/
theorem fuses_exec {i : Instr} (hi : mayBurn i = false) {s t : State} (h : exec i s = .next t) : t.fuses = s.fuses := by
  cases i with
  | registerWrite | commit | fuseProgram | fuseRevoke => cases hi
  | _ => exact fuses_of_next h rfl

theorem fusesGrow_exec (i : Instr) {s t : State} (h : exec i s = .next t) : FusesGrow s.fuses t.fuses := by
  by_cases hi : mayBurn i = false
  · rw [fuses_exec hi h]
    exact fusesGrow_refl _
  · cases i with
    | registerWrite a =>
      exact fusesGrow_of_next (f := fun s => s.when s.host.linkUp fun s => s.access a) (fusesGrow_when _ (fusesGrow_access s a)) h
    | commit => exact fusesGrow_of_next (fusesGrow_commit s) h
    | fuseProgram k c =>
      exact fusesGrow_of_next (f := fun s => s.when s.host.linkUp fun s => s.fuseProgram k c.toNat)
        (fusesGrow_when _ (fusesGrow_fuseProgram s _ _)) h
    | fuseRevoke k c =>
      exact fusesGrow_of_next (f := fun s => s.when s.host.linkUp fun s => s.fuseRevoke k c.toNat)
        (fusesGrow_when _ (fusesGrow_fuseRevoke s _ _)) h
    | _ => exact absurd rfl hi

/-- Settles O3: a step is idle or runs one command, and no command takes back what the fuses hold. -/
theorem fusesNeverGoBack : Obligations.FusesNeverGoBack := by
  intro f s t hf hstep
  unfold step at hstep
  split at hstep
  · cases hstep
    exact hf
  · have hgrow := fusesGrow_exec _ hstep
    exact fusesGrow_trans hf hgrow

end Sys2Proof.Proofs.FuseSteps
end

section
/-! The fuse commands: their conditions, their answer in IMG_KEY_STATUS, and MIN_SVN (R192, R207). -/

namespace Sys2Proof.Proofs.FuseCommands

open Sys2Proof.Machine Sys2Proof.Safety Sys2Proof.Laws Sys2Proof.Proofs.Frames
open Sys2Proof.Proofs.LoadCommands Sys2Proof.Proofs.HostCommands Sys2Proof.Proofs.StackSteps Sys2Proof.Proofs.FuseSteps

/-! ### The answer -/

theorem rd_fuseAns_done (s : State) (ok : Bool) : (s.fuseAns ok).rd Reg.IMG_KEY_STATUS_FUSE_DONE = b2n ok := by
  rw [State.fuseAns, rd_wr_apart _ _ rfl, rd_wr_same _ _ rfl]
  cases ok <;> rfl

theorem rd_fuseAns_fail (s : State) (ok : Bool) : (s.fuseAns ok).rd Reg.IMG_KEY_STATUS_FUSE_FAIL = b2n (!ok) := by
  rw [State.fuseAns, rd_wr_same _ _ rfl]
  cases ok <;> rfl

theorem regsBut_fuseAns (s : State) (ok : Bool) : RegsBut [Reg.IMG_KEY_STATUS] s (s.fuseAns ok) :=
  RegsBut_trans (RegsBut_wr s Reg.IMG_KEY_STATUS_FUSE_DONE _) (RegsBut_wr _ Reg.IMG_KEY_STATUS_FUSE_FAIL _)

theorem keeps_fuseAns (s : State) (ok : Bool) : KeepsBut [.regs] s (s.fuseAns ok) :=
  KeepsBut_trans (keeps_wr s _ _) (keeps_wr _ _ _)

theorem keeps_fuses (s : State) (f : Fuses) : KeepsBut [.fuses] s { s with fuses := f } :=
  ⟨rfl, fun p hp => by cases p <;> simp_all [Part.same]⟩

/-- The state after a fuse command that has burnt. -/
def burnt (s : State) (f : Fuses) : State := { s.fuseAns true with fuses := f }

theorem regs_burnt (s : State) (f : Fuses) : (burnt s f).regs = (s.fuseAns true).regs := rfl

theorem rd_burnt (s : State) (f : Fuses) (g : Fld) : (burnt s f).rd g = (s.fuseAns true).rd g := by
  rw [rd_of_regs (regs_burnt s f)]

theorem regsBut_burnt (s : State) (f : Fuses) : RegsBut [Reg.IMG_KEY_STATUS] s (burnt s f) :=
  RegsBut_trans (regsBut_fuseAns s true) (RegsBut_of_regs (regs_burnt s f) _)

theorem keeps_burnt (s : State) (f : Fuses) : KeepsBut [.regs, .fuses] s (burnt s f) :=
  KeepsBut_append (keeps_fuseAns s true) (keeps_fuses _ f)

/-- A command that may burn fuses and keeps the queue answers its function's state. -/
theorem runs_of_actFuses {i : Instr} {f : State → State} {s u : State} {P : State → Prop} (hi : exec i s = actFuses f s)
    (hf : f s = u) (hpending : u.pending = s.pending) (h : P u) : Runs i s P := by
  refine ⟨u, ?_, h⟩
  rw [hi, actFuses, hf, ← hpending]

/-! ### The commands -/

theorem exec_fuseProgram (k : Fin 4) (c : BitVec 16) (s : State) : exec (.fuseProgram k c) s =
    actFuses (fun s => s.when s.host.linkUp (fun s => s.fuseProgram k.val c.toNat)) s := rfl

theorem exec_fuseRevoke (k : Fin 4) (c : BitVec 16) (s : State) : exec (.fuseRevoke k c) s =
    actFuses (fun s => s.when s.host.linkUp (fun s => s.fuseRevoke k.val c.toNat)) s := rfl

/-- The confirmation key as the register holds it. -/
theorem confirm_iff (c : BitVec 16) : c.toNat = 0xA5F0 ↔ c = 0xA5F0 :=
  (BitVec.toNat_inj (x := c) (y := 0xA5F0#16))

section Linked

variable {s : State} (hl : Linked s) (k : Fin 4) (c : BitVec 16)
include hl

theorem runs_fuseProgram {P : State → Prop}
    (hmay : c = 0xA5F0 ∧ s.img.everCommitted = false ∧ s.fuses.slot k = none ∧ s.fuses.isRevoked k = false)
    (h : P (burnt s (s.fuses.burn k s.fuseData))) : Runs (.fuseProgram k c) s P := by
  refine runs_of_actFuses (exec_fuseProgram k c s) ((when_linked hl _).trans ?_) (keeps_burnt s _).1 h
  rw [State.fuseProgram, if_pos (by rwa [confirm_iff]), burnt]

theorem runs_fuseProgram_refused
    (hmay : ¬(c = 0xA5F0 ∧ s.img.everCommitted = false ∧ s.fuses.slot k = none ∧ s.fuses.isRevoked k = false)) {P : State → Prop}
    (h : P (s.fuseAns false)) : Runs (.fuseProgram k c) s P := by
  refine runs_of_actFuses (exec_fuseProgram k c s) ((when_linked hl _).trans ?_) (keeps_fuseAns s false).1 h
  rw [State.fuseProgram, if_neg (by rwa [confirm_iff])]

theorem runs_fuseRevoke {P : State → Prop} (hmay : c = 0xA5F0 ∧ ¬LastLive s.fuses k)
    (h : P (burnt s (s.fuses.revoke k))) : Runs (.fuseRevoke k c) s P := by
  refine runs_of_actFuses (exec_fuseRevoke k c s) ((when_linked hl _).trans ?_) (keeps_burnt s _).1 h
  rw [State.fuseRevoke, if_pos (by rwa [confirm_iff, ← Bool.not_eq_true, lastLive_iff]), burnt]

theorem runs_fuseRevoke_refused {P : State → Prop} (hmay : ¬(c = 0xA5F0 ∧ ¬LastLive s.fuses k)) (h : P (s.fuseAns false)) :
    Runs (.fuseRevoke k c) s P := by
  refine runs_of_actFuses (exec_fuseRevoke k c s) ((when_linked hl _).trans ?_) (keeps_fuseAns s false).1 h
  rw [State.fuseRevoke, if_neg (by rwa [confirm_iff, ← Bool.not_eq_true, lastLive_iff])]

end Linked

/-- Settles O38: each command with its conditions met, and refused. -/
theorem fuseCommands : Obligations.FuseCommands := by
  intro s
  refine ⟨fun k c hl => ?_, rfl, ?_⟩
  · intro answered may last
    have hdone (f : Fuses) : answered 1 0 (burnt s f) :=
      ⟨(rd_burnt s f _).trans (rd_fuseAns_done s true), (rd_burnt s f _).trans (rd_fuseAns_fail s true), regsBut_burnt s f⟩
    have hfail : answered 0 1 (s.fuseAns false) :=
      ⟨rd_fuseAns_done s false, rd_fuseAns_fail s false, regsBut_fuseAns s false⟩
    refine ⟨fun hmay => ?_, fun hmay => ?_, fun hmay => ?_, fun hmay => ?_⟩
    · obtain ⟨-, -, hblank, -⟩ := id hmay
      obtain ⟨hrevoked, hthermo⟩ := revoked_burn s.fuses k s.fuseData
      have hslot := slot_burn hblank s.fuseData
      refine runs_fuseProgram hl k c hmay ⟨hdone _, ?_, fun j hj => ?_, hrevoked, hthermo, keeps_burnt s _⟩
      · exact (hslot k).trans (if_pos rfl)
      · exact (hslot j).trans (if_neg hj)
    · exact runs_fuseProgram_refused hl k c hmay ⟨hfail, keeps_fuseAns s false⟩
    · exact runs_fuseRevoke hl k c hmay
        ⟨hdone _, isRevoked_revoke s.fuses k, fun _ => rfl, rfl, keeps_burnt s _⟩
    · exact runs_fuseRevoke_refused hl k c hmay ⟨hfail, keeps_fuseAns s false⟩
  · intro t ht
    cases ht
    rfl

end Sys2Proof.Proofs.FuseCommands
end

section
/-! The checks of VERIFY: what each of them may report, and what an image has that passes them all (R193, R194). -/

namespace Sys2Proof.Proofs.ImageVerdicts

open Sys2Proof.Machine

/-! ### Failures -/

/-- A failure with a code of R194 and a sub-code of its table. -/
structure Reported (f : Fail) : Prop where
  code : f.code = Code.imageAuth ∨ f.code = Code.imageCrc ∨ f.code = Code.imageTarget
  pos  : 1 ≤ f.sub
  le   : f.sub ≤ 9

/-- A check that reports a failure of R194, or none. -/
def Reports (r : Option Fail) : Prop := ∀ f, r = some f → Reported f

theorem reports_none : Reports none := fun _ h => by cases h

theorem reports_some {f : Fail} (h : Reported f) : Reports (some f) := fun g hg => by cases hg; exact h

/-- The first failure of two checks. -/
theorem Reports.or {a b : Option Fail} (ha : Reports a) (hb : Reports b) : Reports (a.or b) := by
  cases a
  · exact hb
  · exact ha

/-- A failure under a condition, else what a further check reports. -/
theorem reports_ite {c : Prop} [Decidable c] {f : Fail} {r : Option Fail} (h : Reported f) (hr : Reports r) :
    Reports (if c then some f else r) := by
  split
  · exact reports_some h
  · exact hr

/-- A sub-code of the table of R194. -/
def listedSub (n : Nat) : Bool := decide (1 ≤ n ∧ n ≤ 9)

theorem reported_auth {f : Fail} (hc : f.code = Code.imageAuth) (hs : listedSub f.sub = true) : Reported f :=
  have ⟨hpos, hle⟩ := of_decide_eq_true hs
  ⟨.inl hc, hpos, hle⟩

theorem reported_crc {f : Fail} (hc : f.code = Code.imageCrc) (hs : listedSub f.sub = true) : Reported f :=
  have ⟨hpos, hle⟩ := of_decide_eq_true hs
  ⟨.inr (.inl hc), hpos, hle⟩

theorem reported_target {f : Fail} (hc : f.code = Code.imageTarget) (hs : listedSub f.sub = true) : Reported f :=
  have ⟨hpos, hle⟩ := of_decide_eq_true hs
  ⟨.inr (.inr hc), hpos, hle⟩

/-! ### The checks -/

theorem reports_checkKey (s : State) (sig : List Byte) : Reports (s.checkKey sig) :=
  reports_ite (reported_auth rfl rfl) (reports_ite (reported_auth rfl rfl)
    (reports_ite (reported_auth rfl rfl) reports_none))

theorem reports_checkTable (size i lo : Nat) (es : List Entry) : Reports (checkTable size i lo es) := by
  induction es generalizing i lo with
  | nil => exact reports_none
  | cons e es ih => exact reports_ite (reported_crc rfl rfl) (ih _ _)

theorem reports_checkCrcs (img : List Byte) (i : Nat) (es : List Entry) : Reports (checkCrcs img i es) := by
  induction es generalizing i with
  | nil => exact reports_none
  | cons e es ih => exact reports_ite (reported_crc rfl rfl) (ih _)

theorem reports_checkKinds (g : Image) (i : Nat) (before xs : List Sect) : Reports (g.checkKinds i before xs) := by
  induction xs generalizing i before with
  | nil => exact reports_none
  | cons x xs ih =>
    exact reports_ite (reported_target rfl rfl) (reports_ite (reported_target rfl rfl)
      (reports_ite (reported_target rfl rfl) (ih _ _)))

theorem reports_checkNeeded (g : Image) : Reports g.checkNeeded := by
  intro f hf
  unfold Image.checkNeeded at hf
  split at hf
  · obtain ⟨t, -, rfl⟩ := Option.map_eq_some_iff.1 hf
    exact reported_target rfl rfl
  · cases hf

theorem reports_checkBase (s : State) (h : List Byte) : Reports (s.checkBase h) := by
  unfold State.checkBase
  refine reports_ite (reported_target rfl rfl) (reports_ite (reported_target rfl rfl) ?_)
  split
  · exact reports_none
  · exact reports_ite (reported_target rfl rfl) (reports_ite (reported_target rfl rfl) reports_none)

theorem reports_checkReady (s : State) (g : Image) : Reports (s.checkReady g) := by
  have hherd (h : Nat) : Reported (herdFail 0x05 h) := reported_target rfl rfl
  unfold State.checkReady
  split
  · split
    · exact reports_some (hherd _)
    · exact reports_ite (hherd _) (reports_ite (reported_target rfl rfl) reports_none)
  · split
    · exact reports_some (hherd _)
    · exact reports_ite (reported_target rfl rfl) reports_none

/-! ### The sections' own checks -/

/-- The sub-codes that a section's own check gives: 0x07, and 0x09 for a record outside HERD_MASK. -/
def SubOk (v : Verdict) : Prop := ∀ sub, v = .bad sub → listedSub sub = true

theorem subOk_ok : SubOk .ok := fun _ h => by cases h

theorem subOk_missing (t : Nat) : SubOk (.missing t) := fun _ h => by cases h

theorem subOk_bad {n : Nat} (h : listedSub n = true) : SubOk (.bad n) := fun _ hv => by cases hv; exact h

theorem subOk_unless (b : Bool) : SubOk (.unless b) := by
  cases b
  · exact subOk_bad rfl
  · exact subOk_ok

theorem SubOk.and {a b : Verdict} (ha : SubOk a) (hb : SubOk b) : SubOk (a.and b) := by
  unfold Verdict.and
  split
  · exact hb
  · exact ha

theorem subOk_checkBcast (s : State) (g : Image) (h : Nat) (p : List Byte) : SubOk (s.checkBcast g h p) := by
  unfold State.checkBcast
  dsimp only
  split_ifs
  · exact subOk_bad rfl
  · exact subOk_bad rfl
  · exact subOk_bad rfl
  · exact subOk_unless _

theorem subOk_queueNeeds (g : Image) (n v : Nat) : SubOk (g.queueNeeds n v) := by
  unfold Image.queueNeeds
  dsimp only
  split_ifs
  · exact subOk_missing _
  · exact subOk_ok
  · exact subOk_missing _
  · exact subOk_missing _
  · exact subOk_ok
  · exact subOk_missing _
  · exact subOk_unless _
  · exact subOk_ok

theorem subOk_checkQueues (g : Image) (n : Nat) (p : List Byte) : SubOk (g.checkQueues n p) := by
  have hneeds (vs : List Nat) (a : Verdict) (ha : SubOk a) : SubOk (vs.foldl (fun a v => a.and (g.queueNeeds n v)) a) := by
    induction vs generalizing a with
    | nil => exact ha
    | cons v vs ih => exact ih _ (ha.and (subOk_queueNeeds g n v))
  exact (subOk_unless _).and (hneeds _ _ subOk_ok)

theorem subOk_checkSect (s : State) (g : Image) (x : Sect) : SubOk (s.checkSect g x) := by
  unfold State.checkSect
  dsimp only
  split
  · exact subOk_bad rfl
  split
  · exact subOk_bad rfl
  split
  case h_6 => exact subOk_checkBcast s g x.inst x.payload
  case h_16 => exact subOk_checkQueues g x.inst x.payload
  case h_22 => exact subOk_ok
  all_goals exact subOk_unless _

theorem reports_checkSects (s : State) (g : Image) (i : Nat) (xs : List Sect) : Reports (s.checkSects g i xs) := by
  induction xs generalizing i with
  | nil => exact reports_none
  | cons x xs ih =>
    unfold State.checkSects
    split
    · exact reports_ite (reported_target rfl rfl) (ih _)
    · next sub hsub => exact reports_some (reported_target rfl (subOk_checkSect s g x sub hsub))
    · exact reports_some (reported_target rfl rfl)

theorem reports_checkTarget (s : State) (h : List Byte) (g : Image) : Reports (s.checkTarget h g) :=
  (((reports_checkBase s h).or (reports_checkKinds g 0 [] g.sects)).or (reports_checkNeeded g)).or
    ((reports_checkReady s g).or (reports_checkSects s g 0 g.sects))

/-! ### The signed span -/

/-- What the checks of the signed span find. -/
structure SpanPasses (s : State) (h sig img : List Byte) (g : Image) : Prop where
  signed : Ed.verify (slice sig 0 32) (sha512 img) (slice sig 32 64) = true
  svn    : s.fuses.minSvn ≤ fld h 0x0C 2
  crcs   : checkCrcs img 0 ((recsOf 32 (tableBytes h img)).map entryOf) = none
  image  : g = imageOf h sig img ((recsOf 32 (tableBytes h img)).map entryOf)
  base   : s.checkBase h = none

theorem checkSpan_cases (s : State) (h sig img : List Byte) :
    (∃ g, s.checkSpan h sig img = .ok g ∧ SpanPasses s h sig img g) ∨
      ∃ f, s.checkSpan h sig img = .error f ∧ Reported f := by
  unfold State.checkSpan
  dsimp only
  split
  · exact .inr ⟨_, rfl, reported_auth rfl rfl⟩
  split
  · exact .inr ⟨_, rfl, reported_auth rfl rfl⟩
  next hsigned hsvn =>
  split
  · next f hf => exact .inr ⟨f, rfl, Reports.or (reports_checkTable _ _ _ _) (reports_checkCrcs _ _ _) f hf⟩
  next hcrcs =>
  split
  · next f hf => exact .inr ⟨f, rfl, reports_checkTarget _ _ _ f hf⟩
  next htarget =>
  obtain ⟨-, hcrcs⟩ := Option.or_eq_none_iff.1 hcrcs
  obtain ⟨hfirst, -⟩ := Option.or_eq_none_iff.1 htarget
  obtain ⟨hfirst, -⟩ := Option.or_eq_none_iff.1 hfirst
  obtain ⟨hbase, -⟩ := Option.or_eq_none_iff.1 hfirst
  exact .inl ⟨_, rfl, by simpa using hsigned, not_lt.1 hsvn, hcrcs, rfl, hbase⟩

/-- Each payload of the table has its CRC. -/
theorem crc_of_checkCrcs {img : List Byte} {i : Nat} {es : List Entry} (h : checkCrcs img i es = none) :
    ∀ e ∈ es, (crc32c (slice img e.off e.size)).toNat = e.crc := by
  induction es generalizing i with
  | nil => exact fun e he => by cases he
  | cons x es ih =>
    unfold checkCrcs at h
    split at h
    · cases h
    next hx =>
    intro e he
    rcases List.mem_cons.1 he with rfl | he
    · exact not_not.1 hx
    · exact ih h e he

theorem crc_of_passes {s : State} {h sig img : List Byte} {g : Image} (hp : SpanPasses s h sig img g) :
    ∀ x ∈ g.sects, crc32c x.payload = x.crc := by
  intro x hx
  rw [hp.image] at hx
  obtain ⟨e, he, rfl⟩ := List.mem_map.1 hx
  have hcrc := crc_of_checkCrcs hp.crcs e he
  show crc32c (slice img e.off e.size) = BitVec.ofNat 32 e.crc
  rw [← hcrc, BitVec.ofNat_toNat, BitVec.setWidth_eq]

/-- A partial image is one of the committed image. -/
theorem committed_of_checkBase {s : State} {h : List Byte} (hbase : s.checkBase h = none) (hkind : hdrKind h ≠ 1) :
    s.img.committed ≠ none := by
  intro hnone
  unfold State.checkBase at hbase
  simp only [hnone, Option.map_none, if_neg hkind] at hbase
  split_ifs at hbase with _ _ hdigest
  exact hdigest (by simp)

/-- A slot whose key may sign: it is programmed and unrevoked, and holds the key's digest. -/
theorem slot_of_checkKey {s : State} {sig : List Byte} (h : s.checkKey sig = none) :
    s.fuses.live (fld sig 96 1) = true ∧
      s.fuses.slot (fld sig 96 1) = some (digestBits (sha512 (slice sig 0 32))) := by
  unfold State.checkKey at h
  dsimp only at h
  split_ifs at h with hzero hlive hslot
  exact ⟨by simpa using (not_or.1 hlive).2, not_not.1 hslot⟩

end Sys2Proof.Proofs.ImageVerdicts
end

section
/-! VERIFY: what it reads of the staged image, and how it ends (R193, R194). -/

namespace Sys2Proof.Proofs.ImageVerify

open Sys2Proof.Machine Sys2Proof.Safety Sys2Proof.Laws Sys2Proof.Proofs.Frames
open Sys2Proof.Proofs.StackLines Sys2Proof.Proofs.StackSteps Sys2Proof.Proofs.ImageVerdicts

/-! ### Reading -/

/-- Lines of a stack without errors are read as they stand. -/
theorem readUntil_eq {s : State} {k : Nat} (h : CleanStack s k) (src : Option Src) (l n : Nat) :
    s.readUntil k src l n = ⟨s, Mem.read (s.stk k).mem (l * 64) (64 * n), false⟩ := by
  induction n generalizing l with
  | zero => rfl
  | succ n ih =>
    have hsplit := MeshAnswers.Mem.read_append (s.stk k).mem (l * 64) 64 (64 * n)
    rw [show 64 + 64 * n = 64 * (n + 1) by omega, show l * 64 + 64 = (l + 1) * 64 by omega] at hsplit
    simp only [State.readUntil, readLine_clean h, ih, Bool.false_eq_true, if_false, hsplit]
    rfl

/-- The staged image is read as stack 0 holds it, whole lines at a time. -/
theorem staged_eq {s : State} (h : CleanStack s 0) {a n : Nat} (ha : a % 64 = 0) (hn : n % 64 = 0) :
    s.staged a n = ⟨s, Mem.read (s.stk 0).mem (stagingBase + a) n, false⟩ := by
  have haddr : (stagingBase + a) / 64 * 64 = stagingBase + a := by unfold stagingBase; omega
  have hlen : 64 * ceilDiv n 64 = n := by unfold ceilDiv; omega
  rw [State.staged, readUntil_eq h, haddr, hlen]

/-- A read of the staged image leaves a stack without errors as it is. -/
theorem staged_clean {s : State} (h : CleanStack s 0) (a n : Nat) :
    (s.staged a n).state = s ∧ (s.staged a n).poisoned = false := by
  rw [State.staged, readUntil_eq h]
  exact ⟨rfl, rfl⟩

/-- What the header says of the span: whole lines, and no less than the header and a table of one entry. -/
theorem size_of_headerOk {h : List Byte} (hok : headerOk h = true) : hdrSize h % 64 = 0 ∧ 256 ≤ hdrSize h := by
  simp only [headerOk, Bool.and_eq_true, decide_eq_true_eq] at hok
  obtain ⟨-, hsize, -, -, -, hle⟩ := hok
  exact ⟨hsize, by omega⟩

/-- A field of the header, read of the whole image. -/
theorem fld_read (m : Mem) (b a n : Nat) {k j : Nat} (hk : a + n ≤ k) (hj : a + n ≤ j) :
    fld (Mem.read m b k) a n = fld (Mem.read m b j) a n := by
  rw [fld, fld, HostAperture.slice_read m b a n k hk, HostAperture.slice_read m b a n j hj]

section Verify

variable {s : State} (hclean : CleanStack s 0)

/-- The header, the signature block and the signed span of the image in the staging area. -/
def header (s : State) : List Byte := Mem.read (s.stk 0).mem stagingBase 256
def sigBlock (s : State) : List Byte := Mem.read (s.stk 0).mem (stagingBase + hdrSize (header s)) 128
def signedSpan (s : State) : List Byte := Mem.read (s.stk 0).mem stagingBase (hdrSize (header s))

include hclean

/-- The checks read the image and change nothing: one of them fails, or the key and the span pass. -/
theorem verifyImage_cases :
    (∃ g, s.verifyImage = (s, .ok g) ∧ headerOk (header s) = true ∧ s.checkKey (sigBlock s) = none ∧
      SpanPasses s (header s) (sigBlock s) (signedSpan s) g) ∨
    ∃ f, s.verifyImage = (s, .error f) ∧ Reported f := by
  have hheader : s.staged 0 256 = ⟨s, header s, false⟩ := staged_eq hclean rfl rfl
  unfold State.verifyImage
  simp only [hheader, Bool.false_eq_true, if_false]
  split
  · exact .inr ⟨_, rfl, reported_crc rfl rfl⟩
  next hok =>
  have hok : headerOk (header s) = true := by simpa using hok
  obtain ⟨hlines, -⟩ := size_of_headerOk hok
  obtain ⟨hstate, hpoisoned⟩ := staged_clean hclean 256 (32 * hdrCount (header s))
  have hsig : s.staged (hdrSize (header s)) 128 = ⟨s, sigBlock s, false⟩ := staged_eq hclean hlines rfl
  have hspan : s.staged 0 (hdrSize (header s)) = ⟨s, signedSpan s, false⟩ := staged_eq hclean rfl hlines
  simp only [hpoisoned, hstate, hsig, hspan, Bool.false_eq_true, if_false]
  split
  · next f hf => exact .inr ⟨f, rfl, reports_checkKey s _ f hf⟩
  next hkey =>
  rcases checkSpan_cases s (header s) (sigBlock s) (signedSpan s) with ⟨g, hg, hpass⟩ | ⟨f, hf, hrep⟩
  · exact .inl ⟨g, by rw [hg], hok, hkey, hpass⟩
  · exact .inr ⟨f, by rw [hf], hrep⟩

end Verify

/-! ### How VERIFY ends -/

theorem exec_verify (s : State) : exec .verify s = act State.verify s := rfl

/-- The state in which a rejected image leaves the loader, but for the event record. -/
def rejected (s : State) (f : Fail) : State :=
  ((((s.setImg { s.img with phase := .idle, loading := none }).wr Reg.IMG_LOAD_STATUS_FAIL 1).wr
    Reg.IMG_LOAD_STATUS_SUB f.sub).wr Reg.IMG_LOAD_STATUS_CODE f.code).wr Reg.IMG_LOAD_STATUS_SECTION f.sect

theorem imgFail_eq (s : State) (f : Fail) : s.imgFail f =
    (rejected s f).post f.code Source.img 0 (f.sub + f.sect * 2 ^ 16 + f.herd * 2 ^ 32 + f.typ * 2 ^ 48) := rfl

theorem regsBut_rejected (s : State) (f : Fail) : RegsBut [Reg.IMG_LOAD_STATUS] s (rejected s f) := by
  have hfail := RegsBut_wr (s.setImg { s.img with phase := .idle, loading := none }) Reg.IMG_LOAD_STATUS_FAIL 1
  have hsub := RegsBut_trans hfail (RegsBut_wr _ Reg.IMG_LOAD_STATUS_SUB f.sub)
  have hcode := RegsBut_trans hsub (RegsBut_wr _ Reg.IMG_LOAD_STATUS_CODE f.code)
  exact RegsBut_trans hcode (RegsBut_wr _ Reg.IMG_LOAD_STATUS_SECTION f.sect)

theorem keeps_rejected (s : State) (f : Fail) : KeepsBut [.regs, .img] s (rejected s f) := by
  have hregs := KeepsBut_trans (KeepsBut_trans (keeps_wr (s.setImg { s.img with phase := .idle, loading := none })
    Reg.IMG_LOAD_STATUS_FAIL 1) (keeps_wr _ Reg.IMG_LOAD_STATUS_SUB f.sub))
    (KeepsBut_trans (keeps_wr _ Reg.IMG_LOAD_STATUS_CODE f.code) (keeps_wr _ Reg.IMG_LOAD_STATUS_SECTION f.sect))
  exact KeepsBut_mono (KeepsBut_append (keeps_setImg s _) hregs) (by decide)

/-- FAIL, and the failure's code and sub-code. -/
theorem rd_rejected (s : State) {f : Fail} (h : Reported f) :
    (rejected s f).rd Reg.IMG_LOAD_STATUS_FAIL = 1 ∧ (rejected s f).rd Reg.IMG_LOAD_STATUS_CODE = f.code ∧
      (rejected s f).rd Reg.IMG_LOAD_STATUS_SUB = f.sub := by
  obtain ⟨hcode, -, hle⟩ := h
  have hcode : f.code % 2 ^ 16 = f.code := by rcases hcode with h | h | h <;> rw [h] <;> rfl
  have hsub : f.sub % 2 ^ 8 = f.sub := Nat.mod_eq_of_lt (by omega)
  unfold rejected
  refine ⟨?_, ?_, ?_⟩
  · rw [rd_wr_apart _ _ rfl, rd_wr_apart _ _ rfl, rd_wr_apart _ _ rfl, rd_wr_same _ _ rfl]
    rfl
  · rw [rd_wr_apart _ _ rfl, rd_wr_same _ _ rfl]
    exact hcode
  · rw [rd_wr_apart _ _ rfl, rd_wr_apart _ _ rfl, rd_wr_same _ _ rfl]
    exact hsub

theorem img_imgFail (s : State) (f : Fail) : (s.imgFail f).img = { s.img with phase := .idle, loading := none } := by
  rw [imgFail_eq, post_img, rejected, wr_img, wr_img, wr_img, wr_img, setImg_img]

theorem regs_imgFail (s : State) (f : Fail) : (s.imgFail f).regs = (rejected s f).regs := by rw [imgFail_eq, post_regs]

theorem events_imgFail (s : State) (f : Fail) :
    (s.imgFail f).io.events.map Event.code = s.io.events.map Event.code ++ [f.code] := by
  have hio : (rejected s f).io = s.io := (keeps_rejected s f).2 .io (by decide)
  calc (s.imgFail f).io.events.map Event.code
      = (rejected s f).io.events.map Event.code ++ [f.code] := List.map_append
    _ = s.io.events.map Event.code ++ [f.code] := by rw [hio]

/-- A rejected image ends the load in IDLE, with FAIL and one event record. -/
theorem runs_verify_rejected {s : State} {f : Fail} (hv : s.img.phase = .verify) (hf : s.verifyImage = (s, .error f))
    (hrep : Reported f) : Runs .verify s (fun t => t.img = { s.img with phase := .idle, loading := none } ∧
      t.rd Reg.IMG_LOAD_STATUS_FAIL = 1 ∧ t.rd Reg.IMG_LOAD_STATUS_CODE = f.code ∧ t.rd Reg.IMG_LOAD_STATUS_SUB = f.sub ∧
      RegsBut [Reg.IMG_LOAD_STATUS] s t ∧ t.io.events.map Event.code = s.io.events.map Event.code ++ [f.code] ∧
      KeepsBut [.regs, .img, .io] s t) := by
  have hverify : s.verify = s.imgFail f := by rw [State.verify, if_pos hv, hf]
  have hkeeps : KeepsBut [.regs, .img, .io] s (s.imgFail f) := KeepsBut_append (keeps_rejected s f) (keeps_post _ _ _ _ _)
  obtain ⟨hfail, hcode, hsub⟩ := rd_rejected s hrep
  have hrd (g : Fld) := HostCommands.rd_of_regs (regs_imgFail s f) g
  refine runs_of_act (exec_verify s) hverify hkeeps (by decide)
    ⟨img_imgFail s f, (hrd _).trans hfail, (hrd _).trans hcode, (hrd _).trans hsub, ?_, events_imgFail s f, hkeeps⟩
  exact RegsBut_trans (regsBut_rejected s f) (RegsBut_of_regs (regs_imgFail s f) _)

/-- An image that passes is the one that the load goes on with. -/
theorem runs_verify_accepted {s : State} {g : Image} (hv : s.img.phase = .verify) (hg : s.verifyImage = (s, .ok g)) :
    Runs .verify s (fun t =>
      t.img = { s.img with phase := if g.whole then .commit else .herdLoad, loading := some g, shaped := false } ∧
      KeepsBut [.img] s t) := by
  have hverify : s.verify =
      s.setImg { s.img with phase := if g.whole then .commit else .herdLoad, loading := some g, shaped := false } := by
    rw [State.verify, if_pos hv, hg]
  exact runs_of_act (exec_verify s) hverify (keeps_setImg s _) (by decide) ⟨rfl, keeps_setImg s _⟩

/-- Settles O40: the checks read what the staging area holds; the image fails one of them, or has passed them all. -/
theorem onlyAuthenticImagesPass : Obligations.OnlyAuthenticImagesPass := by
  intro s hv hst hbad hcorr hodie mem size sig img
  have hclean : CleanStack s 0 := ⟨decide_eq_true hst, hbad, hcorr, hodie⟩
  rcases verifyImage_cases hclean with ⟨g, hg, hok, hkey, hpass⟩ | ⟨f, hf, hrep⟩
  · obtain ⟨-, hlong⟩ := size_of_headerOk hok
    obtain ⟨hlive, hslot⟩ := slot_of_checkKey hkey
    have hcrcs := crc_of_passes hpass
    obtain ⟨hsigned, hsvn, -, rfl, hbase⟩ := hpass
    have hkind : hdrKind (header s) = fld img 0x06 2 := fld_read mem stagingBase 0x06 2 (by omega) (le_trans (by omega) hlong)
    refine .inl ⟨_, runs_verify_accepted hv hg, hlive, hslot, hsigned, rfl, hsvn, hcrcs, ?_, fun hpart => ?_⟩
    · rw [← hkind]
      rfl
    · exact committed_of_checkBase hbase (of_decide_eq_false hpart)
  · exact .inr ⟨f.code, f.sub, runs_verify_rejected hv hf hrep, hrep.code, hrep.pos, hrep.le⟩

end Sys2Proof.Proofs.ImageVerify
end

section
/-! The resident copies that COMMIT writes: which sections they list, and what their writing leaves (R197, R201, R295). -/

namespace Sys2Proof.Proofs.ResidentWrites

open Sys2Proof.Machine Sys2Proof.Safety Sys2Proof.Laws Sys2Proof.Proofs.Frames

/-! ### Loops -/

/-- What a loop's start has and each turn keeps, its end has. -/
theorem forEach_induction {α : Type} {P : State → Prop} {f : State → α → State} {xs : List α}
    (hf : ∀ t, ∀ x ∈ xs, P t → P (f t x)) {s : State} (hs : P s) : P (s.forEach xs f) := by
  induction xs generalizing s with
  | nil => exact hs
  | cons x xs ih =>
    exact ih (fun t y hy => hf t y (List.mem_cons_of_mem x hy)) (hf s x List.mem_cons_self hs)

/-! ### Lines of a copy -/

theorem keeps_writeLine (s : State) (k l : Nat) (bs : List Byte) : KeepsBut [.stks] s (s.writeLine k l bs) := by
  unfold State.writeLine
  split
  · split
    · exact keeps_updStk s k _
    · split
      · exact keeps_updStk s _ _
      · exact KeepsBut_refl _ s
  · split
    · exact keeps_updStk s k _
    · exact KeepsBut_refl _ s

theorem keeps_writeLines (s : State) (k l : Nat) (bs : List Byte) (src : Src) :
    KeepsBut [.regs, .stks] s (s.writeLines k l bs src) := by
  unfold State.writeLines
  split
  · exact KeepsBut_mono (keeps_forEach (fun t i => keeps_writeLine t k (l + i) _) (List.range (ceilDiv bs.length 64)) s)
      (by decide)
  · exact KeepsBut_mono (StackService.keeps_refuse s k src) (by decide)

theorem keeps_putCopy (s : State) (k off : Nat) (bs : List Byte) : KeepsBut [.regs, .stks] s (s.putCopy k off bs) := by
  unfold State.putCopy
  split
  · split
    · exact keeps_writeLines s k _ bs _
    · exact KeepsBut_refl _ s
  · exact KeepsBut_refl _ s

theorem keeps_writeCopy (s : State) (g : Image) (k : Nat) : KeepsBut [.regs, .stks] s (s.writeCopy g k) := by
  unfold State.writeCopy
  dsimp only
  split
  · exact KeepsBut_trans (keeps_putCopy s k _ _) (KeepsBut_trans (keeps_putCopy _ k _ _) (keeps_putCopy _ k _ _))
  · exact keeps_putCopy s k _ _

/-! ### Lists of sections -/

/-- What an image tells of its sections, and what a resident copy keeps of those it lists. -/
def told (l : List Sect) : List (Nat × Nat × Nat × BitVec 32) := l.map (fun x => (x.typ, x.inst, x.payload.length, x.crc))
def kept (l : List ResSect) : List (Nat × Nat × Nat × BitVec 32) := l.map (fun x => (x.typ, x.inst, x.size, x.crc))

theorem kept_placeSects (off : Nat) (l : List Sect) : kept (placeSects off l) = told l := by
  induction l generalizing off with
  | nil => rfl
  | cons x l ih => exact congrArg _ (ih _)

/-- What is kept of a herd's entry. -/
def keptEntry (s : State) (h : Nat) : List (Nat × Nat × Nat × BitVec 32) :=
  kept (NatMap.get s.img.herdRes ResEntry.none h).sects

theorem keptEntry_of_img {s t : State} (himg : t.img = s.img) (h : Nat) : keptEntry t h = keptEntry s h := by
  rw [keptEntry, himg, keptEntry]

/-! ### A herd's entry -/

/-- The entry that a herd's sections make beside those that are there. -/
def entryFor (s : State) (h : Nat) (l : List Sect) : ResEntry :=
  let off := fitEntry (s.entriesOf (s.homeStack h) h) (64 + (sectBytes l).length) s.img.fixed
  { off := off, len := 64 + (sectBytes l).length, sects := placeSects (off + 64) l }

/-- The state in which the list of entries has a herd's new one. -/
def withEntry (s : State) (h : Nat) (l : List Sect) : State :=
  s.setImg { s.img with herdRes := NatMap.put s.img.herdRes ResEntry.none h (entryFor s h l) }

/-- Writing an entry changes the list of entries, then its stack alone. -/
theorem writeEntry_after (s : State) (h : Nat) (l : List Sect) :
    KeepsBut [.regs, .stks] (withEntry s h l) (s.writeEntry h l) := by
  unfold State.writeEntry
  dsimp only
  split
  · exact KeepsBut_trans (keeps_putCopy _ _ _ _) (KeepsBut_trans (keeps_putCopy _ _ _ _) (keeps_putCopy _ _ _ _))
  · exact keeps_putCopy (withEntry s h l) _ _ _

theorem keeps_writeEntry (s : State) (h : Nat) (l : List Sect) : KeepsBut [.regs, .stks, .img] s (s.writeEntry h l) :=
  KeepsBut_mono (KeepsBut_append (keeps_setImg s _) (writeEntry_after s h l)) (by decide)

theorem img_writeEntry (s : State) (h : Nat) (l : List Sect) : (s.writeEntry h l).img =
    { s.img with herdRes := NatMap.put s.img.herdRes ResEntry.none h (entryFor s h l) } :=
  (writeEntry_after s h l).2 .img (by decide)

/-- The entries after one has been written. -/
theorem get_writeEntry (s : State) (h : Nat) (l : List Sect) (j : Nat) :
    NatMap.get (s.writeEntry h l).img.herdRes ResEntry.none j =
      if j = h then entryFor s h l else NatMap.get s.img.herdRes ResEntry.none j := by
  rw [img_writeEntry, NatMap.get_put]

theorem keptEntry_writeEntry (s : State) (h : Nat) (l : List Sect) (j : Nat) :
    keptEntry (s.writeEntry h l) j = if j = h then told l else keptEntry s j := by
  rw [keptEntry, get_writeEntry]
  split
  · exact kept_placeSects _ _
  · rfl

/-! ### All copies of an image -/

/-- The sections of a herd in an image. -/
def sectsOfHerd (g : Image) (h : Nat) : List Sect := g.sects.filter (fun x => decide (x.scope = 1 ∧ x.inst = h))

/-- The herds with sections, each with its sections. -/
theorem mem_herdSects {g : Image} {e : Nat × List Sect} :
    e ∈ g.herdSects ↔ e.1 < 1024 ∧ e.2 = sectsOfHerd g e.1 ∧ e.2 ≠ [] := by
  obtain ⟨h, l⟩ := e
  rw [Image.herdSects, List.mem_filterMap]
  constructor
  · rintro ⟨j, hj, hsome⟩
    split at hsome
    · cases hsome
    · next hl =>
      cases hsome
      exact ⟨List.mem_range.1 hj, rfl, hl⟩
  · intro ⟨hlt, hl, hne⟩
    dsimp only at hlt hl hne
    subst hl
    refine ⟨h, List.mem_range.2 hlt, ?_⟩
    split
    · next hnil => exact absurd hnil hne
    · rfl

/-- After the entries of some herds have been written, each of them keeps what the image tells of its herd. -/
theorem keptEntry_writeEntries (g : Image) {es : NatMap (List Sect)} (hes : ∀ e ∈ es, e.2 = sectsOfHerd g e.1) (s : State)
    (h : Nat) : keptEntry (s.forEach es (fun s e => s.writeEntry e.1 e.2)) h =
      if h ∈ es.map Prod.fst then told (sectsOfHerd g h) else keptEntry s h := by
  induction es generalizing s with
  | nil => rfl
  | cons e es ih =>
    have hhead := hes e List.mem_cons_self
    have hrest := ih (fun d hd => hes d (List.mem_cons_of_mem e hd)) (s.writeEntry e.1 e.2)
    refine hrest.trans ?_
    rw [keptEntry_writeEntry, hhead, List.map_cons]
    by_cases hmem : h ∈ es.map Prod.fst
    · rw [if_pos hmem, if_pos (List.mem_cons_of_mem _ hmem)]
    · by_cases heq : h = e.1
      · subst heq
        rw [if_neg hmem, if_pos rfl, if_pos List.mem_cons_self]
      · rw [if_neg hmem, if_neg heq, if_neg (by simpa [heq] using hmem)]

/-- The state in which the lists of resident sections are those of an image, with no herd's entry yet. -/
def withResident (s : State) (g : Image) : State :=
  let start := 64 + g.front.length
  s.setImg { s.img with resident := placeSects start g.common, fixed := start + (sectBytes g.common).length, herdRes := [] }

theorem storeResident_eq (s : State) (g : Image) : s.storeResident g =
    ((withResident s g).forEach (List.range 16) (fun s k => s.writeCopy g k)).forEach g.herdSects
      (fun s e => s.writeEntry e.1 e.2) := rfl

theorem keeps_storeResident (s : State) (g : Image) : KeepsBut [.regs, .stks, .img] s (s.storeResident g) := by
  have hcopies := keeps_forEach (fun t k => keeps_writeCopy t g k) (List.range 16) (withResident s g)
  have hentries := keeps_forEach (fun t (e : Nat × List Sect) => keeps_writeEntry t e.1 e.2) g.herdSects
    ((withResident s g).forEach (List.range 16) (fun s k => s.writeCopy g k))
  rw [storeResident_eq]
  exact KeepsBut_mono (KeepsBut_append (KeepsBut_append (keeps_setImg s _) hcopies) hentries) (by decide)

/-- The wafer and port sections, and the other facts of the loader, before the entries are written and after. -/
theorem img_storeResident (s : State) (g : Image) :
    (s.storeResident g).img = { (withResident s g).img with herdRes := (s.storeResident g).img.herdRes } := by
  have hcopies := keeps_forEach (fun t k => keeps_writeCopy t g k) (List.range 16) (withResident s g)
  rw [storeResident_eq]
  refine forEach_induction (P := fun t => t.img = { (withResident s g).img with herdRes := t.img.herdRes })
    (fun t e _ ht => ?_) ?_
  · rw [img_writeEntry, ht]
  · rw [hcopies.2 .img (by decide)]

theorem keptEntry_storeResident (s : State) (g : Image) {h : Nat} (hh : h < 1024) :
    keptEntry (s.storeResident g) h = told (sectsOfHerd g h) := by
  have hcopies := keeps_forEach (fun t k => keeps_writeCopy t g k) (List.range 16) (withResident s g)
  rw [storeResident_eq, keptEntry_writeEntries g (fun e he => (mem_herdSects.1 he).2.1)]
  split
  · rfl
  · next hnone =>
    have hnil : sectsOfHerd g h = [] := by
      by_contra hne
      exact hnone (List.mem_map.2 ⟨(h, sectsOfHerd g h), mem_herdSects.2 ⟨hh, rfl, hne⟩, rfl⟩)
    rw [keptEntry_of_img (hcopies.2 .img (by decide)), hnil]
    rfl

/-! ### IBEX_TREES -/

theorem keeps_ibx (s : State) (x : Ibx) : KeepsBut [.ibx] s { s with ibx := x } :=
  ⟨rfl, fun p hp => by cases p <;> simp_all [Part.same]⟩

theorem keeps_applyTrees (s : State) (g : Image) : KeepsBut [.regs, .stks, .ibx] s (s.applyTrees g) := by
  have hlines := keeps_forEach (fun (t : State) (x : Sect) => keeps_writeLines t x.inst
    (((s.regionOf x.inst 3).map Region.lo).getD 0 / 64) x.payload (.block imagePort))
    (g.sects.filter (fun x => decide (x.typ = SecType.ibexTrees))) s
  exact KeepsBut_append hlines (keeps_ibx _ _)

end Sys2Proof.Proofs.ResidentWrites
end

section
/-! The wafer and port sections that COMMIT puts in effect: what they leave unchanged (R186, R198, R199, R210, R273, R322,
R353, R437). -/

namespace Sys2Proof.Proofs.WaferSections

open Sys2Proof.Machine Sys2Proof.Safety Sys2Proof.Laws Sys2Proof.Proofs.Frames Sys2Proof.Proofs.ResidentWrites

theorem keeps_setTime (s : State) (x : TimeU) : KeepsBut [.time] s (s.setTime x) :=
  ⟨rfl, fun p hp => by cases p <;> simp_all [Part.same]⟩

theorem keeps_updPwr (s : State) (f : Pwr → Pwr) : KeepsBut [.pwr] s (s.updPwr f) :=
  ⟨rfl, fun p hp => by cases p <;> simp_all [Part.same]⟩

theorem keeps_updFlt (s : State) (f : Flt → Flt) : KeepsBut [.flt] s (s.updFlt f) :=
  ⟨rfl, fun p hp => by cases p <;> simp_all [Part.same]⟩

/-! ### What the sections may change -/

/-- The wafer's configuration has changed: of the loader the ports in effect alone, and of the journal no committed
epoch. -/
structure Configured (s t : State) : Prop where
  keeps  : KeepsBut [.regs, .mesh, .img, .macs, .prhs, .time, .jrn, .pwr, .io] s t
  epochs : t.jrn.committed = s.jrn.committed
  img    : t.img = { s.img with ports := t.img.ports }

theorem Configured.refl (s : State) : Configured s s := ⟨KeepsBut_refl _ s, rfl, rfl⟩

theorem Configured.trans {s t u : State} (h : Configured s t) (h' : Configured t u) : Configured s u :=
  ⟨KeepsBut_trans h.keeps h'.keeps, h'.epochs.trans h.epochs, by rw [h'.img, h.img]⟩

/-- A change of other parts than the loader and the journal. -/
theorem Configured.of_keeps {l : List Part} {s t : State} (h : KeepsBut l s t)
    (hl : ∀ p ∈ l, p ∈ ([.regs, .mesh, .macs, .prhs, .time, .pwr, .io] : List Part)) : Configured s t := by
  have hk := KeepsBut_mono h hl
  have hjrn : t.jrn = s.jrn := hk.2 .jrn (by decide)
  have himg : t.img = s.img := hk.2 .img (by decide)
  exact ⟨KeepsBut_mono hk (by decide), by rw [hjrn], by rw [himg]⟩

theorem configured_setJrn (s : State) (j : Jrn) (h : j.committed = s.jrn.committed) : Configured s (s.setJrn j) :=
  ⟨KeepsBut_mono (keeps_setJrn s j) (by decide), h, rfl⟩

theorem configured_forEach {α : Type} {f : State → α → State} (hf : ∀ s x, Configured s (f s x)) (xs : List α) (s : State) :
    Configured s (s.forEach xs f) :=
  forEach_induction (P := Configured s) (fun t x _ ht => ht.trans (hf t x)) (Configured.refl s)

/-! ### Registers -/

theorem keeps_setRegs (s : State) (offs : List Nat) (p : List Byte) : KeepsBut [.regs] s (s.setRegs offs p) :=
  keeps_forEach (fun t _ => keeps_setReg t _ _) _ s

theorem keeps_clearRegs (s : State) (offs : List Nat) : KeepsBut [.regs] s (s.forEach offs (fun s off => s.setReg off 0)) :=
  keeps_forEach (fun t off => keeps_setReg t off 0) offs s

/-! ### Ports (R199, R210) -/

theorem configured_setPort (s : State) (n : Nat) (on : Bool) : Configured s (s.setPort n on) :=
  ⟨KeepsBut_mono (keeps_setImg s _) (by decide), rfl, rfl⟩

theorem configured_htGoes (s : State) (m : Nat) (which : Nat → Bool) : Configured s (s.htGoes m which) := by
  have hqueues (j : Jrn) (hj : j.committed = s.jrn.committed) (msgs : List HtMsg) :
      Configured s ((s.setJrn j).forEach msgs (fun t x => t.htQueue m x)) :=
    (configured_setJrn s j hj).trans
      (configured_forEach (fun t x => .of_keeps (Transport.keeps_htQueue t m x) (by decide)) msgs _)
  unfold State.htGoes
  exact hqueues _ (by rfl) _

theorem configured_updMac (s : State) (n : Nat) (f : MacSt → MacSt) : Configured s (s.updMac n f) :=
  .of_keeps (keeps_updMac s n f) (by decide)

theorem configured_htMove (s : State) (m : Nat) : Configured s (s.htMove m) := by
  unfold State.htMove
  dsimp only
  split
  · split
    · exact .refl s
    · exact ((configured_updMac s _ _).trans (configured_updMac _ _ _)).trans (configured_htGoes _ _ _)
  · exact (configured_updMac s _ _).trans (configured_htGoes _ _ _)

theorem configured_linkLost (s : State) (m : Nat) : Configured s (s.linkLost m) := by
  have hcount (t : State) (c : Bool) : Configured t (if c then t.macCount m Reg.TX_ABORT 1 else t) := by
    split
    · exact .of_keeps (keeps_count t _ 1) (by decide)
    · exact .refl t
  have hmac := Configured.of_keeps (keeps_setMac s m { s.mac m with
    up := false, training := true, lost := true, sending := false
    rx := (s.mac m).rx.map (fun r => { r with frame := { r.frame with trunc := true, fcsErr := false } }) }) (by decide)
  exact ((hmac.trans (hcount _ _)).trans (.of_keeps (keeps_post _ _ _ _ _) (by decide))).trans (configured_htMove _ m)

theorem configured_retrainPort (s : State) (n : Nat) : Configured s (s.retrainPort n) := by
  unfold State.retrainPort
  dsimp only
  split
  · exact (configured_linkLost s n).trans (configured_updMac _ n _)
  · exact configured_updMac s n _

/-- MACn with its MAC_CONFIG and QUEUE_MAP, before the link trains anew. -/
def macSet (s : State) (l : List Sect) (n : Nat) : State :=
  let s : State := match sectOf l SecType.macConfig n with
    | some p => (s.setRegs (macOffs n) p).setPort n true
    | none => s.setPort n false
  let s : State := if s.macMode n = 4 then s.forEach (frameCounters n) (fun s off => s.setReg off 0) else s
  match sectOf l SecType.queueMap n with
  | some p => s.setRegs (queueOffs n) p
  | none => s

theorem applyMac_eq (s : State) (l : List Sect) (n : Nat) :
    s.applyMac l n = macSet s l n ∨ s.applyMac l n = (macSet s l n).retrainPort n :=
  ite_eq_or_eq _ _ _

theorem configured_macSet (s : State) (l : List Sect) (n : Nat) : Configured s (macSet s l n) := by
  have hport (t : State) : Configured t (match sectOf l SecType.macConfig n with
      | some p => (t.setRegs (macOffs n) p).setPort n true
      | none => t.setPort n false) := by
    split
    · exact (Configured.of_keeps (keeps_setRegs t _ _) (by decide)).trans (configured_setPort _ n true)
    · exact configured_setPort t n false
  have hcounters (t : State) : Configured t
      (if t.macMode n = 4 then t.forEach (frameCounters n) (fun s off => s.setReg off 0) else t) := by
    split
    · exact .of_keeps (keeps_clearRegs t _) (by decide)
    · exact .refl t
  have hqueues (t : State) : Configured t (match sectOf l SecType.queueMap n with
      | some p => t.setRegs (queueOffs n) p
      | none => t) := by
    split
    · exact .of_keeps (keeps_setRegs t _ _) (by decide)
    · exact .refl t
  exact ((hport s).trans (hcounters _)).trans (hqueues _)

theorem configured_applyMac (s : State) (l : List Sect) (n : Nat) : Configured s (s.applyMac l n) := by
  rcases applyMac_eq s l n with h | h <;> rw [h]
  · exact configured_macSet s l n
  · exact (configured_macSet s l n).trans (configured_retrainPort _ n)

/-! ### Engines (R249, R261, R273) -/

theorem keeps_applyProg (s : State) (l : List Sect) (n : Nat) : KeepsBut [.regs] s (s.applyProg l n) := by
  have hloop {α : Type} (f : State → α → State) (hf : ∀ t x, KeepsBut [.regs] t (f t x)) (xs : List α) {t : State}
      (ht : KeepsBut [.regs] s t) : KeepsBut [.regs] s (t.forEach xs f) := KeepsBut_trans ht (keeps_forEach hf xs t)
  unfold State.applyProg
  split
  · exact KeepsBut_refl _ s
  · exact hloop _ (fun t _ => keeps_wr t _ _) _ (hloop _ (fun t _ => keeps_wr t _ _) _ (hloop _ (fun t _ => keeps_wr t _ _) _
      (KeepsBut_trans (KeepsBut_trans (keeps_wr s _ _) (keeps_wr _ _ _)) (KeepsBut_trans (keeps_wr _ _ _) (keeps_wr _ _ _)))))

theorem keeps_ensInfo (n : Nat) (ps : List (List Byte)) (s : State) (wave leaf : Nat) :
    KeepsBut [.regs] s (State.ensInfo s n ps wave leaf) := by
  induction ps generalizing s wave leaf with
  | nil => exact KeepsBut_refl _ s
  | cons p ps ih =>
    have hkind := KeepsBut_trans (KeepsBut_trans (keeps_wr s (Reg.PRH_ENS_INFO_NTREE n (fld p 0 1)) (fld p 4 2))
      (keeps_wr _ (Reg.PRH_ENS_INFO_NOUT n (fld p 0 1)) (fld p 1 1)))
      (KeepsBut_trans (keeps_wr _ (Reg.PRH_ENS_INFO_LEAF_TYPE n (fld p 0 1)) (fld p 2 1))
        (keeps_wr _ (Reg.PRH_ENS_INFO_FRAC n (fld p 0 1)) (fld p 3 1)))
    have hplace := KeepsBut_trans (KeepsBut_trans hkind (keeps_wr _ (Reg.PRH_ENS_INFO_WAVE0 n (fld p 0 1)) wave))
      (KeepsBut_trans (keeps_wr _ (Reg.PRH_ENS_INFO_NWAVE n (fld p 0 1)) (ceilDiv (fld p 4 2) 256))
        (keeps_wr _ (Reg.PRH_ENS_INFO_LEAF_BASE n (fld p 0 1)) leaf))
    exact KeepsBut_trans hplace (ih _ _ _)

theorem keeps_applyEns (s : State) (l : List Sect) (n : Nat) : KeepsBut [.regs, .prhs] s (s.applyEns l n) := by
  have hinfo (t : State) (offs : List Nat) : KeepsBut [.regs, .prhs] t
      (t.forEach offs (fun s i => s.setReg (Reg.PRH_ENS_INFO n i) 0)) :=
    KeepsBut_mono (keeps_forEach (fun t i => keeps_setReg t _ 0) offs t) (by decide)
  unfold State.applyEns
  dsimp only
  have hens := KeepsBut_trans (KeepsBut_mono (keeps_updPrh s n (fun x => { x with
    ens := (ensPayloads l (s.macLeader n)).map (fun p => (fld p 0 1, ensOf p)) })) (by decide)) (hinfo _ (List.range 16))
  split
  · exact KeepsBut_trans hens (KeepsBut_mono (keeps_ensInfo n _ _ _ _) (by decide))
  · exact hens

/-! ### Modes, power, the journal's streams, groups and time (R186, R190, R322, R353, R437) -/

theorem keeps_applyModes (s : State) (l : List Sect) : KeepsBut [.regs] s (s.applyModes l) := by
  unfold State.applyModes
  split
  · exact keeps_wr s _ _
  · exact KeepsBut_refl _ s

theorem keeps_applyPower (s : State) (l : List Sect) : KeepsBut [.regs, .pwr] s (s.applyPower l) :=
  KeepsBut_append (keeps_wr s _ _) (keeps_updPwr _ _)

theorem configured_wr (s : State) (f : Fld) (v : Nat) : Configured s (s.wr f v) := .of_keeps (keeps_wr s f v) (by decide)

theorem configured_applyStreams (s : State) (l : List Sect) : Configured s (s.applyStreams l) := by
  unfold State.applyStreams
  split
  · exact (configured_wr s _ _).trans (configured_setJrn _ _ rfl)
  · exact (configured_wr s _ _).trans (configured_setJrn _ _ rfl)

theorem keeps_applyGroups (s : State) (p : List Byte) : KeepsBut [.mesh] s (s.applyGroups p) :=
  keeps_forEach (fun t _ => keeps_mesh t _) _ s

theorem keeps_applyAllGroups (s : State) (l : List Sect) : KeepsBut [.mesh] s (s.applyAllGroups l) := by
  unfold State.applyAllGroups
  dsimp only
  split
  · exact KeepsBut_trans (keeps_mesh s _) (keeps_applyGroups _ _)
  · exact keeps_mesh s _

theorem configured_applyWafer (s : State) (l : List Sect) : Configured s (s.applyWafer l) := by
  have hmodes := Configured.of_keeps (keeps_applyModes s l) (by decide)
  have hmacs := hmodes.trans (configured_forEach (fun t n => configured_applyMac t l n) (List.range 16) _)
  have hengine (t : State) (n : Nat) : Configured t ((t.applyProg l n).applyEns l n) :=
    .of_keeps (KeepsBut_append (keeps_applyProg t l n) (keeps_applyEns _ l n)) (by decide)
  have hengines := hmacs.trans (configured_forEach hengine (List.range 16) _)
  have hpower := hengines.trans (.of_keeps (keeps_applyPower _ l) (by decide))
  exact (hpower.trans (configured_applyStreams _ l)).trans (.of_keeps (keeps_applyAllGroups _ l) (by decide))

theorem keeps_ppsSkip (s : State) : KeepsBut [.time] s s.ppsSkip := by
  unfold State.ppsSkip
  dsimp only
  split
  · exact keeps_setTime s _
  · exact KeepsBut_refl _ s

theorem keeps_drivePps (s : State) (was : Bool) : KeepsBut [.io] s (s.drivePps was) := by
  unfold State.drivePps
  split
  · exact KeepsBut_refl _ s
  · exact keeps_emit s _

theorem keeps_timeCtrl (s : State) (v : Nat) : KeepsBut [.regs, .time, .io] s (s.timeCtrl v) := by
  have hrem (t : State) (c : Bool) : KeepsBut [.time] t (if c then t.setTime { t.time with rem := 0 } else t) := by
    split
    · exact keeps_setTime t _
    · exact KeepsBut_refl _ t
  have hpulse (t : State) : KeepsBut [.time] t (if bit v 3 then t.ppsSkip else t.setTime { t.time with pulse := false }) := by
    split
    · exact keeps_ppsSkip t
    · exact keeps_setTime t _
  have hreg := keeps_setReg s Reg.TIME_CTRL (BitVec.ofNat 64 (v % 32))
  exact KeepsBut_append (KeepsBut_append hreg (KeepsBut_trans (hrem _ _) (hpulse _))) (keeps_drivePps _ _)

theorem configured_applyTime (s : State) (l : List Sect) (role : Nat) : Configured s (s.applyTime l role) := by
  unfold State.applyTime
  split
  · exact .of_keeps (keeps_setTime s _) (by decide)
  · exact ((Configured.of_keeps (keeps_timeCtrl s _) (by decide)).trans (.of_keeps (keeps_setRegs _ _ _) (by decide))).trans
      (.of_keeps (keeps_setTime _ _) (by decide))

/-! ### REGISTER_INIT (R191) -/

/-- A write of a plain register changes registers alone. -/
theorem keeps_writeReg_plain (s : State) {off : Nat} (h : plainReg off = true) (v mask : Nat) :
    KeepsBut [.regs] s (s.writeReg off v mask) := by
  by_cases hvacant : s.blkOn off = false ∨ (rowAt off).isNone = true
  · rw [State.writeReg, if_pos hvacant]
    exact KeepsBut_refl _ s
  · obtain ⟨hon, hrow⟩ := not_or.1 hvacant
    obtain ⟨⟨r, i⟩, hri⟩ : ∃ x, rowAt off = some x := Option.ne_none_iff_exists'.1 (by simpa using hrow)
    exact (HostRegisters.writeReg_plain_stores h hri (by simpa using hon) v mask).2.1

/-- Initial values of plain registers. -/
theorem keeps_applyInits (s : State) {l : List Sect}
    (h : ∀ p, sectOf l SecType.registerInit 0 = some p → ∀ r ∈ recsOf 16 p, plainReg (fld r 0 4) = true) :
    KeepsBut [.regs] s (s.applyInits l) := by
  unfold State.applyInits
  split
  · next p hp =>
    exact forEach_induction (P := KeepsBut [.regs] s)
      (fun t r hr ht => KeepsBut_trans ht (keeps_writeReg_plain t (h p hp r hr) _ _)) (KeepsBut_refl _ s)
  · exact KeepsBut_refl _ s

end Sys2Proof.Proofs.WaferSections
end

section
/-! COMMIT of a whole image (R193, R197 to R201). -/

namespace Sys2Proof.Proofs.ImageCommit

open Sys2Proof.Machine Sys2Proof.Safety Sys2Proof.Laws Sys2Proof.Proofs.Frames
open Sys2Proof.Proofs.ResidentWrites Sys2Proof.Proofs.WaferSections

/-! ### The herds under another image (R193, R361, R373) -/

/-- A loop that changes the herds of a list by a function that settles at once. -/
theorem herd_forEach_updHerd {f : Herd → Herd} (hf : ∀ x, f (f x) = f x) (ks : List Nat) (s : State) (k : Nat) :
    (s.forEach ks (fun s h => s.updHerd h f)).herd k = if k ∈ ks then f (s.herd k) else s.herd k := by
  induction ks generalizing s with
  | nil => rfl
  | cons j ks ih =>
    refine (ih (s.updHerd j f)).trans ?_
    rw [herd_updHerd]
    by_cases hj : k = j
    · subst hj
      simp [hf]
    · simp [hj]

/-- A herd that the table does not list is as after a reset. -/
theorem find_of_not_mem_keys {α : Type} {m : NatMap α} {k : Nat} (h : k ∉ NatMap.keys m) : NatMap.find m k = none := by
  induction m with
  | nil => rfl
  | cons e m ih =>
    obtain ⟨hne, hrest⟩ := not_or.1 (mt List.mem_cons.2 h)
    rw [NatMap.find, if_neg (Ne.symm hne), ih hrest]

theorem herd_newDigest (s : State) (k : Nat) : s.newDigest.herd k = { s.herd k with committed := false } := by
  have hloop := herd_forEach_updHerd (f := fun x => { x with committed := false }) (fun _ => rfl) (NatMap.keys s.herds) s k
  refine hloop.trans ?_
  split
  · rfl
  · next hk =>
    rw [State.herd, NatMap.get, find_of_not_mem_keys hk]
    rfl

theorem keeps_newDigest (s : State) : KeepsBut [.herds, .snaps, .jrn] s s.newDigest := by
  have hloop := keeps_forEach (fun t h => keeps_updHerd t h (fun x => { x with committed := false })) (NatMap.keys s.herds) s
  have hempty (t : State) : KeepsBut [.snaps, .jrn] t { t with snaps := [], jrn := { t.jrn with committed := [] } } :=
    ⟨rfl, fun p hp => by cases p <;> simp_all [Part.same]⟩
  exact KeepsBut_append hloop (hempty _)

theorem keeps_freshTaken (s : State) : KeepsBut [.herds] s s.freshTaken :=
  KeepsBut_trans (keeps_forEach (fun t h => keeps_updHerd t h _) _ s) (keeps_forEach (fun t _ => keeps_updHerd t _ _) _ _)

/-- A change of a herd that leaves its state and whether it has committed. -/
theorem herd_updHerd_commit {s t : State} {h : Nat} {f : Herd → Herd} (hf : ∀ x, (f x).st = x.st ∧ (f x).committed = x.committed)
    (ht : ∀ k, (t.herd k).st = (s.herd k).st ∧ (t.herd k).committed = (s.herd k).committed) (k : Nat) :
    ((t.updHerd h f).herd k).st = (s.herd k).st ∧ ((t.updHerd h f).herd k).committed = (s.herd k).committed := by
  rw [herd_updHerd]
  split
  · next hk => rw [(hf _).1, (hf _).2, ← hk]; exact ht k
  · exact ht k

theorem herd_freshTaken (s : State) (k : Nat) :
    (s.freshTaken.herd k).st = (s.herd k).st ∧ (s.freshTaken.herd k).committed = (s.herd k).committed := by
  have hclear := forEach_induction (xs := NatMap.keys s.herds)
    (P := fun t => ∀ k, (t.herd k).st = (s.herd k).st ∧ (t.herd k).committed = (s.herd k).committed)
    (f := fun s h => s.updHerd h (fun x => { x with taken := [], relTaken := [], relOutseq := x.outseq }))
    (fun t h _ ht => herd_updHerd_commit (fun _ => ⟨rfl, rfl⟩) ht) (fun _ => ⟨rfl, rfl⟩)
  unfold State.freshTaken
  refine forEach_induction
    (P := fun t => ∀ k, (t.herd k).st = (s.herd k).st ∧ (t.herd k).committed = (s.herd k).committed) ?_ hclear k
  intro t e _ ht
  exact herd_updHerd_commit (fun _ => ⟨rfl, rfl⟩) ht

/-! ### COMMIT stage by stage -/

section Stages

variable (s : State) (g : Image)

/-- The digest is the committed image's. -/
def sameDigest : Bool := decide (s.img.committed.map Committed.digest = some g.digest)

/-- What is committed of a whole image. -/
def committedOf (g : Image) : Committed :=
  let role := (g.sect SecType.role 0).getD []
  { digest := g.digest, svn := g.svn, slot := g.slot, role := fld role 0 1, index := fld role 2 2 }

/-- The RWL fields are open, under the image's partition map. -/
def opened : State := { s with locked := false, pmap := (g.sect SecType.partitionMap 0).map pmapOf }

/-- The copies are written. -/
def stored : State := ((opened s g).storeResident g).applyTrees g

/-- The image is the committed one. -/
def named : State :=
  (stored s g).setImg { (stored s g).img with committed := some (committedOf g), everCommitted := true, phase := .broadcast }

/-- Snapshots of another image are gone. -/
def forgot : State := if sameDigest s g then named s g else (named s g).newDigest

/-- The wafer and port sections are in effect. -/
def configuredState : State := ((forgot s g).applyWafer g.sects).applyTime g.sects (committedOf g).role

/-- TAKEN of the herds is that of the journal, under another image. -/
def retaken : State := if sameDigest s g then configuredState s g else (configuredState s g).freshTaken

/-- Bring-up has an image, and the recovery is idle. -/
def readied : State := (retaken s g).imageReady.updFlt (fun x => { x with st := .idle, held := [] })

theorem commitImage_eq : s.commitImage g = { (readied s g).applyInits g.sects with locked := true } := rfl

/-! ### What the stages leave -/

theorem keeps_opened : KeepsBut [.locked, .pmap] s (opened s g) :=
  ⟨rfl, fun p hp => by cases p <;> simp_all [Part.same, opened]⟩

theorem keeps_stored : KeepsBut [.regs, .stks, .img, .ibx] (opened s g) (stored s g) :=
  KeepsBut_mono (KeepsBut_append (keeps_storeResident _ g) (keeps_applyTrees _ g)) (by decide)

theorem img_stored : (stored s g).img = ((opened s g).storeResident g).img :=
  (keeps_applyTrees _ g).2 .img (by decide)

theorem keeps_named : KeepsBut [.img] (stored s g) (named s g) := keeps_setImg _ _

theorem keeps_forgot : KeepsBut [.herds, .snaps, .jrn] (named s g) (forgot s g) := by
  unfold forgot
  split
  · exact KeepsBut_refl _ _
  · exact keeps_newDigest _

theorem configured_configuredState : Configured (forgot s g) (configuredState s g) :=
  (configured_applyWafer _ g.sects).trans (configured_applyTime _ g.sects _)

theorem keeps_retaken : KeepsBut [.herds] (configuredState s g) (retaken s g) := by
  unfold retaken
  split
  · exact KeepsBut_refl _ _
  · exact keeps_freshTaken _

/-- What COMMIT may have changed when the sections are in effect: neither the tiles nor the recovery, bring-up and the test
port. -/
theorem keeps_until_retaken : KeepsBut [.locked, .pmap, .regs, .stks, .img, .ibx, .herds, .snaps, .jrn, .mesh, .macs, .prhs,
    .time, .pwr, .io] s (retaken s g) := by
  have hstored := KeepsBut_append (keeps_opened s g) (keeps_stored s g)
  have hforgot := KeepsBut_append (KeepsBut_append hstored (keeps_named s g)) (keeps_forgot s g)
  have hset := KeepsBut_append hforgot (configured_configuredState s g).keeps
  exact KeepsBut_mono (KeepsBut_append hset (keeps_retaken s g)) (by decide)

theorem keeps_readied : KeepsBut [.bru, .flt] (retaken s g) (readied s g) :=
  KeepsBut_append (keeps_updBru _ _) (keeps_updFlt _ _)

/-- The herds' snapshots, and what has been committed, under the same image and under another. -/
theorem same_retaken (h : sameDigest s g = true) : (retaken s g).snaps = s.snaps ∧ (retaken s g).herds = s.herds ∧
    (retaken s g).jrn.committed = s.jrn.committed := by
  have hretaken : retaken s g = configuredState s g := if_pos h
  have hforgot : forgot s g = named s g := if_pos h
  have hstored := KeepsBut_append (KeepsBut_append (keeps_opened s g) (keeps_stored s g)) (keeps_named s g)
  have hset := configured_configuredState s g
  rw [hforgot] at hset
  have hjrn : (named s g).jrn = s.jrn := hstored.2 .jrn (by decide)
  rw [hretaken]
  refine ⟨?_, ?_, ?_⟩
  · exact (hset.keeps.2 .snaps (by decide)).trans (hstored.2 .snaps (by decide))
  · exact (hset.keeps.2 .herds (by decide)).trans (hstored.2 .herds (by decide))
  · rw [hset.epochs, hjrn]

theorem other_retaken (h : sameDigest s g = false) : (retaken s g).snaps = [] ∧ (retaken s g).jrn.committed = [] ∧
    ∀ k, ((retaken s g).herd k).committed = false ∧ ((retaken s g).herd k).st = (s.herd k).st := by
  have hretaken : retaken s g = (configuredState s g).freshTaken := if_neg (by simp [h])
  have hforgot : forgot s g = (named s g).newDigest := if_neg (by simp [h])
  have hstored := KeepsBut_append (KeepsBut_append (keeps_opened s g) (keeps_stored s g)) (keeps_named s g)
  have hset := configured_configuredState s g
  have hfresh := keeps_freshTaken (configuredState s g)
  have hjrn : (configuredState s g).freshTaken.jrn = (configuredState s g).jrn := hfresh.2 .jrn (by decide)
  have hherd (k : Nat) : (configuredState s g).herd k = (forgot s g).herd k := by
    rw [State.herd, hset.keeps.2 .herds (by decide), State.herd]
  have hnamed (k : Nat) : (named s g).herd k = s.herd k := by
    rw [State.herd, hstored.2 .herds (by decide), State.herd]
  rw [hretaken]
  refine ⟨?_, ?_, fun k => ?_⟩
  · calc (configuredState s g).freshTaken.snaps
        = (configuredState s g).snaps := hfresh.2 .snaps (by decide)
      _ = (forgot s g).snaps := hset.keeps.2 .snaps (by decide)
      _ = [] := by rw [hforgot]; rfl
  · calc (configuredState s g).freshTaken.jrn.committed
        = (configuredState s g).jrn.committed := by rw [hjrn]
      _ = (forgot s g).jrn.committed := hset.epochs
      _ = [] := by rw [hforgot]; rfl
  · obtain ⟨hst, hcommitted⟩ := herd_freshTaken (configuredState s g) k
    rw [hst, hcommitted, hherd, hforgot, herd_newDigest, hnamed]
    exact ⟨rfl, rfl⟩

/-- The loader when the sections are in effect. -/
theorem img_retaken : (retaken s g).img = { (stored s g).img with
    committed := some (committedOf g), everCommitted := true, phase := .broadcast, ports := (retaken s g).img.ports } := by
  have hretaken : (retaken s g).img = (configuredState s g).img := (keeps_retaken s g).2 .img (by decide)
  have hforgot : (forgot s g).img = (named s g).img := (keeps_forgot s g).2 .img (by decide)
  rw [hretaken, (configured_configuredState s g).img, hforgot]
  rfl

theorem pmap_retaken : (retaken s g).pmap = (g.sect SecType.partitionMap 0).map pmapOf := by
  have hforgot := KeepsBut_append (KeepsBut_append (keeps_stored s g) (keeps_named s g)) (keeps_forgot s g)
  have hset := KeepsBut_append (KeepsBut_append hforgot (configured_configuredState s g).keeps) (keeps_retaken s g)
  exact hset.2 .pmap (by decide)

end Stages

/-! ### The command -/

theorem exec_commit (s : State) : exec .commit s = actFuses State.commit s := rfl

/-- COMMIT waits while a parse context is in use. -/
theorem exec_commit_waits {s : State} (h : s.contextsFree = false) : exec .commit s = .next s := by
  have hsame : s.commit = s := by
    unfold State.commit
    split
    · exact if_neg (by simp [h])
    · rfl
  rw [exec_commit, actFuses, hsame]

section Commit

variable {s : State} {g : Image}
  (hinit : ∀ p, sectOf g.sects SecType.registerInit 0 = some p → ∀ r ∈ recsOf 16 p,
    fld r 0 4 % 8 = 0 ∧ plainReg (fld r 0 4) = true)
include hinit

/-- The initial values change registers alone. -/
theorem keeps_inits : KeepsBut [.regs, .locked] (readied s g) (s.commitImage g) := by
  have hregs := keeps_applyInits (readied s g) fun p hp r hr => (hinit p hp r hr).2
  have hlock (t : State) : KeepsBut [.locked] t { t with locked := true } :=
    ⟨rfl, fun p hp => by cases p <;> simp_all [Part.same]⟩
  rw [commitImage_eq]
  exact KeepsBut_append hregs (hlock _)

/-- What COMMIT leaves of the parts before it. -/
theorem keeps_commitImage : KeepsBut [.locked, .pmap, .regs, .stks, .img, .ibx, .herds, .snaps, .jrn, .mesh, .macs, .prhs,
    .time, .pwr, .io, .bru, .flt] s (s.commitImage g) :=
  KeepsBut_mono (KeepsBut_append (KeepsBut_append (keeps_until_retaken s g) (keeps_readied s g)) (keeps_inits hinit)) (by decide)

/-- What COMMIT leaves as the sections have put it. -/
theorem keeps_after_retaken : KeepsBut [.bru, .flt, .regs, .locked] (retaken s g) (s.commitImage g) :=
  KeepsBut_append (keeps_readied s g) (keeps_inits hinit)

theorem bru_commitImage : (s.commitImage g).bru = (retaken s g).imageReady.bru :=
  (keeps_inits hinit).2 .bru (by decide)

end Commit

/-- COMMIT of the image that a load goes on with, once no parse context is in use. -/
theorem runs_commit {s : State} {g : Image} (hphase : s.img.phase = .commit) (hload : s.img.loading = some g)
    (hfree : s.contextsFree = true) (hpending : (s.commitImage g).pending = s.pending) {P : State → Prop}
    (h : P { s.commitImage g with fuses := g.burns s.fuses }) : Runs .commit s P := by
  have hcommit : s.commit = { s.commitImage g with fuses := g.burns s.fuses } := by
    simp only [State.commit, hphase, hload, hfree, if_true]
  exact FuseCommands.runs_of_actFuses (exec_commit s) hcommit hpending h

end Sys2Proof.Proofs.ImageCommit
end

section
/-! What COMMIT makes of the image, and how ADVANCE_SVN burns its SVN (R192, R193, R197 to R201). -/

namespace Sys2Proof.Proofs.ImageCommit

open Sys2Proof.Machine Sys2Proof.Safety Sys2Proof.Laws Sys2Proof.Proofs.Frames
open Sys2Proof.Proofs.ResidentWrites Sys2Proof.Proofs.WaferSections

section Committed

variable {s : State} {g : Image}
  (hinit : ∀ p, sectOf g.sects SecType.registerInit 0 = some p → ∀ r ∈ recsOf 16 p,
    fld r 0 4 % 8 = 0 ∧ plainReg (fld r 0 4) = true)
include hinit

theorem img_commitImage : (s.commitImage g).img = { (stored s g).img with
    committed := some (committedOf g), everCommitted := true, phase := .broadcast, ports := (retaken s g).img.ports } :=
  ((keeps_after_retaken hinit).2 .img (by decide)).trans (img_retaken s g)

theorem resident_commitImage : kept (s.commitImage g).img.resident = told g.common := by
  rw [img_commitImage hinit]
  change kept (stored s g).img.resident = _
  rw [img_stored, img_storeResident]
  exact kept_placeSects _ _

theorem herdRes_commitImage {h : Nat} (hh : h < 1024) : keptEntry (s.commitImage g) h = told (sectsOfHerd g h) := by
  have hentry := keptEntry_storeResident (opened s g) g hh
  rw [keptEntry, img_commitImage hinit]
  change kept (NatMap.get (stored s g).img.herdRes ResEntry.none h).sects = _
  rw [img_stored]
  exact hentry

theorem flt_commitImage : (s.commitImage g).flt.st = .idle ∧ (s.commitImage g).flt.held = [] := by
  have hflt : (s.commitImage g).flt = (readied s g).flt := (keeps_inits hinit).2 .flt (by decide)
  rw [hflt]
  exact ⟨rfl, rfl⟩

/-- Bring-up waits no more for an image, and is at stage 4 when it waited frozen at stage 3. -/
theorem imageReady_commitImage : (s.commitImage g).bru.waitImage = false ∧
    (s.bru.frozen = true ∧ s.bru.stage = 3 → (s.commitImage g).bru.stage = 4) := by
  have hbru : (retaken s g).bru = s.bru := (keeps_until_retaken s g).2 .bru (by decide)
  rw [bru_commitImage hinit]
  refine ⟨?_, fun ⟨hfrozen, hstage⟩ => ?_⟩
  · unfold State.imageReady
    dsimp only
    split <;> rfl
  · have hwaits : ((retaken s g).bru.frozen = true) ∧ (retaken s g).bru.stage = 3 := by rw [hbru]; exact ⟨hfrozen, hstage⟩
    simp [State.imageReady, hwaits]

end Committed
end Sys2Proof.Proofs.ImageCommit
end

section
/-! ADVANCE_SVN: thermometer bits are burnt, lowest first, until the SVN is reached (R192, R197). -/

namespace Sys2Proof.Proofs.SvnBurning

open Sys2Proof.Machine Sys2Proof.Safety Sys2Proof.Laws

/-- One turn of the burning: bit `i` is burnt while fewer than `n` are set. -/
def burnBit (n : Nat) (f : Fuses) (i : Nat) : Fuses :=
  if f.minSvn < n then { f with thermo := f.thermo ||| BitVec.ofNat 64 (2 ^ i) } else f

theorem advance_eq (f : Fuses) (n : Nat) : f.advance n = (List.range 64).foldl (burnBit n) f := rfl

theorem revoked_burnBit (n : Nat) (f : Fuses) (i : Nat) : (burnBit n f i).revoked = f.revoked := by
  unfold burnBit
  split <;> rfl

theorem slot_burnBit (n : Nat) (f : Fuses) (i k : Nat) : (burnBit n f i).slot k = f.slot k := by
  unfold burnBit
  split
  · obtain _ | _ | _ | _ | _ := k <;> rfl
  · rfl

theorem getLsbD_burn (x : BitVec 64) {i j : Nat} (hj : j < 64) :
    (x ||| BitVec.ofNat 64 (2 ^ i)).getLsbD j = (x.getLsbD j || decide (j = i)) := by
  rw [BitVec.getLsbD_or, BitVec.getLsbD_ofNat, Nat.testBit_two_pow]
  simp [hj, eq_comm]

/-- A burnt bit adds one at most to the bits that are set. -/
theorem minSvn_burn (f : Fuses) (i : Nat) :
    ({ f with thermo := f.thermo ||| BitVec.ofNat 64 (2 ^ i) } : Fuses).minSvn ≤ f.minSvn + 1 := by
  have hbits : (List.range 64).filter (fun j => (f.thermo ||| BitVec.ofNat 64 (2 ^ i)).getLsbD j) =
      (List.range 64).filter (fun j => f.thermo.getLsbD j || decide (j = i)) :=
    List.filter_congr fun j hj => getLsbD_burn f.thermo (List.mem_range.1 hj)
  have hone : (List.range 64).countP (fun j => decide (j = i)) ≤ 1 := by
    have hcount := List.nodup_iff_count_le_one.1 (List.nodup_range (n := 64)) i
    simpa [List.count, BEq.beq] using hcount
  have hunion (l : List Nat) : l.countP (fun j => f.thermo.getLsbD j || decide (j = i)) ≤
      l.countP (fun j => f.thermo.getLsbD j) + l.countP (fun j => decide (j = i)) := by
    induction l with
    | nil => simp
    | cons j l ih => simp only [List.countP_cons]; grind
  simp only [Fuses.minSvn, hbits, ← List.countP_eq_length_filter]
  have hall := hunion (List.range 64)
  omega

/-- A thermometer whose bits are all set counts 64. -/
theorem minSvn_full {f : Fuses} (h : ∀ j < 64, f.thermo.getLsbD j = true) : f.minSvn = 64 := by
  rw [Fuses.minSvn, List.filter_eq_self.2 fun j hj => h j (List.mem_range.1 hj), List.length_range]

/-- After the turns for the lowest `m` bits, `n` are set, or fewer and those `m` are among them. -/
theorem burnt_below {n : Nat} {f : Fuses} (hf : f.minSvn ≤ n) (m : Nat) :
    let t := (List.range m).foldl (burnBit n) f
    t.minSvn = n ∨ t.minSvn < n ∧ ∀ j < m, j < 64 → t.thermo.getLsbD j = true := by
  induction m with
  | zero =>
    rcases Nat.lt_or_eq_of_le hf with hlt | heq
    · exact Or.inr ⟨hlt, fun j hj => absurd hj (Nat.not_lt_zero j)⟩
    · exact Or.inl heq
  | succ m ih =>
    rw [List.range_succ, List.foldl_append]
    dsimp only [List.foldl_cons, List.foldl_nil] at ih ⊢
    generalize (List.range m).foldl (burnBit n) f = t at ih ⊢
    rcases ih with hn | ⟨hlt, hset⟩
    · rw [burnBit, if_neg (by omega)]
      exact Or.inl hn
    · rw [burnBit, if_pos hlt]
      have hle := minSvn_burn t m
      rcases Nat.lt_or_eq_of_le (Nat.le_trans hle hlt) with hless | heq
      · refine Or.inr ⟨hless, fun j hj hj64 => ?_⟩
        rw [getLsbD_burn _ hj64]
        rcases Nat.lt_succ_iff_lt_or_eq.1 hj with hbelow | hself
        · rw [hset j hbelow hj64, Bool.true_or]
        · simp [hself]
      · exact Or.inl heq

/-- The thermometer reaches an SVN that it can hold. -/
theorem minSvn_advance {n : Nat} {f : Fuses} (hf : f.minSvn ≤ n) (hn : n ≤ 63) : (f.advance n).minSvn = n := by
  rw [advance_eq]
  rcases burnt_below hf 64 with heq | ⟨hlt, hset⟩
  · exact heq
  · have hfull := minSvn_full fun j hj => hset j hj hj
    omega

/-- Burning the SVN leaves the revocations and the key slots. -/
theorem advance_keeps (f : Fuses) (n : Nat) :
    (f.advance n).revoked = f.revoked ∧ ∀ k, (f.advance n).slot k = f.slot k := by
  rw [advance_eq]
  refine List.foldlRecOn (motive := fun t : Fuses => t.revoked = f.revoked ∧ ∀ k, t.slot k = f.slot k) _ _ ⟨rfl, fun _ => rfl⟩ ?_
  intro t ⟨hrev, hslot⟩ i _
  exact ⟨(revoked_burnBit n t i).trans hrev, fun k => (slot_burnBit n t i k).trans (hslot k)⟩

end Sys2Proof.Proofs.SvnBurning
end

section
/-! Reads of the stacks do not see bring-up: they give the same bytes, and leave the same state but for it, whatever stage
bring-up is at (R166, R194, R399). -/

namespace Sys2Proof.Proofs.BlindReads

open Sys2Proof.Machine Sys2Proof.Safety Sys2Proof.Laws Sys2Proof.Proofs.Frames

/-- The state with another bring-up. -/
def withBru (s : State) (b : Bru) : State := { s with bru := b }

section Steps

variable (s : State) (b : Bru)

/-! ### Operations of the state

The proofs stand in parentheses so that `simp` takes the equations as rewriting steps: as steps of reduction they would have
the kernel unfold the registers. -/

theorem wr_withBru (f : Fld) (v : Nat) : (withBru s b).wr f v = withBru (s.wr f v) b := (rfl)

theorem rdb_withBru (f : Fld) : (withBru s b).rdb f = s.rdb f := (rfl)

theorem count_withBru (f : Fld) (n : Nat) : (withBru s b).count f n = withBru (s.count f n) b := (rfl)

theorem updStk_withBru (k : Nat) (f : Stk → Stk) : (withBru s b).updStk k f = withBru (s.updStk k f) b := (rfl)

theorem setPair_withBru (p : Nat) (x : Pair) : (withBru s b).setPair p x = withBru (s.setPair p x) b := (rfl)

theorem post_withBru (code source loc detail : Nat) :
    (withBru s b).post code source loc detail = withBru (s.post code source loc detail) b := (rfl)

theorem ite_withBru (c : Prop) [Decidable c] (t u : State) :
    (if c then withBru t b else withBru u b) = withBru (if c then t else u) b := (apply_ite (withBru · b) c t u).symm

theorem when_withBru (c : Bool) {f : State → State} (hf : ∀ t, f (withBru t b) = withBru (f t) b) :
    (withBru s b).when c f = withBru (s.when c f) b := by
  cases c
  · rfl
  · exact hf s

theorem forEach_withBru {α : Type} {f : State → α → State} (hf : ∀ t x, f (withBru t b) x = withBru (f t x) b) (l : List α) :
    (withBru s b).forEach l f = withBru (s.forEach l f) b := by
  induction l generalizing s with
  | nil => rfl
  | cons x l ih => exact (congrArg (fun u => State.forEach u l f) (hf s x)).trans (ih (f s x))

/-! ### What a read asks of the state -/

theorem stkServes_withBru (k : Nat) : (withBru s b).stkServes k = s.stkServes k := (rfl)

theorem lineGood_withBru (k l : Nat) : (withBru s b).lineGood k l = s.lineGood k l := (rfl)

theorem stk_withBru (k : Nat) : (withBru s b).stk k = s.stk k := (rfl)

theorem regionAt_withBru (k addr n : Nat) : (withBru s b).regionAt k addr n = s.regionAt k addr n := (rfl)

theorem mirrorAddr_withBru (k : Nat) (r : Region) (addr : Nat) :
    (withBru s b).mirrorAddr k r addr = s.mirrorAddr k r addr := (rfl)

theorem lineType_withBru (k addr : Nat) : (withBru s b).lineType k addr = s.lineType k addr := (rfl)

/-! ### Failed lines -/

theorem correct_withBru (k l : Nat) : (withBru s b).correct k l = withBru (s.correct k l) b := by
  unfold State.correct
  dsimp only
  rw [stk_withBru, when_withBru s b _ fun t => updStk_withBru t b k _, when_withBru _ b _ fun t => count_withBru t b _ 1,
    when_withBru _ b _ fun t => count_withBru t b _ 1, updStk_withBru, ite_withBru]

theorem noteBad_withBru (k addr typ : Nat) (copyOk : Bool) :
    (withBru s b).noteBad k addr typ copyOk = withBru (s.noteBad k addr typ copyOk) b := by
  unfold State.noteBad
  simp only [count_withBru, rdb_withBru, wr_withBru, ite_withBru]

theorem lineFailed_withBru (k addr : Nat) (copy : Bool) (kind source : Nat) :
    (withBru s b).lineFailed k addr copy kind source = withBru (s.lineFailed k addr copy kind source) b := by
  unfold State.lineFailed
  rw [lineType_withBru, noteBad_withBru, State.postStackEcc, post_withBru, State.postStackEcc]

theorem journalLost_withBru (p : Nat) (items : List (Nat × Nat)) :
    (withBru s b).journalLost p items = withBru (s.journalLost p items) b := by
  unfold State.journalLost
  split
  · rfl
  · exact forEach_withBru s b (by intro t x; rfl) _

theorem journalLineLost_withBru (p line : Nat) :
    (withBru s b).journalLineLost p line = withBru (s.journalLineLost p line) b := by
  have hpair : (withBru s b).jrn.pair p = s.jrn.pair p := rfl
  have hitems : (withBru s b).lostItems p = s.lostItems p := rfl
  unfold State.journalLineLost
  simp only [hpair, hitems, setPair_withBru, journalLost_withBru, ite_withBru]

theorem bothFailed_withBru (k addr other : Nat) (src : Option Src) :
    (withBru s b).bothFailed k addr other src = withBru (s.bothFailed k addr other src) b := by
  unfold State.bothFailed
  simp only [lineType_withBru, stkServes_withBru, regionAt_withBru, lineFailed_withBru, ite_withBru, journalLineLost_withBru]
  split <;> rfl

end Steps

/-! ### Reads -/

/-- A read with another bring-up in the state that it leaves. -/
def readWithBru (r : LineRead) (b : Bru) : LineRead := ⟨withBru r.state b, r.bytes, r.poisoned⟩

section Reads

variable (s : State) (b : Bru)

theorem ite_readWithBru (c : Prop) [Decidable c] (q r : LineRead) :
    (if c then readWithBru q b else readWithBru r b) = readWithBru (if c then q else r) b :=
  (apply_ite (readWithBru · b) c q r).symm

theorem mk_withBru (bs : List Byte) (p : Bool) : (⟨withBru s b, bs, p⟩ : LineRead) = readWithBru ⟨s, bs, p⟩ b := (rfl)

theorem readLine_withBru (k l : Nat) (src : Option Src) :
    (withBru s b).readLine k l src = readWithBru (s.readLine k l src) b := by
  unfold State.readLine
  dsimp only
  simp only [stkServes_withBru, regionAt_withBru, mirrorAddr_withBru, correct_withBru, ite_withBru, lineGood_withBru,
    stk_withBru]
  generalize (if s.stkServes k then s.correct k l else s) = u
  split
  · exact mk_withBru u b _ _
  · split
    · next a _ =>
      generalize (if u.stkServes (partner k) then u.correct (partner k) (a / 64) else u) = v
      simp only [lineType_withBru, noteBad_withBru, updStk_withBru, bothFailed_withBru, mk_withBru,
        ite_readWithBru]
    · simp only [lineFailed_withBru, mk_withBru, ite_readWithBru]

theorem readUntil_withBru (k : Nat) (src : Option Src) (l n : Nat) :
    (withBru s b).readUntil k src l n = readWithBru (s.readUntil k src l n) b := by
  induction n generalizing s l with
  | zero => rfl
  | succ n ih =>
    simp only [State.readUntil, readLine_withBru, readWithBru]
    split
    · rfl
    · rw [ih]
      rfl

theorem readCopy_withBru (k off n : Nat) : (withBru s b).readCopy k off n = readWithBru (s.readCopy k off n) b := by
  have hbase : (withBru s b).copyBase k = s.copyBase k := rfl
  unfold State.readCopy
  rw [hbase]
  split
  · rw [readUntil_withBru]
    rfl
  · rfl

theorem copyValid_withBru (k off : Nat) : (withBru s b).copyValid k off = s.copyValid k off := by
  rw [State.copyValid, readCopy_withBru]
  rfl

theorem copyOk_withBru (k : Nat) : (withBru s b).copyOk k = s.copyOk k := by
  have himg : (withBru s b).img = s.img := rfl
  rw [State.copyOk, copyValid_withBru, himg, readCopy_withBru]
  rfl

theorem readSects_withBru (k : Nat) (es : List ResSect) : ((withBru s b).readSects k es).sects = (s.readSects k es).sects := by
  induction es generalizing s with
  | nil => rfl
  | cons e es ih =>
    simp only [State.readSects, readCopy_withBru, readWithBru]
    split
    · rfl
    · dsimp only
      rw [ih]

/-- A resident section is the same whatever stage bring-up is at. -/
theorem residentSect_withBru (typ inst : Nat) : (withBru s b).residentSect typ inst = s.residentSect typ inst := by
  have hserving : (withBru s b).serving = s.serving := rfl
  have himg : (withBru s b).img = s.img := rfl
  have hcopy : (fun k => (withBru s b).copyOk k) = fun k => s.copyOk k := funext fun k => copyOk_withBru s b k
  unfold State.residentSect
  rw [hserving, himg, hcopy]
  split
  · rw [readSects_withBru]
  · rfl

end Reads

end Sys2Proof.Proofs.BlindReads
end

section
/-! One broadcast of the common firmware that every herd controller has received as it was sent (R412, R425). -/

namespace Sys2Proof.Proofs.FirmwareBroadcast

open Sys2Proof.Machine Sys2Proof.Safety Sys2Proof.Laws Sys2Proof.Proofs.Frames Sys2Proof.Proofs.BlindReads
open Sys2Proof.Proofs.StackSteps

/-! ### The tiles that miss segments -/

/-- The map has a tile only if the tile takes the broadcast and is reported to have missed something. -/
def OnlyMissed (s : State) (missed : List (Nat × Nat)) (m : NatMap Nat) : Prop :=
  ∀ k, NatMap.get m 0 k ≠ 0 → s.takesBcast k = true ∧ ∃ e ∈ missed, e.1 = k

theorem onlyMissed_missIn (s : State) (fw : List Byte) (missed : List (Nat × Nat)) :
    OnlyMissed s missed (s.missIn fw missed) := by
  unfold State.missIn
  refine List.foldlRecOn (motive := OnlyMissed s missed) _ _ (fun k hk => absurd rfl hk) ?_
  intro m hm e he k hk
  obtain ⟨hmem, htakes⟩ := List.mem_filter.1 he
  rw [NatMap.get_put] at hk
  split at hk
  · next heq =>
    subst heq
    exact ⟨(Bool.and_eq_true_iff.1 htakes).2, e, hmem, rfl⟩
  · exact hm k hk

/-- Whether a tile takes a broadcast depends on the elements that failed alone. -/
theorem missIn_withBru (s : State) {b : Bru} (h : b.failed = s.bru.failed) (fw : List Byte) (missed : List (Nat × Nat)) :
    (withBru s b).missIn fw missed = s.missIn fw missed := by
  have htakes : (withBru s b).takesBcast = s.takesBcast := by
    funext k
    change (s.pherdOn (herdOfPos k) && !b.failed.any _) = _
    rw [h]
    rfl
  rw [State.missIn, htakes, State.missIn]

/-! ### Bring-up after a broadcast -/

/-- Bring-up once the management cores have been started, if there is a firmware for them. -/
def mgmtStarted (s : State) : Bru :=
  match s.residentSect SecType.mgmtFw 0 with
  | some p => { s.bru with mgmt := Mgmt.start (Mem.write [] 0 p) }
  | none => s.bru

theorem startMgmt_eq (s : State) : s.startMgmt = withBru s (mgmtStarted s) := by
  rw [State.startMgmt, mgmtStarted]
  cases s.residentSect SecType.mgmtFw 0 <;> rfl

theorem failed_mgmtStarted (s : State) : (mgmtStarted s).failed = s.bru.failed := by
  unfold mgmtStarted
  split <;> rfl

theorem bcastNo_mgmtStarted (s : State) : (mgmtStarted s).bcastNo = s.bru.bcastNo := by
  unfold mgmtStarted
  split <;> rfl

theorem mgmt_mgmtStarted {s : State} {p : List Byte} (h : s.residentSect SecType.mgmtFw 0 = some p) :
    (mgmtStarted s).mgmt = Mgmt.start (Mem.write [] 0 p) := by
  rw [mgmtStarted, h]

/-- Bring-up after a broadcast that the controllers received as it was sent. -/
def afterBroadcast (s : State) (missed : List (Nat × Nat)) : Bru :=
  let fw := (s.residentSect SecType.commonTileFw 0).getD []
  { mgmtStarted s with
    bcastNo := (s.bru.bcastNo + 1) % 256, bcastOn := true, fw := fw, copies := [], missing := s.missIn fw missed, round := 0 }

theorem broadcast_eq {s : State} (h : s.mayBroadcast = true) (missed : List (Nat × Nat)) :
    s.broadcast missed [] = (withBru s (afterBroadcast s missed)).noteBcast := by
  have hupd (t : State) (b : Bru) (f : Bru → Bru) : (withBru t b).updBru f = withBru t (f b) := rfl
  rw [State.broadcast, if_pos h]
  dsimp only
  rw [startMgmt_eq, residentSect_withBru, missIn_withBru s (failed_mgmtStarted s), hupd, bcastNo_mgmtStarted]
  rfl

/-! ### BRU_BCAST_STAT -/

theorem keeps_noteBcast (s : State) : KeepsBut [.regs] s s.noteBcast :=
  KeepsBut_trans (keeps_wr s _ _) (KeepsBut_trans (keeps_wr _ _ _) (keeps_wr _ _ _))

theorem regsBut_noteBcast (s : State) : RegsBut [Reg.BRU_BCAST_STAT] s s.noteBcast :=
  have hfield (t : State) (f : Fld) (hf : f.off = Reg.BRU_BCAST_STAT) (v : Nat) : RegsBut [Reg.BRU_BCAST_STAT] t (t.wr f v) :=
    hf ▸ RegsBut_wr t f v
  RegsBut_trans (hfield s _ rfl _) (RegsBut_trans (hfield _ _ rfl _) (hfield _ _ rfl _))

theorem number_noteBcast (s : State) : s.noteBcast.rd Reg.BRU_BCAST_STAT_NUMBER = s.bru.bcastNo % 256 := by
  unfold State.noteBcast
  dsimp only
  rw [rd_wr_apart _ _ rfl, rd_wr_apart _ _ rfl, rd_wr_same _ _ rfl]
  rfl

theorem missing_noteBcast (s : State) : s.noteBcast.rd Reg.BRU_BCAST_STAT_MISSING = s.bru.missing.length % 2 ^ 21 := by
  have hwidth : Reg.BRU_BCAST_STAT_MISSING.hi + 1 - Reg.BRU_BCAST_STAT_MISSING.lo = 21 := rfl
  unfold State.noteBcast
  dsimp only
  rw [rd_wr_same _ _ rfl, hwidth, wr_bru]

/-! ### The command -/

/-- A broadcast that is not due does nothing. -/
theorem exec_broadcast_waits {s : State} (h : s.mayBroadcast = false) (b : BcastEnd) : exec (.broadcast b) s = .next s := by
  refine exec_of_act_same (f := fun s => s.broadcast b.missed b.bad) rfl ?_
  exact if_neg (by simp [h])

theorem keeps_broadcast (s : State) (missed : List (Nat × Nat)) :
    KeepsBut [.regs, .bru] s (withBru s (afterBroadcast s missed)).noteBcast := by
  have hbru : KeepsBut [.bru] s (withBru s (afterBroadcast s missed)) :=
    ⟨rfl, fun p hp => by cases p <;> simp_all [Part.same, withBru]⟩
  exact KeepsBut_mono (KeepsBut_append hbru (keeps_noteBcast _)) (by decide)

theorem runs_broadcast {s : State} (h : s.mayBroadcast = true) (missed : List (Nat × Nat)) {P : State → Prop}
    (hP : P (withBru s (afterBroadcast s missed)).noteBcast) : Runs (.broadcast ⟨missed, []⟩) s P :=
  runs_of_act (f := fun s => s.broadcast missed []) rfl (broadcast_eq h missed) (keeps_broadcast s missed) (by decide) hP

end Sys2Proof.Proofs.FirmwareBroadcast
end

section
/-! What a herd controller may change when it serves its queue: the herds, the mesh, the stacks and what it reports of
bring-up, but no stage of it, nor the loader, the host's side and the ports (R100, R142, R372, R373, R413 to R415). -/

namespace Sys2Proof.Proofs.HerdService

open Sys2Proof.Machine Sys2Proof.Safety Sys2Proof.Laws Sys2Proof.Proofs.Frames Sys2Proof.Proofs.HerdLoads
open Sys2Proof.Proofs.HerdCommands Sys2Proof.Proofs.ResidentWrites Sys2Proof.Proofs.WaferSections
open Sys2Proof.Proofs.FirmwareBroadcast

/-! ### The frame -/

/-- What herd commands reach has changed, at the same stage of bring-up. -/
structure HerdKept (s t : State) : Prop where
  keeps : KeepsBut herdParts s t
  stage : t.bru.stage = s.bru.stage

namespace HerdKept

theorem refl (s : State) : HerdKept s s := ⟨KeepsBut_refl _ s, rfl⟩

theorem trans {s t u : State} (h : HerdKept s t) (h' : HerdKept t u) : HerdKept s u :=
  ⟨KeepsBut_trans h.keeps h'.keeps, h'.stage.trans h.stage⟩

/-- A change of other parts than bring-up. -/
theorem of_keeps {l : List Part} {s t : State} (h : KeepsBut l s t)
    (hl : ∀ p ∈ l, p ∈ ([.regs, .tiles, .herds, .mesh, .stks, .snaps, .jrn, .flt, .io] : List Part)) : HerdKept s t := by
  have hk := KeepsBut_mono h hl
  have hbru : t.bru = s.bru := hk.2 .bru (by decide)
  exact ⟨KeepsBut_mono hk (by decide), by rw [hbru]⟩

theorem updBru (s : State) {f : Bru → Bru} (h : (f s.bru).stage = s.bru.stage) : HerdKept s (s.updBru f) :=
  ⟨KeepsBut_mono (keeps_updBru s f) (by decide), h⟩

theorem forEach {α : Type} {f : State → α → State} (hf : ∀ s x, HerdKept s (f s x)) (xs : List α) (s : State) :
    HerdKept s (s.forEach xs f) :=
  forEach_induction (P := HerdKept s) (fun t x _ ht => ht.trans (hf t x)) (refl s)

theorem regs (s : State) (f : Fld) (v : Nat) : HerdKept s (s.wr f v) := of_keeps (keeps_wr s f v) (by decide)

theorem count (s : State) (f : Fld) (n : Nat) : HerdKept s (s.count f n) := of_keeps (keeps_count s f n) (by decide)

theorem herd (s : State) (h : Nat) (f : Herd → Herd) : HerdKept s (s.updHerd h f) := of_keeps (keeps_updHerd s h f) (by decide)

theorem mapTiles (s : State) (h : Nat) (f : Tile → Tile) : HerdKept s (s.mapTiles h f) := of_keeps (keeps_tiles s _) (by decide)

theorem post (s : State) (code source loc detail : Nat) : HerdKept s (s.post code source loc detail) :=
  of_keeps (keeps_post s _ _ _ _) (by decide)

theorem mesh (s : State) (x : Mesh) : HerdKept s { s with mesh := x } := of_keeps (keeps_mesh s x) (by decide)

/-- One of two changes. -/
theorem ite {s t u : State} {c : Prop} [Decidable c] (ht : HerdKept s t) (hu : HerdKept s u) :
    HerdKept s (if c then t else u) := by
  split
  · exact ht
  · exact hu

end HerdKept

/-! ### Ends of commands, and faults -/

/-- The end of a command has been reported: no other herd has changed, and the herd has at most lost what waits of its
sequence. -/
structure Ended (h : Nat) (s t : State) : Prop where
  keeps  : KeepsBut [.regs, .herds] s t
  others : HerdsBut h s t
  st     : (t.herd h).st = (s.herd h).st
  fault  : (t.herd h).fault = (s.herd h).fault

namespace Ended

theorem refl (h : Nat) (s : State) : Ended h s s := ⟨KeepsBut_refl _ s, fun _ _ => rfl, rfl, rfl⟩

theorem trans {h : Nat} {s t u : State} (ht : Ended h s t) (hu : Ended h t u) : Ended h s u :=
  ⟨KeepsBut_trans ht.keeps hu.keeps, HerdsBut_trans ht.others hu.others, hu.st.trans ht.st, hu.fault.trans ht.fault⟩

theorem wr (h : Nat) (s : State) (f : Fld) (v : Nat) : Ended h s (s.wr f v) :=
  ⟨KeepsBut_mono (keeps_wr s f v) (by decide), fun _ _ => rfl, rfl, rfl⟩

theorem ite {h : Nat} {s t u : State} {c : Prop} [Decidable c] (ht : Ended h s t) (hu : Ended h s u) :
    Ended h s (if c then t else u) := by
  split
  · exact ht
  · exact hu

end Ended

theorem ended_cmdEnd (s : State) (h : Nat) (src : CmdSrc) (fail : Option Nat) : Ended h s (s.cmdEnd h src fail) := by
  have hfail (t : State) (c : Nat) : Ended h t (if t.rdb Reg.HRD_CMD_STATUS_FAIL then t else
      (((t.wr Reg.HRD_CMD_STATUS_FAIL 1).wr Reg.HRD_CMD_STATUS_CODE c).wr Reg.HRD_CMD_STATUS_HX (h % 32)).wr
        Reg.HRD_CMD_STATUS_HY (h / 32)) :=
    .ite (.refl h t) ((((Ended.wr h t _ _).trans (.wr h _ _ _)).trans (.wr h _ _ _)).trans (.wr h _ _ _))
  have hdone (t : State) : Ended h t (if t.hostCmdOpen then t else
      (t.wr Reg.HRD_CMD_STATUS_PENDING 0).wr Reg.HRD_CMD_STATUS_DONE 1) :=
    .ite (.refl h t) ((Ended.wr h t _ _).trans (.wr h _ _ _))
  have hqueue (f : List QCmd → List QCmd) : Ended h s (s.updHerd h (fun x => { x with queue := f x.queue })) :=
    ⟨KeepsBut_mono (keeps_updHerd s h _) (by decide), herdsBut_updHerd s h _, by simp, by simp⟩
  unfold State.cmdEnd
  dsimp only
  split
  · cases fail with
    | none => exact hdone s
    | some c => exact (hfail s c).trans (hdone _)
  · exact .ite (hqueue fun q => q.filter (fun c => decide (c.src ≠ .sequence))) (.refl h s)

theorem kept_cmdEnd (s : State) (h : Nat) (src : CmdSrc) (fail : Option Nat) : HerdKept s (s.cmdEnd h src fail) :=
  .of_keeps (ended_cmdEnd s h src fail).keeps (by decide)

theorem kept_faultState (s : State) (h code : Nat) (stackFault : Bool) : HerdKept s (s.faultState h code stackFault) := by
  unfold State.faultState
  dsimp only
  split
  · exact (HerdKept.herd s h _).trans (kept_cmdEnd _ _ _ _)
  · exact .herd s h _

theorem kept_tryBarrier (s : State) (h : Nat) : HerdKept s (s.tryBarrier h) := by
  unfold State.tryBarrier
  dsimp only
  split
  · exact .refl s
  · refine .ite (.ite (kept_faultState s h _ _) ?_) (.refl s)
    exact (HerdKept.of_keeps (keeps_setHerd s h _) (by decide)).trans (kept_cmdEnd _ _ _ _)

/-! ### Snapshots -/

theorem kept_takeSnapshot (s : State) (h e : Nat) : HerdKept s (s.takeSnapshot h e) := by
  have hcopy (t : State) (c : Bool) (k : Nat) (f : Stk → Stk) : HerdKept t (if c then t else t.updStk k f) :=
    .ite (.refl t) (.of_keeps (keeps_updStk t k f) (by decide))
  have hlast (t : State) (f : Tile → Tile) (x : Herd) : HerdKept t ((t.mapTiles h f).setHerd h x) :=
    (HerdKept.mapTiles t h f).trans (.of_keeps (keeps_setHerd _ h x) (by decide))
  unfold State.takeSnapshot
  dsimp only
  exact ((HerdKept.of_keeps (keeps_setSnap s _ _) (by decide)).trans (hcopy _ _ _ _)).trans (hlast _ _ _)

theorem kept_restoreFrom (s : State) (h : Nat) (p : Snap) : HerdKept s (s.restoreFrom h p) := by
  have hflt (t : State) (x : Flt) : HerdKept t { t with flt := x } :=
    .of_keeps (l := [.flt]) ⟨rfl, fun p hp => by cases p <;> simp_all [Part.same]⟩ (by decide)
  have hseen (t : State) : HerdKept t (t.restoreSeen h p) := .of_keeps (keeps_setJrn t _) (by decide)
  have htiles (t : State) : HerdKept t (t.forEach p.tiles (fun s q => s.updTile q.key (fun t => t.restored q))) :=
    .forEach (fun t q => .of_keeps (keeps_updTile t _ _) (by decide)) _ t
  unfold State.restoreFrom
  exact ((((HerdKept.mapTiles s h _).trans (htiles _)).trans (.herd _ h _)).trans (hflt _ _)).trans (hseen _)

/-! ### Sparing a tile without its firmware -/

theorem kept_setHmap (s : State) (ph : Nat) (m : HMap) : HerdKept s (s.setHmap ph m) :=
  .updBru s (f := fun b => { b with map := { b.map with maps := NatMap.put b.map.maps HMap.plain ph m } }) rfl

theorem kept_noteRemap (s : State) (h kind px py : Nat) : HerdKept s (s.noteRemap h kind px py) :=
  ((((HerdKept.regs s _ _).trans (.regs _ _ _)).trans (.regs _ _ _)).trans (.regs _ _ _)).trans (.regs _ _ _)

theorem kept_skip (s : State) (f : Failed) (c : Choice) : HerdKept s (s.skip f c) := by
  cases c
  · exact kept_setHmap s _ _
  · exact kept_setHmap s _ _
  · exact .refl s

theorem kept_placeIn (s : State) (h row : Nat) : HerdKept s (s.placeIn h row) := by
  have hplaced (t : State) (b : Bru) (x : Flt) (hb : b.stage = t.bru.stage) : HerdKept t { t with bru := b, flt := x } :=
    ⟨⟨rfl, fun p hp => by cases p <;> simp_all [Part.same, herdParts]⟩, hb⟩
  exact ((kept_setHmap s _ _).trans (kept_setHmap _ _ _)).trans (hplaced _ _ _ rfl)

theorem kept_exhausted (s : State) (h px py : Nat) : HerdKept s (s.exhausted h px py) :=
  (HerdKept.regs s _ _).trans (.post _ _ _ _ _)

theorem kept_spareMissing (s : State) (f : Failed) : HerdKept s (s.spareMissing f) := by
  have habsent (t : State) (h : Nat) (c : Prop) [Decidable c] : HerdKept t
      ((if c then t.wr Reg.BRU_STATUS_EXHAUSTED 1 else t).updBru
        (fun b => { b with map := { b.map with absent := b.map.absent ++ [h] } })) :=
    (HerdKept.ite (.regs t _ _) (.refl t)).trans (.updBru _ rfl)
  unfold State.spareMissing
  split
  · exact .refl s
  · next h _ =>
    split
    · exact .ite (kept_setHmap s _ _) (.refl s)
    · split
      · next row _ =>
        exact (((kept_placeIn s h row).trans (.count _ _ 1)).trans (kept_noteRemap _ _ _ _ _)).trans (.post _ _ _ _ _)
      · exact (kept_exhausted s _ _ _).trans (habsent _ h _)
    · exact ((kept_skip s f _).trans (.count _ _ 1)).trans (kept_noteRemap _ _ _ _ _)

/-! ### Repair rounds -/

theorem kept_noteBcast (s : State) : HerdKept s s.noteBcast := .of_keeps (keeps_noteBcast s) (by decide)

theorem kept_retire (s : State) (gone : List (Nat × Nat)) : HerdKept s (s.retire gone) := by
  have hposts := HerdKept.forEach (fun (t : State) (e : Nat × Nat) => HerdKept.post t Code.tileFwMissing Source.herd
    ((t.lherd (herdOfPos e.1)).getD 0) (e.1 % 1089 + e.1 / 1089 * 2 ^ 11 + e.2 * 2 ^ 22)) gone s
  exact (hposts.trans (.updBru _ (f := fun b => { b with failed := b.failed ++ missFails gone }) rfl)).trans (.count _ _ _)

theorem kept_retireMissing (s : State) : HerdKept s s.retireMissing := by
  have hspared (t : State) := HerdKept.forEach kept_spareMissing (missFails s.bru.missing) t
  exact (((kept_retire s _).trans (.updBru _ (f := fun b => { b with missing := [] }) rfl)).trans (hspared _)).trans (.regs _ _ _)

theorem kept_repairRound (s : State) (still : List (Nat × Nat)) : HerdKept s (s.repairRound still) := by
  have hround (t : State) (m : NatMap Nat) (n : Nat) : HerdKept t (t.updBru (fun b => { b with missing := m, round := n })) :=
    .updBru t rfl
  have hstop (t : State) (l : List BruStop) (n : Nat) :
      HerdKept t ((t.updBru (fun b => { b with stops := l })).postStop (Code.hostStop + 1) Source.bru 0 n) :=
    (HerdKept.updBru t (f := fun b => { b with stops := l }) rfl).trans (.of_keeps (keeps_postStop _ _ _ _ _) (by decide))
  unfold State.repairRound
  refine .ite (.refl s) (((hround s _ _).trans (kept_noteBcast _)).trans (.ite (.refl _) (.ite (hstop _ _ _) (.ite ?_ ?_))))
  · exact kept_retireMissing _
  · exact .refl _

/-! ### The commands (R142) -/

theorem kept_cmdRelease (s : State) (h : Nat) : HerdKept s (s.cmdRelease h).state := by
  have hserved (t : State) (c : Prop) [Decidable c] : HerdKept t (if c then t.serveAgain h else t) :=
    .ite (.of_keeps (l := [.stks]) ⟨rfl, fun p hp => by cases p <;> simp_all [Part.same, State.serveAgain]⟩ (by decide)) (.refl t)
  have hgo (t : State) (x : Herd) : HerdKept t ((t.setHerd h x).mapTiles h Tile.go) :=
    (HerdKept.of_keeps (keeps_setHerd t h x) (by decide)).trans (.mapTiles _ h _)
  unfold State.cmdRelease
  dsimp only
  split
  · split
    · exact ((hserved s _).trans (hgo _ _)).trans (kept_faultState _ _ _ _)
    · exact (hserved s _).trans (hgo _ _)
  · exact .refl s

theorem kept_cmdHalt (s : State) (h : Nat) : HerdKept s (s.cmdHalt h).state := by
  unfold State.cmdHalt
  split
  · exact (HerdKept.herd s h _).trans (.mapTiles _ h _)
  · exact .refl s

theorem kept_cmdBarrier (s : State) (h arg : Nat) (drain : Bool) (src : CmdSrc) :
    HerdKept s (s.cmdBarrier h arg drain src).state := by
  unfold State.cmdBarrier
  split
  · exact (HerdKept.herd s h _).trans (kept_tryBarrier _ h)
  · exact .refl s

theorem kept_cmdSnapshot (s : State) (h arg : Nat) : HerdKept s (s.cmdSnapshot h arg).state := by
  unfold State.cmdSnapshot
  dsimp only
  split
  · split
    · split
      · exact kept_takeSnapshot s h _
      · exact .refl s
    · exact .refl s
  · exact .refl s

theorem kept_clearTiles (s : State) (h : Nat) : HerdKept s (s.clearTiles h) := .of_keeps (keeps_clearTiles s h) (by decide)

theorem kept_applyInit (s : State) (h : Nat) (p : List Byte) : HerdKept s (s.applyInit h p) :=
  .of_keeps (applyInit_frame s h p).2 (by decide)

theorem kept_cmdRestore (s : State) (h arg : Nat) : HerdKept s (s.cmdRestore h arg).state := by
  unfold State.cmdRestore
  dsimp only
  split
  · split
    · exact kept_restoreFrom s h _
    · split
      · exact (kept_clearTiles s h).trans (kept_applyInit _ h _)
      · exact .refl s
  · exact .refl s

theorem kept_cmdResetTiles (s : State) (h : Nat) (src : CmdSrc) : HerdKept s (s.cmdResetTiles h src).state := by
  unfold State.cmdResetTiles
  dsimp only
  split
  · exact kept_clearTiles s h
  · exact .refl s

theorem kept_cmdRouteRepair (s : State) (h : Nat) : HerdKept s (s.cmdRouteRepair h).state := by
  unfold State.cmdRouteRepair
  dsimp only
  split
  · exact (HerdKept.mesh s _).trans (.mesh _ _)
  · exact .refl s

theorem kept_cmdRollcall (s : State) (h arg : Nat) (src : CmdSrc) : HerdKept s (s.cmdRollcall h arg src).state := by
  unfold State.cmdRollcall
  dsimp only
  split
  · exact .herd s h (fun x => { x with missing := s.missingOf (s.pherd h) arg })
  · exact .refl s

theorem kept_cmdRepair (s : State) (h : Nat) (still : List (Nat × Nat)) (src : CmdSrc) :
    HerdKept s (s.cmdRepair h still src).state := by
  unfold State.cmdRepair
  dsimp only
  split
  · exact kept_repairRound s still
  · split
    · exact .updBru s (f := fun b => { b with
        missing := repairLeft (fun k => decide (herdOfPos k = s.pherd h)) still s.bru.copies s.bru.missing }) rfl
    · exact .refl s

theorem kept_herdDo (s : State) (h : Nat) (c : QCmd) : HerdKept s (s.herdDo h c).state := by
  unfold State.herdDo
  split
  · exact kept_cmdRelease s h
  · exact kept_cmdHalt s h
  · exact kept_cmdBarrier s h _ _ _
  · exact kept_cmdSnapshot s h _
  · exact kept_cmdRestore s h _
  · exact kept_cmdResetTiles s h _
  · exact kept_cmdRouteRepair s h
  · exact kept_cmdBarrier s h _ _ _
  · exact kept_cmdRollcall s h _ _
  · exact kept_cmdRepair s h _ _
  · exact .refl s

/-! ### The queues -/

theorem kept_herdRun (s : State) (h : Nat) (c : QCmd) : HerdKept s (s.herdRun h c) := by
  unfold State.herdRun
  dsimp only
  split
  · exact (kept_herdDo s h c).trans (kept_cmdEnd _ _ _ _)
  · exact kept_herdDo s h c

theorem kept_dropBarrier (s : State) (h : Nat) : HerdKept s (s.dropBarrier h) := by
  unfold State.dropBarrier
  split
  · exact .refl s
  · exact (HerdKept.herd s h _).trans (kept_cmdEnd _ _ _ _)

theorem kept_serveHerd (n : Nat) (s : State) (h : Nat) : HerdKept s (State.serveHerd n s h) := by
  induction n generalizing s with
  | zero => exact .refl s
  | succ n ih =>
    have htake (t : State) (x : Herd) (c : Prop) [Decidable c] :
        HerdKept t (if c then (t.setHerd h x).dropBarrier h else t.setHerd h x) :=
      have hset : HerdKept t (t.setHerd h x) := .of_keeps (keeps_setHerd t h x) (by decide)
      .ite (hset.trans (kept_dropBarrier _ h)) hset
    unfold State.serveHerd
    split
    · exact .refl s
    · exact ((htake s _ _).trans (kept_herdRun _ h _)).trans (ih _)

theorem kept_faultHerd (s : State) (h code : Nat) (stackFault : Bool) : HerdKept s (s.faultHerd h code stackFault) :=
  (kept_faultState s h code stackFault).trans (kept_serveHerd _ _ h)

end Sys2Proof.Proofs.HerdService
end

section
/-! Reads of the resident copies change no more than the stacks, what they report, and journal streams that have lost items;
HERD_LOAD's reloads and restores change what herd commands reach (R166, R173, R201, R373). -/

namespace Sys2Proof.Proofs.HerdReloads

open Sys2Proof.Machine Sys2Proof.Safety Sys2Proof.Laws Sys2Proof.Proofs.Frames Sys2Proof.Proofs.HerdLoads
open Sys2Proof.Proofs.ResidentWrites Sys2Proof.Proofs.HerdService Sys2Proof.Proofs.StackSteps

/-! ### Reads of lines -/

/-- What a read of a stack may change. -/
def readParts : List Part := [.regs, .stks, .jrn, .io]

/-- One of two changes of the same parts. -/
theorem keeps_ite {l : List Part} {s t u : State} {c : Prop} [Decidable c] (ht : KeepsBut l s t) (hu : KeepsBut l s u) :
    KeepsBut l s (if c then t else u) := by
  split
  · exact ht
  · exact hu

theorem keeps_correct (s : State) (k l : Nat) : KeepsBut [.regs, .stks] s (s.correct k l) := (correct_corrected s k l).keeps

theorem keeps_noteBad (s : State) (k addr typ : Nat) (copyOk : Bool) : KeepsBut [.regs] s (s.noteBad k addr typ copyOk) :=
  (noteBad_noted s k addr typ copyOk).keeps

theorem keeps_lineFailed (s : State) (k addr : Nat) (copy : Bool) (kind source : Nat) :
    KeepsBut readParts s (s.lineFailed k addr copy kind source) :=
  KeepsBut_mono (KeepsBut_append (keeps_noteBad s k addr _ false) (keeps_post _ _ _ _ _)) (by decide)

theorem keeps_journalLost (s : State) (p : Nat) (items : List (Nat × Nat)) : KeepsBut [.jrn, .io] s (s.journalLost p items) := by
  have hjrn (t : State) (x : Jrn) : KeepsBut [.jrn] t { t with jrn := x } := keeps_setJrn t x
  unfold State.journalLost
  split
  · exact KeepsBut_mono (keeps_post s _ _ _ _) (by decide)
  · exact keeps_forEach (fun t e => KeepsBut_append (hjrn t _) (keeps_postEvent _ _)) _ s

theorem keeps_journalLineLost (s : State) (p line : Nat) : KeepsBut [.jrn, .io] s (s.journalLineLost p line) := by
  have hlost (x : Pair) : KeepsBut [.jrn, .io] s ((s.setPair p x).journalLost p []) :=
    KeepsBut_mono (KeepsBut_append (Transport.keeps_setPair s p x) (keeps_journalLost _ p [])) (by decide)
  exact keeps_ite (hlost _) (keeps_ite (hlost _) (keeps_journalLost s p _))

theorem keeps_bothFailed (s : State) (k addr other : Nat) (src : Option Src) :
    KeepsBut readParts s (s.bothFailed k addr other src) := by
  have hfailed (t : State) (c : Bool) (j a : Nat) (copy : Bool) (kind source : Nat) :
      KeepsBut readParts t (if c then t.lineFailed j a copy kind source else t) :=
    keeps_ite (keeps_lineFailed t j a copy kind source) (KeepsBut_refl _ t)
  have hjournal (t : State) (p line : Nat) : KeepsBut readParts t (t.journalLineLost p line) :=
    KeepsBut_mono (keeps_journalLineLost t p line) (by decide)
  unfold State.bothFailed
  dsimp only
  split
  · exact KeepsBut_trans (KeepsBut_trans (hfailed s _ _ _ _ _ _) (hfailed _ _ _ _ _ _ _))
      (keeps_ite (hjournal _ _ _) (KeepsBut_refl _ _))
  · exact KeepsBut_trans (hfailed s _ _ _ _ _ _) (hfailed _ _ _ _ _ _ _)

theorem keeps_readLine (s : State) (k l : Nat) (src : Option Src) : KeepsBut readParts s (s.readLine k l src).state := by
  have hcorrect (t : State) (c : Bool) (j i : Nat) : KeepsBut readParts t (if c then t.correct j i else t) :=
    keeps_ite (KeepsBut_mono (keeps_correct t j i) (by decide)) (KeepsBut_refl _ t)
  have hmend (t : State) (addr : Nat) (bs : List Byte) :
      KeepsBut readParts t ((t.noteBad k addr (t.lineType k addr) true).updStk k (fun x => x.writeLine l bs)) :=
    KeepsBut_mono (KeepsBut_append (keeps_noteBad t k addr _ true) (keeps_updStk _ k _)) (by decide)
  have hown := hcorrect s (s.stkServes k) k l
  unfold State.readLine
  dsimp only
  generalize (if s.stkServes k then s.correct k l else s) = u at hown
  split
  · exact hown
  · split
    · next a _ =>
      have hcopy := KeepsBut_trans hown (hcorrect u (u.stkServes (partner k)) (partner k) (a / 64))
      generalize (if u.stkServes (partner k) then u.correct (partner k) (a / 64) else u) = v at hcopy
      split
      · split
        · exact KeepsBut_trans hcopy (hmend v _ _)
        · exact hcopy
      · exact KeepsBut_trans hcopy (keeps_bothFailed v k _ a src)
    · split
      · exact KeepsBut_trans hown (keeps_lineFailed u k _ _ _ _)
      · exact hown

/-! ### Reads of copies -/

theorem keeps_readUntil (s : State) (k : Nat) (src : Option Src) (l n : Nat) :
    KeepsBut readParts s (s.readUntil k src l n).state := by
  induction n generalizing s l with
  | zero => exact KeepsBut_refl _ s
  | succ n ih =>
    unfold State.readUntil
    dsimp only
    split
    · exact keeps_readLine s k l src
    · exact KeepsBut_trans (keeps_readLine s k l src) (ih _ _)

theorem keeps_readCopy (s : State) (k off n : Nat) : KeepsBut readParts s (s.readCopy k off n).state := by
  unfold State.readCopy
  split
  · exact keeps_readUntil s k _ _ _
  · exact KeepsBut_refl _ s

theorem keeps_readSects (s : State) (k : Nat) (es : List ResSect) : KeepsBut readParts s (s.readSects k es).state := by
  induction es generalizing s with
  | nil => exact KeepsBut_refl _ s
  | cons e es ih =>
    unfold State.readSects
    dsimp only
    split
    · exact keeps_readCopy s k _ _
    · exact KeepsBut_trans (keeps_readCopy s k _ _) (ih _)

theorem keeps_herdEntry (s : State) (h : Nat) : KeepsBut readParts s (s.herdEntry h).state := by
  unfold State.herdEntry
  dsimp only
  split
  · exact KeepsBut_refl _ s
  · split
    · exact keeps_readSects s _ _
    · exact keeps_readCopy s _ _ _

/-! ### Reloads (R201) -/

theorem kept_reloadBad (s : State) (h typ : Nat) : HerdKept s (s.reloadBad h typ) :=
  ((HerdKept.herd s h _).trans (kept_faultState _ h _ _)).trans (.post _ _ _ _ _)

theorem kept_reloadHerd (s : State) (h : Nat) : HerdKept s (s.reloadHerd h) := by
  have hread : HerdKept s (s.herdEntry h).state := .of_keeps (keeps_herdEntry s h) (by decide)
  unfold State.reloadHerd
  dsimp only
  split
  · exact hread.trans (.of_keeps (keeps_loadHerd _ h _) (by decide))
  · exact hread.trans (kept_reloadBad _ h _)

theorem kept_applyRouteTables (s : State) (p : List Byte) : HerdKept s (s.applyRouteTables p) := by
  have hupd (t : State) (key : Nat) (f : Router → Router) : HerdKept t (t.updRouter key f) :=
    .of_keeps (keeps_updRouter t key f) (by decide)
  exact (HerdKept.forEach (fun t _ => hupd t _ _) _ s).trans (HerdKept.forEach (fun t _ => hupd t _ _) _ _)

theorem kept_resetRoutes (s : State) : HerdKept s s.resetRoutes := by
  have hgenerated (x y : Mesh) : HerdKept s { { s with mesh := x } with mesh := y } := (HerdKept.mesh s x).trans (.mesh _ y)
  unfold State.resetRoutes
  dsimp only
  split
  · exact (hgenerated _ _).trans (kept_applyRouteTables _ _)
  · exact hgenerated _ _

/-! ### Restores (R373) -/

theorem kept_restoreRelease (s : State) (h : Nat) : HerdKept s (s.restoreRelease h) := (kept_reloadHerd s h).trans (.herd _ h _)

theorem kept_restoreGroup (s : State) (g : Nat) (hs : List Nat) : HerdKept s (s.restoreGroup g hs).1 := by
  unfold State.restoreGroup
  dsimp only
  split
  · exact .forEach (fun t h => .ite (kept_restoreFrom t h _) (kept_restoreRelease t h)) hs s
  · exact .forEach (fun t h => kept_faultHerd t h _ _) hs s

theorem kept_restoreAll (s : State) : HerdKept s s.restoreAll := .forEach (fun t _ => kept_restoreGroup t _ _) _ s

end Sys2Proof.Proofs.HerdReloads
end

section
/-! HERD_LOAD of a whole image (R197, R202, R412, R418). -/

namespace Sys2Proof.Proofs.WholeLoad

open Sys2Proof.Machine Sys2Proof.Safety Sys2Proof.Laws Sys2Proof.Proofs.Frames Sys2Proof.Proofs.HerdCommands
open Sys2Proof.Proofs.HerdService Sys2Proof.Proofs.HerdReloads

/-- The loader after a load. -/
def doneImg (x : Img) : Img := { x with phase := .done, loading := none }

theorem img_imgDone (s : State) : s.imgDone.img = doneImg s.img := rfl

theorem done_imgDone (s : State) : s.imgDone.rd Reg.IMG_LOAD_STATUS_DONE = 1 := StackSteps.rd_wr_same _ 1 rfl

theorem keeps_imgDone (s : State) : KeepsBut [.img, .regs] s s.imgDone :=
  KeepsBut_append (keeps_setImg s (doneImg s.img)) (keeps_wr _ _ _)

/-- Every herd that is there is loaded from its entry, and the groups are restored. -/
def herdsLoaded (s : State) : State := ((s.resetRoutes).forEach s.presentHerds State.reloadHerd).restoreAll

theorem kept_herdsLoaded (s : State) : HerdKept s (herdsLoaded s) :=
  ((kept_resetRoutes s).trans (.forEach kept_reloadHerd _ _)).trans (kept_restoreAll _)

/-- The load of a whole image has ended, if one runs. -/
def loadEnded (s : State) : State :=
  if (herdsLoaded s).img.phase = .broadcast then (herdsLoaded s).imgDone else herdsLoaded s

theorem keeps_loadEnded (s : State) : KeepsBut [.img, .regs] (herdsLoaded s) (loadEnded s) :=
  keeps_ite (keeps_imgDone _) (KeepsBut_refl _ _)

theorem img_herdsLoaded (s : State) : (herdsLoaded s).img = s.img := (kept_herdsLoaded s).keeps.2 .img (by decide)

/-- Bring-up after HERD_LOAD. -/
def afterHerdLoad (s : State) (b : Bru) : Bru :=
  let start := decide (s.bru.stage ≠ 7)
  { b with stage := if start then 6 else b.stage, release := !start, bcastOn := false }

theorem herdLoad_eq {s : State} (h : s.mayHerdLoad = true) : s.herdLoad = (loadEnded s).updBru (afterHerdLoad s) := by
  rw [State.herdLoad, if_pos h]
  unfold loadEnded herdsLoaded afterHerdLoad
  rfl

theorem keeps_herdLoad {s : State} (h : s.mayHerdLoad = true) :
    KeepsBut (herdParts ++ [.img, .regs] ++ [.bru]) s s.herdLoad := by
  rw [herdLoad_eq h]
  exact KeepsBut_append (KeepsBut_append (kept_herdsLoaded s).keeps (keeps_loadEnded s)) (keeps_updBru _ _)

/-- A load that runs ends in DONE. -/
theorem img_herdLoad_broadcast {s : State} (h : s.mayHerdLoad = true) (hphase : s.img.phase = .broadcast) :
    s.herdLoad.img = doneImg s.img ∧ s.herdLoad.rd Reg.IMG_LOAD_STATUS_DONE = 1 := by
  have hended : loadEnded s = (herdsLoaded s).imgDone := if_pos (by rw [img_herdsLoaded, hphase])
  have hregs : s.herdLoad.regs = (herdsLoaded s).imgDone.regs := by rw [herdLoad_eq h, hended]; rfl
  have himg : s.herdLoad.img = doneImg (herdsLoaded s).img := by rw [herdLoad_eq h, hended]; rfl
  refine ⟨?_, (HostCommands.rd_of_regs hregs _).trans (done_imgDone _)⟩
  rw [himg, img_herdsLoaded]

/-- At a warm start no load runs. -/
theorem img_herdLoad_warm {s : State} (h : s.mayHerdLoad = true) (hphase : s.img.phase ≠ .broadcast) :
    s.herdLoad.img = s.img := by
  have hended : loadEnded s = herdsLoaded s := if_neg (by rw [img_herdsLoaded]; exact hphase)
  have himg : s.herdLoad.img = (herdsLoaded s).img := by
    rw [herdLoad_eq h, hended]
    exact (keeps_updBru _ _).2 .img (by decide)
  exact himg.trans (img_herdsLoaded s)

theorem bru_herdLoad {s : State} (h : s.mayHerdLoad = true) : s.herdLoad.bru.stage = (if s.bru.stage = 7 then 7 else 6) ∧
    s.herdLoad.bru.release = decide (s.bru.stage = 7) ∧ s.herdLoad.bru.bcastOn = false := by
  have hstage : (loadEnded s).bru.stage = s.bru.stage := by
    rw [(keeps_loadEnded s).2 .bru (by decide)]
    exact (kept_herdsLoaded s).stage
  have hbru : s.herdLoad.bru = afterHerdLoad s (loadEnded s).bru := by rw [herdLoad_eq h]; rfl
  rw [hbru]
  by_cases h7 : s.bru.stage = 7
  · simp [afterHerdLoad, hstage, h7]
  · simp [afterHerdLoad, h7]

theorem runs_herdLoad {s : State} (h : s.mayHerdLoad = true) {P : State → Prop} (hP : P s.herdLoad) : Runs .herdLoad s P :=
  runs_of_act (f := State.herdLoad) rfl rfl (keeps_herdLoad h) (by decide) hP

end Sys2Proof.Proofs.WholeLoad
end

section
/-! A partial load puts its targets in RESHAPING (R202 to R204). -/

namespace Sys2Proof.Proofs.Reshaping

open Sys2Proof.Machine Sys2Proof.Safety Sys2Proof.Laws Sys2Proof.Proofs.Frames
open Sys2Proof.Proofs.ResidentWrites Sys2Proof.Proofs.HerdReloads

/-! ### Loops that reach each element -/

/-- What a turn brings about for its element and every turn keeps, the loop brings about for all its elements, while an
invariant holds. -/
theorem forEach_reaches {f : State → Nat → State} {I : State → Prop} {Q : Nat → State → Prop} {xs : List Nat}
    (hinv : ∀ t, ∀ x ∈ xs, I t → I (f t x)) (hown : ∀ t, ∀ x ∈ xs, I t → Q x (f t x))
    (hkeep : ∀ t, ∀ x ∈ xs, ∀ y, y ≠ x → I t → Q y t → Q y (f t x)) {s : State} (hs : I s) :
    ∀ x ∈ xs, Q x (s.forEach xs f) := by
  induction xs generalizing s with
  | nil => exact fun x hx => absurd hx List.not_mem_nil
  | cons y ys ih =>
    have hinv' := fun t z hz => hinv t z (List.mem_cons_of_mem y hz)
    have hhead := hinv s y List.mem_cons_self hs
    intro x hx
    by_cases hmem : x ∈ ys
    · exact ih hinv' (fun t z hz => hown t z (List.mem_cons_of_mem y hz))
        (fun t z hz => hkeep t z (List.mem_cons_of_mem y hz)) hhead x hmem
    · have hxy : x = y := (List.mem_cons.1 hx).resolve_right hmem
      subst hxy
      refine (forEach_induction (P := fun t => I t ∧ Q x t) (fun t z hz ht => ?_) ⟨hhead, hown s x List.mem_cons_self hs⟩).2
      exact ⟨hinv' t z hz ht.1, hkeep t z (List.mem_cons_of_mem x hz) x (fun he => hmem (he ▸ hz)) ht.1 ht.2⟩

/-! ### One target -/

/-- A herd controller that is reshaped. -/
def reshapedHerd (x : Herd) : Herd := { x with st := .reshaping, committed := false, reshaped := true }

/-- The sections of a target's new entry: those of its old one, but for the types that the image carries. -/
def newSects (s : State) (g : Image) (h : Nat) : List Sect := mergeSects (s.herdEntry h).sects (sectsOfHerd g h)

/-- The entry of a target is written. -/
def entered (s : State) (g : Image) (h : Nat) : State :=
  ((s.herdEntry h).state.updHerd h reshapedHerd).writeEntry h (newSects s g h)

/-- A snapshot of a herd is void. -/
def voidSnap (s : State) (k : Nat) : State := s.setSnap k { s.snap k with valid := false }

theorem reshape_eq (s : State) (g : Image) (h : Nat) :
    s.reshape g h = voidSnap (voidSnap (entered s g h) (snapKey h 0)) (snapKey h 1) := rfl

/-- What the reshaping of a target may change. -/
def reshapeParts : List Part := [.regs, .stks, .jrn, .io, .herds, .img, .snaps]

theorem keeps_voidSnap (s : State) (k : Nat) : KeepsBut [.snaps] s (voidSnap s k) := keeps_setSnap s k _

section Target

variable (s : State) (g : Image) (h : Nat)

theorem keeps_entered : KeepsBut [.regs, .stks, .jrn, .io, .herds, .img] s (entered s g h) := by
  have hread := KeepsBut_append (keeps_herdEntry s h) (keeps_updHerd (s.herdEntry h).state h reshapedHerd)
  exact KeepsBut_mono (KeepsBut_append hread (keeps_writeEntry _ h _)) (by decide)

theorem keeps_voided : KeepsBut [.snaps] (entered s g h) (s.reshape g h) := by
  rw [reshape_eq]
  exact KeepsBut_trans (keeps_voidSnap _ _) (keeps_voidSnap _ _)

theorem keeps_reshape : KeepsBut reshapeParts s (s.reshape g h) :=
  KeepsBut_mono (KeepsBut_append (keeps_entered s g h) (keeps_voided s g h)) (by decide)

theorem herd_reshape (k : Nat) : (s.reshape g h).herd k = if k = h then reshapedHerd (s.herd k) else s.herd k := by
  have hvoid : (s.reshape g h).herds = (entered s g h).herds := (keeps_voided s g h).2 .herds (by decide)
  have hwrite := (keeps_writeEntry ((s.herdEntry h).state.updHerd h reshapedHerd) h (newSects s g h)).2 .herds (by decide)
  have hread (j : Nat) : (s.herdEntry h).state.herd j = s.herd j := by
    rw [State.herd, (keeps_herdEntry s h).2 .herds (by decide)]
    rfl
  have hherd : (s.reshape g h).herd k = ((s.herdEntry h).state.updHerd h reshapedHerd).herd k := by
    rw [State.herd, hvoid, entered, hwrite]
    rfl
  rw [hherd, herd_updHerd, hread, hread]
  split
  · next hk => rw [hk]
  · rfl

theorem snap_voidSnap (k j : Nat) : (voidSnap s k).snap j = if j = k then { s.snap k with valid := false } else s.snap j :=
  snap_setSnap s k j _

theorem snap_entered (j : Nat) : (entered s g h).snap j = s.snap j := by
  rw [State.snap, (keeps_entered s g h).2 .snaps (by decide)]
  rfl

/-- Each snapshot of the target is void. -/
theorem snap_reshape_target (e : Nat) : ((s.reshape g h).snap (snapKey h e)).valid = false := by
  have hslot : snapKey h e = snapKey h 0 ∨ snapKey h e = snapKey h 1 := by unfold snapKey; omega
  have hapart : snapKey h 0 ≠ snapKey h 1 := by unfold snapKey; omega
  rw [reshape_eq, snap_voidSnap]
  rcases hslot with h0 | h1
  · rw [h0, if_neg hapart, snap_voidSnap, if_pos rfl]
  · rw [h1, if_pos rfl]

/-- The snapshots of another herd are as they were. -/
theorem snap_reshape_other {k : Nat} (hk : k ≠ h) (e : Nat) :
    (s.reshape g h).snap (snapKey k e) = s.snap (snapKey k e) := by
  have h0 : snapKey k e ≠ snapKey h 0 := by unfold snapKey; omega
  have h1 : snapKey k e ≠ snapKey h 1 := by unfold snapKey; omega
  rw [reshape_eq, snap_voidSnap, if_neg h1, snap_voidSnap, if_neg h0, snap_entered]

/-- Of the loader the entries alone change. -/
theorem img_reshape : (s.reshape g h).img = { s.img with herdRes := (s.reshape g h).img.herdRes } := by
  have hvoid : (s.reshape g h).img = (entered s g h).img := (keeps_voided s g h).2 .img (by decide)
  have hread : ((s.herdEntry h).state.updHerd h reshapedHerd).img = s.img := (keeps_herdEntry s h).2 .img (by decide)
  rw [hvoid, entered, img_writeEntry, hread]

/-- A herd's entry among the loader's. -/
def entryOf (s : State) (h : Nat) : ResEntry := NatMap.get s.img.herdRes ResEntry.none h

theorem entry_reshape_other {k : Nat} (hk : k ≠ h) : entryOf (s.reshape g h) k = entryOf s k := by
  have hvoid : (s.reshape g h).img = (entered s g h).img := (keeps_voided s g h).2 .img (by decide)
  have hread : ((s.herdEntry h).state.updHerd h reshapedHerd).img = s.img := (keeps_herdEntry s h).2 .img (by decide)
  rw [entryOf, hvoid, entered, get_writeEntry, if_neg hk, hread]
  rfl

theorem entry_reshape_target : kept (entryOf (s.reshape g h) h).sects = told (newSects s g h) := by
  have hvoid : (s.reshape g h).img = (entered s g h).img := (keeps_voided s g h).2 .img (by decide)
  have hentry := keptEntry_writeEntry ((s.herdEntry h).state.updHerd h reshapedHerd) h (newSects s g h) h
  rw [if_pos rfl] at hentry
  rw [entryOf, hvoid]
  exact hentry

end Target

/-! ### A target that is reshaped, and a herd that is none -/

/-- The herd is in RESHAPING with the image's sections in its entry, and its snapshots are void. -/
structure Reshaped (g : Image) (h : Nat) (t : State) : Prop where
  st       : (t.herd h).st = .reshaping
  reshaped : (t.herd h).reshaped = true
  void     : ∀ e, (t.snap (snapKey h e)).valid = false
  carried  : ∀ x ∈ g.sects, x.scope = 1 → x.inst = h → ∃ e ∈ (entryOf t h).sects,
    e.typ = x.typ ∧ e.size = x.payload.length ∧ e.crc = x.crc

/-- A section that an entry's list was made from is told in it. -/
theorem mem_of_kept {l : List ResSect} {m : List Sect} (h : kept l = told m) {x : Sect} (hx : x ∈ m) :
    ∃ e ∈ l, e.typ = x.typ ∧ e.size = x.payload.length ∧ e.crc = x.crc := by
  have hmem : (x.typ, x.inst, x.payload.length, x.crc) ∈ kept l := h ▸ List.mem_map.2 ⟨x, hx, rfl⟩
  obtain ⟨e, he, heq⟩ := List.mem_map.1 hmem
  obtain ⟨htyp, -, hsize, hcrc⟩ : e.typ = x.typ ∧ e.inst = x.inst ∧ e.size = x.payload.length ∧ e.crc = x.crc := by
    simpa using heq
  exact ⟨e, he, htyp, hsize, hcrc⟩

theorem reshaped_reshape (s : State) (g : Image) (h : Nat) : Reshaped g h (s.reshape g h) := by
  have hherd : (s.reshape g h).herd h = reshapedHerd (s.herd h) := by rw [herd_reshape, if_pos rfl]
  refine ⟨by rw [hherd]; rfl, by rw [hherd]; rfl, snap_reshape_target s g h, fun x hx hscope hinst => ?_⟩
  have hsects : x ∈ sectsOfHerd g h := List.mem_filter.2 ⟨hx, by simp [hscope, hinst]⟩
  exact mem_of_kept (entry_reshape_target s g h) (List.mem_append_right _ hsects)

theorem Reshaped.reshape_other {s : State} {g : Image} {h k : Nat} (hk : k ≠ h) (ht : Reshaped g k s) :
    Reshaped g k (s.reshape g h) := by
  have hherd : (s.reshape g h).herd k = s.herd k := by rw [herd_reshape, if_neg hk]
  refine ⟨by rw [hherd, ht.st], by rw [hherd, ht.reshaped], fun e => ?_, ?_⟩
  · rw [snap_reshape_other s g h hk]; exact ht.void e
  · rw [entry_reshape_other s g h hk]; exact ht.carried

/-- A herd's controller, entry and snapshots are as they were. -/
structure Spared (k : Nat) (s t : State) : Prop where
  herd  : t.herd k = s.herd k
  entry : entryOf t k = entryOf s k
  snaps : ∀ e, t.snap (snapKey k e) = s.snap (snapKey k e)

/-! ### All targets -/

/-- The state in which every target is reshaped. -/
def allReshaped (s : State) (g : Image) : State := s.forEach g.targets (fun s h => s.reshape g h)

section All

variable (s : State) (g : Image)

theorem keeps_allReshaped : KeepsBut reshapeParts s (allReshaped s g) := keeps_forEach (fun t h => keeps_reshape t g h) _ s

theorem img_allReshaped : (allReshaped s g).img = { s.img with herdRes := (allReshaped s g).img.herdRes } :=
  forEach_induction (P := fun t => t.img = { s.img with herdRes := t.img.herdRes })
    (fun t h _ ht => by rw [img_reshape t g h, ht]) rfl

theorem reshaped_allReshaped : ∀ h ∈ g.targets, Reshaped g h (allReshaped s g) :=
  forEach_reaches (I := fun _ => True) (fun _ _ _ _ => trivial) (fun t h _ _ => reshaped_reshape t g h)
    (fun _ _ _ _ hk _ ht => ht.reshape_other hk) trivial

theorem spared_allReshaped {k : Nat} (hk : k ∉ g.targets) : Spared k s (allReshaped s g) := by
  refine forEach_induction (P := Spared k s) (fun t h hh ht => ?_) ⟨rfl, rfl, fun _ => rfl⟩
  have hne : k ≠ h := fun he => hk (he ▸ hh)
  refine ⟨?_, ?_, fun e => ?_⟩
  · rw [herd_reshape, if_neg hne, ht.herd]
  · rw [entry_reshape_other t g h hne, ht.entry]
  · rw [snap_reshape_other t g h hne, ht.snaps]

end All

/-! ### The command -/

theorem exec_reshaping (s : State) : exec .reshaping s = act State.reshaping s := rfl

/-- The first RESHAPING of a load reshapes its targets. -/
theorem runs_reshaping_first {s : State} {g : Image} (hphase : s.img.phase = .herdLoad) (hload : s.img.loading = some g)
    (hshaped : s.img.shaped = false) {P : State → Prop}
    (hP : P ((allReshaped s g).setImg { (allReshaped s g).img with shaped := true })) : Runs .reshaping s P := by
  have hreshaping : s.reshaping = (allReshaped s g).setImg { (allReshaped s g).img with shaped := true } := by
    simp only [State.reshaping, hphase, hload, hshaped, Bool.false_eq_true, if_false]
    rfl
  exact runs_of_act (exec_reshaping s) hreshaping (KeepsBut_append (keeps_allReshaped s g) (keeps_setImg _ _)) (by decide) hP

end Sys2Proof.Proofs.Reshaping
end

section
/-! A herd's reload from copies without errors: what is read is the same in each state of the load, and no other herd and no
tile of another changes (R189, R201, R204). -/

namespace Sys2Proof.Proofs.TargetLoads

open Sys2Proof.Machine Sys2Proof.Safety Sys2Proof.Laws Sys2Proof.Proofs.Frames Sys2Proof.Proofs.StackLines
open Sys2Proof.Proofs.HerdLoads Sys2Proof.Proofs.HerdCommands Sys2Proof.Proofs.ResidentWrites
open Sys2Proof.Proofs.HerdService Sys2Proof.Proofs.HerdReloads

/-! ### Reads of the same copies -/

/-- Two states have the same stacks, resident copies and partition map. -/
structure SameCopies (s t : State) : Prop where
  stks : t.stks = s.stks
  img  : t.img = s.img
  pmap : t.pmap = s.pmap

section Reads

variable {s t : State} (hst : SameCopies s t) {k : Nat} (hk : CleanStack s k)
include hst

theorem SameCopies.stk (k : Nat) : t.stk k = s.stk k := by rw [State.stk, hst.stks]; rfl

theorem SameCopies.homeStack (h : Nat) : t.homeStack h = s.homeStack h := by rw [State.homeStack, hst.pmap, State.homeStack]

theorem SameCopies.copyBase (k : Nat) : t.copyBase k = s.copyBase k := by
  have hregions : t.regions k = s.regions k := by rw [State.regions, hst.pmap, State.regions]
  rw [State.copyBase, State.regionOf, hregions, State.copyBase, State.regionOf]

include hk

theorem SameCopies.clean : CleanStack t k :=
  ⟨by rw [State.stkServes, hst.stk]; exact hk.serves, by rw [hst.stk, hk.bad], by rw [hst.stk, hk.corr],
    by rw [hst.stk, hk.odie]⟩

theorem readUntil_same (src : Option Src) (l n : Nat) :
    (t.readUntil k src l n).bytes = (s.readUntil k src l n).bytes ∧
      (t.readUntil k src l n).poisoned = (s.readUntil k src l n).poisoned := by
  induction n generalizing l with
  | zero => exact ⟨rfl, rfl⟩
  | succ n ih =>
    obtain ⟨hbytes, hpoisoned⟩ := ih (l + 1)
    simp only [State.readUntil, readLine_clean hk, readLine_clean (hst.clean hk), hst.stk, Bool.false_eq_true, if_false]
    exact ⟨by rw [hbytes], hpoisoned⟩

theorem readCopy_same (off n : Nat) : (t.readCopy k off n).bytes = (s.readCopy k off n).bytes ∧
    (t.readCopy k off n).poisoned = (s.readCopy k off n).poisoned := by
  unfold State.readCopy
  rw [hst.copyBase]
  split
  · obtain ⟨hbytes, hpoisoned⟩ := readUntil_same hst hk (some (.block imagePort)) ((_ + off) / 64) (ceilDiv n 64)
    exact ⟨congrArg (List.take n) hbytes, hpoisoned⟩
  · exact ⟨rfl, rfl⟩

theorem readSects_same (es : List ResSect) :
    (t.readSects k es).sects = (s.readSects k es).sects ∧ (t.readSects k es).bad = (s.readSects k es).bad := by
  induction es with
  | nil => exact ⟨rfl, rfl⟩
  | cons e es ih =>
    obtain ⟨hsects, hbad⟩ := ih
    obtain ⟨hbytes, hpoisoned⟩ := readCopy_same hst hk e.off e.size
    simp only [State.readSects, readCopy_clean hk, readCopy_clean (hst.clean hk), hbytes, hpoisoned]
    split
    · exact ⟨rfl, rfl⟩
    · exact ⟨by rw [hsects], hbad⟩

theorem copyValid_same (off : Nat) : t.copyValid k off = s.copyValid k off := by
  obtain ⟨hbytes, hpoisoned⟩ := readCopy_same hst hk off 64
  rw [State.copyValid, hbytes, hpoisoned, State.copyValid]

end Reads

/-- A herd's entry in a home stack without errors reads the same. -/
theorem herdEntry_same {s t : State} (hst : SameCopies s t) {h : Nat} (hk : CleanStack s (s.homeStack h)) :
    (t.herdEntry h).sects = (s.herdEntry h).sects ∧ (t.herdEntry h).bad = (s.herdEntry h).bad := by
  simp only [State.herdEntry, hst.homeStack, hst.img, copyValid_same hst hk]
  split
  · exact ⟨rfl, rfl⟩
  · split
    · exact readSects_same hst hk _
    · exact ⟨rfl, rfl⟩

/-! ### Tiles of other herds -/

/-- Every tile that is not of the herd is as it was. -/
def TilesBeside (h : Nat) (s t : State) : Prop := ∀ k, herdOfKey k ≠ h → t.tile k = s.tile k

theorem tilesBeside_updTile {h pos : Nat} (hh : h < 1024) (hpos : pos < 1024) (s : State) (f : Tile → Tile) :
    TilesBeside h s (s.updTile (tileOf h pos) f) := by
  intro k hk
  rw [tile_updTile, if_neg]
  rintro rfl
  exact hk (herdOfKey_tileOf hh hpos)

theorem tilesBeside_updTiles {h : Nat} (hh : h < 1024) (s : State) (f : Nat → Tile → Tile) :
    TilesBeside h s (s.forEach (List.range 1024) fun s pos => s.updTile (tileOf h pos) (f pos)) :=
  forEach_induction (P := TilesBeside h s)
    (fun t _ hpos ht k hk => (tilesBeside_updTile hh (List.mem_range.1 hpos) t _ k hk).trans (ht k hk)) (fun _ _ => rfl)

theorem tilesBeside_of_tiles {s t : State} (ht : t.tiles = s.tiles) (h : Nat) : TilesBeside h s t :=
  fun k _ => by rw [State.tile, ht]; rfl

theorem tilesBeside_mapTiles (s : State) (h : Nat) {f : Tile → Tile} (hf : f Tile.reset = Tile.reset) :
    TilesBeside h s (s.mapTiles h f) := fun k hk => by rw [tile_mapTiles s h hf, if_neg hk]

theorem tilesBeside_applyPrograms {h : Nat} (hh : h < 1024) (s : State) (p : Option (List Byte)) :
    TilesBeside h s (s.applyPrograms h p) := by
  cases p with
  | none => exact tilesBeside_mapTiles s h rfl
  | some bs =>
    rw [applyPrograms_some]
    exact tilesBeside_updTiles hh s _

/-- The records of a good TILE_INIT are of tiles of the herd. -/
theorem tilesBeside_applyInit {h : Nat} (hh : h < 1024) (s : State) {p : List Byte} (hp : checkInit p = true) :
    TilesBeside h s (s.applyInit h p) := by
  refine forEach_induction (P := TilesBeside h s) (fun t r hr ht k hk => Eq.trans ?_ (ht k hk)) (fun _ _ => rfl)
  have hvalid := List.all_eq_true.1 hp r hr
  have hpos : r.pos < 1024 ∨ r.pos = 0xFFFF := by
    simp only [InitRec.valid, Bool.and_eq_true, decide_eq_true_eq] at hvalid
    exact hvalid.1.2
  dsimp only
  split
  · exact tilesBeside_updTiles hh t (fun _ => r.apply) k hk
  · next hone => exact tilesBeside_updTile hh (hpos.resolve_right hone) t r.apply k hk

/-- Loading a herd leaves the tiles of the others. -/
theorem tilesBeside_loadHerd {h : Nat} (hh : h < 1024) (s : State) {sects : List Sect}
    (hinit : ∀ p, sectOf sects SecType.tileInit h = some p → checkInit p = true) : TilesBeside h s (s.loadHerd h sects) := by
  have hclear : TilesBeside h s (s.clearTiles h) := tilesBeside_mapTiles s h rfl
  have hprog := tilesBeside_applyPrograms hh (s.clearTiles h) (sectOf sects SecType.tilePrograms h)
  have hbefore : TilesBeside h s (loadedButInit s h sects) := by
    intro k hk
    have hroutes := (keeps_loadRoutes ((s.clearTiles h).applyPrograms h (sectOf sects SecType.tilePrograms h)) h sects).2
      .tiles (by decide)
    rw [loadedButInit, tile_after_updHerd, tilesBeside_of_tiles hroutes h k hk, hprog k hk, hclear k hk]
  rw [loadHerd_eq]
  split
  · next p hp => exact fun k hk => (tilesBeside_applyInit hh _ (hinit p hp) k hk).trans (hbefore k hk)
  · exact hbefore

/-! ### A damaged entry -/

/-- A fault of a herd that holds that fault already, or none, gives it that fault, and changes no other herd. -/
theorem faultState_own {s : State} {h code : Nat} (hcode : (s.herd h).fault = code) (stackFault : Bool) :
    KeepsBut [.regs, .herds] s (s.faultState h code stackFault) ∧ HerdsBut h s (s.faultState h code stackFault) ∧
      ((s.faultState h code stackFault).herd h).st = .faulted ∧ ((s.faultState h code stackFault).herd h).fault = code := by
  have hfaulted (x : Herd) (hx : x.fault = code) :
      (faulted code stackFault x).st = .faulted ∧ (faulted code stackFault x).fault = code := by
    unfold faulted
    split
    · next hst => exact ⟨hst, hx⟩
    · exact ⟨rfl, rfl⟩
  have hupd : KeepsBut [.regs, .herds] s (s.updHerd h (faulted code stackFault)) :=
    KeepsBut_mono (keeps_updHerd s h _) (by decide)
  have hherd : (s.updHerd h (faulted code stackFault)).herd h = faulted code stackFault (s.herd h) := by simp
  obtain ⟨hst, hfault⟩ := hfaulted _ hcode
  cases hb : (s.herd h).barrier with
  | none =>
    rw [HerdCommands.faultState_rest hb, hherd]
    exact ⟨hupd, herdsBut_updHerd s h _, hst, hfault⟩
  | some b =>
    have hend := ended_cmdEnd (s.updHerd h (faulted code stackFault)) h b.src (some code)
    have heq : s.faultState h code stackFault = (s.updHerd h (faulted code stackFault)).cmdEnd h b.src (some code) := by
      simp only [State.faultState, hb]
      rfl
    rw [heq, hend.st, hend.fault, hherd]
    exact ⟨KeepsBut_trans hupd hend.keeps, HerdsBut_trans (herdsBut_updHerd s h _) hend.others, hst, hfault⟩

/-- A damaged entry leaves its herd FAULTED with IMAGE_CRC, whatever waited there. -/
theorem reloadBad_own (s : State) (h typ : Nat) : KeepsBut [.regs, .herds, .io] s (s.reloadBad h typ) ∧
    HerdsBut h s (s.reloadBad h typ) ∧ ((s.reloadBad h typ).herd h).st = .faulted ∧
      ((s.reloadBad h typ).herd h).fault = Code.imageCrc := by
  have hcode : ((s.updHerd h (fun x => { x with fault := Code.imageCrc, stackFault := false })).herd h).fault =
      Code.imageCrc := by simp
  obtain ⟨hkeeps, hothers, hst, hfault⟩ := faultState_own hcode false
  exact ⟨KeepsBut_mono (KeepsBut_append (KeepsBut_append (keeps_updHerd s h _) hkeeps) (keeps_post _ _ _ _ _)) (by decide),
    HerdsBut_trans (herdsBut_updHerd s h _) hothers, hst, hfault⟩

/-! ### The reload -/

/-- The herd is LOADED when its entry is good, and otherwise FAULTED with IMAGE_CRC. -/
def ReloadedAs (s : State) (h : Nat) (t : State) : Prop :=
  ((s.herdEntry h).bad = none → (t.herd h).st = .loaded) ∧
    ((s.herdEntry h).bad ≠ none → (t.herd h).st = .faulted ∧ (t.herd h).fault = Code.imageCrc)

section Reload

variable {s t : State} (hst : SameCopies s t) {h : Nat} (hk : CleanStack s (s.homeStack h))
include hst hk

theorem reloadHerd_good (hbad : (s.herdEntry h).bad = none) : t.reloadHerd h = t.loadHerd h (s.herdEntry h).sects := by
  obtain ⟨hsects, hsame⟩ := herdEntry_same hst hk
  have hclean : (t.herdEntry h).state = t := herdEntry_clean (by rw [hst.homeStack]; exact hst.clean hk)
  simp only [State.reloadHerd, hsame, hbad, hclean, hsects]

theorem reloadHerd_bad {typ : Nat} (hbad : (s.herdEntry h).bad = some typ) : t.reloadHerd h = t.reloadBad h typ := by
  obtain ⟨-, hsame⟩ := herdEntry_same hst hk
  have hclean : (t.herdEntry h).state = t := herdEntry_clean (by rw [hst.homeStack]; exact hst.clean hk)
  simp only [State.reloadHerd, hsame, hbad, hclean]

theorem reloadedAs_reloadHerd : ReloadedAs s h (t.reloadHerd h) := by
  refine ⟨fun hbad => ?_, fun hbad => ?_⟩
  · rw [reloadHerd_good hst hk hbad, herd_loadHerd, if_pos rfl]
    simp [loadedHerd, State.clearTiles]
  · obtain ⟨typ, htyp⟩ := Option.ne_none_iff_exists'.1 hbad
    rw [reloadHerd_bad hst hk htyp]
    obtain ⟨-, -, hfaulted⟩ := reloadBad_own t h typ
    exact hfaulted

/-- A reload changes its herd, that herd's tiles and the routers alone, and what it reports. -/
theorem reloadHerd_frame (hh : h < 1024)
    (hinit : ∀ x ∈ (s.herdEntry h).sects, x.typ = SecType.tileInit → checkInit x.payload = true) :
    KeepsBut [.tiles, .herds, .mesh, .regs, .io] t (t.reloadHerd h) ∧ HerdsBut h t (t.reloadHerd h) ∧
      TilesBeside h t (t.reloadHerd h) := by
  cases hbad : (s.herdEntry h).bad with
  | none =>
    have hpayload (p : List Byte) (hp : sectOf (s.herdEntry h).sects SecType.tileInit h = some p) : checkInit p = true := by
      obtain ⟨x, hx, rfl⟩ := Option.map_eq_some_iff.1 hp
      have hfound := List.find?_some hx
      exact hinit x (List.mem_of_find?_eq_some hx) (of_decide_eq_true hfound).1
    rw [reloadHerd_good hst hk hbad]
    exact ⟨KeepsBut_mono (keeps_loadHerd t h _) (by decide), fun k hne => by rw [herd_loadHerd, if_neg hne],
      tilesBeside_loadHerd hh t hpayload⟩
  | some typ =>
    obtain ⟨hkeeps, hothers, -⟩ := reloadBad_own t h typ
    rw [reloadHerd_bad hst hk hbad]
    exact ⟨KeepsBut_mono hkeeps (by decide), hothers, tilesBeside_of_tiles (hkeeps.2 .tiles (by decide)) h⟩

end Reload

end Sys2Proof.Proofs.TargetLoads
end

section
/-! A partial load loads each target that is still in RESHAPING, and ends (R204 to R206). -/

namespace Sys2Proof.Proofs.PartialLoad

open Sys2Proof.Machine Sys2Proof.Safety Sys2Proof.Laws Sys2Proof.Proofs.Frames Sys2Proof.Proofs.StackLines
open Sys2Proof.Proofs.HerdCommands Sys2Proof.Proofs.ResidentWrites Sys2Proof.Proofs.WaferSections
open Sys2Proof.Proofs.HerdReloads Sys2Proof.Proofs.WholeLoad Sys2Proof.Proofs.Reshaping Sys2Proof.Proofs.TargetLoads

/-- What the loading of the targets may change before the load ends. -/
def targetParts : List Part := [.tiles, .herds, .mesh, .regs, .io]

theorem sameCopies_of_keeps {s t : State} (h : KeepsBut targetParts s t) : SameCopies s t :=
  ⟨h.2 .stks (by decide), h.2 .img (by decide), h.2 .pmap (by decide)⟩

/-- The targets that no fault has taken out of RESHAPING. -/
def waiting (s : State) (g : Image) : List Nat := g.targets.filter (fun h => decide ((s.herd h).st = .reshaping))

/-- They are loaded from their entries. -/
def targetsLoaded (s : State) (g : Image) : State := s.forEach (waiting s g) State.reloadHerd

/-- The collective groups that the image carries are in effect. -/
def grouped (s : State) (g : Image) : State :=
  match g.sect SecType.collectiveGroups 0 with
  | some p => (targetsLoaded s g).applyGroups p
  | none => targetsLoaded s g

theorem keeps_grouped (s : State) (g : Image) : KeepsBut [.mesh] (targetsLoaded s g) (grouped s g) := by
  unfold grouped
  split
  · exact keeps_applyGroups _ _
  · exact KeepsBut_refl _ _

theorem loadTargets_eq (s : State) {g : Image} (hauto : g.autoRelease = false) : s.loadTargets g = (grouped s g).imgDone := by
  rw [State.loadTargets, hauto]
  rfl

/-- The herds after the load are those that the loads of the targets leave, and so are the tiles. -/
theorem keeps_after_targets (s : State) {g : Image} (hauto : g.autoRelease = false) :
    KeepsBut [.mesh, .img, .regs] (targetsLoaded s g) (s.loadTargets g) := by
  rw [loadTargets_eq s hauto]
  exact KeepsBut_append (keeps_grouped s g) (keeps_imgDone _)

/-- A herd that is no target, with its tiles, is as it was. -/
structure Beside (k : Nat) (s t : State) : Prop where
  herd  : t.herd k = s.herd k
  tiles : ∀ j, herdOfKey j = k → t.tile j = s.tile j

section Targets

variable {s : State} {g : Image} (htargets : ∀ h ∈ g.targets, h < 1024)
  (hclean : ∀ h ∈ g.targets, CleanStack s (s.homeStack h))
  (hinit : ∀ h ∈ g.targets, ∀ x ∈ (s.herdEntry h).sects, x.typ = SecType.tileInit → checkInit x.payload = true)
include htargets hclean hinit

/-- The load of one target. -/
theorem reloadTarget_frame {t : State} (ht : KeepsBut targetParts s t) {h : Nat} (hh : h ∈ g.targets) :
    KeepsBut targetParts s (t.reloadHerd h) ∧ HerdsBut h t (t.reloadHerd h) ∧ TilesBeside h t (t.reloadHerd h) := by
  obtain ⟨hkeeps, hothers, htiles⟩ :=
    reloadHerd_frame (sameCopies_of_keeps ht) (hclean h hh) (htargets h hh) (hinit h hh)
  exact ⟨KeepsBut_trans ht hkeeps, hothers, htiles⟩

theorem keeps_targetsLoaded : KeepsBut targetParts s (targetsLoaded s g) :=
  forEach_induction (P := KeepsBut targetParts s)
    (fun _ _ hh ht => (reloadTarget_frame htargets hclean hinit ht (List.mem_filter.1 hh).1).1) (KeepsBut_refl _ s)

/-- Each target in RESHAPING is LOADED or, from a damaged entry, FAULTED. -/
theorem reloadedAs_targetsLoaded : ∀ h ∈ waiting s g, ReloadedAs s h (targetsLoaded s g) := by
  refine forEach_reaches (I := KeepsBut targetParts s) ?_ ?_ ?_ (KeepsBut_refl _ s)
  · intro t h hh ht
    exact (reloadTarget_frame htargets hclean hinit ht (List.mem_filter.1 hh).1).1
  · intro t h hh ht
    exact reloadedAs_reloadHerd (sameCopies_of_keeps ht) (hclean h (List.mem_filter.1 hh).1)
  · intro t h hh k hk ht hloaded
    obtain ⟨-, hothers, -⟩ := reloadTarget_frame htargets hclean hinit ht (List.mem_filter.1 hh).1
    rw [ReloadedAs, hothers k hk]
    exact hloaded

theorem beside_targetsLoaded {k : Nat} (hk : k ∉ g.targets) : Beside k s (targetsLoaded s g) := by
  refine (forEach_induction (P := fun t => KeepsBut targetParts s t ∧ Beside k s t) (fun t h hh ht => ?_)
    ⟨KeepsBut_refl _ s, rfl, fun _ _ => rfl⟩).2
  obtain ⟨hkept, hherd, htile⟩ := ht
  have hmem := (List.mem_filter.1 hh).1
  have hne : k ≠ h := fun he => hk (he ▸ hmem)
  obtain ⟨hkeeps, hothers, htiles⟩ := reloadTarget_frame htargets hclean hinit hkept hmem
  exact ⟨hkeeps, (hothers k hne).trans hherd, fun j hj => (htiles j (by rw [hj]; exact hne)).trans (htile j hj)⟩

/-! ### The end of the load -/

theorem keeps_loadTargets (hauto : g.autoRelease = false) :
    KeepsBut (targetParts ++ [.mesh] ++ [.img, .regs]) s (s.loadTargets g) := by
  rw [loadTargets_eq s hauto]
  exact KeepsBut_append (KeepsBut_append (keeps_targetsLoaded htargets hclean hinit) (keeps_grouped s g)) (keeps_imgDone _)

theorem img_loadTargets (hauto : g.autoRelease = false) : (s.loadTargets g).img = doneImg s.img := by
  have hgroups : (grouped s g).img = (targetsLoaded s g).img := (keeps_grouped s g).2 .img (by decide)
  have htargets : (targetsLoaded s g).img = s.img := (keeps_targetsLoaded htargets hclean hinit).2 .img (by decide)
  rw [loadTargets_eq s hauto, img_imgDone, hgroups, htargets]

theorem reloadedAs_loadTargets (hauto : g.autoRelease = false) {h : Nat} (hh : h ∈ g.targets)
    (hst : (s.herd h).st = .reshaping) : ReloadedAs s h (s.loadTargets g) := by
  have hherds := (keeps_after_targets s hauto).2 .herds (by decide)
  have hherd : (s.loadTargets g).herd h = (targetsLoaded s g).herd h := by rw [State.herd, hherds]; rfl
  rw [ReloadedAs, hherd]
  exact reloadedAs_targetsLoaded htargets hclean hinit h (List.mem_filter.2 ⟨hh, decide_eq_true hst⟩)

theorem beside_loadTargets (hauto : g.autoRelease = false) {k : Nat} (hk : k ∉ g.targets) : Beside k s (s.loadTargets g) := by
  have hafter := keeps_after_targets s hauto
  have hbeside := beside_targetsLoaded htargets hclean hinit hk
  refine ⟨?_, fun j hj => ?_⟩
  · rw [State.herd, hafter.2 .herds (by decide)]
    exact hbeside.herd
  · rw [State.tile, hafter.2 .tiles (by decide)]
    exact hbeside.tiles j hj

end Targets

theorem done_loadTargets (s : State) {g : Image} (hauto : g.autoRelease = false) :
    (s.loadTargets g).rd Reg.IMG_LOAD_STATUS_DONE = 1 := by
  rw [loadTargets_eq s hauto]
  exact done_imgDone _

/-- The second RESHAPING of a load loads its targets. -/
theorem reshaping_shaped {s : State} {g : Image} (hphase : s.img.phase = .herdLoad) (hload : s.img.loading = some g)
    (hshaped : s.img.shaped = true) : s.reshaping = s.loadTargets g := by
  simp only [State.reshaping, hphase, hload, hshaped, if_true]

end Sys2Proof.Proofs.PartialLoad
end

section
/-! What a load installs (R186, R193, R197 to R206, R412). -/

namespace Sys2Proof.Proofs.LoadsInstall

open Sys2Proof.Machine Sys2Proof.Safety Sys2Proof.Laws Sys2Proof.Proofs.Frames Sys2Proof.Proofs.StackLines
open Sys2Proof.Proofs.ResidentWrites Sys2Proof.Proofs.WaferSections Sys2Proof.Proofs.ImageCommit
open Sys2Proof.Proofs.SvnBurning Sys2Proof.Proofs.BlindReads Sys2Proof.Proofs.FirmwareBroadcast
open Sys2Proof.Proofs.HerdReloads Sys2Proof.Proofs.WholeLoad Sys2Proof.Proofs.Reshaping Sys2Proof.Proofs.TargetLoads
open Sys2Proof.Proofs.PartialLoad

/-! ### COMMIT -/

section Commit

variable {s : State} {g : Image}
  (hinit : ∀ p, sectOf g.sects SecType.registerInit 0 = some p → ∀ r ∈ recsOf 16 p,
    fld r 0 4 % 8 = 0 ∧ plainReg (fld r 0 4) = true)
include hinit

/-- An image of the committed one's digest leaves the snapshots of use and the herds as they were. -/
theorem same_commitImage (h : s.img.committed.map Committed.digest = some g.digest) :
    (s.commitImage g).snaps = s.snaps ∧ (s.commitImage g).herds = s.herds ∧
      (s.commitImage g).jrn.committed = s.jrn.committed := by
  obtain ⟨hsnaps, hherds, hepochs⟩ := same_retaken s g (decide_eq_true h)
  have hkeeps := keeps_after_retaken (s := s) hinit
  have hjrn : (s.commitImage g).jrn = (retaken s g).jrn := hkeeps.2 .jrn (by decide)
  exact ⟨(hkeeps.2 .snaps (by decide)).trans hsnaps, (hkeeps.2 .herds (by decide)).trans hherds, by rw [hjrn, hepochs]⟩

/-- An image of another digest makes the snapshots and the committed epochs void. -/
theorem other_commitImage (h : s.img.committed.map Committed.digest ≠ some g.digest) :
    (s.commitImage g).snaps = [] ∧ (s.commitImage g).jrn.committed = [] ∧
      ∀ k, ((s.commitImage g).herd k).committed = false ∧ ((s.commitImage g).herd k).st = (s.herd k).st := by
  obtain ⟨hsnaps, hepochs, hherd⟩ := other_retaken s g (decide_eq_false h)
  have hkeeps := keeps_after_retaken (s := s) hinit
  have hjrn : (s.commitImage g).jrn = (retaken s g).jrn := hkeeps.2 .jrn (by decide)
  have hsame (k : Nat) : (s.commitImage g).herd k = (retaken s g).herd k := by
    rw [State.herd, hkeeps.2 .herds (by decide), State.herd]
  exact ⟨(hkeeps.2 .snaps (by decide)).trans hsnaps, by rw [hjrn, hepochs], fun k => by rw [hsame]; exact hherd k⟩

end Commit

/-! ### Settlement -/

/-- Settles O41: COMMIT stage by stage, the broadcast over reads that do not see bring-up, HERD_LOAD by the frame of what
herd commands reach, and a partial load by an invariant over its targets. -/
theorem loadsInstall : Obligations.LoadsInstall := by
  unfold Obligations.LoadsInstall
  refine ⟨?commit, fun s => exec_commit_waits, ?svn, ?broadcast, fun s => exec_broadcast_waits, ?herdLoad, ?partialLoad⟩
  case commit =>
    intro s g hphase hload hfree hinit
    have hkeeps := keeps_commitImage (s := s) hinit
    have himg := img_commitImage (s := s) hinit
    have hpmap : (s.commitImage g).pmap = (retaken s g).pmap := (keeps_after_retaken hinit).2 .pmap (by decide)
    obtain ⟨hidle, hheld⟩ := flt_commitImage (s := s) hinit
    obtain ⟨hready, hstage⟩ := imageReady_commitImage (s := s) hinit
    refine runs_commit hphase hload hfree hkeeps.1 ⟨?_, ?_, ?_, resident_commitImage hinit,
      fun h hh => herdRes_commitImage hinit hh, rfl, hpmap.trans (pmap_retaken s g), rfl, hidle, hheld, hready, hstage,
      same_commitImage hinit, other_commitImage hinit, hkeeps.2 .tiles (by decide), hkeeps.2 .jtag (by decide), hkeeps.1⟩
    · exact congrArg Img.phase himg
    · exact congrArg Img.committed himg
    · exact congrArg Img.everCommitted himg
  case svn =>
    intro n f hle hlt
    exact ⟨minSvn_advance hle hlt, advance_keeps f n⟩
  case broadcast =>
    intro s missed hmay
    have hkeeps := keeps_broadcast s missed
    have hbru : (withBru s (afterBroadcast s missed)).noteBcast.bru = afterBroadcast s missed :=
      (keeps_noteBcast _).2 .bru (by decide)
    refine runs_broadcast hmay missed ⟨congrArg Bru.fw hbru, congrArg Bru.bcastNo hbru, congrArg Bru.bcastOn hbru,
      congrArg Bru.round hbru, congrArg Bru.copies hbru, ?_, fun k hk => ?_, fun p hp => ?_, ?_, ?_,
      regsBut_noteBcast (withBru s (afterBroadcast s missed)), hkeeps⟩
    · rintro rfl
      exact congrArg Bru.missing hbru
    · rw [hbru] at hk
      exact onlyMissed_missIn s _ missed k hk
    · have hmgmt : (afterBroadcast s missed).mgmt = Mgmt.start (Mem.write [] 0 p) := mgmt_mgmtStarted hp
      rw [hbru, hmgmt]
      exact ⟨rfl, rfl⟩
    · rw [number_noteBcast, hbru]
      exact Nat.mod_mod _ 256
    · rw [missing_noteBcast, hbru]
      rfl
  case herdLoad =>
    intro s hmay
    have hkeeps := keeps_herdLoad hmay
    obtain ⟨hstage, hrelease, hbcast⟩ := bru_herdLoad hmay
    exact runs_herdLoad hmay ⟨img_herdLoad_broadcast hmay, img_herdLoad_warm hmay, hstage, hrelease, hbcast,
      hkeeps.2 .host (by decide), hkeeps.2 .pmap (by decide), hkeeps.2 .fuses (by decide), hkeeps.2 .macs (by decide),
      hkeeps.2 .time (by decide), hkeeps.1⟩
  case partialLoad =>
    intro s g hphase hload htargets
    refine ⟨fun hshaped => ?_, fun hshaped hauto hgood hentry => ?_⟩
    · have hkeeps := keeps_allReshaped s g
      have himg := img_allReshaped s g
      have hcommitted : (allReshaped s g).img.committed = s.img.committed := by rw [himg]
      refine runs_reshaping_first hphase hload hshaped ⟨(congrArg Img.phase himg).trans hphase, rfl,
        (congrArg Img.loading himg).trans hload, hcommitted, hkeeps.2 .fuses (by decide),
        hkeeps.2 .pmap (by decide), hkeeps.2 .tiles (by decide), fun h hh => ?_, fun k hk => ?_⟩
      · obtain ⟨hst, hreshaped, hvoid, hcarried⟩ := reshaped_allReshaped s g h hh
        exact ⟨hst, hreshaped, hvoid, hcarried⟩
      · obtain ⟨hherd, hentry, hsnaps⟩ := spared_allReshaped s g hk
        have htiles : (allReshaped s g).tiles = s.tiles := hkeeps.2 .tiles (by decide)
        exact ⟨hherd, hentry, hsnaps, fun j _ => congrArg (fun x => NatMap.get x Tile.reset j) htiles⟩
    · have hclean (h : Nat) (hh : h ∈ g.targets) : CleanStack s (s.homeStack h) := by
        obtain ⟨hbad, hcorr, hodie⟩ := hgood (s.homeStack h)
        exact ⟨decide_eq_true (hentry h hh).1, hbad, hcorr, hodie⟩
      have hinit := fun h hh => (hentry h hh).2
      have hkeeps := keeps_loadTargets htargets hclean hinit hauto
      have himg := img_loadTargets htargets hclean hinit hauto
      have hcommitted : (s.loadTargets g).img.committed = s.img.committed := by rw [himg]; rfl
      have hentries : (s.loadTargets g).img.herdRes = s.img.herdRes := by rw [himg]; rfl
      refine runs_of_act (exec_reshaping s) (reshaping_shaped hphase hload hshaped) hkeeps (by decide)
        ⟨congrArg Img.phase himg, congrArg Img.loading himg, done_loadTargets s hauto, hcommitted,
          hkeeps.2 .fuses (by decide), hkeeps.2 .pmap (by decide),
          fun h hh hst => reloadedAs_loadTargets htargets hclean hinit hauto hh hst, fun k hk => ?_⟩
      obtain ⟨hherd, htiles⟩ := beside_loadTargets htargets hclean hinit hauto hk
      have hsnaps : (s.loadTargets g).snaps = s.snaps := hkeeps.2 .snaps (by decide)
      exact ⟨hherd, congrArg (fun x => NatMap.get x ResEntry.none k) hentries,
        fun e => congrArg (fun x => NatMap.get x Snap.empty (snapKey k e)) hsnaps, htiles⟩

end Sys2Proof.Proofs.LoadsInstall
end

section
/-! What the frame MACs' commands share: their answers, the registers that they leave alone, and the cells of a pool
(R222, R225, R233). -/

namespace Sys2Proof.Proofs.MacSteps

open Sys2Proof.Machine Sys2Proof.Safety Sys2Proof.Laws Sys2Proof.Proofs.Frames
open Sys2Proof.Proofs.StackSteps (rd_count_same)

/-! ### Answers -/

/-- What a step of the rim may change. -/
def rimParts : List Part := [.regs, .macs, .prhs, .ibx, .time, .host, .jrn, .stks, .bru, .io]

section Answers

variable {i : Instr} {f : State → State} {s u : State} {l : List Part} {P : State → Prop}

/-- A command of the rim whose function changes nothing. -/
theorem exec_of_actRim_same (hi : exec i s = actRim f s) (hf : f s = s) : exec i s = .next s := by rw [hi, actRim, hf]

/-- A command of the rim whose function changes no more than it may answers its function's state. -/
theorem runs_of_actRim (hi : exec i s = actRim f s) (hf : f s = u) (hk : KeepsBut l s u) (hl : l ⊆ rimParts) (h : P u) :
    Runs i s P := by
  subst hf
  obtain ⟨t, ht, hP⟩ := run_actRim f s l P hk hl h
  exact ⟨t, hi.trans ht, hP⟩

end Answers

/-! ### Registers left alone -/

/-- A field is less than its width allows. -/
theorem rd_lt (s : State) (f : Fld) : s.rd f < 2 ^ (f.hi + 1 - f.lo) := Nat.mod_lt _ (by positivity)

/-- Every register with a property holds what it held. -/
def RegsKept (p : Nat → Bool) (s t : State) : Prop := ∀ off, p off = true → t.reg off = s.reg off

/-- The MACs' control, address, filter and queue registers (R235 to R240). -/
def isConfig (off : Nat) : Bool := decide (0x40_0000 ≤ off ∧ off < 0x50_0000 ∧ off % 0x1_0000 < 0x800)

/-- The counters of the MACs' RS-FEC (R233). -/
def isFec (off : Nat) : Bool :=
  decide (0x40_0000 ≤ off ∧ off < 0x50_0000 ∧ 0x8A0 ≤ off % 0x1_0000 ∧ off % 0x1_0000 < 0x8B8)

section Kept

variable {p : Nat → Bool} {s t u : State}

theorem RegsKept.refl (p : Nat → Bool) (s : State) : RegsKept p s s := fun _ _ => rfl

theorem RegsKept.trans (h : RegsKept p s t) (h' : RegsKept p t u) : RegsKept p s u :=
  fun off hp => (h' off hp).trans (h off hp)

theorem RegsKept.of_regs (h : t.regs = s.regs) : RegsKept p s t := fun off _ => RegsBut_of_regs h [] off List.not_mem_nil

theorem RegsKept.of_keeps {l : List Part} (h : KeepsBut l s t) (hl : Part.regs ∉ l) : RegsKept p s t := .of_regs (h.2 .regs hl)

theorem RegsKept.of_regsBut {l : List Nat} (h : RegsBut l s t) (hl : ∀ o ∈ l, p o = false) : RegsKept p s t :=
  fun off hp => h off fun hmem => Bool.false_ne_true ((hl off hmem).symm.trans hp)

theorem RegsKept.count (s : State) {f : Fld} (n : Nat) (h : p f.off = false) : RegsKept p s (s.count f n) :=
  .of_regsBut (RegsBut_count s f n) fun o ho => by rwa [List.mem_singleton.1 ho]

theorem RegsKept.rd (h : RegsKept p s t) {f : Fld} (hf : p f.off = true) : t.rd f = s.rd f := by
  rw [State.rd, h _ hf, State.rd]

theorem RegsKept.rdb (h : RegsKept p s t) {f : Fld} (hf : p f.off = true) : t.rdb f = s.rdb f := by
  rw [State.rdb, h.rd hf, State.rdb]

end Kept

section Offsets

variable (m : MacNo)

theorem isConfig_of_local {a : Nat} (ha : a < 0x800) : isConfig (0x40_0000 + m * 0x1_0000 + a) = true := by
  have hm := m.isLt
  refine decide_eq_true ?_
  omega

theorem isConfig_ctrl : isConfig (Reg.MAC_CTRL m) = true := by
  have h := isConfig_of_local m (a := 0) (by decide)
  rwa [Nat.add_zero, ← Reg.MAC_CTRL] at h

theorem isConfig_station {i : Nat} (hi : i < 4) : isConfig (Reg.MAC_STATION_ADDR m i) = true := by
  have h := isConfig_of_local m (a := 0x18 + i * 8) (by omega)
  rwa [show Reg.MAC_STATION_ADDR m i = 0x40_0000 + m * 0x1_0000 + (0x18 + i * 8) by rw [Reg.MAC_STATION_ADDR]; omega]

theorem isConfig_rule {r : Nat} (hr : r < 32) : isConfig (Reg.MAC_FILTER_RULE m r) = true := by
  have h := isConfig_of_local m (a := 0x100 + r * 8) (by omega)
  rwa [show Reg.MAC_FILTER_RULE m r = 0x40_0000 + m * 0x1_0000 + (0x100 + r * 8) by rw [Reg.MAC_FILTER_RULE]; omega]

theorem isConfig_queue {q : Nat} (hq : q < 16) : isConfig (Reg.MAC_QUEUE_CFG m q) = true := by
  have h := isConfig_of_local m (a := 0x200 + q * 8) (by omega)
  rwa [show Reg.MAC_QUEUE_CFG m q = 0x40_0000 + m * 0x1_0000 + (0x200 + q * 8) by rw [Reg.MAC_QUEUE_CFG]; omega]

theorem isFec_stat {i : Nat} (hi : 20 ≤ i ∧ i < 23) : isFec (Reg.MAC_STAT m i) = true := by
  have hm := m.isLt
  refine decide_eq_true ?_
  rw [Reg.MAC_STAT]
  omega

/-- The other counters of a MAC are none of its RS-FEC's. -/
theorem isFec_stat_other {i : Nat} (hi : i < 20) : isFec (Reg.MAC_STAT m i) = false := by
  have hm := m.isLt
  refine decide_eq_false ?_
  rw [Reg.MAC_STAT]
  omega

theorem isFec_queueStat {q : Nat} (hq : q < 16) : isFec (Reg.MAC_QUEUE_STAT m q) = false := by
  have hm := m.isLt
  refine decide_eq_false ?_
  rw [Reg.MAC_QUEUE_STAT]
  omega

theorem isFec_front {i : Nat} : isFec (Reg.PRH_STAT_FRONT m i) = false := by
  refine decide_eq_false ?_
  rw [Reg.PRH_STAT_FRONT]
  omega

end Offsets

/-- Counters of one MAC lie apart. -/
theorem stat_ne {n i j : Nat} (h : i ≠ j) : Reg.MAC_STAT n i ≠ Reg.MAC_STAT n j := by
  rw [Reg.MAC_STAT, Reg.MAC_STAT]
  omega

theorem isConfig_of_isFec {off : Nat} (h : isFec off = true) : isConfig off = false := by
  have hfec := of_decide_eq_true h
  refine decide_eq_false ?_
  omega

/-! ### A counter of R233 -/

/-- A counter of a MAC holds at its largest value. -/
theorem rd_macCount (s : State) (n i k : Nat) :
    (s.macCount n i k).rd (Reg.MAC_STAT_COUNT n i) = min (s.rd (Reg.MAC_STAT_COUNT n i) + k) (2 ^ 48 - 1) :=
  rd_count_same s k (f := Reg.MAC_STAT_COUNT n i) rfl

theorem rd_macCount_other (s : State) (n k : Nat) {i j : Nat} (h : j ≠ i) :
    (s.macCount n i k).rd (Reg.MAC_STAT_COUNT n j) = s.rd (Reg.MAC_STAT_COUNT n j) :=
  rd_count_other s _ _ k (Nat.zero_le _) (show 47 < 64 by decide) (Nat.zero_le _) (.inl (stat_ne h))

theorem keeps_macCount (s : State) (n i k : Nat) : KeepsBut [.regs] s (s.macCount n i k) := keeps_count s _ k

theorem regsBut_macCount (s : State) (n i k : Nat) : RegsBut [Reg.MAC_STAT n i] s (s.macCount n i k) :=
  RegsBut_count s (Reg.MAC_STAT_COUNT n i) k

/-! ### One MAC changes -/

/-- A change of one MAC leaves the others. -/
theorem macsBut_updMac (s : State) (n : Nat) (f : MacSt → MacSt) : MacsBut n s (s.updMac n f) := fun k hk => by
  rw [mac_updMac, if_neg hk]

theorem macsBut_of_keeps {l : List Part} {s t : State} (h : KeepsBut l s t) (hl : Part.macs ∉ l) (n : Nat) : MacsBut n s t :=
  fun k _ => congrArg (fun x => NatMap.get x MacSt.reset k) (h.2 .macs hl)

theorem mac_of_keeps {l : List Part} {s t : State} (h : KeepsBut l s t) (hl : Part.macs ∉ l) (k : Nat) : t.mac k = s.mac k :=
  congrArg (fun x => NatMap.get x MacSt.reset k) (h.2 .macs hl)

theorem macsBut_trans {n : Nat} {s t u : State} (h : MacsBut n s t) (h' : MacsBut n t u) : MacsBut n s u :=
  fun k hk => (h' k hk).trans (h k hk)

/-- One MAC becomes `x`, and nothing else changes. -/
theorem becomes_setMac (s : State) (m : Nat) (x : MacSt) :
    (s.setMac m x).mac m = x ∧ MacsBut m s (s.setMac m x) ∧ KeepsBut [.macs] s (s.setMac m x) :=
  ⟨by simp, fun k hk => by rw [mac_setMac, if_neg hk], keeps_setMac s m x⟩

/-! ### Cells (R222, R225) -/

/-- Of the MACs one alone has changed, and of that the cells that its queues hold and what it asserts. -/
structure CellsMoved (n : Nat) (s t : State) : Prop where
  mac    : t.mac n = { s.mac n with used := (t.mac n).used, xoff := (t.mac n).xoff, fcOut := (t.mac n).fcOut }
  others : MacsBut n s t
  keeps  : KeepsBut [.macs] s t

theorem CellsMoved.refl (n : Nat) (s : State) : CellsMoved n s s := ⟨rfl, fun _ _ => rfl, KeepsBut_refl _ s⟩

theorem CellsMoved.trans {n : Nat} {s t u : State} (h : CellsMoved n s t) (h' : CellsMoved n t u) : CellsMoved n s u :=
  ⟨by rw [h'.mac, h.mac], macsBut_trans h.others h'.others, KeepsBut_trans h.keeps h'.keeps⟩

theorem CellsMoved.regs {n : Nat} {s t : State} (h : CellsMoved n s t) : t.regs = s.regs := h.keeps.2 .regs (by decide)

/-- A change of the cells and what is asserted alone. -/
theorem cellsMoved_setMac (s : State) (n : Nat) (u : NatMap Nat) (x : BitVec 8) (o : List (BitVec 8 × Nat)) :
    CellsMoved n s (s.setMac n { s.mac n with used := u, xoff := x, fcOut := o }) := by
  obtain ⟨hmac, hothers, hkeeps⟩ := becomes_setMac s n { s.mac n with used := u, xoff := x, fcOut := o }
  exact ⟨by rw [hmac], hothers, hkeeps⟩

/-- Judging a priority moves no cell. -/
theorem flowEval1_moves (s : State) (n p : Nat) (qs : List Nat) :
    CellsMoved n s (s.flowEval1 n p qs) ∧ ((s.flowEval1 n p qs).mac n).used = (s.mac n).used := by
  unfold State.flowEval1
  dsimp only
  split
  · exact ⟨.refl n s, rfl⟩
  · exact ⟨cellsMoved_setMac s n (s.mac n).used _ _, by simp⟩

theorem flowEval_moves (s : State) (n : Nat) :
    CellsMoved n s (s.flowEval n) ∧ ((s.flowEval n).mac n).used = (s.mac n).used := by
  unfold State.flowEval
  split
  · exact flowEval1_moves s n 0 _
  · refine ResidentWrites.forEach_induction (P := fun t => CellsMoved n s t ∧ (t.mac n).used = (s.mac n).used)
      (fun t p _ ht => ?_) ⟨.refl n s, rfl⟩
    have hone := flowEval1_moves t n p ((List.range 16).filter (fun q => decide (t.rd (Reg.MAC_QUEUE_CFG_PRIO n q) = p)))
    exact ⟨ht.1.trans hone.1, hone.2.trans ht.2⟩
  · exact ⟨.refl n s, rfl⟩

theorem setUsed_moves (s : State) (n q k : Nat) : CellsMoved n s (s.setUsed n q k) :=
  (cellsMoved_setMac s n (NatMap.put (s.mac n).used 0 q k) (s.mac n).xoff (s.mac n).fcOut).trans (flowEval_moves _ n).1

theorem queueUsed_setUsed (s : State) (n q k j : Nat) :
    (s.setUsed n q k).queueUsed n j = if j = q then k else s.queueUsed n j := by
  rw [State.queueUsed, State.setUsed, (flowEval_moves _ n).2, mac_updMac, if_pos rfl]
  exact NatMap.get_put ..

theorem freeCells_moves (s : State) (n q k : Nat) : CellsMoved n s (s.freeCells n q k) := by
  induction k generalizing s with
  | zero => exact .refl n s
  | succ k ih => exact (setUsed_moves s n q _).trans (ih _)

theorem queueUsed_freeCells (s : State) (n q k j : Nat) :
    (s.freeCells n q k).queueUsed n j = if j = q then s.queueUsed n q - k else s.queueUsed n j := by
  induction k generalizing s with
  | zero => split <;> simp_all [State.freeCells]
  | succ k ih =>
    rw [State.freeCells, ih, queueUsed_setUsed, queueUsed_setUsed, if_pos rfl]
    split
    · omega
    · rfl

theorem takeCells_moves (s : State) (n q got k : Nat) : CellsMoved n s (s.takeCells n q got k).1 := by
  induction k generalizing s got with
  | zero => exact .refl n s
  | succ k ih =>
    rw [State.takeCells]
    split
    · exact (setUsed_moves s n q _).trans (ih _ _)
    · exact freeCells_moves s n q got

/-- Cells are taken whole, or those taken so far are given back. -/
theorem queueUsed_takeCells (s : State) (n q got k j : Nat) : (s.takeCells n q got k).1.queueUsed n j =
    if j = q then (if (s.takeCells n q got k).2 then s.queueUsed n q + k else s.queueUsed n q - got) else s.queueUsed n j := by
  induction k generalizing s got with
  | zero => split <;> simp_all [State.takeCells]
  | succ k ih =>
    rw [State.takeCells]
    split
    · rw [ih, queueUsed_setUsed, queueUsed_setUsed, if_pos rfl]
      split
      · split <;> omega
      · rfl
    · exact queueUsed_freeCells s n q got j

/-- Cells that cannot be had go beyond the queue's reserve. -/
theorem reserve_lt_of_takeCells {s : State} {n q got k : Nat} (h : (s.takeCells n q got k).2 = false) :
    s.minCells n q < s.queueUsed n q + k := by
  induction k generalizing s got with
  | zero => exact absurd h (by simp [State.takeCells])
  | succ k ih =>
    rw [State.takeCells] at h
    split at h
    · have hrest := ih h
      have hmin : (s.setUsed n q (s.queueUsed n q + 1)).minCells n q = s.minCells n q :=
        HostCommands.rd_of_regs (setUsed_moves s n q _).regs _
      rw [hmin, queueUsed_setUsed, if_pos rfl] at hrest
      omega
    · next hno =>
      simp only [State.canTake, Bool.or_eq_true, decide_eq_true_eq, not_or] at hno
      omega

end Sys2Proof.Proofs.MacSteps
end

section
/-! Which frames are turned away, and the queue, the cells and the parse context of any other (R209, R212, R215 to R223,
R233, R242, R243). -/

namespace Sys2Proof.Proofs.FrameReception

open Sys2Proof.Machine Sys2Proof.Safety Sys2Proof.Laws Sys2Proof.Proofs.Frames Sys2Proof.Proofs.MacSteps

/-! ### What the configuration decides -/

section Config

variable {s t : State} (h : RegsKept isConfig s t) (m : MacNo)
include h

theorem isStation_kept (bs : List Byte) : t.isStation m bs = s.isStation m bs := by
  have haddr (i : Nat) (hi : i < 4) : t.rdb (Reg.MAC_STATION_ADDR_VALID m i) = s.rdb (Reg.MAC_STATION_ADDR_VALID m i) ∧
      t.rd (Reg.MAC_STATION_ADDR_ADDR m i) = s.rd (Reg.MAC_STATION_ADDR_ADDR m i) :=
    ⟨h.rdb (isConfig_station m hi), h.rd (isConfig_station m hi)⟩
  simp [State.isStation, List.range, List.range.loop, haddr]

theorem daOk_kept (bs : List Byte) : t.daOk m bs = s.daOk m bs := by
  have hctrl := isConfig_ctrl m
  rw [State.daOk, State.daOk, isStation_kept h, h.rdb (f := Reg.MAC_CTRL_PROMISC m) hctrl,
    h.rdb (f := Reg.MAC_CTRL_BCAST_EN m) hctrl, h.rdb (f := Reg.MAC_CTRL_MCAST_EN m) hctrl]

theorem ruleHit_kept {r : Nat} (hr : r < 32) (bs : List Byte) (prio : Nat) : t.ruleHit m r bs prio = s.ruleHit m r bs prio := by
  have hrule := isConfig_rule m hr
  have hsel : t.rdb (Reg.MAC_FILTER_RULE_VID_SEL m r) = s.rdb (Reg.MAC_FILTER_RULE_VID_SEL m r) := h.rdb hrule
  cases hv : s.rdb (Reg.MAC_FILTER_RULE_VID_SEL m r) <;>
    simp only [State.ruleHit, isStation_kept h, hsel, hv, h.rdb (f := Reg.MAC_FILTER_RULE_EN m r) hrule,
      h.rd (f := Reg.MAC_FILTER_RULE_DA m r) hrule, h.rd (f := Reg.MAC_FILTER_RULE_TAGS m r) hrule,
      h.rdb (f := Reg.MAC_FILTER_RULE_VID_EN m r) hrule, h.rd (f := Reg.MAC_FILTER_RULE_VID m r) hrule,
      h.rd (f := Reg.MAC_FILTER_RULE_PCP_MASK m r) hrule, h.rdb (f := Reg.MAC_FILTER_RULE_ETYPE_EN m r) hrule,
      h.rd (f := Reg.MAC_FILTER_RULE_ETYPE m r) hrule, if_true, if_false, Bool.false_eq_true]

theorem chooseQueue_kept (bs : List Byte) (prio : Nat) : t.chooseQueue m bs prio = s.chooseQueue m bs prio := by
  have hfind : (List.range 32).find? (fun r => t.ruleHit m r bs prio) = (List.range 32).find? (fun r => s.ruleHit m r bs prio) :=
    List.find?_congr fun r hr => ruleHit_kept h m (List.mem_range.1 hr) bs prio
  rw [State.chooseQueue, State.chooseQueue, hfind]
  split
  · next r hr => exact h.rd (isConfig_rule m (List.mem_range.1 (List.mem_of_find?_eq_some hr)))
  · exact h.rd (isConfig_ctrl m)

end Config

/-- A frame's queue is one of the sixteen. -/
theorem chooseQueue_lt (s : State) (n : Nat) (bs : List Byte) (prio : Nat) : s.chooseQueue n bs prio < 16 := by
  rw [State.chooseQueue]
  split
  · exact rd_lt s (Reg.MAC_FILTER_RULE_QUEUE n _)
  · exact rd_lt s (Reg.MAC_CTRL_DEF_QUEUE n)

theorem fallback_lt (s : State) (n q : Nat) : s.rd (Reg.MAC_QUEUE_CFG_FALLBACK n q) < 16 :=
  rd_lt s (Reg.MAC_QUEUE_CFG_FALLBACK n q)

/-! ### What the lanes corrected (R209, R233) -/

/-- The counters of the RS-FEC of a MAC's lanes. -/
def fecRegs (c : FecCount) : List Nat :=
  [Reg.MAC_STAT c.mac Reg.FEC_CORR_CW, Reg.MAC_STAT c.mac Reg.FEC_UNCORR_CW, Reg.MAC_STAT c.mac Reg.FEC_SYMBOLS]

/-- A MAC counts what its lanes corrected. -/
def fecCounted (s : State) (c : FecCount) : State :=
  ((s.macCount c.mac.val Reg.FEC_CORR_CW c.corr).macCount c.mac.val Reg.FEC_UNCORR_CW c.uncorr).macCount c.mac.val
    Reg.FEC_SYMBOLS c.symbols

theorem keeps_fecCounted (s : State) (c : FecCount) : KeepsBut [.regs] s (fecCounted s c) :=
  KeepsBut_trans (KeepsBut_trans (keeps_macCount ..) (keeps_macCount ..)) (keeps_macCount ..)

theorem regsBut_fecCounted (s : State) (c : FecCount) : RegsBut (fecRegs c) s (fecCounted s c) := by
  have hone (t : State) (i k : Nat) (hi : Reg.MAC_STAT c.mac i ∈ fecRegs c) :
      RegsBut (fecRegs c) t (t.macCount c.mac i k) :=
    RegsBut_mono (regsBut_macCount t c.mac i k) fun o ho => by rwa [List.mem_singleton.1 ho]
  exact RegsBut_trans (RegsBut_trans (hone _ _ _ (by simp [fecRegs])) (hone _ _ _ (by simp [fecRegs])))
    (hone _ _ _ (by simp [fecRegs]))

theorem rd_fecCounted (s : State) (c : FecCount) :
    (fecCounted s c).rd (Reg.MAC_STAT_COUNT c.mac Reg.FEC_CORR_CW) =
      min (s.rd (Reg.MAC_STAT_COUNT c.mac Reg.FEC_CORR_CW) + c.corr) (2 ^ 48 - 1) ∧
    (fecCounted s c).rd (Reg.MAC_STAT_COUNT c.mac Reg.FEC_UNCORR_CW) =
      min (s.rd (Reg.MAC_STAT_COUNT c.mac Reg.FEC_UNCORR_CW) + c.uncorr) (2 ^ 48 - 1) ∧
    (fecCounted s c).rd (Reg.MAC_STAT_COUNT c.mac Reg.FEC_SYMBOLS) =
      min (s.rd (Reg.MAC_STAT_COUNT c.mac Reg.FEC_SYMBOLS) + c.symbols) (2 ^ 48 - 1) := by
  refine ⟨?_, ?_, ?_⟩
  · rw [fecCounted, rd_macCount_other _ _ _ (by decide), rd_macCount_other _ _ _ (by decide), rd_macCount]
  · rw [fecCounted, rd_macCount_other _ _ _ (by decide), rd_macCount, rd_macCount_other _ _ _ (by decide)]
  · rw [fecCounted, rd_macCount, rd_macCount_other _ _ _ (by decide), rd_macCount_other _ _ _ (by decide)]

section Fec

variable (s : State) (n : Nat) (cs : List FecCount)

theorem keeps_countFec : KeepsBut [.regs] s (s.countFec n cs) := keeps_forEach keeps_fecCounted _ s

theorem regsBut_countFec : RegsBut (cs.flatMap fecRegs) s (s.countFec n cs) :=
  ResidentWrites.forEach_induction (P := RegsBut (cs.flatMap fecRegs) s)
    (fun t c hc ht => RegsBut_trans ht (RegsBut_mono (regsBut_fecCounted t c) fun _ ho =>
      List.mem_flatMap.2 ⟨c, List.mem_of_mem_filter hc, ho⟩)) (RegsBut_refl _ s)

/-- A MAC of the gang counts what its lanes corrected. -/
theorem countFec_single {c : FecCount} (hc : c.mac.val ∈ s.gangOf n) : s.countFec n [c] = fecCounted s c := by
  rw [State.countFec, List.filter_cons, if_pos (decide_eq_true hc)]
  rfl

theorem isFec_of_mem_fecRegs {o : Nat} (ho : o ∈ cs.flatMap fecRegs) : isFec o = true := by
  obtain ⟨c, -, ho⟩ := List.mem_flatMap.1 ho
  simp only [fecRegs, List.mem_cons, List.not_mem_nil, or_false] at ho
  rcases ho with rfl | rfl | rfl <;> exact isFec_stat c.mac (by decide)

theorem not_mem_fecRegs {o : Nat} (h : isFec o = false) : o ∉ cs.flatMap fecRegs := fun ho =>
  Bool.false_ne_true (h.symm.trans (isFec_of_mem_fecRegs cs ho))

theorem config_countFec : RegsKept isConfig s (s.countFec n cs) :=
  .of_regsBut (regsBut_countFec s n cs) fun _ ho => isConfig_of_isFec (isFec_of_mem_fecRegs cs ho)

/-- No other counter takes part. -/
theorem rd_countFec {f : Fld} (h : isFec f.off = false) : (s.countFec n cs).rd f = s.rd f :=
  StackSteps.rd_of_regsBut (regsBut_countFec s n cs) (not_mem_fecRegs cs h)

end Fec

/-! ### The frame that a MAC holds until its verdict -/

/-- A MAC holds a frame until its verdict, and has taken nothing else but cells. -/
def Received (m : Nat) (way : RxWay) (g : Frame) (dest1 : Bool) (s t : State) : Prop :=
  (t.mac m).rx = some { frame := g, way := way, dest1 := dest1 } ∧ (t.mac m).nextId = (s.mac m).nextId + 1 ∧
    (t.mac m).queues = (s.mac m).queues ∧ MacsBut m s t

section Held

variable {s u c v : State} {m : Nat} (way : RxWay) (g : Frame) (dest1 : Bool)

/-- The MACs are as before, but for cells of one. -/
theorem received_of_cells (hu : u.macs = s.macs) (h : CellsMoved m u c) (hv : v.macs = c.macs) :
    Received m way g dest1 s (v.setRx m g way dest1) := by
  have hold (k : Nat) : u.mac k = s.mac k := congrArg (fun x => NatMap.get x MacSt.reset k) hu
  have hnew (k : Nat) : v.mac k = c.mac k := congrArg (fun x => NatMap.get x MacSt.reset k) hv
  have hnow : (v.setRx m g way dest1).mac m =
      { v.mac m with rx := some { frame := g, way := way, dest1 := dest1 }, nextId := (v.mac m).nextId + 1 } := by
    rw [State.setRx, mac_updMac, if_pos rfl]
  refine ⟨by rw [hnow], ?_, ?_, fun k hk => ?_⟩
  · rw [hnow, hnew, h.mac, hold]
  · rw [hnow, hnew, h.mac, hold]
  · rw [State.setRx, mac_updMac, if_neg hk, hnew, h.others k hk, hold]

theorem keeps_setRx : KeepsBut [.macs] v (v.setRx m g way dest1) := keeps_updMac v m _

theorem regs_setRx : (v.setRx m g way dest1).regs = v.regs := rfl

theorem rd_setRx (f : Fld) : (v.setRx m g way dest1).rd f = v.rd f := rfl

end Held

/-! ### A frame on its way into a MAC -/

/-- A frame that reaches the filter rules goes to its queue, by the queue's destination. -/
def toQueue (u : State) (n : Nat) (f : Frame) (bs : List Byte) : State :=
  let q := u.chooseQueue n bs f.prio
  let g := { f with queue := q }
  match u.rd (Reg.MAC_QUEUE_CFG_DEST n q) with
  | 0 => (u.queueDrop n q).setRx n g .disabled false
  | 1 => (u.takeContext n (u.rd (Reg.MAC_QUEUE_CFG_ARG n q)) g bs).storeFrame n (u.rd (Reg.MAC_QUEUE_CFG_FALLBACK n q)) g true
  | _ => u.storeFrame n q g false

section Arrives

variable {s : State} {m : MacNo} {w : WireFrame} (hup : s.macUp m = true) (hrx : (s.mac m).rx = none)
include hup hrx

theorem frameReceive_away (haway : s.img.phase = .commit ∨ s.pwr.quiesce = true) : s.frameReceive m w =
    ((s.countFec m w.fec).macCount m Reg.RX_OVERFLOW_DROP 1).setRx m (s.rxFrame m w) .disabled false := by
  have himg : (s.countFec m w.fec).img = s.img := (keeps_countFec s m w.fec).2 .img (by decide)
  have hpwr : (s.countFec m w.fec).pwr = s.pwr := (keeps_countFec s m w.fec).2 .pwr (by decide)
  rw [State.frameReceive, if_pos ⟨hup, hrx⟩]
  exact if_pos (by rwa [himg, hpwr])

variable (hphase : s.img.phase ≠ .commit) (hquiet : s.pwr.quiesce = false)
include hphase hquiet

/-- What a frame meets that is not turned away. -/
theorem frameReceive_open : s.frameReceive m w =
    if (s.rxFrame m w).etype = 0x8808 then (s.countFec m w.fec).setRx m (s.rxFrame m w) .control false
    else if (s.countFec m w.fec).daOk m w.bytes = false then
      ((s.countFec m w.fec).macCount m Reg.RX_DA_DROP 1).setRx m (s.rxFrame m w) .dropDa false
    else if (s.countFec m w.fec).isHt w.bytes then (s.countFec m w.fec).setRx m (s.rxFrame m w) .ht false
    else if (s.countFec m w.fec).rdb (Reg.MAC_CTRL_PTP_MGMT m) = true ∧ isPtp w.bytes = true then
      (s.countFec m w.fec).setRx m (s.rxFrame m w) .ptp false
    else toQueue (s.countFec m w.fec) m (s.rxFrame m w) w.bytes := by
  have himg : (s.countFec m w.fec).img = s.img := (keeps_countFec s m w.fec).2 .img (by decide)
  have hpwr : (s.countFec m w.fec).pwr = s.pwr := (keeps_countFec s m w.fec).2 .pwr (by decide)
  rw [State.frameReceive, if_pos ⟨hup, hrx⟩]
  exact if_neg (by simp [himg, hpwr, hphase, hquiet])

theorem frameReceive_control (hetype : (s.rxFrame m w).etype = 0x8808) :
    s.frameReceive m w = (s.countFec m w.fec).setRx m (s.rxFrame m w) .control false :=
  (frameReceive_open hup hrx hphase hquiet).trans (if_pos hetype)

variable (hetype : (s.rxFrame m w).etype ≠ 0x8808)
include hetype

theorem frameReceive_dropDa (hda : s.daOk m w.bytes = false) : s.frameReceive m w =
    ((s.countFec m w.fec).macCount m Reg.RX_DA_DROP 1).setRx m (s.rxFrame m w) .dropDa false := by
  rw [frameReceive_open hup hrx hphase hquiet, if_neg hetype, if_pos ((daOk_kept (config_countFec s m w.fec) m _).trans hda)]

variable (hda : s.daOk m w.bytes = true)
include hda

/-- What an addressed frame meets. -/
theorem frameReceive_addressed : s.frameReceive m w =
    if s.isHt w.bytes then (s.countFec m w.fec).setRx m (s.rxFrame m w) .ht false
    else if (s.countFec m w.fec).rdb (Reg.MAC_CTRL_PTP_MGMT m) = true ∧ isPtp w.bytes = true then
      (s.countFec m w.fec).setRx m (s.rxFrame m w) .ptp false
    else toQueue (s.countFec m w.fec) m (s.rxFrame m w) w.bytes := by
  have hda' : (s.countFec m w.fec).daOk m w.bytes = true := (daOk_kept (config_countFec s m w.fec) m _).trans hda
  have hjrn : (s.countFec m w.fec).jrn = s.jrn := (keeps_countFec s m w.fec).2 .jrn (by decide)
  have hht : (s.countFec m w.fec).isHt w.bytes = s.isHt w.bytes := by rw [State.isHt, State.isHt, hjrn]
  rw [frameReceive_open hup hrx hphase hquiet, if_neg hetype, if_neg (by simp [hda']), hht]

theorem frameReceive_ht (hht : s.isHt w.bytes = true) :
    s.frameReceive m w = (s.countFec m w.fec).setRx m (s.rxFrame m w) .ht false :=
  (frameReceive_addressed hup hrx hphase hquiet hetype hda).trans (if_pos hht)

variable (hht : s.isHt w.bytes = false)
include hht

theorem frameReceive_ptp (hmgmt : s.rd (Reg.MAC_CTRL_PTP_MGMT m) = 1) (hptp : isPtp w.bytes = true) :
    s.frameReceive m w = (s.countFec m w.fec).setRx m (s.rxFrame m w) .ptp false := by
  have hmgmt' : (s.countFec m w.fec).rd (Reg.MAC_CTRL_PTP_MGMT m) = 1 :=
    ((config_countFec s m w.fec).rd (isConfig_ctrl m)).trans hmgmt
  rw [frameReceive_addressed hup hrx hphase hquiet hetype hda, if_neg (by simp [hht]), if_pos (by simp [State.rdb, hmgmt', hptp])]

theorem frameReceive_queue (hptp : s.rd (Reg.MAC_CTRL_PTP_MGMT m) = 0 ∨ isPtp w.bytes = false) :
    s.frameReceive m w = toQueue (s.countFec m w.fec) m (s.rxFrame m w) w.bytes := by
  have hmgmt : (s.countFec m w.fec).rd (Reg.MAC_CTRL_PTP_MGMT m) = s.rd (Reg.MAC_CTRL_PTP_MGMT m) :=
    (config_countFec s m w.fec).rd (isConfig_ctrl m)
  rw [frameReceive_addressed hup hrx hphase hquiet hetype hda, if_neg (by simp [hht]), if_neg]
  rcases hptp with hptp | hptp <;> simp [State.rdb, hmgmt, hptp]

end Arrives

/-! ### Cells for a frame (R222) -/

theorem keeps_queueDrop (s : State) (n q : Nat) : KeepsBut [.regs] s (s.queueDrop n q) := keeps_count s _ 1

theorem regsBut_queueDrop (s : State) (n q : Nat) : RegsBut [Reg.MAC_QUEUE_STAT n q] s (s.queueDrop n q) :=
  RegsBut_count s (Reg.MAC_QUEUE_STAT_DROPS n q) 1

/-- DROPS of a queue holds at its largest value. -/
theorem rd_queueDrop (s : State) (n q : Nat) : (s.queueDrop n q).rd (Reg.MAC_QUEUE_STAT_DROPS n q) =
    min (s.rd (Reg.MAC_QUEUE_STAT_DROPS n q) + 1) 0xFFFF_FFFF :=
  StackSteps.rd_count_same s 1 (f := Reg.MAC_QUEUE_STAT_DROPS n q) rfl

/-- The counters of a MAC lie before those of its queues. -/
theorem stat_ne_queueStat {n i q : Nat} (hi : i < 24) : Reg.MAC_STAT n i ≠ Reg.MAC_QUEUE_STAT n q := by
  rw [Reg.MAC_STAT, Reg.MAC_QUEUE_STAT]
  omega

theorem queueUsed_setRx (v : State) (m : Nat) (g : Frame) (way : RxWay) (d : Bool) (j : Nat) :
    (v.setRx m g way d).queueUsed m j = v.queueUsed m j := by
  rw [State.queueUsed, State.setRx, mac_updMac, if_pos rfl, State.queueUsed]

/-- A frame that finds no cells is counted at its MAC and its queue. -/
def overflowed (c : State) (m q : Nat) : State := (c.macCount m Reg.RX_OVERFLOW_DROP 1).queueDrop m q

theorem keeps_overflowed (c : State) (m q : Nat) : KeepsBut [.regs] c (overflowed c m q) :=
  KeepsBut_trans (keeps_macCount ..) (keeps_queueDrop ..)

theorem regsBut_overflowed (c : State) (m q : Nat) :
    RegsBut [Reg.MAC_STAT m Reg.RX_OVERFLOW_DROP, Reg.MAC_QUEUE_STAT m q] c (overflowed c m q) :=
  RegsBut_trans (RegsBut_mono (regsBut_macCount c m Reg.RX_OVERFLOW_DROP 1) (by simp))
    (RegsBut_mono (regsBut_queueDrop (c.macCount m Reg.RX_OVERFLOW_DROP 1) m q) (by simp))

theorem rd_overflowed (c : State) (m q : Nat) :
    (overflowed c m q).rd (Reg.MAC_STAT_COUNT m Reg.RX_OVERFLOW_DROP) =
      min (c.rd (Reg.MAC_STAT_COUNT m Reg.RX_OVERFLOW_DROP) + 1) (2 ^ 48 - 1) ∧
    (overflowed c m q).rd (Reg.MAC_QUEUE_STAT_DROPS m q) = min (c.rd (Reg.MAC_QUEUE_STAT_DROPS m q) + 1) 0xFFFF_FFFF := by
  have hne : Reg.MAC_STAT m Reg.RX_OVERFLOW_DROP ≠ Reg.MAC_QUEUE_STAT m q := stat_ne_queueStat (by decide)
  constructor
  · rw [overflowed, StackSteps.rd_of_regsBut (regsBut_queueDrop (c.macCount m Reg.RX_OVERFLOW_DROP 1) m q)
      (mt List.mem_singleton.1 hne), rd_macCount]
  · rw [overflowed, rd_queueDrop, StackSteps.rd_of_regsBut (regsBut_macCount c m Reg.RX_OVERFLOW_DROP 1)
      (mt List.mem_singleton.1 hne.symm)]

/-- A frame is stored in cells of its queue, or dropped whole. -/
theorem storeFrame_cases (u : State) (m q : Nat) (f : Frame) (d : Bool) : ∃ c, CellsMoved m u c ∧
    (∀ j, j ≠ q → c.queueUsed m j = u.queueUsed m j) ∧
    (u.storeFrame m q f d = c.setRx m { f with cellQ := q, cells := ceilDiv f.slen 256 } .queued d ∧
        c.queueUsed m q = u.queueUsed m q + ceilDiv f.slen 256 ∨
      u.storeFrame m q f d = (overflowed c m q).setRx m { f with cellQ := q } .overflow d ∧
        c.queueUsed m q = u.queueUsed m q ∧ u.minCells m q < u.queueUsed m q + ceilDiv f.slen 256) := by
  have hused := queueUsed_takeCells u m q 0 (ceilDiv f.slen 256)
  refine ⟨_, takeCells_moves u m q 0 (ceilDiv f.slen 256), fun j hj => by rw [hused, if_neg hj], ?_⟩
  cases htaken : (u.takeCells m q 0 (ceilDiv f.slen 256)).2 with
  | true => exact .inl ⟨by rw [State.storeFrame, if_pos htaken], by rw [hused, if_pos rfl, if_pos htaken]⟩
  | false =>
    exact .inr ⟨by simp [State.storeFrame, htaken, overflowed], by simp [hused, htaken], reserve_lt_of_takeCells htaken⟩

theorem keeps_storeFrame (u : State) (m q : Nat) (f : Frame) (d : Bool) : KeepsBut [.regs, .macs] u (u.storeFrame m q f d) := by
  obtain ⟨c, hcells, -, ⟨heq, -⟩ | ⟨heq, -⟩⟩ := storeFrame_cases u m q f d
  · rw [heq]
    exact KeepsBut_mono (KeepsBut_trans hcells.keeps (keeps_setRx ..)) (by decide)
  · rw [heq]
    exact KeepsBut_mono (KeepsBut_append hcells.keeps (KeepsBut_append (keeps_overflowed c m q) (keeps_setRx ..))) (by decide)

theorem regsBut_storeFrame (u : State) (m q : Nat) (f : Frame) (d : Bool) :
    RegsBut [Reg.MAC_STAT m Reg.RX_OVERFLOW_DROP, Reg.MAC_QUEUE_STAT m q] u (u.storeFrame m q f d) := by
  obtain ⟨c, hcells, -, ⟨heq, -⟩ | ⟨heq, -⟩⟩ := storeFrame_cases u m q f d
  · rw [heq]
    exact RegsBut_of_regs ((regs_setRx ..).trans hcells.regs) _
  · rw [heq]
    exact RegsBut_trans (RegsBut_trans (RegsBut_of_regs hcells.regs _) (regsBut_overflowed c m q))
      (RegsBut_of_regs (regs_setRx ..) _)

/-! ### A parse context for a frame (R242, R243) -/

/-- A score reads as it was set. -/
theorem scoreOf_setScore (s : State) (n id : Nat) (x : Score) : (s.setScore n id x).scoreOf n id = x := by
  have hgone (l : List (Nat × Score)) : (l.filter (fun e => decide (e.1 ≠ id))).find? (fun e => decide (e.1 = id)) = none := by
    simp [List.find?_eq_none]
  rw [State.scoreOf, State.setScore, prh_updPrh, if_pos rfl, List.find?_append, hgone]
  by_cases hx : x = .none <;> simp [hx]

theorem keeps_report (s : State) (src : ReportSrc) (d : Nat) : KeepsBut [.io] s (s.report src d) := by
  have hio (t : State) (x : Io) : KeepsBut [.io] t { t with io := x } :=
    ⟨rfl, fun p hp => by cases p <;> simp_all [Part.same]⟩
  have hpost : KeepsBut [.io] s (s.postReport src 1 d) := by
    cases src <;> exact keeps_post s _ _ _ _
  unfold State.report
  split
  · exact hio s _
  · exact KeepsBut_trans hpost (hio _ _)

theorem keeps_reportNotScored (s : State) (n reason q : Nat) : KeepsBut [.io] s (s.reportNotScored n reason q) := by
  unfold State.reportNotScored
  split
  · exact keeps_report s _ _
  · exact KeepsBut_refl _ s

theorem keeps_setScore (s : State) (n id : Nat) (x : Score) : KeepsBut [.prhs] s (s.setScore n id x) := keeps_updPrh s n _

theorem keeps_prhFrontCount (s : State) (n i : Nat) : KeepsBut [.regs] s (s.prhFrontCount n i) := keeps_count s _ 1

/-- The first parse context that is free. -/
def freeContext (s : State) (n : Nat) : Option Nat := (List.range (s.ctxCount n)).find? (fun c => (s.ctx n c).isNone)

section Context

variable (u : State) (n ens : Nat) (f : Frame) (bytes : List Byte)

theorem takeContext_free {c : Nat} (hc : freeContext u n = some c) : u.takeContext n ens f bytes =
    ((u.setCtx n c (Ctx.start { f with bytes := bytes } ens false)).prhFrontCount n Reg.FRAMES_IN).setScore n f.id .parsing := by
  rw [freeContext] at hc
  simp only [State.takeContext, hc]

theorem takeContext_full (hc : freeContext u n = none) : u.takeContext n ens f bytes =
    ((u.prhFrontCount n Reg.NS_NO_CONTEXT).reportNotScored n 1 f.queue).setScore n f.id (.fallback 1) := by
  rw [freeContext] at hc
  simp only [State.takeContext, hc]

theorem keeps_takeContext : KeepsBut [.regs, .prhs, .io] u (u.takeContext n ens f bytes) := by
  cases hc : freeContext u n with
  | some c =>
    rw [takeContext_free u n ens f bytes hc]
    exact KeepsBut_mono (KeepsBut_append (KeepsBut_append (keeps_updPrh u n _) (keeps_prhFrontCount ..)) (keeps_setScore ..))
      (by decide)
  | none =>
    rw [takeContext_full u n ens f bytes hc]
    exact KeepsBut_mono (KeepsBut_append (KeepsBut_append (keeps_prhFrontCount ..) (keeps_reportNotScored ..))
      (keeps_setScore ..)) (by decide)

theorem regsBut_takeContext : RegsBut [Reg.PRH_STAT_FRONT n Reg.FRAMES_IN, Reg.PRH_STAT_FRONT n Reg.NS_NO_CONTEXT] u
    (u.takeContext n ens f bytes) := by
  have hcount (t : State) (i : Nat) : RegsBut [Reg.PRH_STAT_FRONT n i] t (t.prhFrontCount n i) :=
    RegsBut_count t (Reg.PRH_STAT_FRONT_COUNT n i) 1
  cases hc : freeContext u n with
  | some c =>
    rw [takeContext_free u n ens f bytes hc]
    exact RegsBut_mono (hcount _ Reg.FRAMES_IN) (by simp)
  | none =>
    rw [takeContext_full u n ens f bytes hc]
    exact RegsBut_trans (RegsBut_mono (hcount u Reg.NS_NO_CONTEXT) (by simp))
      (RegsBut_of_regs ((keeps_reportNotScored _ n 1 f.queue).2 .regs (by decide)) _)

end Context

/-- A parse context holds the frame, or none is free and it is not scored. -/
theorem context_takeContext_free (u : State) (n ens : Nat) (f : Frame) (bytes : List Byte) {c : Nat}
    (hc : freeContext u n = some c) :
    (u.takeContext n ens f bytes).ctx n c = some (Ctx.start { f with bytes := bytes } ens false) ∧
      (u.takeContext n ens f bytes).scoreOf n f.id = .parsing := by
  rw [takeContext_free u n ens f bytes hc]
  refine ⟨?_, scoreOf_setScore _ _ _ _⟩
  simp [State.ctx, State.setScore, State.prhFrontCount, State.setCtx, NatMap.find_ins]

theorem context_takeContext_full (u : State) (n ens : Nat) (f : Frame) (bytes : List Byte) (hc : freeContext u n = none) :
    (u.takeContext n ens f bytes).scoreOf n f.id = .fallback 1 ∧
      ((u.takeContext n ens f bytes).prh n).ctxs = (u.prh n).ctxs := by
  rw [takeContext_full u n ens f bytes hc]
  have hprhs : ((u.prhFrontCount n Reg.NS_NO_CONTEXT).reportNotScored n 1 f.queue).prhs = u.prhs :=
    (keeps_reportNotScored _ n 1 f.queue).2 .prhs (by decide)
  refine ⟨scoreOf_setScore _ _ _ _, ?_⟩
  rw [State.setScore, prh_updPrh, if_pos rfl, State.prh, hprhs, State.prh]

/-- Counting what the lanes corrected frees no parse context. -/
theorem freeContext_countFec (s : State) (m : MacNo) (cs : List FecCount) :
    freeContext (s.countFec m cs) m = freeContext s m := by
  have himg : (s.countFec m cs).img = s.img := (keeps_countFec s m cs).2 .img (by decide)
  have hprhs : (s.countFec m cs).prhs = s.prhs := (keeps_countFec s m cs).2 .prhs (by decide)
  have hmode : (s.countFec m cs).macMode m = s.macMode m := by
    rw [State.macMode, State.macMode, himg, (config_countFec s m cs).rd (isConfig_ctrl m)]
  simp only [freeContext, State.ctxCount, State.gangSize, hmode, State.ctx, State.prh, hprhs]

/-! ### What every frame leaves alone -/

/-- A frame on its way into a MAC changes registers, MACs, engines and reports alone, and no counter of the RS-FEC. -/
structure FecLeft (u t : State) : Prop where
  keeps : KeepsBut [.regs, .macs, .prhs, .io] u t
  fec   : RegsKept isFec u t

theorem FecLeft.trans {u v t : State} (h : FecLeft u v) (h' : FecLeft v t) : FecLeft u t :=
  ⟨KeepsBut_trans h.keeps h'.keeps, h.fec.trans h'.fec⟩

section FecLeft

variable (u : State) (m : MacNo)

theorem fecLeft_setRx (g : Frame) (way : RxWay) (d : Bool) : FecLeft u (u.setRx m g way d) :=
  ⟨KeepsBut_mono (keeps_setRx ..) (by decide), .of_regs (regs_setRx ..)⟩

theorem fecLeft_macCount {i : Nat} (hi : i < 20) (k : Nat) : FecLeft u (u.macCount m i k) :=
  ⟨KeepsBut_mono (keeps_macCount ..) (by decide), .count u k (isFec_stat_other m hi)⟩

theorem fecLeft_queueDrop {q : Nat} (hq : q < 16) : FecLeft u (u.queueDrop m q) :=
  ⟨KeepsBut_mono (keeps_queueDrop ..) (by decide), .count u 1 (isFec_queueStat m hq)⟩

theorem fecLeft_storeFrame {q : Nat} (hq : q < 16) (f : Frame) (d : Bool) : FecLeft u (u.storeFrame m q f d) := by
  refine ⟨KeepsBut_mono (keeps_storeFrame ..) (by decide), .of_regsBut (regsBut_storeFrame u m q f d) fun o ho => ?_⟩
  simp only [List.mem_cons, List.not_mem_nil, or_false] at ho
  rcases ho with rfl | rfl
  · exact isFec_stat_other m (by decide)
  · exact isFec_queueStat m hq

theorem fecLeft_takeContext (ens : Nat) (f : Frame) (bytes : List Byte) : FecLeft u (u.takeContext m ens f bytes) := by
  refine ⟨KeepsBut_mono (keeps_takeContext ..) (by decide), .of_regsBut (regsBut_takeContext u m ens f bytes) fun o ho => ?_⟩
  simp only [List.mem_cons, List.not_mem_nil, or_false] at ho
  rcases ho with rfl | rfl <;> exact isFec_front m

theorem fecLeft_toQueue (f : Frame) (bytes : List Byte) : FecLeft u (toQueue u m f bytes) := by
  have hq := chooseQueue_lt u m bytes f.prio
  unfold toQueue
  dsimp only
  split
  · exact (fecLeft_queueDrop u m hq).trans (fecLeft_setRx _ m _ _ _)
  · exact (fecLeft_takeContext u m _ _ _).trans (fecLeft_storeFrame _ m (fallback_lt u m _) _ _)
  · exact fecLeft_storeFrame u m hq _ _

theorem fecLeft_frameReceive {s : State} {m : MacNo} {w : WireFrame} (hup : s.macUp m = true) (hrx : (s.mac m).rx = none) :
    FecLeft (s.countFec m w.fec) (s.frameReceive m w) := by
  by_cases haway : s.img.phase = .commit ∨ s.pwr.quiesce = true
  · rw [frameReceive_away hup hrx haway]
    exact (fecLeft_macCount _ m (by decide) 1).trans (fecLeft_setRx _ m _ _ _)
  · obtain ⟨hphase, hquiet⟩ := not_or.1 haway
    rw [frameReceive_open hup hrx hphase (Bool.not_eq_true _ ▸ hquiet)]
    split_ifs
    · exact fecLeft_setRx _ m _ _ _
    · exact (fecLeft_macCount _ m (by decide) 1).trans (fecLeft_setRx _ m _ _ _)
    · exact fecLeft_setRx _ m _ _ _
    · exact fecLeft_setRx _ m _ _ _
    · exact fecLeft_toQueue _ m _ _

end FecLeft

/-! ### The frame's queue by its destination -/

section Queue

variable {s : State} {m : MacNo} {w : WireFrame}

/-- The queue that the filter rules choose for a frame (R218). -/
def queueOf (s : State) (m : MacNo) (w : WireFrame) : Nat := s.chooseQueue m w.bytes (s.rxFrame m w).prio

/-- The frame with that queue. -/
def inQueue (s : State) (m : MacNo) (w : WireFrame) : Frame := { s.rxFrame m w with queue := queueOf s m w }

theorem queueOf_countFec : (s.countFec m w.fec).chooseQueue m w.bytes (s.rxFrame m w).prio = queueOf s m w :=
  chooseQueue_kept (config_countFec s m w.fec) m _ _

theorem queueOf_lt : queueOf s m w < 16 := chooseQueue_lt s m _ _

/-- The destination, argument and fallback queue of a frame's queue. -/
theorem rd_queueOf (f : Fld) (hf : f.off = Reg.MAC_QUEUE_CFG m (queueOf s m w)) : (s.countFec m w.fec).rd f = s.rd f :=
  (config_countFec s m w.fec).rd (hf ▸ isConfig_queue m queueOf_lt)

variable (hto : s.frameReceive m w = toQueue (s.countFec m w.fec) m (s.rxFrame m w) w.bytes)
include hto

theorem frameReceive_disabled (hdest : s.rd (Reg.MAC_QUEUE_CFG_DEST m (queueOf s m w)) = 0) : s.frameReceive m w =
    ((s.countFec m w.fec).queueDrop m (queueOf s m w)).setRx m (inQueue s m w) .disabled false := by
  have hdest' := (rd_queueOf (s := s) (Reg.MAC_QUEUE_CFG_DEST m (queueOf s m w)) rfl).trans hdest
  simp only [hto, toQueue, queueOf_countFec, hdest', inQueue]

theorem frameReceive_scored (hdest : s.rd (Reg.MAC_QUEUE_CFG_DEST m (queueOf s m w)) = 1) : s.frameReceive m w =
    ((s.countFec m w.fec).takeContext m (s.rd (Reg.MAC_QUEUE_CFG_ARG m (queueOf s m w)))
      (inQueue s m w) w.bytes).storeFrame m (s.rd (Reg.MAC_QUEUE_CFG_FALLBACK m (queueOf s m w))) (inQueue s m w) true := by
  have hdest' := (rd_queueOf (s := s) (Reg.MAC_QUEUE_CFG_DEST m (queueOf s m w)) rfl).trans hdest
  have harg := rd_queueOf (s := s) (w := w) (Reg.MAC_QUEUE_CFG_ARG m (queueOf s m w)) rfl
  have hfb := rd_queueOf (s := s) (w := w) (Reg.MAC_QUEUE_CFG_FALLBACK m (queueOf s m w)) rfl
  simp only [hto, toQueue, queueOf_countFec, hdest', harg, hfb, inQueue]

theorem frameReceive_stored (hdest : 1 < s.rd (Reg.MAC_QUEUE_CFG_DEST m (queueOf s m w))) : s.frameReceive m w =
    (s.countFec m w.fec).storeFrame m (queueOf s m w) (inQueue s m w) false := by
  have hdest' := rd_queueOf (s := s) (w := w) (Reg.MAC_QUEUE_CFG_DEST m (queueOf s m w)) rfl
  simp only [hto, toQueue, queueOf_countFec, hdest', inQueue]
  split
  · next hzero => omega
  · next hone => omega
  · rfl

end Queue

/-! ### What a step of reception answers -/

theorem exec_frameReceive (m : MacNo) (w : WireFrame) (s : State) :
    exec (.frameReceive m w) s = actRim (fun s => s.frameReceive m.val w) s := rfl

section Runs

variable {s v : State} {m : MacNo} {w : WireFrame} {l : List Nat} {way : RxWay} {g : Frame}

/-- Registers beside those of the RS-FEC. -/
theorem regsBut_after_fec {t : State} (h : RegsBut l (s.countFec m w.fec) t) : RegsBut (l ++ w.fec.flatMap fecRegs) s t :=
  RegsBut_trans (RegsBut_mono (regsBut_countFec s m w.fec) fun _ ho => List.mem_append_right _ ho)
    (RegsBut_mono h fun _ ho => List.mem_append_left _ ho)

/-- A frame that takes no cells: the MAC holds it, after registers have changed. -/
theorem runs_frameReceive {P : State → Prop} (heq : s.frameReceive m w = v.setRx m g way false)
    (hkeeps : KeepsBut [.regs] (s.countFec m w.fec) v) (hregs : RegsBut l (s.countFec m w.fec) v)
    (hP : Received m way g false s (v.setRx m g way false) → RegsBut (l ++ w.fec.flatMap fecRegs) s (v.setRx m g way false) →
      KeepsBut [.regs, .macs] s (v.setRx m g way false) → P (v.setRx m g way false)) : Runs (.frameReceive m w) s P := by
  have hv : KeepsBut [.regs] s v := KeepsBut_trans (keeps_countFec s m w.fec) hkeeps
  have hall : KeepsBut [.regs, .macs] s (v.setRx m g way false) := KeepsBut_append hv (keeps_setRx way g false)
  refine runs_of_actRim (exec_frameReceive m w s) heq hall (by decide) (hP ?_ ?_ hall)
  · exact received_of_cells way g false (hv.2 .macs (by decide)) (.refl m v) rfl
  · exact regsBut_after_fec (RegsBut_trans hregs (RegsBut_of_regs (regs_setRx ..) _))

/-- One counter of the MAC takes part beside the RS-FEC. -/
theorem rd_macCount_after_fec {i : Nat} (hi : i < 20) : ((s.countFec m w.fec).macCount m i 1).rd (Reg.MAC_STAT_COUNT m i) =
    min (s.rd (Reg.MAC_STAT_COUNT m i) + 1) (2 ^ 48 - 1) := by
  rw [rd_macCount, rd_countFec s m w.fec (isFec_stat_other m hi)]

/-- Before a frame takes cells, a MAC's queues hold what they held. -/
theorem queueUsed_countFec (s : State) (m q : Nat) (cs : List FecCount) : (s.countFec m cs).queueUsed m q = s.queueUsed m q := by
  rw [State.queueUsed, mac_of_keeps (keeps_countFec s m cs) (by decide), State.queueUsed]

end Runs

/-! ### A frame that its queue stores or drops (R222) -/

section Stored

variable {s : State} {m : MacNo} {w : WireFrame}

/-- DROPS of the frame's queue counts a frame of a disabled queue. -/
theorem rd_drops_disabled : ((s.countFec m w.fec).queueDrop m (queueOf s m w)).rd (Reg.MAC_QUEUE_STAT_DROPS m (queueOf s m w)) =
    min (s.rd (Reg.MAC_QUEUE_STAT_DROPS m (queueOf s m w)) + 1) 0xFFFF_FFFF := by
  rw [rd_queueDrop, rd_countFec s m w.fec (isFec_queueStat m queueOf_lt)]

/-- A frame that has its cells. -/
structure TookCells (s : State) (m : MacNo) (w : WireFrame) (t : State) : Prop where
  held : Received m .queued { inQueue s m w with cellQ := queueOf s m w, cells := ceilDiv (s.rxFrame m w).slen 256 } false s t
  used : t.queueUsed m (queueOf s m w) = s.queueUsed m (queueOf s m w) + ceilDiv (s.rxFrame m w).slen 256
  regs : RegsBut (w.fec.flatMap fecRegs) s t

/-- A frame that is dropped whole, for want of cells. -/
structure LackedCells (s : State) (m : MacNo) (w : WireFrame) (t : State) : Prop where
  held    : Received m .overflow { inQueue s m w with cellQ := queueOf s m w } false s t
  used    : t.queueUsed m (queueOf s m w) = s.queueUsed m (queueOf s m w)
  counted : t.rd (Reg.MAC_STAT_COUNT m Reg.RX_OVERFLOW_DROP) =
    min (s.rd (Reg.MAC_STAT_COUNT m Reg.RX_OVERFLOW_DROP) + 1) (2 ^ 48 - 1)
  dropped : t.rd (Reg.MAC_QUEUE_STAT_DROPS m (queueOf s m w)) =
    min (s.rd (Reg.MAC_QUEUE_STAT_DROPS m (queueOf s m w)) + 1) 0xFFFF_FFFF
  regs    : RegsBut ([Reg.MAC_STAT m Reg.RX_OVERFLOW_DROP, Reg.MAC_QUEUE_STAT m (queueOf s m w)] ++ w.fec.flatMap fecRegs) s t
  reserve : s.minCells m (queueOf s m w) < s.queueUsed m (queueOf s m w) + ceilDiv (s.rxFrame m w).slen 256

variable (hto : s.frameReceive m w = toQueue (s.countFec m w.fec) m (s.rxFrame m w) w.bytes)
  (hdest : 1 < s.rd (Reg.MAC_QUEUE_CFG_DEST m (queueOf s m w)))
include hto hdest

theorem keeps_frameReceive_stored : KeepsBut [.regs, .macs] s (s.frameReceive m w) := by
  rw [frameReceive_stored hto hdest]
  exact KeepsBut_trans (KeepsBut_mono (keeps_countFec s m w.fec) (by decide)) (keeps_storeFrame ..)

/-- The frame has its cells or is dropped, and no other queue's cells change. -/
theorem stored_or_dropped : (TookCells s m w (s.frameReceive m w) ∨ LackedCells s m w (s.frameReceive m w)) ∧
    ∀ j, j ≠ queueOf s m w → (s.frameReceive m w).queueUsed m j = s.queueUsed m j := by
  have hmacs : (s.countFec m w.fec).macs = s.macs := (keeps_countFec s m w.fec).2 .macs (by decide)
  have hmin : (s.countFec m w.fec).minCells m (queueOf s m w) = s.minCells m (queueOf s m w) :=
    rd_queueOf (Reg.MAC_QUEUE_CFG_MIN_CELLS m (queueOf s m w)) rfl
  obtain ⟨c, hcells, hothers, ⟨hput, hused⟩ | ⟨hput, hused, hreserve⟩⟩ :=
    storeFrame_cases (s.countFec m w.fec) m (queueOf s m w) (inQueue s m w) false
  · rw [frameReceive_stored hto hdest, hput]
    refine ⟨.inl ⟨received_of_cells _ _ _ hmacs hcells rfl, ?_, ?_⟩, fun j hj => ?_⟩
    · rw [queueUsed_setRx, hused, queueUsed_countFec, inQueue]
    · exact regsBut_after_fec (l := []) (RegsBut_of_regs ((regs_setRx ..).trans hcells.regs) [])
    · rw [queueUsed_setRx, hothers j hj, queueUsed_countFec]
  · obtain ⟨hcounted, hdropped⟩ := rd_overflowed c m (queueOf s m w)
    have hover := RegsBut_trans (RegsBut_of_regs hcells.regs _) (regsBut_overflowed c m (queueOf s m w))
    have hrd (f : Fld) (hf : isFec f.off = false) : c.rd f = s.rd f :=
      (HostCommands.rd_of_regs hcells.regs f).trans (rd_countFec s m w.fec hf)
    have hsame : (overflowed c m (queueOf s m w)).macs = c.macs := (keeps_overflowed c m _).2 .macs (by decide)
    have hcell (j : Nat) : (overflowed c m (queueOf s m w)).queueUsed m j = c.queueUsed m j :=
      congrArg (fun x => NatMap.get (NatMap.get x MacSt.reset m).used 0 j) hsame
    rw [frameReceive_stored hto hdest, hput]
    refine ⟨.inr ⟨received_of_cells _ _ _ hmacs hcells hsame, ?_, ?_, ?_, ?_, ?_⟩, fun j hj => ?_⟩
    · rw [queueUsed_setRx, hcell, hused, queueUsed_countFec]
    · rw [rd_setRx, hcounted, hrd _ (isFec_stat_other m (by decide))]
    · rw [rd_setRx, hdropped, hrd _ (isFec_queueStat m queueOf_lt)]
    · exact regsBut_after_fec (RegsBut_trans hover (RegsBut_of_regs (regs_setRx ..) _))
    · rwa [hmin, queueUsed_countFec] at hreserve
    · rw [queueUsed_setRx, hcell, hothers j hj, queueUsed_countFec]

end Stored

/-! ### A frame of a DEST 1 queue (R242, R243) -/

section Scored

variable {s : State} {m : MacNo} {w : WireFrame}

/-- The registers, engines and reports after the frame has a parse context, or has none. -/
def parsed (s : State) (m : MacNo) (w : WireFrame) : State :=
  (s.countFec m w.fec).takeContext m (s.rd (Reg.MAC_QUEUE_CFG_ARG m (queueOf s m w))) (inQueue s m w) w.bytes

theorem keeps_parsed : KeepsBut [.regs, .prhs, .io] s (parsed s m w) :=
  KeepsBut_trans (KeepsBut_mono (keeps_countFec s m w.fec) (by decide)) (keeps_takeContext ..)

variable (hto : s.frameReceive m w = toQueue (s.countFec m w.fec) m (s.rxFrame m w) w.bytes)
  (hdest : s.rd (Reg.MAC_QUEUE_CFG_DEST m (queueOf s m w)) = 1)
include hto hdest

theorem keeps_after_parsed : KeepsBut [.regs, .macs] (parsed s m w) (s.frameReceive m w) := by
  rw [frameReceive_scored hto hdest]
  exact keeps_storeFrame (parsed s m w) m _ _ _

theorem keeps_frameReceive_scored : KeepsBut [.regs, .macs, .prhs, .io] s (s.frameReceive m w) :=
  KeepsBut_trans (KeepsBut_mono keeps_parsed (by decide)) (KeepsBut_mono (keeps_after_parsed hto hdest) (by decide))

/-- The MAC holds the frame, with cells of the fallback queue or without. -/
theorem held_frameReceive_scored : MacsBut m s (s.frameReceive m w) ∧
    ∃ g way, ((s.frameReceive m w).mac m).rx = some { frame := g, way := way, dest1 := true } ∧ g.id = (s.rxFrame m w).id ∧
      g.queue = queueOf s m w ∧ g.cellQ = s.rd (Reg.MAC_QUEUE_CFG_FALLBACK m (queueOf s m w)) ∧
      (way = .queued ∧ g.cells = ceilDiv (s.rxFrame m w).slen 256 ∨ way = .overflow ∧ g.cells = 0) := by
  have hmacs : (parsed s m w).macs = s.macs := keeps_parsed.2 .macs (by decide)
  rw [frameReceive_scored hto hdest]
  obtain ⟨c, hcells, -, ⟨hput, -⟩ | ⟨hput, -⟩⟩ := storeFrame_cases (parsed s m w) m
    (s.rd (Reg.MAC_QUEUE_CFG_FALLBACK m (queueOf s m w))) (inQueue s m w) true
  · obtain ⟨hrx, -, -, hothers⟩ := received_of_cells (v := c) .queued { inQueue s m w with
      cellQ := s.rd (Reg.MAC_QUEUE_CFG_FALLBACK m (queueOf s m w))
      cells := ceilDiv (s.rxFrame m w).slen 256 } true hmacs hcells rfl
    rw [← parsed, hput]
    exact ⟨hothers, _, _, hrx, rfl, rfl, rfl, .inl ⟨rfl, rfl⟩⟩
  · have hsame : (overflowed c m (s.rd (Reg.MAC_QUEUE_CFG_FALLBACK m (queueOf s m w)))).macs = c.macs :=
      (keeps_overflowed c m _).2 .macs (by decide)
    obtain ⟨hrx, -, -, hothers⟩ := received_of_cells .overflow { inQueue s m w with
      cellQ := s.rd (Reg.MAC_QUEUE_CFG_FALLBACK m (queueOf s m w)) } true hmacs hcells hsame
    rw [← parsed, hput]
    exact ⟨hothers, _, _, hrx, rfl, rfl, rfl, .inr ⟨rfl, rfl⟩⟩

/-- What the engine knows of the frame. -/
theorem engine_frameReceive_scored :
    (∀ c, freeContext s m = some c → (s.frameReceive m w).ctx m c = some (Ctx.start { inQueue s m w with bytes := w.bytes }
        (s.rd (Reg.MAC_QUEUE_CFG_ARG m (queueOf s m w))) false) ∧
      (s.frameReceive m w).scoreOf m (s.rxFrame m w).id = .parsing) ∧
    (freeContext s m = none → (s.frameReceive m w).scoreOf m (s.rxFrame m w).id = .fallback 1 ∧
      ((s.frameReceive m w).prh m).ctxs = (s.prh m).ctxs) := by
  have hprh : (s.frameReceive m w).prh m = (parsed s m w).prh m :=
    congrArg (fun x => NatMap.get x Prh.reset m) ((keeps_after_parsed hto hdest).2 .prhs (by decide))
  have hbefore : (s.countFec m w.fec).prh m = s.prh m :=
    congrArg (fun x => NatMap.get x Prh.reset m) ((keeps_countFec s m w.fec).2 .prhs (by decide))
  rw [State.scoreOf, hprh, ← State.scoreOf, ← freeContext_countFec s m w.fec, ← hbefore]
  constructor
  · intro c hc
    rw [State.ctx, hprh, ← State.ctx]
    exact context_takeContext_free _ m _ (inQueue s m w) w.bytes hc
  · exact context_takeContext_full _ m _ (inQueue s m w) w.bytes

end Scored

/-- Settles O42, branch by branch of the reception: each branch is the state in which the MAC holds the frame, after what
it counts, the cells that it takes and, in a DEST 1 queue, its parse context. -/
theorem framesAreReceived : Obligations.FramesAreReceived := by
  unfold Obligations.FramesAreReceived
  intro s m w hup hrx
  have hfecMacs : (s.countFec m w.fec).macs = s.macs := (keeps_countFec s m w.fec).2 .macs (by decide)
  refine ⟨fun haway => ?away, fun hphase hquiet hetype => ?control, fun hphase hquiet hetype hda => ?address,
    fun hopen hht => ?transport, fun hopen hht hmgmt hptp => ?ptp, fun hopen hht hptp => ?queue, fun c hfec hgang => ?fec⟩
  case away =>
    exact runs_frameReceive (frameReceive_away hup hrx haway) (keeps_macCount _ _ _ _)
      (regsBut_macCount _ m Reg.RX_OVERFLOW_DROP 1)
      fun hrec hregs hkeeps => ⟨hrec, (rd_setRx ..).trans (rd_macCount_after_fec (by decide)), hregs, hkeeps⟩
  case control =>
    exact runs_frameReceive (frameReceive_control hup hrx hphase hquiet hetype) (KeepsBut_refl _ _) (RegsBut_refl [] _)
      fun hrec hregs hkeeps => ⟨hrec, hregs, hkeeps⟩
  case address =>
    exact runs_frameReceive (frameReceive_dropDa hup hrx hphase hquiet hetype hda) (keeps_macCount _ _ _ _)
      (regsBut_macCount _ m Reg.RX_DA_DROP 1)
      fun hrec hregs hkeeps => ⟨hrec, (rd_setRx ..).trans (rd_macCount_after_fec (by decide)), hregs, hkeeps⟩
  case transport =>
    obtain ⟨hphase, hquiet, hetype, hda⟩ := hopen
    exact runs_frameReceive (frameReceive_ht hup hrx hphase hquiet hetype hda hht) (KeepsBut_refl _ _) (RegsBut_refl [] _)
      fun hrec hregs hkeeps => ⟨hrec, hregs, hkeeps⟩
  case ptp =>
    obtain ⟨hphase, hquiet, hetype, hda⟩ := hopen
    exact runs_frameReceive (frameReceive_ptp hup hrx hphase hquiet hetype hda hht hmgmt hptp) (KeepsBut_refl _ _)
      (RegsBut_refl [] _) fun hrec hregs hkeeps => ⟨hrec, hregs, hkeeps⟩
  case queue =>
    obtain ⟨hphase, hquiet, hetype, hda⟩ := hopen
    have hto := frameReceive_queue hup hrx hphase hquiet hetype hda hht hptp
    refine ⟨fun hdest => ?disabled, fun hdest => ?stored, fun hdest => ?scored⟩
    case disabled =>
      exact runs_frameReceive (frameReceive_disabled hto hdest) (keeps_queueDrop _ _ _) (regsBut_queueDrop _ m (queueOf s m w))
        fun hrec hregs hkeeps => ⟨hrec, (rd_setRx ..).trans rd_drops_disabled, hregs, hkeeps⟩
    case stored =>
      have hkeeps := keeps_frameReceive_stored hto hdest
      obtain ⟨hcells, hothers⟩ := stored_or_dropped hto hdest
      refine runs_of_actRim (exec_frameReceive m w s) rfl hkeeps (by decide) ⟨?_, hothers⟩
      exact hcells.imp (fun h => ⟨h.held, h.used, h.regs, hkeeps⟩)
        fun h => ⟨h.held, h.used, h.counted, h.dropped, ⟨h.regs, hkeeps⟩, h.reserve⟩
    case scored =>
      obtain ⟨hothers, hheld⟩ := held_frameReceive_scored hto hdest
      obtain ⟨hfree, hfull⟩ := engine_frameReceive_scored hto hdest
      have hkeeps := keeps_frameReceive_scored hto hdest
      exact runs_of_actRim (exec_frameReceive m w s) rfl hkeeps (by decide) ⟨hheld, hfree, hfull, hothers, hkeeps⟩
  case fec =>
    have hleft := fecLeft_frameReceive (w := w) hup hrx
    have hkeeps := KeepsBut_trans (KeepsBut_mono (keeps_countFec s m w.fec) (by decide)) hleft.keeps
    have hcount (i : Nat) (hi : 20 ≤ i ∧ i < 23) : (s.frameReceive m w).rd (Reg.MAC_STAT_COUNT c.mac i) =
        (fecCounted s c).rd (Reg.MAC_STAT_COUNT c.mac i) := by
      rw [hleft.fec.rd (isFec_stat c.mac hi), hfec, countFec_single s m hgang]
    obtain ⟨hcorr, huncorr, hsymbols⟩ := rd_fecCounted s c
    exact runs_of_actRim (exec_frameReceive m w s) rfl hkeeps (by decide)
      ⟨(hcount _ (by decide)).trans hcorr, (hcount _ (by decide)).trans huncorr, (hcount _ (by decide)).trans hsymbols⟩

end Sys2Proof.Proofs.FrameReception
end

section
/-! Pauses, and the frames that a MAC sends in their order (R226 to R229, R285 to R288). -/

namespace Sys2Proof.Proofs.FrameTransmission

open Sys2Proof.Machine Sys2Proof.Safety Sys2Proof.Laws Sys2Proof.Proofs.Frames Sys2Proof.Proofs.MacSteps

/-! ### Pauses (R226, R227) -/

/-- Quanta written for the selected priorities of a list. -/
theorem get_foldl_setPause (sel : Nat → Prop) [DecidablePred sel] (v : Nat → Nat) (l : List Nat) (old : NatMap Nat)
    (i : Nat) :
    NatMap.get (l.foldl (fun ps p => if sel p then setPause ps p (v p) else ps) old) 0 i =
      if i ∈ l ∧ sel i then v i else NatMap.get old 0 i := by
  induction l generalizing old with
  | nil => simp
  | cons p l ih =>
    rw [List.foldl_cons, ih]
    by_cases hp : sel p
    · by_cases hi : i = p
      · subst hi
        simp [hp, setPause]
      · simp [hp, hi, setPause]
    · by_cases hi : i = p
      · subst hi
        simp [hp]
      · simp [hp, hi]

section Pause

variable (s : State) (m : MacNo)

theorem exec_pauseFrameReceive : exec (.pauseFrameReceive m) s = actRim (fun s => match (s.mac m.val).ctl with
    | [] => s
    | c :: rest => (s.updMac m.val (fun x => { x with ctl := rest })).obeyPause m.val c) s := rfl

theorem exec_pauseExpire (p : Fin 8) : exec (.pauseExpire m p) s =
    actRim (fun s => s.updMac m.val (fun x => { x with paused := setPause x.paused p.val 0 })) s := rfl

theorem exec_pauseResend (p : Fin 8) : exec (.pauseResend m p) s = actRim (fun s =>
    if (s.mac m.val).xoff.getLsbD p.val then s.setMac m.val { s.mac m.val with
      fcOut := (s.mac m.val).fcOut ++ [(BitVec.ofNat 8 (2 ^ p.val), s.rd (Reg.MAC_PFC_CFG_PAUSE_QUANTA m.val))] }
    else s) s := rfl

/-- A MAC's flow-control frame is taken, and of the MAC its pauses alone may change with it. -/
structure PauseTaken (rest : List PauseIn) (t : State) : Prop where
  mac    : t.mac m = { s.mac m with ctl := rest, paused := (t.mac m).paused }
  others : MacsBut m s t
  keeps  : KeepsBut [.macs] s t

/-- The flow-control frame is taken off the MAC. -/
def ctlTaken (rest : List PauseIn) : State := s.updMac m (fun x => { x with ctl := rest })

theorem pauseTaken_ctlTaken (rest : List PauseIn) : PauseTaken s m rest (ctlTaken s m rest) :=
  ⟨by simp [ctlTaken], macsBut_updMac s m _, keeps_updMac s m _⟩

variable {s m} {rest : List PauseIn} {t : State}

/-- The MAC obeys: its pauses change. -/
theorem PauseTaken.obey (h : PauseTaken s m rest t) (f : NatMap Nat → NatMap Nat) :
    PauseTaken s m rest (t.updMac m (fun x => { x with paused := f x.paused })) :=
  ⟨by
    rw [mac_updMac, if_pos rfl]
    exact congrArg (fun x => { x with paused := f (t.mac m).paused }) h.mac,
    macsBut_trans h.others (macsBut_updMac t m _), KeepsBut_trans h.keeps (keeps_updMac t m _)⟩

/-- The pauses after a PFC frame: those that it names and the MAC honours are its quanta. -/
def pausedBy (honor : Nat) (c : PauseIn) (old : NatMap Nat) : NatMap Nat :=
  (List.range 8).foldl (fun ps p =>
    if bit honor p = true ∧ c.mask.getLsbD p = true then setPause ps p (nthD c.quanta p 0) else ps) old

theorem pauseTaken_obeyPause (h : PauseTaken s m rest t) (c : PauseIn) : PauseTaken s m rest (t.obeyPause m c) := by
  unfold State.obeyPause
  dsimp only
  split_ifs
  · exact h.obey fun p => setPause p 0 (nthD c.quanta 0 0)
  · exact h
  · exact h.obey (pausedBy (t.rd (Reg.MAC_PFC_CFG_RX_HONOR m)) c)
  · exact h

variable {c : PauseIn}

/-- A pause frame pauses the port, where the MAC honours it. -/
theorem paused_obeyPause_port {q : Nat} (hmode : t.rd (Reg.MAC_PFC_CFG_FC_MODE m) = 1) (hq : c.quanta = [q]) (i : Nat) :
    NatMap.get ((t.obeyPause m c).mac m).paused 0 i =
      if i = 0 ∧ bit (t.rd (Reg.MAC_PFC_CFG_RX_HONOR m)) 0 = true then q else NatMap.get (t.mac m).paused 0 i := by
  by_cases hbit : bit (t.rd (Reg.MAC_PFC_CFG_RX_HONOR m)) 0 = true
  · simp [State.obeyPause, hmode, hq, hbit, setPause, nthD]
  · simp [State.obeyPause, hmode, hq, hbit]

/-- A PFC frame pauses the priorities that it names and the MAC honours. -/
theorem paused_obeyPause_prios (hmode : t.rd (Reg.MAC_PFC_CFG_FC_MODE m) = 2) (hq : c.quanta.length = 8) (i : Nat) :
    NatMap.get ((t.obeyPause m c).mac m).paused 0 i =
      if i < 8 ∧ bit (t.rd (Reg.MAC_PFC_CFG_RX_HONOR m)) i = true ∧ c.mask.getLsbD i = true then nthD c.quanta i 0
      else NatMap.get (t.mac m).paused 0 i := by
  have hobey : t.obeyPause m c = t.updMac m (fun x => { x with
      paused := pausedBy (t.rd (Reg.MAC_PFC_CFG_RX_HONOR m)) c x.paused }) := by
    simp [State.obeyPause, hmode, hq, pausedBy]
  rw [hobey, mac_updMac, if_pos rfl]
  refine (get_foldl_setPause (fun p => bit (t.rd (Reg.MAC_PFC_CFG_RX_HONOR m)) p = true ∧ c.mask.getLsbD p = true)
    (fun p => nthD c.quanta p 0) (List.range 8) (t.mac m).paused i).trans ?_
  simp only [List.mem_range]

/-- Without flow control a MAC obeys no frame. -/
theorem obeyPause_off (hmode : t.rd (Reg.MAC_PFC_CFG_FC_MODE m) = 0) : t.obeyPause m c = t := by
  simp [State.obeyPause, hmode]

end Pause

/-- The answer to a received flow-control frame, by what the pauses then are. -/
theorem runs_pauseFrameReceive {s : State} {m : MacNo} {c : PauseIn} {rest : List PauseIn} (hctl : (s.mac m).ctl = c :: rest)
    {P : (Nat → Nat) → Prop} (hP : P (NatMap.get (((ctlTaken s m rest).obeyPause m c).mac m).paused 0)) :
    Runs (.pauseFrameReceive m) s (fun t => t.mac m = { s.mac m with ctl := rest, paused := (t.mac m).paused } ∧
      MacsBut m s t ∧ KeepsBut [.macs] s t ∧ P (NatMap.get (t.mac m).paused 0)) := by
  have htaken := pauseTaken_obeyPause (pauseTaken_ctlTaken s m rest) c
  refine runs_of_actRim (exec_pauseFrameReceive s m) ?_ htaken.keeps (by decide) ⟨htaken.mac, htaken.others, htaken.keeps, hP⟩
  simp only [hctl, ctlTaken]

/-! ### A frame in the datapath (R228, R229) -/

/-- What decides on a frame's length and counts it: the control register of its MAC, and three counters. -/
def isWire (m off : Nat) : Bool := decide (off = Reg.MAC_CTRL m ∨ off = Reg.MAC_STAT m Reg.TX_FRAMES ∨
  off = Reg.MAC_STAT m Reg.TX_BYTES ∨ off = Reg.MAC_STAT m Reg.TX_OVERSIZE_DROP)

theorem isWire_stat {m i : Nat} (hi : i ≠ Reg.TX_FRAMES ∧ i ≠ Reg.TX_BYTES ∧ i ≠ Reg.TX_OVERSIZE_DROP) :
    isWire m (Reg.MAC_STAT m i) = false := by
  obtain ⟨hframes, hbytes, hdrop⟩ := hi
  refine decide_eq_false ?_
  rintro (h | h | h | h)
  · rw [Reg.MAC_STAT, Reg.MAC_CTRL] at h
    omega
  · exact stat_ne hframes h
  · exact stat_ne hbytes h
  · exact stat_ne hdrop h

theorem isWire_eval (m : MacNo) (i : Nat) : isWire m (Reg.PRH_STAT_EVAL m i) = false := by
  have hm := m.isLt
  refine decide_eq_false ?_
  simp only [Reg.MAC_CTRL, Reg.MAC_STAT, Reg.TX_FRAMES, Reg.TX_BYTES, Reg.TX_OVERSIZE_DROP, Reg.PRH_STAT_EVAL]
  omega

theorem isWire_ibx (m : MacNo) (i : Nat) : isWire m (Reg.IBX_STAT i) = false := by
  have hm := m.isLt
  refine decide_eq_false ?_
  simp only [Reg.MAC_CTRL, Reg.MAC_STAT, Reg.TX_FRAMES, Reg.TX_BYTES, Reg.TX_OVERSIZE_DROP, Reg.IBX_STAT]
  omega

/-- A MAC has chosen its next frame: nothing has been sent, dropped or counted of it. -/
structure Chosen (m : MacNo) (s v : State) : Prop where
  wire   : RegsKept (isWire m) s v
  others : MacsBut m s v
  keeps  : KeepsBut [.regs, .macs, .prhs] s v

/-- A frame is on the wire, whole and counted. -/
structure Sent (m : MacNo) (w : List Byte) (s t : State) : Prop where
  out     : t.io.out = s.io.out ++ [.frame m w]
  sending : (t.mac m).sending = true
  others  : MacsBut m s t
  frames  : t.rd (Reg.MAC_STAT_COUNT m Reg.TX_FRAMES) = min (s.rd (Reg.MAC_STAT_COUNT m Reg.TX_FRAMES) + 1) (2 ^ 48 - 1)
  bytes   : t.rd (Reg.MAC_STAT_COUNT m Reg.TX_BYTES) = min (s.rd (Reg.MAC_STAT_COUNT m Reg.TX_BYTES) + w.length) (2 ^ 48 - 1)
  keeps   : KeepsBut [.regs, .macs, .prhs, .io] s t

/-- A frame is dropped and counted as too long. -/
structure Oversized (m : MacNo) (s t : State) : Prop where
  drops : t.rd (Reg.MAC_STAT_COUNT m Reg.TX_OVERSIZE_DROP) =
    min (s.rd (Reg.MAC_STAT_COUNT m Reg.TX_OVERSIZE_DROP) + 1) (2 ^ 48 - 1)
  keeps : KeepsBut [.regs, .macs, .prhs] s t

section Wire

variable {m : MacNo} {s v : State}

theorem Chosen.updMac (h : Chosen m s v) (f : MacSt → MacSt) : Chosen m s (v.updMac m f) :=
  ⟨h.wire.trans (.of_keeps (keeps_updMac v m f) (by decide)), macsBut_trans h.others (macsBut_updMac v m f),
    KeepsBut_trans h.keeps (KeepsBut_mono (keeps_updMac v m f) (by decide))⟩

theorem Chosen.setPrh (h : Chosen m s v) (k : Nat) (x : Prh) : Chosen m s (v.setPrh k x) :=
  ⟨h.wire.trans (.of_keeps (keeps_setPrh v k x) (by decide)),
    macsBut_trans h.others (macsBut_of_keeps (keeps_setPrh v k x) (by decide) m),
    KeepsBut_trans h.keeps (KeepsBut_mono (keeps_setPrh v k x) (by decide))⟩

theorem Chosen.count (h : Chosen m s v) {f : Fld} (n : Nat) (hf : isWire m f.off = false) : Chosen m s (v.count f n) :=
  ⟨h.wire.trans (.count v n hf), macsBut_trans h.others (macsBut_of_keeps (keeps_count v f n) (by decide) m),
    KeepsBut_trans h.keeps (KeepsBut_mono (keeps_count v f n) (by decide))⟩

/-- The MAC stands at a frame boundary. -/
def boundary (s : State) (m : Nat) : State := s.updMac m (fun x => { x with sending := false })

theorem chosen_boundary : Chosen m s (boundary s m) :=
  Chosen.updMac ⟨.refl _ s, fun _ _ => rfl, KeepsBut_refl _ s⟩ _

theorem Chosen.maxLen (h : Chosen m s v) : v.rd (Reg.MAC_CTRL_MAX_LEN m) = s.rd (Reg.MAC_CTRL_MAX_LEN m) :=
  h.wire.rd (decide_eq_true (.inl rfl))

/-- A frame of some length is counted. -/
def wireCounted (v : State) (m n : Nat) : State := (v.macCount m Reg.TX_FRAMES 1).macCount m Reg.TX_BYTES n

/-- A frame is counted and sent. -/
def wired (v : State) (m : Nat) (w : List Byte) : State :=
  ((wireCounted v m w.length).updMac m (fun x => { x with sending := true })).emit (.frame m w)

theorem putWire_fits {bs : List Byte} (hlen : (wireOf bs).length ≤ v.rd (Reg.MAC_CTRL_MAX_LEN m)) :
    v.putWire m bs = (wired v m (wireOf bs), true) := by
  simp only [State.putWire, not_lt.2 hlen, if_false, wired, wireCounted]

theorem putWire_long {bs : List Byte} (hlen : v.rd (Reg.MAC_CTRL_MAX_LEN m) < (wireOf bs).length) :
    v.putWire m bs = (v.macCount m Reg.TX_OVERSIZE_DROP 1, false) := by
  simp only [State.putWire, hlen, if_true]

theorem keeps_wireCounted (v : State) (m n : Nat) : KeepsBut [.regs] v (wireCounted v m n) :=
  KeepsBut_trans (keeps_macCount v m _ 1) (keeps_macCount _ m _ n)

theorem rd_wireCounted (v : State) (m n : Nat) :
    (wireCounted v m n).rd (Reg.MAC_STAT_COUNT m Reg.TX_FRAMES) =
      min (v.rd (Reg.MAC_STAT_COUNT m Reg.TX_FRAMES) + 1) (2 ^ 48 - 1) ∧
    (wireCounted v m n).rd (Reg.MAC_STAT_COUNT m Reg.TX_BYTES) =
      min (v.rd (Reg.MAC_STAT_COUNT m Reg.TX_BYTES) + n) (2 ^ 48 - 1) := by
  constructor
  · rw [wireCounted, rd_macCount_other _ _ _ (by decide), rd_macCount]
  · rw [wireCounted, rd_macCount, rd_macCount_other _ _ _ (by decide)]

theorem keeps_wired (v : State) (m : Nat) (w : List Byte) : KeepsBut [.regs, .macs, .io] v (wired v m w) :=
  KeepsBut_append (keeps_wireCounted v m w.length) (KeepsBut_append (keeps_updMac _ m _) (keeps_emit _ _))

theorem rd_wired (v : State) (m : Nat) (w : List Byte) (f : Fld) : (wired v m w).rd f = (wireCounted v m w.length).rd f :=
  HostCommands.rd_of_regs (by rw [wired, emit_regs, updMac_regs]) f

theorem mac_wired (v : State) (m : Nat) (w : List Byte) (k : Nat) :
    (wired v m w).mac k = if k = m then { v.mac m with sending := true } else v.mac k := by
  have hcount (j : Nat) : (wireCounted v m w.length).mac j = v.mac j := mac_of_keeps (keeps_wireCounted v m _) (by decide) j
  rw [wired, mac_after_emit, mac_updMac, hcount, hcount]

theorem io_wired (v : State) (m : Nat) (w : List Byte) : (wired v m w).io = { v.io with out := v.io.out ++ [.frame m w] } := by
  have hio : (wireCounted v m w.length).io = v.io := (keeps_wireCounted v m _).2 .io (by decide)
  rw [wired, State.emit, updMac_io, hio]

theorem Chosen.sent (h : Chosen m s v) (w : List Byte) : Sent m w s (wired v m w) := by
  have hio : v.io = s.io := h.keeps.2 .io (by decide)
  have hframes : v.rd (Reg.MAC_STAT_COUNT m Reg.TX_FRAMES) = s.rd (Reg.MAC_STAT_COUNT m Reg.TX_FRAMES) :=
    h.wire.rd (decide_eq_true (.inr (.inl rfl)))
  have hbytes : v.rd (Reg.MAC_STAT_COUNT m Reg.TX_BYTES) = s.rd (Reg.MAC_STAT_COUNT m Reg.TX_BYTES) :=
    h.wire.rd (decide_eq_true (.inr (.inr (.inl rfl))))
  obtain ⟨hone, hlen⟩ := rd_wireCounted v m w.length
  refine ⟨?_, ?_, fun k hk => ?_, ?_, ?_, ?_⟩
  · rw [io_wired, hio]
  · rw [mac_wired, if_pos rfl]
  · rw [mac_wired, if_neg hk, h.others k hk]
  · rw [rd_wired, hone, hframes]
  · rw [rd_wired, hlen, hbytes]
  · exact KeepsBut_mono (KeepsBut_append h.keeps (keeps_wired v m w)) (by decide)

theorem Chosen.oversized (h : Chosen m s v) : Oversized m s (v.macCount m Reg.TX_OVERSIZE_DROP 1) := by
  refine ⟨?_, KeepsBut_mono (KeepsBut_append h.keeps (keeps_macCount v m _ 1)) (by decide)⟩
  rw [rd_macCount, h.wire.rd (f := Reg.MAC_STAT_COUNT m Reg.TX_OVERSIZE_DROP) (decide_eq_true (.inr (.inr (.inr rfl))))]

end Wire

/-! ### The order of the sources (R229) -/

/-- The engine's or the streamer's count of a reply that is sent, and the reply kept for its verdict. -/
def replied (v : State) (m : Nat) (r : Reply) : State :=
  (if r.ibex then v.ibxCount Reg.IBX_REPLIES 1 else v.prhEvalCount m Reg.REPLIES).updPrh m
    (fun p => { p with started := if r.good = none then p.started ++ [r] else p.started })

section Sources

variable {s : State} {m : MacNo} {sub : BitVec 16}

theorem updMac_sending (s : State) (m : Nat) : s.updMac m (fun x => { x with sending := false }) = boundary s m := rfl

theorem mac_boundary (s : State) (m : Nat) : (boundary s m).mac m = { s.mac m with sending := false } := by
  rw [boundary, mac_updMac, if_pos rfl]

theorem isPaused_boundary (s : State) (m prio : Nat) : (boundary s m).isPaused m prio = s.isPaused m prio := by
  have hpaused : ((boundary s m).mac m).paused = (s.mac m).paused := by rw [mac_boundary]
  have hmode : (boundary s m).rd (Reg.MAC_PFC_CFG_FC_MODE m) = s.rd (Reg.MAC_PFC_CFG_FC_MODE m) := rfl
  rw [State.isPaused, State.isPaused, hpaused, hmode]

theorem txRetract_none (h : (s.prh m).retracts = []) : s.txRetract m = (s, false) := by
  simp only [State.txRetract, h]

theorem txReply_none (h : (s.prh m).replies = []) : s.txReply m = (s, false) := by
  simp only [State.txReply, h]

theorem txReply_held {r : Reply} {l : List Reply} (h : (s.prh m).replies = r :: l) (hhold : r.hold = true)
    (hgood : r.good ≠ some true) :
    s.txReply m = (s, false) := by
  simp only [State.txReply, h, hhold, hgood, ne_eq, not_false_eq_true, and_self, if_true]

variable (hup : s.macUp m = true) (hphase : s.img.phase ≠ .commit)
include hup hphase

/-- Source 1: flow control. -/
theorem transmitStart_flow {mask : BitVec 8} {quanta : Nat} {rest : List (BitVec 8 × Nat)}
    (hfc : (s.mac m).fcOut = (mask, quanta) :: rest) :
    s.transmitStart m sub = ((((boundary s m).updMac m (fun x => { x with fcOut := rest })).macCount m Reg.TX_PAUSE 1).putWire m
      (s.flowFrame m mask quanta)).1 := by
  have hfirst : ((boundary s m).mac m).fcOut = (mask, quanta) :: rest := by rw [mac_boundary, hfc]
  rw [State.transmitStart, if_pos ⟨hup, hphase⟩]
  simp only [updMac_sending, hfirst] <;> rfl

variable (hfc : (s.mac m).fcOut = [])
include hfc

theorem transmitStart_engine : s.transmitStart m sub =
    if ((boundary s m).txRetract m).2 then ((boundary s m).txRetract m).1
    else if (((boundary s m).txRetract m).1.txReply m).2 then (((boundary s m).txRetract m).1.txReply m).1
    else if ((((boundary s m).txRetract m).1.txReply m).1.txHt m sub).2 then
      ((((boundary s m).txRetract m).1.txReply m).1.txHt m sub).1
    else (((((boundary s m).txRetract m).1.txReply m).1.txHt m sub).1.txHost m sub).1 := by
  have hfirst : ((boundary s m).mac m).fcOut = [] := by rw [mac_boundary, hfc]
  rw [State.transmitStart, if_pos ⟨hup, hphase⟩]
  simp only [updMac_sending, hfirst] <;> rfl

/-- Source 2: retracts. -/
theorem transmitStart_retract {b : List Byte} {n : Bool} {rest : List (List Byte × Bool)}
    (hret : (s.prh m).retracts = (b, n) :: rest)
    (hfree : s.isPaused m (s.txPrio m b) = false) : s.transmitStart m sub =
      ((((boundary s m).setPrh m { s.prh m with retracts := rest }).prhEvalCount m Reg.RETRACTS).putWire m b).1 := by
  have hret' : ((boundary s m).prh m).retracts = (b, n) :: rest := hret
  have hfree' : (boundary s m).isPaused m ((boundary s m).txPrio m b) = false := (isPaused_boundary s m _).trans hfree
  have htx : (boundary s m).txRetract m =
      ((((boundary s m).setPrh m { s.prh m with retracts := rest }).prhEvalCount m Reg.RETRACTS |>.putWire m b).1, true) := by
    simp only [State.txRetract, hret', hfree', Bool.false_eq_true, if_false] <;> rfl
  rw [transmitStart_engine hup hphase hfc, htx, if_pos rfl]

variable (hret : (s.prh m).retracts = [])
include hret

theorem transmitStart_replies : s.transmitStart m sub =
    if ((boundary s m).txReply m).2 then ((boundary s m).txReply m).1
    else if (((boundary s m).txReply m).1.txHt m sub).2 then (((boundary s m).txReply m).1.txHt m sub).1
    else ((((boundary s m).txReply m).1.txHt m sub).1.txHost m sub).1 := by
  have htx : (boundary s m).txRetract m = (boundary s m, false) := txRetract_none hret
  rw [transmitStart_engine hup hphase hfc, htx, if_neg Bool.false_ne_true]

/-- Source 3: replies. -/
theorem transmitStart_reply {r : Reply} {rest : List Reply} (hrep : (s.prh m).replies = r :: rest)
    (hmay : r.hold = false ∨ r.good = some true) (hfree : s.isPaused m (s.txPrio m r.bytes) = false) : s.transmitStart m sub =
      let w := ((boundary s m).setPrh m { s.prh m with replies := rest }).putWire m r.bytes
      if w.2 then replied w.1 m r else w.1 := by
  have hprh : (boundary s m).prh m = s.prh m := rfl
  have hfree' : (boundary s m).isPaused m ((boundary s m).txPrio m r.bytes) = false := (isPaused_boundary s m _).trans hfree
  have hgo : ¬(r.hold = true ∧ r.good ≠ some true) := by
    rintro ⟨hhold, hgood⟩
    rcases hmay with h | h
    · exact Bool.false_ne_true (h.symm.trans hhold)
    · exact hgood h
  have htx : (boundary s m).txReply m =
      (let w := ((boundary s m).setPrh m { s.prh m with replies := rest }).putWire m r.bytes
       if w.2 then replied w.1 m r else w.1, true) := by
    cases hw : (((boundary s m).setPrh m { s.prh m with replies := rest }).putWire m r.bytes).2 <;>
      simp only [State.txReply, hprh, hrep, hgo, hfree', hw, Bool.false_eq_true, if_false, if_true, replied]
  rw [transmitStart_replies hup hphase hfc hret, htx, if_pos rfl]

variable (hrep : (s.prh m).replies = [] ∨ ∃ r l, (s.prh m).replies = r :: l ∧ r.hold = true ∧ r.good ≠ some true)
include hrep

theorem transmitStart_transport : s.transmitStart m sub =
    if ((boundary s m).txHt m sub).2 then ((boundary s m).txHt m sub).1 else (((boundary s m).txHt m sub).1.txHost m sub).1 := by
  have htx : (boundary s m).txReply m = (boundary s m, false) := by
    rcases hrep with h | ⟨r, l, h, hhold, hgood⟩
    · exact txReply_none h
    · exact txReply_held h hhold hgood
  rw [transmitStart_replies hup hphase hfc hret, htx, if_neg Bool.false_ne_true]

/-- Source 4: a reply frame of the herd transport class. -/
theorem transmitStart_frame {u : TxFrame} {rest : List HtTx} (hht : (s.mac m).ht = .frame u :: rest) (hts : u.tsMode = 0)
    (hfree : s.isPaused m (s.txPrio m u.bytes) = false) :
    s.transmitStart m sub = (((boundary s m).updMac m (fun x => { x with ht := rest })).putWire m u.bytes).1 := by
  have hht' : ((boundary s m).mac m).ht = .frame u :: rest := by rw [mac_boundary, hht]
  have hfree' : (boundary s m).isPaused m ((boundary s m).txPrio m u.bytes) = false := (isPaused_boundary s m _).trans hfree
  have hplain (v : State) : v.sendStamped m u sub = (v.putWire m u.bytes).1 := by
    simp only [State.sendStamped, hts]
  have htx : (boundary s m).txHt m sub =
      ((((boundary s m).updMac m (fun x => { x with ht := rest })).putWire m u.bytes).1, true) := by
    simp only [State.txHt, hht', hfree', Bool.false_eq_true, if_false, hplain]
  rw [transmitStart_transport hup hphase hfc hret hrep, htx, if_pos rfl]

/-- Source 4: a message. -/
theorem transmitStart_msg {u : HtMsg} {rest : List HtTx} (hht : (s.mac m).ht = .msg u :: rest)
    (hfree : s.isPaused m (s.rd (Reg.MAC_CTRL_TX_DEF_PRIO m)) = false) : s.transmitStart m sub =
      ((boundary s m).updMac m (fun x => { x with ht := rest, sending := true })).emit (.ht m u) := by
  have hht' : ((boundary s m).mac m).ht = .msg u :: rest := by rw [mac_boundary, hht]
  have hfree' : (boundary s m).isPaused m ((boundary s m).rd (Reg.MAC_CTRL_TX_DEF_PRIO m)) = false :=
    (isPaused_boundary s m _).trans hfree
  have htx : (boundary s m).txHt m sub =
      (((boundary s m).updMac m (fun x => { x with ht := rest, sending := true })).emit (.ht m u), true) := by
    simp only [State.txHt, hht', hfree', Bool.false_eq_true, if_false]
  rw [transmitStart_transport hup hphase hfc hret hrep, htx, if_pos rfl]

/-- No source has a frame. -/
theorem transmitStart_idle (hht : (s.mac m).ht = []) (hrings : ∀ i < 256, s.txRingReady m i = false) :
    s.transmitStart m sub = boundary s m := by
  have hht' : ((boundary s m).mac m).ht = [] := by rw [mac_boundary, hht]
  have htx : (boundary s m).txHt m sub = (boundary s m, false) := by
    simp only [State.txHt, hht']
  have hnone : ((List.range 256).map (fun i => (((boundary s m).mac m).nextRing + i) % 256)).find?
      (fun t => (boundary s m).txRingReady m t) = none := by
    refine List.find?_eq_none.2 fun t ht => ?_
    obtain ⟨i, -, rfl⟩ := List.mem_map.1 ht
    exact Bool.not_eq_true _ ▸ hrings _ (Nat.mod_lt _ (by decide))
  have hhost : (boundary s m).txHost m sub = (boundary s m, false) := by
    simp only [State.txHost, hnone]
  rw [transmitStart_transport hup hphase hfc hret hrep, htx, if_neg Bool.false_ne_true, hhost]

end Sources

/-! ### What a frame boundary answers (R228, R285 to R288) -/

theorem exec_transmitStart (m : MacNo) (sub : BitVec 16) (s : State) :
    exec (.transmitStart m sub) s = actRim (fun s => s.transmitStart m.val sub) s := rfl

/-- A frame boundary sends a frame whole, or drops it as too long. -/
structure Sends (m : MacNo) (sub : BitVec 16) (bs : List Byte) (s : State) : Prop where
  fits : (wireOf bs).length ≤ s.rd (Reg.MAC_CTRL_MAX_LEN m) → Sent m (wireOf bs) s (s.transmitStart m sub)
  long : s.rd (Reg.MAC_CTRL_MAX_LEN m) < (wireOf bs).length → Oversized m s (s.transmitStart m sub)

section Sends

variable {m : MacNo} {sub : BitVec 16} {bs : List Byte} {s v : State}

theorem sends_putWire (hv : Chosen m s v) (heq : s.transmitStart m sub = (v.putWire m bs).1) : Sends m sub bs s where
  fits hlen := by
    rw [heq, putWire_fits (hv.maxLen ▸ hlen)]
    exact hv.sent _
  long hlen := by
    rw [heq, putWire_long (hv.maxLen ▸ hlen)]
    exact hv.oversized

/-- The count of a reply comes after the frame is on the wire. -/
theorem Sent.replied {w : List Byte} {t : State} (h : Sent m w s t) (r : Reply) : Sent m w s (replied t m r) := by
  have hkeeps : KeepsBut [.regs, .prhs] t (FrameTransmission.replied t m r) := by
    refine KeepsBut_append (l := [.regs]) ?_ (keeps_updPrh _ m _)
    split <;> exact keeps_count t _ 1
  have hwire : RegsKept (isWire m) t (FrameTransmission.replied t m r) := by
    refine RegsKept.trans ?_ (.of_keeps (keeps_updPrh _ m _) (by decide))
    split
    · exact .count t 1 (isWire_ibx m _)
    · exact .count t 1 (isWire_eval m _)
  have hio : (FrameTransmission.replied t m r).io = t.io := hkeeps.2 .io (by decide)
  refine ⟨by rw [hio, h.out], ?_, fun k hk => ?_, ?_, ?_, KeepsBut_trans h.keeps (KeepsBut_mono hkeeps (by decide))⟩
  · rw [mac_of_keeps hkeeps (by decide), h.sending]
  · rw [mac_of_keeps hkeeps (by decide), h.others k hk]
  · rw [hwire.rd (decide_eq_true (.inr (.inl rfl))), h.frames]
  · rw [hwire.rd (decide_eq_true (.inr (.inr (.inl rfl)))), h.bytes]

theorem sends_reply (hv : Chosen m s v) {r : Reply} (heq : s.transmitStart m sub =
    if (v.putWire m r.bytes).2 then replied (v.putWire m r.bytes).1 m r else (v.putWire m r.bytes).1) :
    Sends m sub r.bytes s where
  fits hlen := by
    rw [heq, putWire_fits (hv.maxLen ▸ hlen), if_pos rfl]
    exact (hv.sent _).replied r
  long hlen := by
    rw [heq, putWire_long (hv.maxLen ▸ hlen), if_neg Bool.false_ne_true]
    exact hv.oversized

/-- The answers of a boundary that sends a frame. -/
theorem Sends.runs (h : Sends m sub bs s) :
    ((wireOf bs).length ≤ s.rd (Reg.MAC_CTRL_MAX_LEN m) → Runs (.transmitStart m sub) s (fun t =>
      t.io.out = s.io.out ++ [.frame m (wireOf bs)] ∧ (t.mac m).sending = true ∧ MacsBut m s t ∧
      t.rd (Reg.MAC_STAT_COUNT m Reg.TX_FRAMES) = min (s.rd (Reg.MAC_STAT_COUNT m Reg.TX_FRAMES) + 1) (2 ^ 48 - 1) ∧
      t.rd (Reg.MAC_STAT_COUNT m Reg.TX_BYTES) =
        min (s.rd (Reg.MAC_STAT_COUNT m Reg.TX_BYTES) + (wireOf bs).length) (2 ^ 48 - 1) ∧
      KeepsBut [.regs, .macs, .prhs, .io] s t)) ∧
    (s.rd (Reg.MAC_CTRL_MAX_LEN m) < (wireOf bs).length → Runs (.transmitStart m sub) s (fun t => t.io = s.io ∧
      t.rd (Reg.MAC_STAT_COUNT m Reg.TX_OVERSIZE_DROP) =
        min (s.rd (Reg.MAC_STAT_COUNT m Reg.TX_OVERSIZE_DROP) + 1) (2 ^ 48 - 1) ∧
      KeepsBut [.regs, .macs, .prhs] s t)) := by
  refine ⟨fun hlen => ?_, fun hlen => ?_⟩
  · have hsent := h.fits hlen
    exact runs_of_actRim (exec_transmitStart m sub s) rfl hsent.keeps (by decide)
      ⟨hsent.out, hsent.sending, hsent.others, hsent.frames, hsent.bytes, hsent.keeps⟩
  · have hdrop := h.long hlen
    exact runs_of_actRim (exec_transmitStart m sub s) rfl hdrop.keeps (by decide)
      ⟨hdrop.keeps.2 .io (by decide), hdrop.drops, hdrop.keeps⟩

end Sends

/-- A message of the herd transport class leaves as it is. -/
theorem runs_transmitStart_msg {s : State} {m : MacNo} {u : HtMsg} {rest : List HtTx} {sub : BitVec 16}
    (heq : s.transmitStart m sub = ((boundary s m).updMac m (fun x => { x with ht := rest, sending := true })).emit (.ht m u)) :
    Runs (.transmitStart m sub) s (fun t => t.io.out = s.io.out ++ [.ht m u] ∧
      t.mac m = { s.mac m with ht := rest, sending := true } ∧ MacsBut m s t ∧ t.io.events = s.io.events ∧
      KeepsBut [.macs, .io] s t) := by
  have hkeeps : KeepsBut [.macs, .io] s
      (((boundary s m).updMac m (fun x => { x with ht := rest, sending := true })).emit (.ht m u)) :=
    KeepsBut_append (KeepsBut_trans (keeps_updMac s m _) (keeps_updMac _ m _)) (keeps_emit _ _)
  refine runs_of_actRim (exec_transmitStart m sub s) heq hkeeps (by decide) ⟨rfl, ?_, fun k hk => ?_, rfl, hkeeps⟩
  · rw [mac_after_emit, mac_updMac, if_pos rfl, mac_boundary]
  · rw [mac_after_emit, mac_updMac, if_neg hk, boundary, mac_updMac, if_neg hk]

/-- A boundary without a frame. -/
theorem runs_transmitStart_idle {s : State} {m : MacNo} {sub : BitVec 16} (heq : s.transmitStart m sub = boundary s m) :
    Runs (.transmitStart m sub) s (fun t =>
      t.mac m = { s.mac m with sending := false } ∧ MacsBut m s t ∧ KeepsBut [.macs] s t) :=
  runs_of_actRim (exec_transmitStart m sub s) heq (keeps_updMac s m _) (by decide)
    ⟨mac_boundary s m, macsBut_updMac s m _, keeps_updMac s m _⟩

/-- A frame on the wire: its bytes, padded, and its FCS. -/
theorem wireOf_padded (bs : List Byte) : ∃ b, wireOf bs = b ++ fcs b ∧ 60 ≤ b.length ∧ (fcs b).length = 4 ∧
    b.take bs.length = bs := by
  refine ⟨bs ++ List.replicate (60 - bs.length) 0, rfl, ?_, ?_, List.take_left⟩
  · rw [List.length_append, List.length_replicate]
    omega
  · exact leBytes_length ..

/-- During COMMIT, and on a port that is down, nothing is sent. -/
theorem exec_transmitStart_same {s : State} {m : MacNo} (sub : BitVec 16) (h : s.img.phase = .commit ∨ s.macUp m = false) :
    exec (.transmitStart m sub) s = .next s := by
  refine exec_of_actRim_same (exec_transmitStart m sub s) (if_neg ?_)
  rintro ⟨hup, hphase⟩
  rcases h with h | h
  · exact hphase h
  · exact Bool.false_ne_true (h.symm.trans hup)

end Sys2Proof.Proofs.FrameTransmission
end

section
/-! Links of the frame MACs: their loss, their training, and where the herd transport's messages go (R208, R230, R355, R404,
R405, R417). -/

namespace Sys2Proof.Proofs.PortLinks

open Sys2Proof.Machine Sys2Proof.Safety Sys2Proof.Laws Sys2Proof.Proofs.Frames Sys2Proof.Proofs.MacSteps

/-! ### The herd transport's messages move (R355) -/

/-- Messages have moved between the ports: of every MAC the herd transport class alone has changed. -/
structure HtMoved (s t : State) : Prop where
  mac   : ∀ k, t.mac k = { s.mac k with ht := (t.mac k).ht }
  keeps : KeepsBut [.macs, .jrn] s t

theorem HtMoved.refl (s : State) : HtMoved s s := ⟨fun _ => rfl, KeepsBut_refl _ s⟩

theorem HtMoved.trans {s t u : State} (h : HtMoved s t) (h' : HtMoved t u) : HtMoved s u :=
  ⟨fun k => (h'.mac k).trans (congrArg (fun x : MacSt => { x with ht := (u.mac k).ht }) (h.mac k)),
    KeepsBut_trans h.keeps h'.keeps⟩

theorem htMoved_updMac (s : State) (n : Nat) (f : List HtTx → List HtTx) :
    HtMoved s (s.updMac n (fun x => { x with ht := f x.ht })) := by
  refine ⟨fun k => ?_, KeepsBut_mono (keeps_updMac s n _) (by decide)⟩
  rw [mac_updMac]
  split
  · next hk => rw [hk]
  · rfl

theorem htMoved_htQueue (s : State) (n : Nat) (msg : HtMsg) : HtMoved s (s.htQueue n msg) := by
  unfold State.htQueue
  split
  · exact htMoved_updMac s n (· ++ [.msg msg])
  · exact .refl s

theorem htMoved_htGoes (s : State) (n : Nat) (which : Nat → Bool) : HtMoved s (s.htGoes n which) := by
  unfold State.htGoes
  exact ResidentWrites.forEach_induction (P := HtMoved s) (fun t msg _ ht => ht.trans (htMoved_htQueue t n msg))
    ⟨fun _ => rfl, KeepsBut_mono (keeps_setJrn s _) (by decide)⟩

/-- Messages that go to a port change no other. -/
theorem mac_htGoes_other (s : State) {n k : Nat} (which : Nat → Bool) (hk : k ≠ n) : (s.htGoes n which).mac k = s.mac k := by
  unfold State.htGoes
  refine ResidentWrites.forEach_induction (P := fun t => t.mac k = s.mac k) (fun t msg _ ht => ?_) rfl
  unfold State.htQueue
  split
  · rw [mac_updMac, if_neg hk, ht]
  · exact ht

theorem htMoved_htMove (s : State) (m : Nat) : HtMoved s (s.htMove m) := by
  unfold State.htMove
  dsimp only
  split
  · split
    · exact .refl s
    · exact ((htMoved_updMac s m fun _ => _).trans (htMoved_updMac _ _ (· ++ _))).trans (htMoved_htGoes _ _ _)
  · exact (htMoved_updMac s m fun _ => _).trans (htMoved_htGoes _ _ _)

/-! ### A link is lost (R230, R355) -/

section Lost

variable (s : State) (m : MacNo)

/-- The record of an event of a MAC's link (R473). -/
def macRecord (code : Nat) : Event :=
  { code := code, stop := false, source := Source.mac, loc := m, stream := none, time := s.now64, detail := 0 }

/-- A MAC whose link is lost: what it sends and receives is cut, and it trains again. -/
def cut (x : MacSt) : MacSt :=
  { x with
    up := false, training := true, lost := true, sending := false
    rx := x.rx.map (fun r => { r with frame := { r.frame with trunc := true, fcsErr := false } }) }

theorem trunc_of_cut {x : MacSt} {r : RxNow} (h : (cut x).rx = some r) : r.frame.trunc = true := by
  obtain ⟨r', -, rfl⟩ := Option.map_eq_some_iff.1 h
  rfl

/-- The cut frame is counted. -/
def aborted : State :=
  (s.setMac m (cut (s.mac m))).when (s.mac m).sending (fun t => t.macCount m Reg.TX_ABORT 1)

theorem linkLost_eq : s.linkLost m = ((aborted s m).post Code.linkDown Source.mac m 0).htMove m := rfl

theorem keeps_aborted : KeepsBut [.regs, .macs] s (aborted s m) :=
  KeepsBut_mono (KeepsBut_append (keeps_setMac s m _)
    (StackSteps.keeps_when_count _ (Reg.MAC_STAT_COUNT m Reg.TX_ABORT) _)) (by decide)

theorem rd_aborted : (aborted s m).rd (Reg.MAC_STAT_COUNT m Reg.TX_ABORT) =
    min (s.rd (Reg.MAC_STAT_COUNT m Reg.TX_ABORT) + b2n (s.mac m).sending) (2 ^ 48 - 1) :=
  StackSteps.rd_when_count (s.setMac m (cut (s.mac m))) (f := Reg.MAC_STAT_COUNT m Reg.TX_ABORT) (s.mac m).sending rfl

theorem mac_aborted (k : Nat) : (aborted s m).mac k = if k = m.val then cut (s.mac m) else s.mac k := by
  have hmacs : (aborted s m).macs = (s.setMac m (cut (s.mac m))).macs :=
    (StackSteps.keeps_when_count _ (Reg.MAC_STAT_COUNT m Reg.TX_ABORT) _).2 .macs (by decide)
  rw [State.mac, hmacs]
  exact mac_setMac s m k _

theorem linkLost_moved : HtMoved ((aborted s m).post Code.linkDown Source.mac m 0) (s.linkLost m) := by
  rw [linkLost_eq]
  exact htMoved_htMove _ m

theorem keeps_linkLost : KeepsBut [.regs, .macs, .jrn, .io] s (s.linkLost m) :=
  KeepsBut_mono (KeepsBut_append (KeepsBut_append (keeps_aborted s m) (keeps_post _ _ _ _ _))
    (linkLost_moved s m).keeps) (by decide)

theorem mac_linkLost (k : Nat) :
    (s.linkLost m).mac k = { (if k = m.val then cut (s.mac m) else s.mac k) with ht := ((s.linkLost m).mac k).ht } := by
  rw [← mac_aborted]
  exact (linkLost_moved s m).mac k

theorem events_linkLost : (s.linkLost m).io.events = s.io.events ++
    [macRecord s m Code.linkDown] := by
  have hio : (s.linkLost m).io = ((aborted s m).post Code.linkDown Source.mac m 0).io :=
    (linkLost_moved s m).keeps.2 .io (by decide)
  have hbefore : (aborted s m).io = s.io := (keeps_aborted s m).2 .io (by decide)
  have htime : (aborted s m).time = s.time := (keeps_aborted s m).2 .time (by decide)
  rw [hio, State.post, State.postEvent, hbefore, State.now64, State.devTime, htime]
  rfl

theorem rd_linkLost : (s.linkLost m).rd (Reg.MAC_STAT_COUNT m Reg.TX_ABORT) =
    min (s.rd (Reg.MAC_STAT_COUNT m Reg.TX_ABORT) + b2n (s.mac m).sending) (2 ^ 48 - 1) := by
  rw [HostCommands.rd_of_regs ((linkLost_moved s m).keeps.2 .regs (by decide)), ← rd_aborted]
  exact HostCommands.rd_of_regs rfl _

end Lost

/-! ### A port trains (R404, R405, R417) -/

section Trained

variable (s : State) (m : MacNo)

/-- A MAC whose port is up. -/
def upAgain (x : MacSt) : MacSt := { x with up := true, training := false, retry := false, lost := false }

theorem portUp_eq : s.portUp m =
    if (s.mac m).lost then ((s.setMac m (upAgain (s.mac m))).htAdopt m).post Code.linkRetrain Source.mac m 0
    else (s.setMac m (upAgain (s.mac m))).htAdopt m := rfl

/-- The port is up and has taken over messages. -/
theorem adopted : HtMoved (s.setMac m (upAgain (s.mac m))) ((s.setMac m (upAgain (s.mac m))).htAdopt m) := htMoved_htGoes _ m _

theorem macs_portUp : (s.portUp m).macs = ((s.setMac m (upAgain (s.mac m))).htAdopt m).macs := by
  rw [portUp_eq]
  split <;> rfl

theorem mac_portUp : (s.portUp m).mac m = { upAgain (s.mac m) with ht := ((s.portUp m).mac m).ht } := by
  have h := (adopted s m).mac m
  rw [mac_setMac, if_pos rfl] at h
  rw [State.mac, macs_portUp]
  exact h

theorem macsBut_portUp : MacsBut m s (s.portUp m) := fun k hk => by
  rw [State.mac, macs_portUp]
  refine (mac_htGoes_other (s.setMac m (upAgain (s.mac m))) _ hk).trans ?_
  rw [mac_setMac, if_neg hk]

theorem keeps_portUp : KeepsBut [.macs, .jrn, .io] s (s.portUp m) := by
  have hadopt := KeepsBut_trans (KeepsBut_mono (keeps_setMac s m _) (by decide)) (adopted s m).keeps
  rw [portUp_eq]
  split
  · exact KeepsBut_mono (KeepsBut_append hadopt (keeps_post _ _ _ _ _)) (by decide)
  · exact KeepsBut_mono hadopt (by decide)

theorem events_portUp_lost (h : (s.mac m).lost = true) : (s.portUp m).io.events = s.io.events ++
    [macRecord s m Code.linkRetrain] := by
  have hio : ((s.setMac m (upAgain (s.mac m))).htAdopt m).io = s.io := (adopted s m).keeps.2 .io (by decide)
  have htime : ((s.setMac m (upAgain (s.mac m))).htAdopt m).time = s.time := (adopted s m).keeps.2 .time (by decide)
  rw [portUp_eq, if_pos h, State.post, State.postEvent, hio, State.now64, State.devTime, htime]
  rfl

theorem events_portUp_first (h : (s.mac m).lost = false) : (s.portUp m).io.events = s.io.events := by
  have hio : ((s.setMac m (upAgain (s.mac m))).htAdopt m).io = s.io := (adopted s m).keeps.2 .io (by decide)
  rw [portUp_eq, if_neg (by simp [h]), hio]

/-- A port's training stops in host-assisted mode. -/
def trainingStopped (ok : Bool) : State :=
  ((s.updMac m (fun x => { x with training := false })).updBru (fun b => { b with stops := b.stops ++ [.serdes m ok] })).postStop
    (Code.hostStop + 2) Source.bru 0 (m + b2n ok * 16)

variable (htrain : (s.mac m).training = true) (hlead : s.leads m = true) (hpower : s.macPowered m = true)
include htrain hlead hpower

theorem portTrained_up (h : s.linkTrains m = false ∨ s.assisted 2 = false) : s.portTrained m true = s.portUp m := by
  rw [State.portTrained, if_pos ⟨htrain, hlead, hpower⟩]
  by_cases ht : s.linkTrains m = false
  · rw [if_pos ht, if_pos rfl]
  · rw [if_neg ht, if_neg (by simpa [ht] using h), if_pos rfl]

theorem portTrained_unaligned (h : s.linkTrains m = false) : s.portTrained m false = s := by
  rw [State.portTrained, if_pos ⟨htrain, hlead, hpower⟩, if_pos h, if_neg Bool.false_ne_true]

theorem portTrained_failed (h : s.linkTrains m = true) (hauto : s.assisted 2 = false) :
    s.portTrained m false = s.portFailed m := by
  rw [State.portTrained, if_pos ⟨htrain, hlead, hpower⟩, if_neg (by simp [h]), if_neg (by simp [hauto]),
    if_neg Bool.false_ne_true]

theorem portTrained_stopped (h : s.linkTrains m = true) (hassist : s.assisted 2 = true) (ok : Bool) :
    s.portTrained m ok = trainingStopped s m ok := by
  rw [State.portTrained, if_pos ⟨htrain, hlead, hpower⟩, if_neg (by simp [h]), if_pos hassist]
  rfl

end Trained

/-! ### What the links' commands answer -/

theorem exec_linkDown (m : MacNo) (s : State) :
    exec (.linkDown m) s = actRim (fun s => if s.macUp m.val then s.linkLost m.val else s) s := rfl

theorem exec_portTraining (m : MacNo) (ok : Bool) (s : State) :
    exec (.portTraining m ok) s = actRim (fun s => s.portTrained m.val ok) s := rfl

theorem exec_portTrainingRetry (m : MacNo) (s : State) : exec (.portTrainingRetry m) s = actRim (fun s =>
    if (s.mac m.val).retry = true ∧ (s.mac m.val).down = false then
      s.setMac m.val { s.mac m.val with retry := false, training := true }
    else s) s := rfl

/-- The answer to a lost link. -/
theorem runs_linkDown {s : State} {m : MacNo} (hup : s.macUp m = true) : Runs (.linkDown m) s (fun t =>
    t.io.events = s.io.events ++ [macRecord s m Code.linkDown] ∧
    (t.mac m).up = false ∧ (t.mac m).training = true ∧ (t.mac m).lost = true ∧ (t.mac m).sending = false ∧
    (∀ r, (t.mac m).rx = some r → r.frame.trunc = true) ∧ (t.mac m).queues = (s.mac m).queues ∧
    (∀ k, k ≠ m.val → t.mac k = { s.mac k with ht := (t.mac k).ht }) ∧
    t.rd (Reg.MAC_STAT_COUNT m Reg.TX_ABORT) =
      min (s.rd (Reg.MAC_STAT_COUNT m Reg.TX_ABORT) + b2n (s.mac m).sending) (2 ^ 48 - 1) ∧
    KeepsBut [.regs, .macs, .jrn, .io] s t) := by
  have hkeeps := keeps_linkLost s m
  have hmac := mac_linkLost s m m
  rw [if_pos rfl] at hmac
  refine runs_of_actRim (exec_linkDown m s) (if_pos hup) hkeeps (by decide)
    ⟨events_linkLost s m, ?_, ?_, ?_, ?_, fun r hr => ?_, ?_, fun k hk => ?_, rd_linkLost s m, hkeeps⟩
  · rw [hmac]; rfl
  · rw [hmac]; rfl
  · rw [hmac]; rfl
  · rw [hmac]; rfl
  · rw [hmac] at hr
    exact trunc_of_cut hr
  · rw [hmac]; rfl
  · have hother := mac_linkLost s m k
    rwa [if_neg hk] at hother

end Sys2Proof.Proofs.PortLinks
end

section
/-! The statement on pauses, transmission and links (R208, R226 to R230, R285 to R288, R355, R404, R405, R417). -/

namespace Sys2Proof.Proofs.FramesAndLinks

open Sys2Proof.Machine Sys2Proof.Safety Sys2Proof.Laws Sys2Proof.Proofs.Frames Sys2Proof.Proofs.MacSteps
open Sys2Proof.Proofs.FrameTransmission Sys2Proof.Proofs.PortLinks

/-- Settles O44, command by command: pauses, the sources of a frame boundary in their order, lost links and trainings. -/
theorem framesAndLinks : Obligations.FramesAndLinks := by
  unfold Obligations.FramesAndLinks
  refine ⟨⟨fun s m => ⟨fun c rest hctl => ?heard, fun p => ⟨?expire, fun hx => ?resend, fun hx => ?resent⟩⟩,
    fun s m sub hup hphase => ⟨fun mask quanta rest hfc => ?flow, fun b n rest hfc hret hfree => ?retract,
      fun r rest hfc hret hrep hmay hfree => ?reply, fun u rest hfc hret hrep hht hts hfree => ?frame,
      fun u rest hfc hret hrep hht hfree => ?message, fun hfc hret hrep hht hrings => ?idle⟩,
    fun s m sub h => exec_transmitStart_same sub h, wireOf_padded⟩,
    fun s m => ⟨fun hup => runs_linkDown hup, fun hup => ?down, fun htrain hlead hpower => ⟨fun h => ?up, fun h => ?unaligned,
      fun h hauto => ?failed, fun h hassist ok => ?stopped⟩, fun hretry hdown => ?retry, fun h => ?waits⟩⟩
  case heard =>
    have hold : ((ctlTaken s m rest).mac m).paused = (s.mac m).paused := by rw [ctlTaken, mac_updMac, if_pos rfl]
    refine ⟨fun quanta hmode hq => ?_, fun hmode hq => ?_, fun hmode => ?_⟩
    · refine runs_pauseFrameReceive hctl (P := fun p => ∀ i, p i =
        if i = 0 ∧ bit (s.rd (Reg.MAC_PFC_CFG_RX_HONOR m)) 0 = true then quanta
        else NatMap.get (s.mac m).paused 0 i) fun i => ?_
      rw [paused_obeyPause_port (t := ctlTaken s m rest) hmode hq, hold]
      rfl
    · refine runs_pauseFrameReceive hctl (P := fun p => ∀ i, p i =
        if i < 8 ∧ bit (s.rd (Reg.MAC_PFC_CFG_RX_HONOR m)) i = true ∧ c.mask.getLsbD i = true then nthD c.quanta i 0
        else NatMap.get (s.mac m).paused 0 i) fun i => ?_
      rw [paused_obeyPause_prios (t := ctlTaken s m rest) hmode hq, hold]
      rfl
    · refine runs_pauseFrameReceive hctl (P := fun p => p = NatMap.get (s.mac m).paused 0) ?_
      rw [obeyPause_off (t := ctlTaken s m rest) hmode, hold]
  case expire =>
    refine runs_of_actRim (exec_pauseExpire s m p) rfl (keeps_updMac s m _) (by decide)
      ⟨by rw [mac_updMac, if_pos rfl], fun i => ?_, macsBut_updMac s m _, keeps_updMac s m _⟩
    rw [mac_updMac, if_pos rfl]
    change NatMap.get (setPause (s.mac m).paused p 0) 0 i = _
    rw [setPause, NatMap.get_put]
  case resend =>
    exact runs_of_actRim (exec_pauseResend s m p) (if_pos hx) (keeps_setMac s m _) (by decide) (becomes_setMac s m _)
  case resent => exact exec_of_actRim_same (exec_pauseResend s m p) (if_neg (by rw [hx]; exact Bool.false_ne_true))
  case flow =>
    exact (sends_putWire ((chosen_boundary.updMac _).count 1 (isWire_stat (by decide)))
      (transmitStart_flow hup hphase hfc)).runs
  case retract =>
    exact (sends_putWire ((chosen_boundary.setPrh m _).count 1 (isWire_eval m _))
      (transmitStart_retract hup hphase hfc hret hfree)).runs
  case reply =>
    exact (sends_reply (chosen_boundary.setPrh m _) (transmitStart_reply hup hphase hfc hret hrep hmay hfree)).runs
  case frame =>
    exact (sends_putWire (chosen_boundary.updMac _) (transmitStart_frame hup hphase hfc hret hrep hht hts hfree)).runs
  case message => exact runs_transmitStart_msg (transmitStart_msg hup hphase hfc hret (.inl hrep) hht hfree)
  case idle => exact runs_transmitStart_idle (transmitStart_idle hup hphase hfc hret (.inl hrep) hht hrings)
  case down => exact exec_of_actRim_same (exec_linkDown m s) (if_neg (by rw [hup]; exact Bool.false_ne_true))
  case up =>
    exact runs_of_actRim (exec_portTraining m true s) (portTrained_up s m htrain hlead hpower h) (keeps_portUp s m) (by decide)
      ⟨mac_portUp s m, macsBut_portUp s m, events_portUp_lost s m, events_portUp_first s m, keeps_portUp s m⟩
  case unaligned => exact exec_of_actRim_same (exec_portTraining m false s) (portTrained_unaligned s m htrain hlead hpower h)
  case failed =>
    exact runs_of_actRim (exec_portTraining m false s) (portTrained_failed s m htrain hlead hpower h hauto)
      (keeps_setMac s m _) (by decide) (becomes_setMac s m _)
  case stopped =>
    obtain ⟨hmac, hothers, hkeeps⟩ := becomes_setMac s m { s.mac m with training := false }
    have hall : KeepsBut [.macs, .bru, .io] s (trainingStopped s m ok) :=
      KeepsBut_append hkeeps (KeepsBut_append (keeps_updBru _ _) (keeps_postStop _ _ _ _ _))
    exact runs_of_actRim (exec_portTraining m ok s) (portTrained_stopped s m htrain hlead hpower h hassist ok) hall (by decide)
      ⟨hmac, hothers, rfl, rfl, hall⟩
  case retry =>
    exact runs_of_actRim (exec_portTrainingRetry m s) (if_pos ⟨hretry, hdown⟩) (keeps_setMac s m _) (by decide)
      (becomes_setMac s m _)
  case waits =>
    refine exec_of_actRim_same (exec_portTrainingRetry m s) (if_neg ?_)
    rintro ⟨hretry, hdown⟩
    rcases h with h | h
    · exact Bool.false_ne_true (h.symm.trans hretry)
    · exact Bool.false_ne_true (hdown.symm.trans h)

end Sys2Proof.Proofs.FramesAndLinks
end

section
/-! The verdict on a received frame (R213, R214, R222). -/

namespace Sys2Proof.Proofs.FrameVerdicts

open Sys2Proof.Machine Sys2Proof.Safety Sys2Proof.Laws

/-- A frame with a wrong FCS that names queue 194, which no MAC has: MAC_QUEUE_CFG194 would lie at the counter RX_FCS_ERR
of MACn_STAT. -/
def strayFrame : Frame :=
  { id := 0, bytes := [], len := 64, slen := 64, queue := 194, prio := 0, tags := 0, vid0 := 0, vid1 := 0, etype := 0, ts := 0
    fcsErr := true, oversize := false, pcsErr := false, trunc := false, cellQ := 0, cells := 0, reason := 0 }

/-- MAC 0 holds that frame before its verdict, with one frame missing to 2^20 in its counter of wrong FCS: bit 20, where
BAD_DELIVER of queue 194 would be, is 0 and becomes 1 as the frame is counted. -/
def strayState : State :=
  (State.reset.wr (Reg.MAC_STAT_COUNT 0 Reg.RX_FCS_ERR) (2 ^ 20 - 1)).setMac 0
    { MacSt.reset with rx := some { frame := strayFrame, way := .queued, dest1 := false } }

theorem strayFrame_not_delivered :
    strayFrame.good = false ∧ strayState.rd (Reg.MAC_QUEUE_CFG_BAD_DELIVER 0 194) = 0 := by decide

/-- The verdict counts the frame first, and then finds it delivered. -/
theorem queues_fcsVerdict_stray : ((strayState.fcsVerdict 0).mac 0).queues = [(194, [strayFrame])] := by decide

/-- Refutes O43, by a state that no run reaches: the statement takes any frame that a MAC may hold, and so one that names a
queue beyond the sixteen (R218). Such a queue's configuration is another register; here it is the counter that the verdict
raises, so that BAD_DELIVER reads 0 before the verdict and 1 within it, and a bad frame joins its queue. -/
theorem not_framesAreDelivered : ¬ Obligations.FramesAreDelivered := by
  unfold Obligations.FramesAreDelivered
  rintro ⟨hverdict, -⟩
  obtain ⟨hbuffered, -⟩ := hverdict strayState 0 { frame := strayFrame, way := .queued, dest1 := false } rfl
  obtain ⟨-, hfreed⟩ := hbuffered rfl rfl
  obtain ⟨hbad, hdeliver⟩ := strayFrame_not_delivered
  have hleft : ¬(strayFrame.good = true ∨ (64 ≤ strayFrame.len ∧ strayState.rd (Reg.MAC_QUEUE_CFG_BAD_DELIVER 0 194) = 1 ∧
      strayState.rd (Reg.MAC_QUEUE_CFG_DEST 0 194) ≠ 2)) := by
    simp [hbad, hdeliver]
  obtain ⟨t, hexec, -, hqueues, -⟩ := hfreed hleft
  have hanswer : exec (.fcsVerdict 0) strayState = actRim (fun s => s.fcsVerdict 0) strayState := rfl
  have ht : t.macs = (strayState.fcsVerdict 0).macs := by
    obtain rfl := Host.Outcome.next.inj (hexec.symm.trans hanswer)
    rfl
  have hnow : (t.mac 0).queues = [(194, [strayFrame])] := by
    rw [State.mac, ht]
    exact queues_fcsVerdict_stray
  have hbefore : (strayState.mac 0).queues = [] := by decide
  exact absurd (hnow.symm.trans (hqueues.trans hbefore)) (by simp)

end Sys2Proof.Proofs.FrameVerdicts
end

section
/-! A frame whose engine has decided on it: it is named for its fallback queue, goes there, or gives its cells back; of its
engine the scores alone change (R47, R220, R224, R257, R281). -/

namespace Sys2Proof.Proofs.EngineDecisions

open Sys2Proof.Machine Sys2Proof.Safety Sys2Proof.Laws Sys2Proof.Proofs.Frames Sys2Proof.Proofs.MacSteps
open Sys2Proof.Proofs.FrameReception (keeps_setScore scoreOf_setScore)

/-- Of an engine no more than its scores has changed. -/
def ScoresMoved (n : Nat) (s t : State) : Prop := t.prh n = { s.prh n with scores := (t.prh n).scores }

section Engine

variable {s t u : State} {n : Nat}

theorem ScoresMoved.of_prhs (h : t.prhs = s.prhs) : ScoresMoved n s t := by rw [ScoresMoved, State.prh, h, State.prh]

theorem ScoresMoved.of_keeps {l : List Part} (h : KeepsBut l s t) (hl : Part.prhs ∉ l) : ScoresMoved n s t :=
  .of_prhs (h.2 .prhs hl)

theorem ScoresMoved.trans (h : ScoresMoved n s t) (h' : ScoresMoved n t u) : ScoresMoved n s u := by
  rw [ScoresMoved, h', h]

theorem ScoresMoved.setScore (s : State) (n id : Nat) (x : Score) : ScoresMoved n s (s.setScore n id x) := by
  rw [ScoresMoved, State.setScore, prh_updPrh, if_pos rfl]

end Engine

section Frame

variable {s u : State} {n id reason : Nat} {g : Frame}

/-- What a MAC holds for its engine is told from the MACs. -/
theorem heldFrame_of_macs (h : u.macs = s.macs) (n id : Nat) : u.heldFrame n id = s.heldFrame n id := by
  rw [State.heldFrame, State.mac, h, State.heldFrame, State.mac]

theorem verdictOf_of_macs (h : u.macs = s.macs) (n id : Nat) : u.verdictOf n id = s.verdictOf n id := by
  rw [State.verdictOf, heldFrame_of_macs h, State.verdictOf]

theorem heldFrame_dropHeld (s : State) (n id : Nat) : (s.dropHeld n id).heldFrame n id = none := by
  rw [State.heldFrame, State.dropHeld, mac_updMac, if_pos rfl]
  simp [List.find?_eq_none]

theorem keeps_dropHeld (s : State) (n id : Nat) : KeepsBut [.macs] s (s.dropHeld n id) := keeps_updMac s n _

theorem keeps_toFallback (s : State) (n : Nat) (f : Frame) (reason : Nat) : KeepsBut [.macs] s (s.toFallback n f reason) := by
  unfold State.toFallback
  split_ifs
  · exact KeepsBut_refl _ s
  · exact keeps_updMac s n _
  · exact (freeCells_moves s n _ _).keeps

/-- The frame is no longer its engine's. -/
def released (s : State) (n id : Nat) : State := (s.dropHeld n id).setScore n id .none

theorem keeps_released (s : State) (n id : Nat) : KeepsBut [.macs, .prhs] s (released s n id) :=
  KeepsBut_append (keeps_dropHeld s n id) (keeps_setScore _ n id _)

theorem scoresMoved_released (s : State) (n id : Nat) : ScoresMoved n s (released s n id) :=
  (ScoresMoved.of_keeps (keeps_dropHeld s n id) (by decide)).trans (.setScore _ n id _)

/-- The frame past its tail is let go, and its cells with it. -/
def letGo (s : State) (n : Nat) (f : Frame) : State := (released s n f.id).freeCells n f.cellQ f.cells

theorem keeps_letGo (s : State) (n : Nat) (f : Frame) : KeepsBut [.macs, .prhs] s (letGo s n f) :=
  KeepsBut_mono (KeepsBut_append (keeps_released s n f.id) (freeCells_moves _ n _ _).keeps) (by decide)

theorem scoresMoved_letGo (s : State) (n : Nat) (f : Frame) : ScoresMoved n s (letGo s n f) :=
  (scoresMoved_released s n f.id).trans (.of_keeps (freeCells_moves _ n _ _).keeps (by decide))

/-! ### A frame that is not scored -/

theorem unscored_waiting (h : s.heldFrame n id = none) : s.unscored n id reason = s.setScore n id (.fallback reason) := by
  simp only [State.unscored, h]

theorem unscored_held (h : s.heldFrame n id = some g) :
    s.unscored n id reason = (released s n id).toFallback n g reason := by
  simp only [State.unscored, h, released]

theorem keeps_unscored (s : State) (n id reason : Nat) : KeepsBut [.macs, .prhs] s (s.unscored n id reason) := by
  cases h : s.heldFrame n id with
  | none =>
    rw [unscored_waiting h]
    exact KeepsBut_mono (keeps_setScore s n id _) (by decide)
  | some g =>
    rw [unscored_held h]
    exact KeepsBut_mono (KeepsBut_append (keeps_released s n id) (keeps_toFallback _ n g reason)) (by decide)

theorem scoresMoved_unscored (s : State) (n id reason : Nat) : ScoresMoved n s (s.unscored n id reason) := by
  cases h : s.heldFrame n id with
  | none =>
    rw [unscored_waiting h]
    exact .setScore s n id _
  | some g =>
    rw [unscored_held h]
    exact (scoresMoved_released s n id).trans (.of_keeps (keeps_toFallback _ n g reason) (by decide))

/-- Before its tail the frame is named for its fallback. -/
theorem scoreOf_unscored (h : s.heldFrame n id = none) : (s.unscored n id reason).scoreOf n id = .fallback reason := by
  rw [unscored_waiting h, scoreOf_setScore]

/-- Past its tail a good frame that is stored joins its fallback queue. -/
theorem unscored_joins (h : s.heldFrame n id = some g) (hgood : g.good = true) (hcells : 0 < g.cells) :
    (s.unscored n id reason).heldFrame n id = none ∧
      NatMap.get ((s.unscored n id reason).mac n).queues [] g.cellQ =
        insertFrame (NatMap.get (s.mac n).queues [] g.cellQ) { g with queue := g.cellQ, reason := reason } := by
  have hjoin : s.unscored n id reason = (released s n id).joinQueue n { g with queue := g.cellQ, reason := reason } := by
    rw [unscored_held h]
    simp [State.toFallback, hcells.ne', hgood]
  have hmac : (released s n id).mac n = (s.dropHeld n id).mac n :=
    mac_of_keeps (keeps_setScore (s.dropHeld n id) n id .none) (by decide) n
  rw [hjoin]
  constructor
  · rw [State.heldFrame, State.joinQueue, mac_updMac, if_pos rfl, hmac]
    exact heldFrame_dropHeld s n id
  · rw [State.joinQueue, mac_updMac, if_pos rfl, hmac, State.dropHeld, mac_updMac, if_pos rfl, NatMap.upd, NatMap.get_put,
      if_pos rfl]

/-! ### Counters of the engines (R269, R307) -/

theorem rd_prhFrontCount (s : State) (n i : Nat) : (s.prhFrontCount n i).rd (Reg.PRH_STAT_FRONT_COUNT n i) =
    min (s.rd (Reg.PRH_STAT_FRONT_COUNT n i) + 1) (Reg.PRH_STAT_FRONT_COUNT n i).max := StackSteps.rd_count_same s 1 rfl

theorem regsBut_prhFrontCount (s : State) (n i : Nat) : RegsBut [Reg.PRH_STAT_FRONT n i] s (s.prhFrontCount n i) :=
  RegsBut_count s (Reg.PRH_STAT_FRONT_COUNT n i) 1

/-- Counters of one front lie apart. -/
theorem front_ne {n i j : Nat} (h : i ≠ j) : Reg.PRH_STAT_FRONT n i ≠ Reg.PRH_STAT_FRONT n j := by
  rw [Reg.PRH_STAT_FRONT, Reg.PRH_STAT_FRONT]
  omega

theorem rd_prhFrontCount_other (s : State) (n : Nat) {i j : Nat} (h : j ≠ i) :
    (s.prhFrontCount n i).rd (Reg.PRH_STAT_FRONT_COUNT n j) = s.rd (Reg.PRH_STAT_FRONT_COUNT n j) :=
  StackSteps.rd_of_regsBut (regsBut_prhFrontCount s n i) (f := Reg.PRH_STAT_FRONT_COUNT n j)
    fun hmem => front_ne h (List.mem_singleton.1 hmem)

theorem rd_prhEvalCount (s : State) (n i : Nat) : (s.prhEvalCount n i).rd (Reg.PRH_STAT_EVAL_COUNT n i) =
    min (s.rd (Reg.PRH_STAT_EVAL_COUNT n i) + 1) (Reg.PRH_STAT_EVAL_COUNT n i).max := StackSteps.rd_count_same s 1 rfl

theorem regsBut_prhEvalCount (s : State) (n i : Nat) : RegsBut [Reg.PRH_STAT_EVAL n i] s (s.prhEvalCount n i) :=
  RegsBut_count s (Reg.PRH_STAT_EVAL_COUNT n i) 1

theorem keeps_prhEvalCount (s : State) (n i : Nat) : KeepsBut [.regs] s (s.prhEvalCount n i) := keeps_count s _ 1

end Frame

end Sys2Proof.Proofs.EngineDecisions
end

section
/-! Feature vectors and trees: how long a vector is, that its bins are below their cardinality, that a path ends at a leaf,
and that a fixed-point score is a sum (R251, R254, R255, R271, R272, R276). -/

namespace Sys2Proof.Proofs.FeatureVectors

open Sys2Proof.Machine

/-! ### Bins (R251, R254, R255) -/

theorem cardM1_lt_ecard (d : Feat) : d.cardM1 < d.ecard := by
  unfold Feat.ecard
  split <;> omega

theorem mapBin_lt_ecard {d : Feat} (h : d.map = true) : d.mapBin < d.ecard := by
  rw [Feat.ecard, if_pos h]
  omega

/-- A feature that is no cross of two others has a bin below its cardinality. -/
theorem feature_lt_ecard {s : State} {n : Nat} {d : Feat} {raw : PVal} {vec : List Nat} {b : Nat} (hkind : d.kind ≠ 3)
    (h : s.feature n d raw vec = .ok b) : b < d.ecard := by
  refine lt_of_le_of_lt ?_ (cardM1_lt_ecard d)
  rw [State.feature, if_neg hkind] at h
  split at h
  · obtain rfl := Except.ok.inj h
    exact Nat.zero_le _
  split at h
  · cases h
  dsimp only at h
  split at h
  · cases h
  · cases h
  · split_ifs at h with huniform hlow hout
    · obtain rfl := Except.ok.inj h
      exact (List.length_filter_le _ _).trans_eq List.length_range
    · obtain rfl := Except.ok.inj h
      omega

/-- Each bin found so far is below its feature's cardinality. -/
def BinsFit (s : State) (n : Nat) (vec : List Nat) : Prop :=
  ∀ i < vec.length, (s.desc n i).kind ≠ 3 → nthD vec i 0 < (s.desc n i).ecard

section Bins

variable {s : State} {n : Nat} {vec : List Nat}

theorem BinsFit.nil (s : State) (n : Nat) : BinsFit s n [] := fun _ hi => absurd hi (Nat.not_lt_zero _)

theorem BinsFit.snoc (h : BinsFit s n vec) {b : Nat}
    (hb : (s.desc n vec.length).kind ≠ 3 → b < (s.desc n vec.length).ecard) : BinsFit s n (vec ++ [b]) := by
  intro i hi hkind
  rw [List.length_append, List.length_singleton] at hi
  rcases Nat.lt_succ_iff_lt_or_eq.1 hi with hlt | rfl
  · rw [nthD, List.getElem?_append_left hlt]
    exact h i hlt hkind
  · simpa [nthD] using hb hkind

/-- The features that remain each add one bin, and it fits. -/
theorem features_fit {slots : NatMap PVal} {k : Nat} {mapped m : Bool} {b : List Nat} (hvec : BinsFit s n vec)
    (h : s.features n slots k vec mapped = .vector b m) : b.length = vec.length + k ∧ BinsFit s n b := by
  induction k generalizing vec mapped with
  | zero =>
    rw [State.features] at h
    obtain ⟨rfl, -⟩ := FeatAns.vector.inj h
    exact ⟨rfl, hvec⟩
  | succ k ih =>
    have hnext {c : Nat} {mapped : Bool} (hc : (s.desc n vec.length).kind ≠ 3 → c < (s.desc n vec.length).ecard)
        (h : s.features n slots k (vec ++ [c]) mapped = .vector b m) : b.length = vec.length + (k + 1) ∧ BinsFit s n b := by
      obtain ⟨hlen, hfit⟩ := ih (hvec.snoc hc) h
      refine ⟨hlen.trans ?_, hfit⟩
      rw [List.length_append, List.length_singleton]
      omega
    rw [State.features] at h
    split at h
    · next hok => exact hnext (fun hkind => feature_lt_ecard hkind hok) h
    · split_ifs at h with hmap
      exact hnext (fun _ => mapBin_lt_ecard hmap) h

theorem features_length {slots : NatMap PVal} {k : Nat} {m : Bool} {b : List Nat}
    (h : s.features n slots k [] false = .vector b m) : b.length = k := by
  simpa using (features_fit (.nil s n) h).1

theorem features_lt_ecard {slots : NatMap PVal} {k : Nat} {m : Bool} {b : List Nat}
    (h : s.features n slots k [] false = .vector b m) (i : Nat) (hi : i < k) (hkind : (s.desc n i).kind ≠ 3) :
    nthD b i 0 < (s.desc n i).ecard :=
  (features_fit (.nil s n) h).2 i (by rwa [features_length h]) hkind

end Bins

/-! ### Trees (R271, R272, R276) -/

/-- A path from the j-th node of its level ends below that node. -/
theorem walkTree_lt (vec nodes : List Nat) (d k j : Nat) : walkTree vec nodes d k j < (j + 1) * 2 ^ d := by
  induction d generalizing k j with
  | zero => simp [walkTree]
  | succ d ih =>
    have hsplit : (j + 1) * 2 ^ (d + 1) = (2 * j + 1) * 2 ^ d + 2 ^ d := by ring
    rw [walkTree, hsplit]
    split
    · exact (ih _ _).trans_le (Nat.le_add_right _ _)
    · exact (ih _ _).trans_eq (by ring)

/-- A fixed-point score is the sum over the leaves, and the base. -/
theorem scoreOut_fixed (trees : List Tree) (vec : List Nat) (nout o : Nat) (base : BitVec 32) :
    scoreOut trees vec nout o true base =
      .fix ((trees.map fun t => (t.leaf vec nout o).toInt).sum + base.toInt) := by
  simp only [scoreOut, if_true, List.foldl_map, List.sum_eq_foldl]

theorem scoreOut_perm {trees trees' : List Tree} (h : trees.Perm trees') (vec : List Nat) (nout o : Nat) (base : BitVec 32) :
    scoreOut trees vec nout o true base = scoreOut trees' vec nout o true base := by
  rw [scoreOut_fixed, scoreOut_fixed, (h.map _).sum_eq]

end Sys2Proof.Proofs.FeatureVectors
end

section
/-! The instructions of the parse machine: what each makes of its context, and how a parse ends (R242 to R250, R254, R255,
R257, R265). -/

namespace Sys2Proof.Proofs.ParseInstructions

open Sys2Proof.Machine Sys2Proof.Safety Sys2Proof.Laws Sys2Proof.Proofs.Frames Sys2Proof.Proofs.MacSteps
open Sys2Proof.Proofs.StackSteps Sys2Proof.Proofs.EngineDecisions
open Sys2Proof.Proofs.FrameReception (keeps_setScore keeps_prhFrontCount keeps_report)

/-! ### One instruction -/

/-- What a context's instruction makes of the state. -/
def answered (s : State) (n c : Nat) (x : Ctx) : ParseAns → State
  | .go y => s.setCtx n c y
  | .wait => s
  | .absent => s.refuseFrame n c x x.pc 4
  | .pass => s.passFrame n c x
  | .done => s.endParse n c x

/-- The word of the context's instruction. -/
def instrOf (s : State) (n : Nat) (x : Ctx) : Nat := s.rd (Reg.PRH_FRONT_PROG_INSTR n x.pc)

/-- The frame's bytes from here on are not looked at. -/
def horizonOf (s : State) (n : Nat) : Nat := s.rd (Reg.PRH_FRONT_CTRL_HORIZON n)

/-- The context has become `y`, and no other context, engine or part has changed. -/
def CtxBecomes (n : MacNo) (c : Fin 16) (y : Ctx) (s t : State) : Prop :=
  t.ctx n c = some y ∧ (∀ k, k ≠ c.val → t.ctx n k = s.ctx n k) ∧ t.prh n = { s.prh n with ctxs := (t.prh n).ctxs } ∧
    (∀ k, k ≠ n.val → t.prh k = s.prh k) ∧ KeepsBut [.prhs] s t

theorem ctxBecomes_setCtx (s : State) (n : MacNo) (c : Fin 16) (y : Ctx) : CtxBecomes n c y s (s.setCtx n c y) := by
  have hprh : (s.setCtx n c y).prh n = { s.prh n with ctxs := NatMap.ins (s.prh n).ctxs c y } := by
    rw [State.setCtx, prh_updPrh, if_pos rfl]
  refine ⟨?_, fun k hk => ?_, ?_, fun k hk => ?_, keeps_updPrh s n _⟩
  · rw [State.ctx, hprh, NatMap.find_ins, if_pos rfl]
  · rw [State.ctx, hprh, NatMap.find_ins, if_neg hk, State.ctx]
  · rw [hprh]
  · rw [State.setCtx, prh_updPrh, if_neg hk]

section Row

variable {s : State} {n : MacNo} {c : Fin 16} {x : Ctx} (hctx : s.ctx n c = some x) (hpower : s.macPowered n = true)
include hctx hpower

theorem parseRow_eq {op : Nat} (hop : instrOf s n x % 64 = op) :
    s.parseRow n c op = answered s n c x (parseStep (instrOf s n x) (horizonOf s n) x) := by
  simp only [State.parseRow, hctx]
  rw [if_pos ⟨hop, hpower⟩]
  simp only [instrOf, horizonOf]
  cases parseStep (s.rd (Reg.PRH_FRONT_PROG_INSTR n x.pc)) (s.rd (Reg.PRH_FRONT_CTRL_HORIZON n)) x <;> rfl

variable {i : Instr} {op : Nat} (hi : exec i s = actRim (fun s => s.parseRow n c op) s) (hop : instrOf s n x % 64 = op)
include hi hop

theorem runs_go {y : Ctx} (hstep : parseStep (instrOf s n x) (horizonOf s n) x = .go y) : Runs i s (CtxBecomes n c y s) := by
  refine runs_of_actRim hi (u := s.setCtx n c y) ?_ (keeps_updPrh s n _) (by decide) (ctxBecomes_setCtx s n c y)
  rw [parseRow_eq hctx hpower hop, hstep, answered]

theorem exec_wait (hstep : parseStep (instrOf s n x) (horizonOf s n) x = .wait) : exec i s = .next s := by
  refine exec_of_actRim_same hi ?_
  rw [parseRow_eq hctx hpower hop, hstep, answered]

end Row

/-! ### The opcodes (R249, R250) -/

section Opcodes

variable {w horizon : Nat} {x : Ctx}

theorem parseStep_ext (h : w % 64 = 1) : parseStep w horizon x = parseExt w horizon x := by simp only [parseStep, h]
theorem parseStep_meta (h : w % 64 = 2) : parseStep w horizon x = parseMeta w x := by simp only [parseStep, h]
theorem parseStep_alu (h : w % 64 = 3) : parseStep w horizon x = parseAlu w x := by simp only [parseStep, h]
theorem parseStep_adv (h : w % 64 = 4) : parseStep w horizon x = parseAdv w x := by simp only [parseStep, h]
theorem parseStep_br (h : w % 64 = 5) : parseStep w horizon x = parseBr w x := by simp only [parseStep, h]
theorem parseStep_feat (h : w % 64 = 6) : parseStep w horizon x = parseFeat w x := by simp only [parseStep, h]
theorem parseStep_end (h : w % 64 = 7) : parseStep w horizon x = if bit w 6 then .pass else .done := by simp only [parseStep, h]

/-- How many bytes an EXT takes. -/
def extWidth (w : Nat) : Nat := bits w 13 12 + 1

/-- Where they begin. -/
def extOff (w : Nat) (x : Ctx) : Nat := if bit w 10 then min (x.cur.toNat + bits w 23 16) 0xFFFF_FFFF else bits w 23 16

/-- The context with an EXT's value in its register, and in its raw slot where that is asked for. -/
def extPut (w : Nat) (x : Ctx) (p : PVal) : Ctx :=
  (if bit w 15 then (x.setReg (bits w 9 6) p).setSlot (bits w 40 35) p else x.setReg (bits w 9 6) p).next

/-- The number that an EXT's bytes spell, shifted. -/
def extNat (w : Nat) (x : Ctx) : Nat :=
  (if bit w 11 then leNat (slice x.frame.bytes (extOff w x) (extWidth w))
    else beNat (slice x.frame.bytes (extOff w x) (extWidth w))) >>> bits w 28 24

/-- It is cut to the instruction's width, and extended to 32 bits with its sign or with zeros. -/
def extVal (w : Nat) (x : Ctx) : BitVec 32 :=
  if bit w 14 then (BitVec.ofNat (bits w 34 29) (extNat w x)).signExtend 32
  else (BitVec.ofNat (bits w 34 29) (extNat w x)).setWidth 32

/-- The top bit of a number cut to a width. -/
theorem msb_ofNat_eq_testBit (k v : Nat) : (BitVec.ofNat k v).msb = (v % 2 ^ k).testBit (k - 1) := by
  rw [BitVec.msb_eq_getLsbD_last, ← BitVec.testBit_toNat, BitVec.toNat_ofNat]

/-- A number cut to a width and raised by its sign is its sign extension. -/
theorem ofNat_extended (signed : Bool) (k v : Nat) :
    BitVec.ofNat 32 (if signed = true ∧ (v % 2 ^ k).testBit (k - 1) = true then v % 2 ^ k + (2 ^ 32 - 2 ^ k) else v % 2 ^ k) =
      if signed then (BitVec.ofNat k v).signExtend 32 else (BitVec.ofNat k v).setWidth 32 := by
  have hzero : BitVec.ofNat 32 (v % 2 ^ k) = (BitVec.ofNat k v).setWidth 32 := by
    apply BitVec.eq_of_toNat_eq
    simp only [BitVec.toNat_ofNat, BitVec.toNat_setWidth]
  rcases signed with _ | _
  · rw [if_neg (fun h => Bool.false_ne_true h.1)]
    exact hzero
  · rcases hmsb : (v % 2 ^ k).testBit (k - 1) with _ | _
    · rw [if_neg (fun h => Bool.false_ne_true h.2), if_pos rfl, hzero, BitVec.signExtend_eq_setWidth_of_msb_false]
      rw [msb_ofNat_eq_testBit, hmsb]
    · rw [if_pos ⟨rfl, rfl⟩, if_pos rfl]
      apply BitVec.eq_of_toNat_eq
      rw [BitVec.toNat_signExtend, msb_ofNat_eq_testBit, hmsb, if_pos rfl, BitVec.toNat_setWidth, BitVec.toNat_ofNat,
        BitVec.toNat_ofNat]
      have hlt : v % 2 ^ k < 2 ^ k := Nat.mod_lt _ (by positivity)
      by_cases hk : 2 ^ k ≤ 2 ^ 32
      · rw [Nat.mod_eq_of_lt (hlt.trans_le hk), Nat.mod_eq_of_lt (by omega)]
      · rw [Nat.sub_eq_zero_of_le (Nat.le_of_not_le hk), Nat.add_zero, Nat.add_zero]

/-- EXT beyond the horizon is absent at once, beyond the stored bytes with the tail alone. -/
theorem parseExt_eq : parseExt w horizon x =
    if horizon < extOff w x + extWidth w then .go (extPut w x ⟨0, true⟩)
    else if x.frame.len < extOff w x + extWidth w then (if x.tail then .go (extPut w x ⟨0, true⟩) else .wait)
    else .go (extPut w x ⟨extVal w x, false⟩) := by
  have hoff : (if bit w 10 = true then min (if bit w 10 = true then x.cur.toNat + bits w 23 16 else bits w 23 16) 0xFFFFFFFF
      else if bit w 10 = true then x.cur.toNat + bits w 23 16 else bits w 23 16) = extOff w x := by
    rw [extOff]
    split <;> rfl
  rw [extVal, ← ofNat_extended]
  simp only [parseExt, hoff]
  rfl

theorem parseExt_hidden (hfar : horizon < extOff w x + extWidth w) :
    parseExt w horizon x = .go (extPut w x ⟨0, true⟩) := by rw [parseExt_eq, if_pos hfar]

section Seen

variable (hnear : extOff w x + extWidth w ≤ horizon)
include hnear

theorem parseExt_absent (hlong : x.frame.len < extOff w x + extWidth w) (htail : x.tail = true) :
    parseExt w horizon x = .go (extPut w x ⟨0, true⟩) := by
  rw [parseExt_eq, if_neg (Nat.not_lt.2 hnear), if_pos hlong, if_pos htail]

theorem parseExt_wait (hlong : x.frame.len < extOff w x + extWidth w) (htail : x.tail = false) :
    parseExt w horizon x = .wait := by
  rw [parseExt_eq, if_neg (Nat.not_lt.2 hnear), if_pos hlong, if_neg (by simp [htail])]

theorem parseExt_found (hshort : extOff w x + extWidth w ≤ x.frame.len) :
    parseExt w horizon x = .go (extPut w x ⟨extVal w x, false⟩) := by
  rw [parseExt_eq, if_neg (Nat.not_lt.2 hnear), if_neg (Nat.not_lt.2 hshort)]

end Seen

theorem parseBr_always (h : bits w 17 15 = 6) : parseBr w x = .go { x with pc := bits w 23 18 } := by
  simp [parseBr, h, brCond]

end Opcodes

/-! ### A frame leaves its context -/

/-- The context is free, and the frame is named for its fallback or joins it, with a reason. -/
def FallsBack (n : MacNo) (c : Fin 16) (x : Ctx) (reason : Nat) (s t : State) : Prop :=
  t.ctx n c = none ∧ (s.heldFrame n x.frame.id = none → t.scoreOf n x.frame.id = .fallback reason) ∧
    ∀ g, s.heldFrame n x.frame.id = some g → g.good = true → 0 < g.cells → t.heldFrame n x.frame.id = none ∧
      NatMap.get (t.mac n).queues [] g.cellQ =
        insertFrame (NatMap.get (s.mac n).queues [] g.cellQ) { g with queue := g.cellQ, reason := reason }

section Leaves

variable {s u : State} {n : MacNo} {c : Fin 16} {x : Ctx}

theorem ctx_freeCtx (s : State) (n c : Nat) : (s.freeCtx n c).ctx n c = none := by
  rw [State.ctx, State.freeCtx, prh_updPrh, if_pos rfl, NatMap.find_del, if_pos rfl]

theorem keeps_freeCtx (s : State) (n c : Nat) : KeepsBut [.prhs] s (s.freeCtx n c) := keeps_updPrh s n _

theorem ctx_of_prhs {t : State} (h : t.prhs = u.prhs) (n c : Nat) : t.ctx n c = u.ctx n c := by
  rw [State.ctx, State.prh, h, State.ctx, State.prh]

theorem ctx_of_scoresMoved {t : State} {n : Nat} (h : ScoresMoved n u t) (c : Nat) : t.ctx n c = u.ctx n c := by
  rw [State.ctx, h, State.ctx]

/-- A frame that is not scored falls back, from any state in which its context is free and the MACs are as they were. -/
theorem fallsBack_unscored (hmacs : u.macs = s.macs) (hfree : u.ctx n c = none) (reason : Nat) :
    FallsBack n c x reason s (u.unscored n x.frame.id reason) := by
  have hheld := heldFrame_of_macs hmacs n x.frame.id
  have hqueues : (u.mac n).queues = (s.mac n).queues := by rw [State.mac, hmacs, State.mac]
  refine ⟨?_, fun h => scoreOf_unscored (hheld.trans h), fun g h hgood hcells => ?_⟩
  · rw [ctx_of_scoresMoved (scoresMoved_unscored u n x.frame.id reason), hfree]
  · rw [← hqueues]
    exact unscored_joins (hheld.trans h) hgood hcells

/-! ### Refusals (R250, R255, R257, R265) -/

/-- What PRHn_FRONT_STATUS and the counter of refused frames say of a frame, and its report. -/
def refusalNoted (u : State) (n : MacNo) (x : Ctx) (idx cause : Nat) : State :=
  (((((u.wr (Reg.PRH_FRONT_STATUS_LAST_FEAT n) idx).wr (Reg.PRH_FRONT_STATUS_LAST_CAUSE n) cause).wr
    (Reg.PRH_FRONT_STATUS_LAST_QUEUE n) x.frame.queue).wr (Reg.PRH_FRONT_STATUS_LAST_VALID n) 1).prhFrontCount n
      Reg.INVALID_REJECT).report (.featureInvalid n) (idx * 2 ^ 16 + cause * 2 ^ 22 + x.frame.queue * 2 ^ 25)

theorem refuseFrame_eq (u : State) (n : MacNo) (c : Nat) (x : Ctx) (idx cause : Nat) :
    u.refuseFrame n c x idx cause = (refusalNoted (u.freeCtx n c) n x idx cause).unscored n x.frame.id 2 := by
  simp only [State.refuseFrame, n.isLt, dite_true, refusalNoted]

theorem status_ne_front (n i : Nat) : Reg.PRH_STAT_FRONT n i ≠ Reg.PRH_FRONT_STATUS n := by
  rw [Reg.PRH_STAT_FRONT, Reg.PRH_FRONT_STATUS]
  omega

theorem keeps_refusalNoted (u : State) (n : MacNo) (x : Ctx) (idx cause : Nat) :
    KeepsBut [.regs, .io] u (refusalNoted u n x idx cause) :=
  KeepsBut_append (KeepsBut_trans (KeepsBut_trans (KeepsBut_trans (KeepsBut_trans (keeps_wr ..) (keeps_wr ..)) (keeps_wr ..))
    (keeps_wr ..)) (keeps_prhFrontCount ..)) (keeps_report ..)

theorem rd_refusalNoted (u : State) (n : MacNo) (x : Ctx) (idx cause : Nat) :
    (refusalNoted u n x idx cause).rd (Reg.PRH_STAT_FRONT_COUNT n Reg.INVALID_REJECT) =
        min (u.rd (Reg.PRH_STAT_FRONT_COUNT n Reg.INVALID_REJECT) + 1) (Reg.PRH_STAT_FRONT_COUNT n Reg.INVALID_REJECT).max ∧
      (refusalNoted u n x idx cause).rd (Reg.PRH_FRONT_STATUS_LAST_FEAT n) = idx % 64 ∧
      (refusalNoted u n x idx cause).rd (Reg.PRH_FRONT_STATUS_LAST_CAUSE n) = cause % 8 ∧
      (refusalNoted u n x idx cause).rd (Reg.PRH_FRONT_STATUS_LAST_VALID n) = 1 := by
  have hreport (t : State) (f : Fld) (d : Nat) : (t.report (.featureInvalid n) d).rd f = t.rd f :=
    HostCommands.rd_of_regs ((keeps_report t (.featureInvalid n) d).2 .regs (by decide)) f
  have hcounted (t : State) {f : Fld} (hf : f.off = Reg.PRH_FRONT_STATUS n) :
      (t.prhFrontCount n Reg.INVALID_REJECT).rd f = t.rd f :=
    rd_of_regsBut (regsBut_prhFrontCount t n _)
      (fun hmem => status_ne_front n Reg.INVALID_REJECT ((List.mem_singleton.1 hmem).symm.trans hf))
  have hwritten (t : State) {f : Fld} (v : Nat) (hf : f.off = Reg.PRH_FRONT_STATUS n) :
      (t.wr f v).rd (Reg.PRH_STAT_FRONT_COUNT n Reg.INVALID_REJECT) = t.rd (Reg.PRH_STAT_FRONT_COUNT n Reg.INVALID_REJECT) :=
    rd_of_regsBut (RegsBut_wr t f v) (fun hmem => status_ne_front n Reg.INVALID_REJECT ((List.mem_singleton.1 hmem).trans hf))
  refine ⟨?_, ?_, ?_, ?_⟩
  · rw [refusalNoted, hreport, rd_prhFrontCount, hwritten _ _ rfl, hwritten _ _ rfl, hwritten _ _ rfl, hwritten _ _ rfl]
  · rw [refusalNoted, hreport, hcounted _ rfl, rd_wr_apart _ _ rfl, rd_wr_apart _ _ rfl, rd_wr_apart _ _ rfl, rd_wr_same _ _ rfl]
    rfl
  · rw [refusalNoted, hreport, hcounted _ rfl, rd_wr_apart _ _ rfl, rd_wr_apart _ _ rfl, rd_wr_same _ _ rfl]
    rfl
  · rw [refusalNoted, hreport, hcounted _ rfl, rd_wr_same _ _ rfl]
    rfl

/-- The frame is refused as FEATURE_INVALID, with an index and a cause. -/
def Refused (n : MacNo) (c : Fin 16) (x : Ctx) (idx cause : Nat) (s t : State) : Prop :=
  FallsBack n c x 2 s t ∧ t.rd (Reg.PRH_STAT_FRONT_COUNT n Reg.INVALID_REJECT) =
      min (s.rd (Reg.PRH_STAT_FRONT_COUNT n Reg.INVALID_REJECT) + 1) (Reg.PRH_STAT_FRONT_COUNT n Reg.INVALID_REJECT).max ∧
    t.rd (Reg.PRH_FRONT_STATUS_LAST_FEAT n) = idx % 64 ∧ t.rd (Reg.PRH_FRONT_STATUS_LAST_CAUSE n) = cause % 8 ∧
    t.rd (Reg.PRH_FRONT_STATUS_LAST_VALID n) = 1 ∧ KeepsBut [.regs, .macs, .prhs, .io] s t

theorem keeps_refuseFrame (u : State) (n : MacNo) (c : Nat) (x : Ctx) (idx cause : Nat) :
    KeepsBut [.regs, .macs, .prhs, .io] u (u.refuseFrame n c x idx cause) := by
  rw [refuseFrame_eq]
  exact KeepsBut_mono (KeepsBut_append (KeepsBut_append (keeps_freeCtx u n c) (keeps_refusalNoted _ n x idx cause))
    (keeps_unscored _ n _ 2)) (by decide)

/-- A refusal, where no more has been counted before it than other counters. -/
theorem refused_refuseFrame (hkeeps : KeepsBut [.regs] s u)
    (hcount : u.rd (Reg.PRH_STAT_FRONT_COUNT n Reg.INVALID_REJECT) = s.rd (Reg.PRH_STAT_FRONT_COUNT n Reg.INVALID_REJECT))
    (idx cause : Nat) : Refused n c x idx cause s (u.refuseFrame n c x idx cause) := by
  have hall : KeepsBut [.regs, .macs, .prhs, .io] s (u.refuseFrame n c x idx cause) :=
    KeepsBut_mono (KeepsBut_append hkeeps (keeps_refuseFrame u n c x idx cause)) (by decide)
  rw [refuseFrame_eq] at hall ⊢
  have hnoted := keeps_refusalNoted (u.freeCtx n c) n x idx cause
  have hmacs : (refusalNoted (u.freeCtx n c) n x idx cause).macs = s.macs :=
    (hnoted.2 .macs (by decide)).trans (hkeeps.2 .macs (by decide))
  have hfree : (refusalNoted (u.freeCtx n c) n x idx cause).ctx n c = none :=
    (ctx_of_prhs (hnoted.2 .prhs (by decide)) n c).trans (ctx_freeCtx u n c)
  have hrd (f : Fld) := HostCommands.rd_of_regs ((keeps_unscored (refusalNoted (u.freeCtx n c) n x idx cause) n x.frame.id 2).2
    .regs (by decide)) f
  obtain ⟨hreject, hfeat, hcause, hvalid⟩ := rd_refusalNoted (u.freeCtx n c) n x idx cause
  refine ⟨fallsBack_unscored hmacs hfree 2, ?_, (hrd _).trans hfeat, (hrd _).trans hcause, (hrd _).trans hvalid, hall⟩
  rw [hrd, hreject, ← hcount]
  rfl

/-! ### The end of a parse (R249, R254, R255, R281) -/

/-- The frame is passed by, unscored. -/
def Passed (n : MacNo) (c : Fin 16) (x : Ctx) (s t : State) : Prop :=
  FallsBack n c x 1 s t ∧ t.rd (Reg.PRH_STAT_FRONT_COUNT n Reg.NS_PASS) =
      min (s.rd (Reg.PRH_STAT_FRONT_COUNT n Reg.NS_PASS) + 1) (Reg.PRH_STAT_FRONT_COUNT n Reg.NS_PASS).max ∧
    RegsBut [Reg.PRH_STAT_FRONT n Reg.NS_PASS] s t ∧ KeepsBut [.regs, .macs, .prhs] s t

theorem passed_passFrame (s : State) (n : MacNo) (c : Fin 16) (x : Ctx) : Passed n c x s (s.passFrame n c x) := by
  have hcounted := keeps_prhFrontCount (s.freeCtx n c) n Reg.NS_PASS
  have hregs : (s.passFrame n c x).regs = ((s.freeCtx n c).prhFrontCount n Reg.NS_PASS).regs :=
    (keeps_unscored _ n _ 1).2 .regs (by decide)
  refine ⟨fallsBack_unscored (hcounted.2 .macs (by decide)) ?_ 1, ?_, ?_, ?_⟩
  · exact (ctx_of_prhs (hcounted.2 .prhs (by decide)) n c).trans (ctx_freeCtx s n c)
  · exact (HostCommands.rd_of_regs hregs _).trans (rd_prhFrontCount (s.freeCtx n c) n Reg.NS_PASS)
  · exact RegsBut_trans (t := (s.freeCtx n c).prhFrontCount n Reg.NS_PASS) (regsBut_prhFrontCount (s.freeCtx n c) n _)
      (RegsBut_of_regs hregs _)
  · exact KeepsBut_mono (KeepsBut_append (KeepsBut_append (keeps_freeCtx s n c) hcounted) (keeps_unscored _ n _ 1)) (by decide)

/-- The vector is handed to evaluation, and a frame with a mapped feature is counted. -/
def HandedOn (n : MacNo) (c : Fin 16) (x : Ctx) (b : List Nat) (m : Bool) (s t : State) : Prop :=
  t.ctx n c = none ∧ (t.prh n).handed = (s.prh n).handed ++ [{ frame := x.frame, ens := x.ens, bins := b }] ∧
    t.rd (Reg.PRH_STAT_FRONT_COUNT n Reg.VECTORS_OUT) =
      min (s.rd (Reg.PRH_STAT_FRONT_COUNT n Reg.VECTORS_OUT) + 1) (Reg.PRH_STAT_FRONT_COUNT n Reg.VECTORS_OUT).max ∧
    t.rd (Reg.PRH_STAT_FRONT_COUNT n Reg.MAPPED) =
      min (s.rd (Reg.PRH_STAT_FRONT_COUNT n Reg.MAPPED) + b2n m) (Reg.PRH_STAT_FRONT_COUNT n Reg.MAPPED).max ∧
    RegsBut [Reg.PRH_STAT_FRONT n Reg.VECTORS_OUT, Reg.PRH_STAT_FRONT n Reg.MAPPED] s t ∧ KeepsBut [.regs, .prhs] s t

/-- A frame with a mapped feature is counted. -/
def mappedCounted (s : State) (n : Nat) (m : Bool) : State := s.when m (fun s => s.prhFrontCount n Reg.MAPPED)

theorem keeps_mappedCounted (s : State) (n : Nat) (m : Bool) : KeepsBut [.regs] s (mappedCounted s n m) :=
  keeps_when_count s (Reg.PRH_STAT_FRONT_COUNT n Reg.MAPPED) m

theorem regsBut_mappedCounted (s : State) (n : Nat) (m : Bool) :
    RegsBut [Reg.PRH_STAT_FRONT n Reg.MAPPED] s (mappedCounted s n m) := by
  cases m
  · exact RegsBut_refl _ s
  · exact regsBut_prhFrontCount s n _

theorem rd_mappedCounted (s : State) (n : Nat) (m : Bool) : (mappedCounted s n m).rd (Reg.PRH_STAT_FRONT_COUNT n Reg.MAPPED) =
    min (s.rd (Reg.PRH_STAT_FRONT_COUNT n Reg.MAPPED) + b2n m) (Reg.PRH_STAT_FRONT_COUNT n Reg.MAPPED).max :=
  rd_when_count s m rfl

theorem rd_mappedCounted_other (s : State) (n : Nat) (m : Bool) {i : Nat} (h : i ≠ Reg.MAPPED) :
    (mappedCounted s n m).rd (Reg.PRH_STAT_FRONT_COUNT n i) = s.rd (Reg.PRH_STAT_FRONT_COUNT n i) :=
  rd_of_regsBut (regsBut_mappedCounted s n m) (f := Reg.PRH_STAT_FRONT_COUNT n i)
    fun hmem => front_ne h (List.mem_singleton.1 hmem)

/-- The context is free and the vector counted. -/
def vectorCounted (s : State) (n c : Nat) (m : Bool) : State :=
  (mappedCounted (s.freeCtx n c) n m).prhFrontCount n Reg.VECTORS_OUT

/-- The frame waits for its score, if it was still being parsed. -/
def awaited (u : State) (n id : Nat) : State := if u.scoreOf n id = .parsing then u.setScore n id .handed else u

theorem keeps_awaited (u : State) (n id : Nat) : KeepsBut [.prhs] u (awaited u n id) := by
  unfold awaited
  split
  · exact keeps_setScore u n id _
  · exact KeepsBut_refl _ u

theorem scoresMoved_awaited (u : State) (n id : Nat) : ScoresMoved n u (awaited u n id) := by
  unfold awaited
  split
  · exact .setScore u n id _
  · exact .of_prhs rfl

/-- The vector joins those handed to evaluation. -/
def enqueued (u : State) (n : Nat) (v : Vec) : State := u.updPrh n (fun p => { p with handed := p.handed ++ [v] })

theorem endParse_vector {b : List Nat} {m : Bool}
    (h : s.features n x.slots (s.rd (Reg.PRH_FRONT_CTRL_NFEAT n)) [] false = .vector b m) : s.endParse n c x =
      enqueued (awaited (vectorCounted s n c m) n x.frame.id) n { frame := x.frame, ens := x.ens, bins := b } := by
  simp only [State.endParse, h]
  rfl

theorem refused_endParse {idx cause : Nat} {m : Bool}
    (h : s.features n x.slots (s.rd (Reg.PRH_FRONT_CTRL_NFEAT n)) [] false = .refused idx cause m) :
    Refused n c x idx cause s (s.endParse n c x) := by
  have hend : s.endParse n c x = (mappedCounted s n m).refuseFrame n c x idx cause := by
    simp only [State.endParse, h]
    rfl
  rw [hend]
  exact refused_refuseFrame (keeps_mappedCounted s n m) (rd_mappedCounted_other s n m (by decide)) idx cause

theorem rd_vectorCounted (s : State) (n c : Nat) (m : Bool) :
    (vectorCounted s n c m).rd (Reg.PRH_STAT_FRONT_COUNT n Reg.VECTORS_OUT) =
      min (s.rd (Reg.PRH_STAT_FRONT_COUNT n Reg.VECTORS_OUT) + 1) (Reg.PRH_STAT_FRONT_COUNT n Reg.VECTORS_OUT).max ∧
    (vectorCounted s n c m).rd (Reg.PRH_STAT_FRONT_COUNT n Reg.MAPPED) =
      min (s.rd (Reg.PRH_STAT_FRONT_COUNT n Reg.MAPPED) + b2n m) (Reg.PRH_STAT_FRONT_COUNT n Reg.MAPPED).max := by
  constructor
  · rw [vectorCounted, rd_prhFrontCount, rd_mappedCounted_other _ n m (by decide)]
    rfl
  · rw [vectorCounted, rd_prhFrontCount_other _ n (by decide), rd_mappedCounted]
    rfl

theorem regsBut_vectorCounted (s : State) (n c : Nat) (m : Bool) :
    RegsBut [Reg.PRH_STAT_FRONT n Reg.VECTORS_OUT, Reg.PRH_STAT_FRONT n Reg.MAPPED] s (vectorCounted s n c m) :=
  RegsBut_trans (t := mappedCounted (s.freeCtx n c) n m) (RegsBut_mono (regsBut_mappedCounted (s.freeCtx n c) n m) (by simp))
    (RegsBut_mono (regsBut_prhFrontCount _ n _) (by simp))

/-- Counting the vector leaves of the engine all but the context that is free. -/
theorem prh_vectorCounted (s : State) (n c : Nat) (m : Bool) :
    (vectorCounted s n c m).prh n = { s.prh n with ctxs := NatMap.del (s.prh n).ctxs c } := by
  have hprhs : (vectorCounted s n c m).prhs = (s.freeCtx n c).prhs :=
    (KeepsBut_trans (keeps_mappedCounted _ n m) (keeps_prhFrontCount _ n _)).2 .prhs (by decide)
  rw [State.prh, hprhs, ← State.prh, State.freeCtx, prh_updPrh, if_pos rfl]

theorem keeps_vectorCounted (s : State) (n c : Nat) (m : Bool) : KeepsBut [.regs, .prhs] s (vectorCounted s n c m) :=
  KeepsBut_mono (KeepsBut_append (keeps_freeCtx s n c) (KeepsBut_trans (keeps_mappedCounted _ n m) (keeps_prhFrontCount _ n _)))
    (by decide)

theorem handedOn_endParse {b : List Nat} {m : Bool}
    (h : s.features n x.slots (s.rd (Reg.PRH_FRONT_CTRL_NFEAT n)) [] false = .vector b m) :
    HandedOn n c x b m s (s.endParse n c x) := by
  rw [endParse_vector h]
  have hlate := KeepsBut_trans (keeps_awaited (vectorCounted s n c m) n x.frame.id)
    (keeps_updPrh _ n (fun p => { p with handed := p.handed ++ [{ frame := x.frame, ens := x.ens, bins := b }] }))
  have hregs := hlate.2 .regs (by decide)
  have hprh : (awaited (vectorCounted s n c m) n x.frame.id).prh n = { s.prh n with
      ctxs := NatMap.del (s.prh n).ctxs c, scores := ((awaited (vectorCounted s n c m) n x.frame.id).prh n).scores } := by
    rw [scoresMoved_awaited, prh_vectorCounted]
  obtain ⟨hout, hmapped⟩ := rd_vectorCounted s n c m
  refine ⟨?_, ?_, (HostCommands.rd_of_regs hregs _).trans hout, (HostCommands.rd_of_regs hregs _).trans hmapped,
    RegsBut_trans (regsBut_vectorCounted s n c m) (RegsBut_of_regs hregs _),
    KeepsBut_mono (KeepsBut_append (keeps_vectorCounted s n c m) hlate) (by decide)⟩
  · rw [State.ctx, enqueued, prh_updPrh, if_pos rfl, hprh, NatMap.find_del, if_pos rfl]
  · rw [enqueued, prh_updPrh, if_pos rfl, hprh]

end Leaves

/-! ### What the ends answer -/

section Ends

variable {s : State} {n : MacNo} {c : Fin 16} {x : Ctx} (hctx : s.ctx n c = some x) (hpower : s.macPowered n = true)
  {i : Instr} {op : Nat} (hi : exec i s = actRim (fun s => s.parseRow n c op) s) (hop : instrOf s n x % 64 = op)
include hctx hpower hi hop

theorem runs_absent (hstep : parseStep (instrOf s n x) (horizonOf s n) x = .absent) : Runs i s (Refused n c x x.pc 4 s) := by
  refine runs_of_actRim hi (u := s.refuseFrame n c x x.pc 4) ?_ (keeps_refuseFrame s n c x x.pc 4) (by decide)
    (refused_refuseFrame (KeepsBut_refl _ s) rfl x.pc 4)
  rw [parseRow_eq hctx hpower hop, hstep, answered]

theorem runs_pass (hstep : parseStep (instrOf s n x) (horizonOf s n) x = .pass) : Runs i s (Passed n c x s) := by
  obtain ⟨-, -, -, hkeeps⟩ := passed_passFrame s n c x
  refine runs_of_actRim hi ?_ hkeeps (by decide) (passed_passFrame s n c x)
  rw [parseRow_eq hctx hpower hop, hstep, answered]

theorem runs_refused {idx cause : Nat} {m : Bool} (hstep : parseStep (instrOf s n x) (horizonOf s n) x = .done)
    (h : s.features n x.slots (s.rd (Reg.PRH_FRONT_CTRL_NFEAT n)) [] false = .refused idx cause m) :
    Runs i s (Refused n c x idx cause s) := by
  obtain ⟨-, -, -, -, -, hkeeps⟩ := refused_endParse (c := c) h
  refine runs_of_actRim hi ?_ hkeeps (by decide) (refused_endParse h)
  rw [parseRow_eq hctx hpower hop, hstep, answered]

theorem runs_vector {b : List Nat} {m : Bool} (hstep : parseStep (instrOf s n x) (horizonOf s n) x = .done)
    (h : s.features n x.slots (s.rd (Reg.PRH_FRONT_CTRL_NFEAT n)) [] false = .vector b m) :
    Runs i s (HandedOn n c x b m s) := by
  obtain ⟨-, -, -, -, -, hkeeps⟩ := handedOn_endParse (c := c) h
  refine runs_of_actRim hi ?_ hkeeps (by decide) (handedOn_endParse h)
  rw [parseRow_eq hctx hpower hop, hstep, answered]

end Ends

/-- Settles O45, opcode by opcode: an instruction's word decides on one answer of the parse machine, and that on one change
of the state. -/
theorem parseInstructionsRun : Obligations.ParseInstructionsRun := by
  unfold Obligations.ParseInstructionsRun
  intro s n c x hctx hpower
  refine ⟨fun hop => ⟨fun hfar => ?hidden, fun hnear hlong htail => ?absent, fun hnear hlong htail => ?wait,
      fun hnear hshort => ?found⟩, fun hop => ?field, fun hop => ?alu,
    fun hop => ⟨fun himm => ?advance, fun hreg hset => ?advanceBy, fun hreg habsent => ?lost⟩,
    fun hop => ⟨fun hcond => ?always, fun hcond ha hb => ?branch, fun hcond habsent => ?astray⟩, fun hop => ?feat,
    fun hop => ⟨fun hpass => ?pass, fun i e m hpass hfeat => ?refused, fun b m hpass hfeat => ?vector⟩⟩
  case hidden => exact runs_go hctx hpower rfl hop ((parseStep_ext hop).trans (parseExt_hidden hfar))
  case absent => exact runs_go hctx hpower rfl hop ((parseStep_ext hop).trans (parseExt_absent hnear hlong htail))
  case wait => exact exec_wait hctx hpower rfl hop ((parseStep_ext hop).trans (parseExt_wait hnear hlong htail))
  case found => exact runs_go hctx hpower rfl hop ((parseStep_ext hop).trans (parseExt_found hnear hshort))
  case field => exact runs_go hctx hpower rfl hop (parseStep_meta hop)
  case alu => exact runs_go hctx hpower rfl hop (parseStep_alu hop)
  case advance => exact runs_go hctx hpower rfl hop ((parseStep_adv hop).trans (if_neg (by simp [himm])))
  case advanceBy =>
    exact runs_go hctx hpower rfl hop ((parseStep_adv hop).trans ((if_pos hreg).trans (if_neg (by simp [hset]))))
  case lost => exact runs_absent hctx hpower rfl hop ((parseStep_adv hop).trans ((if_pos hreg).trans (if_pos habsent)))
  case always => exact runs_go hctx hpower rfl hop ((parseStep_br hop).trans (parseBr_always hcond))
  case branch =>
    refine runs_go hctx hpower rfl hop ((parseStep_br hop).trans (if_neg ?_))
    rintro ⟨-, h | h⟩
    · exact Bool.false_ne_true (ha.symm.trans h)
    · exact Bool.false_ne_true (hb.symm.trans h)
  case astray => exact runs_absent hctx hpower rfl hop ((parseStep_br hop).trans (if_pos ⟨hcond, habsent⟩))
  case feat => exact runs_go hctx hpower rfl hop (parseStep_feat hop)
  case pass => exact runs_pass hctx hpower rfl hop ((parseStep_end hop).trans (if_pos hpass))
  case refused =>
    exact runs_refused hctx hpower rfl hop ((parseStep_end hop).trans (if_neg (by simp [hpass]))) hfeat
  case vector =>
    exact ⟨FeatureVectors.features_length hfeat,
      runs_vector hctx hpower rfl hop ((parseStep_end hop).trans (if_neg (by simp [hpass]))) hfeat⟩

end Sys2Proof.Proofs.ParseInstructions
end

section
/-! Evaluation: which vectors get a reply, how the others are counted, and the reports that waited (R257, R273 to R288). -/

namespace Sys2Proof.Proofs.VectorEvaluation

open Sys2Proof.Machine Sys2Proof.Safety Sys2Proof.Laws Sys2Proof.Proofs.Frames Sys2Proof.Proofs.MacSteps
open Sys2Proof.Proofs.EngineDecisions
open Sys2Proof.Proofs.FrameReception (keeps_setScore scoreOf_setScore keeps_reportNotScored)

/-! ### The vector that is evaluated -/

/-- The vector has left those that wait; `rest` still do. -/
def taken (s : State) (n : Nat) (rest : List Vec) : State := s.setPrh n { s.prh n with handed := rest }

/-- The scores of a vector under an ensemble. -/
def scoresOf (v : Vec) (e : Ens) : List ScoreVal :=
  (List.range e.nout).map (fun o => scoreOut e.trees v.bins e.nout o e.fixed (nthD e.base o 0))

/-- The first score lies in the escalation band of the frame's queue. -/
def escalates (s : State) (n : Nat) (v : Vec) (e : Ens) : Bool :=
  (nthD (scoresOf v e) 0 (.fp 0)).inBand (BitVec.ofNat 32 (s.rd (Reg.PRH_ESC_LO n v.frame.queue)))
    (BitVec.ofNat 32 (s.rd (Reg.PRH_ESC_HI n v.frame.queue)))

section Branches

variable {s : State} {n : Nat} {busy : List Bool} {v : Vec} {rest : List Vec} (hhead : (s.prh n).handed = v :: rest)
include hhead

/-- No ensemble is resident in the slot that the vector names. -/
theorem evaluate_absent (hens : NatMap.find (s.prh n).ens v.ens = none) :
    s.evaluate n busy = (taken s n rest).unscored n v.frame.id 1 := by
  simp only [State.evaluate, hhead, hens, taken]

variable {e : Ens} (hens : NatMap.find (s.prh n).ens v.ens = some e)
include hens

/-- With an ensemble, the conditions for a reply one by one (R278, R280, R285, R286). -/
theorem evaluate_resident : s.evaluate n busy =
    if s.portFree n busy = false then (taken s n rest).notScored n v Reg.NS_BUSY 3
    else if escalates s n v e then ((taken s n rest).prhEvalCount n Reg.ESCALATED).unscored n v.frame.id 3
    else if s.verdictOf n v.frame.id = some false then (taken s n rest).cancelUnbuilt n v
    else if 16 ≤ (s.prh n).queued then (taken s n rest).notScored n v Reg.NS_TXFULL 4
    else (taken s n rest).queueReply n v e (scoresOf v e) := by
  simp only [State.evaluate, hhead, hens, taken]
  rfl

theorem evaluate_busy (hport : s.portFree n busy = false) :
    s.evaluate n busy = (taken s n rest).notScored n v Reg.NS_BUSY 3 := by
  rw [evaluate_resident hhead hens, if_pos hport]

variable (hport : s.portFree n busy = true)
include hport

theorem evaluate_escalated (hband : escalates s n v e = true) :
    s.evaluate n busy = ((taken s n rest).prhEvalCount n Reg.ESCALATED).unscored n v.frame.id 3 := by
  rw [evaluate_resident hhead hens, if_neg (by simp [hport]), if_pos hband]

variable (hband : escalates s n v e = false)
include hband

theorem evaluate_cancelled (hbad : s.verdictOf n v.frame.id = some false) :
    s.evaluate n busy = (taken s n rest).cancelUnbuilt n v := by
  rw [evaluate_resident hhead hens, if_neg (by simp [hport]), if_neg (by simp [hband]), if_pos hbad]

variable (hgood : s.verdictOf n v.frame.id ≠ some false)
include hgood

theorem evaluate_full (hfull : 16 ≤ (s.prh n).queued) :
    s.evaluate n busy = (taken s n rest).notScored n v Reg.NS_TXFULL 4 := by
  rw [evaluate_resident hhead hens, if_neg (by simp [hport]), if_neg (by simp [hband]), if_neg hgood, if_pos hfull]

theorem evaluate_replied (hroom : (s.prh n).queued < 16) :
    s.evaluate n busy = (taken s n rest).queueReply n v e (scoresOf v e) := by
  rw [evaluate_resident hhead hens, if_neg (by simp [hport]), if_neg (by simp [hband]), if_neg hgood,
    if_neg (Nat.not_le.2 hroom)]

end Branches

/-! ### What becomes of it -/

section Outcomes

variable {s t u : State} {n : Nat} {v : Vec} {rest : List Vec}

theorem prh_taken (s : State) (n : Nat) (rest : List Vec) : (taken s n rest).prh n = { s.prh n with handed := rest } := by
  rw [taken, prh_setPrh, if_pos rfl]

theorem keeps_taken (s : State) (n : Nat) (rest : List Vec) : KeepsBut [.prhs] s (taken s n rest) := keeps_setPrh s n _

/-- The vector has left those that wait, and the engine's scores alone may have changed with it. -/
def Decided (n : Nat) (rest : List Vec) (s t : State) : Prop :=
  t.prh n = { s.prh n with handed := rest, scores := (t.prh n).scores }

theorem Decided.of_scoresMoved (h : ScoresMoved n (taken s n rest) t) : Decided n rest s t := by
  rw [Decided, h, prh_taken]

theorem Decided.handed (h : Decided n rest s t) : (t.prh n).handed = rest := by rw [h]
theorem Decided.replies (h : Decided n rest s t) : (t.prh n).replies = (s.prh n).replies := by rw [h]
theorem Decided.seq (h : Decided n rest s t) : (t.prh n).seq = (s.prh n).seq := by rw [h]

/-- One counter of the evaluation is raised, and no other register changes. -/
def CountsOne (n i : Nat) (s t : State) : Prop :=
  t.rd (Reg.PRH_STAT_EVAL_COUNT n i) =
      min (s.rd (Reg.PRH_STAT_EVAL_COUNT n i) + 1) (Reg.PRH_STAT_EVAL_COUNT n i).max ∧
    RegsBut [Reg.PRH_STAT_EVAL n i] s t

/-- What follows a count and changes no register leaves one count. -/
theorem countsOne_of_regs {i : Nat} (hs : u.regs = s.regs) (ht : t.regs = (u.prhEvalCount n i).regs) : CountsOne n i s t := by
  constructor
  · rw [HostCommands.rd_of_regs ht, rd_prhEvalCount, HostCommands.rd_of_regs hs]
  · exact RegsBut_trans (RegsBut_of_regs hs _) (RegsBut_trans (regsBut_prhEvalCount u n i) (RegsBut_of_regs ht _))

/-- The frame of the vector falls back, unscored, and the engine builds no reply. -/
def FallsUnscored (n : Nat) (v : Vec) (rest : List Vec) (reason : Nat) (s t : State) : Prop :=
  Decided n rest s t ∧ (s.heldFrame n v.frame.id = none → t.scoreOf n v.frame.id = .fallback reason) ∧
    KeepsBut [.regs, .macs, .prhs, .io] s t

/-- The frame falls back from any state in which the engine and the MACs are as the vector left them. -/
theorem fallsUnscored_unscored (hkeeps : KeepsBut [.regs, .io] (taken s n rest) u) (reason : Nat) :
    FallsUnscored n v rest reason s (u.unscored n v.frame.id reason) := by
  have hmoved : ScoresMoved n (taken s n rest) (u.unscored n v.frame.id reason) :=
    (ScoresMoved.of_keeps hkeeps (by decide)).trans (scoresMoved_unscored u n v.frame.id reason)
  have hheld : u.heldFrame n v.frame.id = s.heldFrame n v.frame.id :=
    heldFrame_of_macs (s := s) (hkeeps.2 .macs (by decide)) n v.frame.id
  exact ⟨.of_scoresMoved hmoved, fun h => scoreOf_unscored (hheld.trans h),
    KeepsBut_mono (KeepsBut_append (KeepsBut_append (keeps_taken s n rest) hkeeps) (keeps_unscored u n _ reason)) (by decide)⟩

/-- A vector that no port or no reply queue takes is counted, and its frame falls back. -/
theorem notScored_falls (s : State) (n : Nat) (v : Vec) (rest : List Vec) (i reason : Nat) :
    FallsUnscored n v rest 1 s ((taken s n rest).notScored n v i reason) ∧
      CountsOne n i s ((taken s n rest).notScored n v i reason) := by
  have hcounted := keeps_prhEvalCount (taken s n rest) n i
  have hreported := keeps_reportNotScored ((taken s n rest).prhEvalCount n i) n reason v.frame.queue
  refine ⟨fallsUnscored_unscored (KeepsBut_append hcounted hreported) 1, countsOne_of_regs (u := taken s n rest) rfl ?_⟩
  exact ((keeps_unscored _ n v.frame.id 1).2 .regs (by decide)).trans (hreported.2 .regs (by decide))

/-- A vector in the escalation band is counted, and its frame falls back with REASON 3 (R278). -/
theorem escalated_falls (s : State) (n : Nat) (v : Vec) (rest : List Vec) :
    FallsUnscored n v rest 3 s (((taken s n rest).prhEvalCount n Reg.ESCALATED).unscored n v.frame.id 3) ∧
      CountsOne n Reg.ESCALATED s (((taken s n rest).prhEvalCount n Reg.ESCALATED).unscored n v.frame.id 3) :=
  ⟨fallsUnscored_unscored (KeepsBut_mono (keeps_prhEvalCount (taken s n rest) n _) (by decide)) 3,
    countsOne_of_regs (u := taken s n rest) rfl ((keeps_unscored _ n v.frame.id 3).2 .regs (by decide))⟩

/-! ### A bad verdict before the reply (R286) -/

/-- The frame past its tail, if it is there, is let go. -/
def cleared (u : State) (n id : Nat) : State :=
  match u.heldFrame n id with
  | some f => letGo u n f
  | none => u

theorem keeps_cleared (u : State) (n id : Nat) : KeepsBut [.macs, .prhs] u (cleared u n id) := by
  unfold cleared
  split
  · exact keeps_letGo u n _
  · exact KeepsBut_refl _ u

theorem scoresMoved_cleared (u : State) (n id : Nat) : ScoresMoved n u (cleared u n id) := by
  unfold cleared
  split
  · exact scoresMoved_letGo u n _
  · exact .of_prhs rfl

theorem cancelUnbuilt_eq (u : State) (n : Nat) (v : Vec) :
    u.cancelUnbuilt n v = cleared (u.prhEvalCount n Reg.REPLY_CANCELLED) n v.frame.id := by
  unfold State.cancelUnbuilt cleared letGo released
  rfl

theorem cancelUnbuilt_counts (s : State) (n : Nat) (v : Vec) (rest : List Vec) :
    Decided n rest s ((taken s n rest).cancelUnbuilt n v) ∧
      CountsOne n Reg.REPLY_CANCELLED s ((taken s n rest).cancelUnbuilt n v) ∧
      KeepsBut [.regs, .macs, .prhs] s ((taken s n rest).cancelUnbuilt n v) := by
  rw [cancelUnbuilt_eq]
  have hcounted := keeps_prhEvalCount (taken s n rest) n Reg.REPLY_CANCELLED
  have hcleared := keeps_cleared ((taken s n rest).prhEvalCount n Reg.REPLY_CANCELLED) n v.frame.id
  exact ⟨.of_scoresMoved ((ScoresMoved.of_keeps hcounted (by decide)).trans (scoresMoved_cleared _ n _)),
    countsOne_of_regs (u := taken s n rest) rfl (hcleared.2 .regs (by decide)),
    KeepsBut_mono (KeepsBut_append (KeepsBut_append (keeps_taken s n rest) hcounted) hcleared) (by decide)⟩

/-! ### A reply (R283 to R288) -/

/-- The reply to a vector, built from its ensemble's template. -/
def replyOf (s : State) (n : Nat) (v : Vec) (e : Ens) : Reply :=
  { bytes := buildReply e.template v.frame.bytes (fun _ => 0) v.frame.len (scoresOf v e) e.frac (s.prh n).seq
    seq := (s.prh n).seq, frameId := v.frame.id, slot := v.ens, tags := fld e.template 2 1
    hold := s.rdb (Reg.MAC_QUEUE_CFG_HOLD_FCS n v.frame.queue), good := s.verdictOf n v.frame.id, paused := false, ibex := false }

/-- The reply is queued, under the next sequence number. -/
def replyQueued (s : State) (n : Nat) (rest : List Vec) (r : Reply) : State :=
  (taken s n rest).setPrh n { (taken s n rest).prh n with
    seq := ((taken s n rest).prh n).seq + 1, replies := ((taken s n rest).prh n).replies ++ [r] }

/-- The frame has its reply: past its tail it is let go. -/
def answeredFrame (u : State) (n id : Nat) : State :=
  match u.heldFrame n id with
  | some f => letGo u n f
  | none => u.setScore n id .replied

theorem keeps_answeredFrame (u : State) (n id : Nat) : KeepsBut [.macs, .prhs] u (answeredFrame u n id) := by
  unfold answeredFrame
  split
  · exact keeps_letGo u n _
  · exact KeepsBut_mono (keeps_setScore u n id _) (by decide)

theorem scoresMoved_answeredFrame (u : State) (n id : Nat) : ScoresMoved n u (answeredFrame u n id) := by
  unfold answeredFrame
  split
  · exact scoresMoved_letGo u n _
  · exact .setScore u n id _

theorem scoreOf_answeredFrame {id : Nat} (h : u.heldFrame n id = none) : (answeredFrame u n id).scoreOf n id = .replied := by
  simp only [answeredFrame, h]
  exact scoreOf_setScore u n id _

/-- With room among the retracts the reply is held for HOLD_FCS alone. -/
theorem queueReply_eq {e : Ens} (hroom : (s.prh n).retracts.length < 16) :
    (taken s n rest).queueReply n v e (scoresOf v e) =
      answeredFrame (replyQueued s n rest (replyOf s n v e)) n v.frame.id := by
  have hretracts : ((taken s n rest).prh n).retracts = (s.prh n).retracts := by rw [prh_taken]
  have hseq : ((taken s n rest).prh n).seq = (s.prh n).seq := by rw [prh_taken]
  have hfull : decide (16 ≤ ((taken s n rest).prh n).retracts.length) = false := by
    rw [hretracts]
    exact decide_eq_false (Nat.not_le.2 hroom)
  have hreply : replyOf (taken s n rest) n v e = replyOf s n v e := by
    rw [replyOf, hseq]
    rfl
  rw [← hreply]
  simp only [State.queueReply, hfull, Bool.or_false, Bool.false_and, Bool.false_eq_true, if_false]
  rfl

/-- The vector has its reply. -/
def Replied (n : Nat) (v : Vec) (e : Ens) (rest : List Vec) (s t : State) : Prop :=
  (t.prh n).handed = rest ∧ (t.prh n).seq = (s.prh n).seq + 1 ∧ (t.prh n).replies = (s.prh n).replies ++ [replyOf s n v e] ∧
    (s.heldFrame n v.frame.id = none → t.scoreOf n v.frame.id = .replied) ∧ KeepsBut [.macs, .prhs] s t

theorem queueReply_replied {e : Ens} (hroom : (s.prh n).retracts.length < 16) :
    Replied n v e rest s ((taken s n rest).queueReply n v e (scoresOf v e)) := by
  rw [queueReply_eq hroom]
  have hmoved := scoresMoved_answeredFrame (replyQueued s n rest (replyOf s n v e)) n v.frame.id
  have hqueued : (replyQueued s n rest (replyOf s n v e)).prh n =
      { s.prh n with handed := rest, seq := (s.prh n).seq + 1, replies := (s.prh n).replies ++ [replyOf s n v e] } := by
    rw [replyQueued, prh_setPrh, if_pos rfl, prh_taken]
  refine ⟨?_, ?_, ?_, fun h => scoreOf_answeredFrame h, ?_⟩
  · rw [hmoved, hqueued]
  · rw [hmoved, hqueued]
  · rw [hmoved, hqueued]
  · exact KeepsBut_mono (KeepsBut_append (KeepsBut_append (keeps_taken s n rest) (keeps_setPrh _ n _))
      (keeps_answeredFrame _ n _)) (by decide)

end Outcomes

/-! ### What EVALUATE answers -/

theorem runs_evaluate {s u : State} {n : MacNo} {busy : List Bool} {l : List Part} {P : State → Prop}
    (hpower : s.macPowered n = true) (hu : s.evaluate n busy = u) (hk : KeepsBut l s u) (hl : l ⊆ rimParts) (h : P u) :
    Runs (.evaluate n busy) s P :=
  runs_of_actRim (f := fun s => if s.macPowered n then s.evaluate n busy else s) rfl ((if_pos hpower).trans hu) hk hl h

/-- The frame falls back, and more may be known of the registers. -/
theorem runs_falls {s u : State} {n : MacNo} {busy : List Bool} {v : Vec} {rest : List Vec} {reason : Nat}
    {P : State → Prop} (hpower : s.macPowered n = true) (hu : s.evaluate n busy = u)
    (h : FallsUnscored n v rest reason s u) (hP : P u) :
    Runs (.evaluate n busy) s (fun t => (t.prh n).handed = rest ∧ ((t.prh n).replies = (s.prh n).replies ∧
      (t.prh n).seq = (s.prh n).seq ∧ (s.heldFrame n v.frame.id = none → t.scoreOf n v.frame.id = .fallback reason) ∧
      KeepsBut [.regs, .macs, .prhs, .io] s t) ∧ P t) := by
  obtain ⟨hdecided, hscore, hkeeps⟩ := h
  exact runs_evaluate hpower hu hkeeps (by decide)
    ⟨hdecided.handed, ⟨hdecided.replies, hdecided.seq, hscore, hkeeps⟩, hP⟩

/-! ### Reports that waited (R257) -/

section Reports

variable {s : State} {src : ReportSrc} {l : Lim}

theorem keeps_io (s : State) (x : Io) : KeepsBut [.io] s { s with io := x } :=
  ⟨rfl, fun p hp => by cases p <;> first | rfl | exact absurd (List.mem_singleton_self _) hp⟩

theorem keeps_postReport (s : State) (src : ReportSrc) (n d : Nat) : KeepsBut [.io] s (s.postReport src n d) := by
  cases src <;> exact keeps_post s _ _ _ _

theorem events_postReport_length (s : State) (src : ReportSrc) (n d : Nat) :
    (s.postReport src n d).io.events.length = s.io.events.length + 1 := by
  cases src <;> exact List.length_append

/-- A report of what has happened adds no limiter. -/
theorem lims_postReport (s : State) (src : ReportSrc) (n d : Nat) : (s.postReport src n d).io.lims = s.io.lims := by
  cases src <;> rfl

theorem find?_lims_dropped (ls : List Lim) (src : ReportSrc) :
    (ls.filter (fun m => decide (m.src ≠ src))).find? (fun m => decide (m.src = src)) = none := by
  simp [List.find?_eq_none]

/-- The limiter whose record was posted counts from 0 again. -/
def restarted (src : ReportSrc) (m : Lim) : Lim := if m.src = src then { m with count := 0 } else m

theorem restarted_src (src : ReportSrc) (m : Lim) : (restarted src m).src = m.src := by
  unfold restarted
  split <;> rfl

theorem find?_lims_restarted {ls : List Lim} (h : ls.find? (fun m => decide (m.src = src)) = some l) :
    (ls.map (restarted src)).find? (fun m => decide (m.src = src)) = some { l with count := 0 } := by
  have hsrc : l.src = src := by simpa using List.find?_some h
  have hsame : (fun m => decide (m.src = src)) ∘ restarted src = fun m => decide (m.src = src) := by
    funext m
    rw [Function.comp_apply, restarted_src]
  rw [List.find?_map, hsame, h, Option.map_some, restarted, if_pos hsrc]

/-- What has waited at a source is posted; a source at which nothing waits is forgotten. -/
def reported (src : ReportSrc) (s : State) : State :=
  match s.io.lims.find? (fun l => decide (l.src = src)) with
  | none => s
  | some l =>
    if l.count = 0 then { s with io := { s.io with lims := s.io.lims.filter (fun m => decide (m.src ≠ src)) } }
    else { s.postReport src l.count l.detail with io := { (s.postReport src l.count l.detail).io with
             lims := (s.postReport src l.count l.detail).io.lims.map (restarted src) } }

theorem exec_rateLimitedReport (s : State) (src : ReportSrc) : exec (.rateLimitedReport src) s = actRim (reported src) s := rfl

variable (hlim : s.io.lims.find? (fun l => decide (l.src = src)) = some l)
include hlim

theorem runs_rateLimitedReport_silent (hnone : l.count = 0) : Runs (.rateLimitedReport src) s (fun t =>
    t.io = { s.io with lims := t.io.lims } ∧ t.io.lims.find? (fun l => decide (l.src = src)) = none ∧
      KeepsBut [.io] s t) := by
  have hkeeps := keeps_io s { s.io with lims := s.io.lims.filter (fun m => decide (m.src ≠ src)) }
  refine runs_of_actRim (exec_rateLimitedReport s src) ?_ hkeeps (by decide)
    ⟨rfl, find?_lims_dropped s.io.lims src, hkeeps⟩
  simp only [reported, hlim, hnone, if_true]

theorem runs_rateLimitedReport_posted (hsome : l.count ≠ 0) : Runs (.rateLimitedReport src) s (fun t =>
    t.io.events = (s.postReport src l.count l.detail).io.events ∧ t.io.events.length = s.io.events.length + 1 ∧
      t.io.lims.find? (fun l => decide (l.src = src)) = some { l with count := 0 } ∧ KeepsBut [.io] s t) := by
  have hkeeps := KeepsBut_trans (keeps_postReport s src l.count l.detail) (keeps_io _
    { (s.postReport src l.count l.detail).io with
      lims := (s.postReport src l.count l.detail).io.lims.map (restarted src) })
  refine runs_of_actRim (exec_rateLimitedReport s src) ?_ hkeeps (by decide)
    ⟨rfl, events_postReport_length s src _ _, ?_, hkeeps⟩
  · simp only [reported, hlim, if_neg hsome]
  · dsimp only
    rw [lims_postReport]
    exact find?_lims_restarted hlim

end Reports

/-- Settles O46: each way out of an evaluation by its own lemma, in the order in which the engine asks; then the reports, and
the facts of bins, paths and sums. -/
theorem vectorsAreScored : Obligations.VectorsAreScored := by
  unfold Obligations.VectorsAreScored
  refine ⟨⟨fun s n busy v rest hhead hpower => ⟨fun hens => ?absent, fun e hens hport => ?busy, fun e hens hport =>
      ⟨fun hband => ?escalated, fun hband hbad => ?cancelled, fun hband hgood hfull => ?full,
        fun hband hgood hroom hretracts => ?replied⟩⟩,
    fun s src l hlim => ⟨runs_rateLimitedReport_silent hlim, runs_rateLimitedReport_posted hlim⟩⟩,
    fun s n slots k b m h => ⟨FeatureVectors.features_length h, FeatureVectors.features_lt_ecard h⟩,
    fun vec nodes d => (FeatureVectors.walkTree_lt vec nodes d 0 0).trans_eq (by ring),
    fun trees trees' vec nout o base h => FeatureVectors.scoreOut_perm h vec nout o base⟩
  case absent =>
    obtain ⟨hdecided, hscore, hkeeps⟩ : FallsUnscored n v rest 1 s ((taken s n rest).unscored n v.frame.id 1) :=
      fallsUnscored_unscored (KeepsBut_refl _ _) 1
    exact runs_evaluate hpower (evaluate_absent hhead hens) hkeeps (by decide)
      ⟨hdecided.handed, hdecided.replies, hdecided.seq, hscore, hkeeps⟩
  case busy =>
    obtain ⟨hfalls, hcounts⟩ := notScored_falls s n v rest Reg.NS_BUSY 3
    exact runs_falls hpower (evaluate_busy hhead hens hport) hfalls hcounts
  case escalated =>
    obtain ⟨hfalls, hcounts⟩ := escalated_falls s n v rest
    exact runs_falls hpower (evaluate_escalated hhead hens hport hband) hfalls hcounts
  case cancelled =>
    obtain ⟨hdecided, hcounts, hkeeps⟩ := cancelUnbuilt_counts s n v rest
    exact runs_evaluate hpower (evaluate_cancelled hhead hens hport hband hbad) hkeeps (by decide)
      ⟨hdecided.handed, hdecided.replies, hcounts, hdecided.seq, hkeeps⟩
  case full =>
    obtain ⟨hfalls, hcounts⟩ := notScored_falls s n v rest Reg.NS_TXFULL 4
    exact runs_falls hpower (evaluate_full hhead hens hport hband hgood hfull) hfalls hcounts
  case replied =>
    obtain ⟨hhanded, hseq, hreplies, hscore, hkeeps⟩ :=
      queueReply_replied (n := n.val) (v := v) (e := e) (rest := rest) hretracts
    exact runs_evaluate hpower (evaluate_replied hhead hens hport hband hgood hroom) hkeeps (by decide)
      ⟨hhanded, hseq, hreplies, hscore, hkeeps⟩

end Sys2Proof.Proofs.VectorEvaluation
end

section
/-! The Ibex streamer's batches: how one closes, which one streams next and what streaming reads, how its vectors are
answered, and what its commands do to models and to stops (R294 to R301, R310). -/

namespace Sys2Proof.Proofs.IbexBatches

open Sys2Proof.Machine Sys2Proof.Safety Sys2Proof.Laws Sys2Proof.Proofs.Frames
open Sys2Proof.Proofs.StackLines Sys2Proof.Proofs.MacSteps Sys2Proof.Proofs.ResidentWrites
open Sys2Proof.Proofs.StackSteps (rd_count_same rd_of_regsBut)

/-! ### A batch closes (R297, R298) -/

/-- The streamer after a batch of model `n` has closed. -/
def batchClosed (x : Ibx) (n : Nat) (b : Batch) : Ibx :=
  { x with opened := x.opened.filter (fun c => decide (c.model ≠ n)), closed := x.closed ++ [b] }

/-- The batch has closed, and the streamer stops. -/
def closedStopped (s : State) (n : Nat) (b : Batch) : State :=
  ({ s with ibx := { batchClosed s.ibx n b with stops := s.ibx.stops + 1 } } : State).postOpenStop 7 Source.ibx
    [n, b.vecs.length]

theorem keeps_closedStopped (s : State) (n : Nat) (b : Batch) : KeepsBut [.ibx, .io] s (closedStopped s n b) :=
  KeepsBut_append (keeps_ibx s { batchClosed s.ibx n b with stops := s.ibx.stops + 1 }) (keeps_postEvent _ _)

section Close

variable {s : State} {n : Nat} {b : Batch} (hb : b.model = n)
include hb

theorem closeBatch_auto (hmode : s.assisted 7 = false) : s.closeBatch b = { s with ibx := batchClosed s.ibx n b } := by
  subst hb
  exact if_neg (Bool.eq_false_iff.1 hmode)

theorem closeBatch_assisted (hmode : s.assisted 7 = true) : s.closeBatch b = closedStopped s n b := by
  subst hb
  exact if_pos hmode

end Close

/-- The wait of a model's open batch has passed. -/
theorem exec_batchWaitExpire {s : State} {k : ModelNo} {b : Batch}
    (hopen : s.ibx.opened.find? (fun c => decide (c.model = k.val)) = some b) :
    exec (.batchWaitExpire k) s = actRim (fun s => s.closeBatch b) s := by
  show execBatchWaitExpire k s = _
  simp only [execBatchWaitExpire, actRim, hopen]

/-! ### Shards in stacks without errors (R296) -/

/-- Every stack that holds a shard of the model serves, and none of its lines holds an error. -/
def CleanShards (s : State) (m : Model) : Prop := ∀ d ∈ m.shards, CleanStack s d.stack

theorem cleanShards_of_service {s : State} {m : Model} (h : ∀ d ∈ m.shards, (s.stk d.stack).st = .service ∧
    (s.stk d.stack).bad = [] ∧ (s.stk d.stack).corr = [] ∧ (s.stk d.stack).odie = []) : CleanShards s m := fun d hd =>
  let ⟨hst, hbad, hcorr, hodie⟩ := h d hd
  ⟨decide_eq_true hst, hbad, hcorr, hodie⟩

theorem readLines_clean {s : State} {k : Nat} (h : CleanStack s k) (src : Option Src) (l n : Nat) :
    (s.readLines k src l n).state = s ∧ (s.readLines k src l n).poisoned = false := by
  induction n generalizing l with
  | zero => exact ⟨rfl, rfl⟩
  | succ n ih => simp [State.readLines, readLine_clean h, ih]

/-- Reading such shards changes nothing, and loses nothing. -/
theorem readShards_clean {s : State} {ds : List Shard} (h : ∀ d ∈ ds, CleanStack s d.stack) :
    s.readShards ds = (s, false) := by
  induction ds with
  | nil => rfl
  | cons d ds ih =>
    have hd := h d List.mem_cons_self
    have hup : (s.stk d.stack).st = .service := of_decide_eq_true hd.serves
    simp [State.readShards, readLines_clean hd, hup, ih fun e he => h e (List.mem_cons_of_mem d he)]

/-! ### The next batch streams (R297, R298, R300) -/

/-- The batch is the next to stream: the oldest closed one, or the one that the host chose. -/
def IsNext (x : Ibx) (b : Batch) : Prop :=
  x.chosen = none ∧ x.closed.head? = some b ∨
    x.chosen = some b.model ∧ x.closed.find? (fun c => decide (c.model = b.model)) = some b

theorem length_dropAt {α : Type} {l : List α} {i : Nat} (hi : i < l.length) : (dropAt l i).length + 1 = l.length := by
  rw [dropAt, List.length_append, List.length_take, List.length_drop]
  omega

/-- The next batch leaves the closed ones. -/
theorem nextBatch_of_isNext {x : Ibx} {b : Batch} (h : IsNext x b) :
    ∃ rest, x.nextBatch = some (b, rest) ∧ rest.length + 1 = x.closed.length := by
  rcases h with ⟨hchosen, hhead⟩ | ⟨hchosen, hfind⟩
  · obtain ⟨l, hl⟩ := List.head?_eq_some_iff.1 hhead
    exact ⟨l, by simp [Ibx.nextBatch, hchosen, hl, dropAt], by simp [hl]⟩
  · obtain ⟨hb, i, hi, hget, hfirst⟩ := List.find?_eq_some_iff_getElem.1 hfind
    have hidx : x.closed.findIdx? (fun c => decide (c.model = b.model)) = some i :=
      List.findIdx?_eq_some_iff_getElem.2 ⟨hi, hget ▸ hb, fun j hj => by simpa using hfirst j hj⟩
    refine ⟨dropAt x.closed i, ?_, length_dropAt hi⟩
    simp [Ibx.nextBatch, hchosen, hidx, List.getElem?_eq_getElem hi, hget]

/-- The streamer has taken a closed batch; `rest` are those that are left. -/
def streaming (s : State) (b : Batch) (rest : List Batch) : State :=
  { s with ibx := { s.ibx with streaming := some b, closed := rest, chosen := none, lastModel := b.model, lost := false } }

/-- The batch that streams has lost its tree store. -/
def treesLost (t : State) : State := { t with ibx := { t.ibx with lost := true } }

section Stream

variable {s : State} {b : Batch} {m : Model} {rest : List Batch}

/-- While a batch streams, and at a stop that waits, no other one starts. -/
theorem batchStream_busy (h : s.ibx.streaming.isSome = true ∨ s.ibx.waitsHost = true) : s.batchStream = s := if_pos h

variable (hfree : s.ibx.streaming = none) (hgoes : s.ibx.waitsHost = false)
  (hnext : s.ibx.nextBatch = some (b, rest)) (hmodel : s.ibx.model? b.model = some m)
include hfree hgoes hnext hmodel

/-- The free streamer takes the next batch, and reads the shards of a ready model. -/
theorem batchStream_model : s.batchStream =
    if m.st ≠ .ready then treesLost (streaming s b rest)
    else if ((streaming s b rest).readShards m.shards).2 = true then
      treesLost (((streaming s b rest).readShards m.shards).1.modelGone b.model)
    else ((streaming s b rest).readShards m.shards).1 := by
  rw [State.batchStream, if_neg (by simp [hfree, hgoes])]
  simp only [Ibx.model?] at hmodel
  simp only [hnext, Ibx.model?, hmodel]
  rfl

/-- The batch of a ready model whose tree store can be read streams. -/
theorem batchStream_ready (hready : m.st = .ready) (hclean : CleanShards s m) : s.batchStream = streaming s b rest := by
  have hread : (streaming s b rest).readShards m.shards = (streaming s b rest, false) :=
    readShards_clean fun d hd => ⟨(hclean d hd).serves, (hclean d hd).bad, (hclean d hd).corr, (hclean d hd).odie⟩
  rw [batchStream_model hfree hgoes hnext hmodel, if_neg (by simp [hready]), hread, if_neg Bool.false_ne_true]

/-- The batch of a model that is not ready has no tree store. -/
theorem batchStream_absent (hst : m.st ≠ .ready) : s.batchStream = treesLost (streaming s b rest) := by
  rw [batchStream_model hfree hgoes hnext hmodel, if_pos hst]

end Stream

/-! ### A batch is answered (R283, R284, R297) -/

/-- `n` vectors have been answered: each has taken a sequence number, and of the registers IBX_VECTORS alone counts them. -/
structure Answered (n : Nat) (s t : State) : Prop where
  ibx   : t.ibx = { s.ibx with seq := s.ibx.seq + BitVec.ofNat 32 n }
  regs  : RegsBut [Reg.IBX_STAT Reg.IBX_VECTORS] s t
  keeps : KeepsBut [.regs, .prhs, .ibx] s t

theorem Answered.refl (s : State) : Answered 0 s s :=
  ⟨by rw [BitVec.add_zero], RegsBut_refl _ s, KeepsBut_refl _ s⟩

theorem Answered.trans {n n' : Nat} {s t u : State} (h : Answered n s t) (h' : Answered n' t u) : Answered (n + n') s u :=
  ⟨by rw [h'.ibx, h.ibx, BitVec.ofNat_add, BitVec.add_assoc], RegsBut_trans h.regs h'.regs,
    KeepsBut_trans h.keeps h'.keeps⟩

/-- The reply to a vector under the next sequence number. -/
def replyTo (s : State) (m : Model) (trees : List Tree) (q : IbxReq) (v : List Nat) : Reply :=
  { bytes := buildReply m.template q.frame.bytes (Config.ibexCopyByte q.frame.ts) q.frame.len
      ((List.range m.nout).map (fun o => scoreOut trees v m.nout o m.fixed (nthD m.base o 0))) m.frac s.ibx.seq
    seq := s.ibx.seq, frameId := q.frame.id, slot := 0, tags := fld m.template 2 1, hold := false, good := some true
    paused := false, ibex := true }

section Reply

variable (s : State) (m : Model) (trees : List Tree) (q : IbxReq) (v : List Nat)

/-- The reply joins the replies of the engine that the frame came in by. -/
theorem replies_ibexReply :
    ((s.ibexReply m trees q v).prh q.mac).replies = (s.prh q.mac).replies ++ [replyTo s m trees q v] := by
  show ((State.updPrh { s with ibx := { s.ibx with seq := s.ibx.seq + 1 } } q.mac
    (fun p => { p with replies := p.replies ++ [replyTo s m trees q v] })).prh q.mac).replies = _
  rw [prh_updPrh, if_pos rfl]
  rfl

theorem answered_ibexReply : Answered 1 s (s.ibexReply m trees q v) := by
  have hseq := keeps_ibx s { s.ibx with seq := s.ibx.seq + 1 }
  have hreply := keeps_updPrh { s with ibx := { s.ibx with seq := s.ibx.seq + 1 } } q.mac
    (fun p => { p with replies := p.replies ++ [replyTo s m trees q v] })
  exact ⟨rfl, RegsBut_count _ (Reg.IBX_STAT_COUNT Reg.IBX_VECTORS) 1,
    KeepsBut_mono (KeepsBut_append (KeepsBut_append hseq hreply) (keeps_count _ _ 1)) (by decide)⟩

end Reply

/-- A vector's turn: one that cannot be scored gets no reply. -/
def turn (m : Model) (trees : List Tree) (s : State) (q : IbxReq) : State := q.bins.elim s (s.ibexReply m trees q)

/-- The vectors that can be scored are answered, one after another. -/
theorem answered_turns (m : Model) (trees : List Tree) (qs : List IbxReq) (s : State) :
    Answered (qs.filter (fun q => q.bins.isSome)).length s (s.forEach qs (turn m trees)) := by
  induction qs generalizing s with
  | nil => exact .refl s
  | cons q qs ih =>
    cases hbins : q.bins with
    | none =>
      have hturn : turn m trees s q = s := by rw [turn, hbins]; rfl
      simpa [State.forEach, hbins, hturn] using ih s
    | some v =>
      have hturn : turn m trees s q = s.ibexReply m trees q v := by rw [turn, hbins]; rfl
      have hboth := (answered_ibexReply s m trees q v).trans (ih (s.ibexReply m trees q v))
      rw [Nat.add_comm] at hboth
      simpa [State.forEach, hbins, hturn] using hboth

/-- The vectors of a batch have had their turns and the batch is counted. -/
def batchCounted (s : State) (m : Model) (b : Batch) : State :=
  (s.forEach b.vecs (turn m (s.modelTrees m))).ibxCount Reg.IBX_BATCHES 1

/-- No batch streams any more. -/
def batchEnded (s : State) (m : Model) (b : Batch) : State :=
  { batchCounted s m b with ibx := { (batchCounted s m b).ibx with streaming := none } }

section Complete

variable {s : State} {b : Batch} {m : Model}

/-- The end of a batch whose tree store could be read. -/
theorem batchComplete_read (hstreams : s.ibx.streaming = some b) (hread : s.ibx.lost = false)
    (hmodel : s.ibx.model? b.model = some m) : s.batchComplete = batchEnded s m b := by
  have hloop {f : State → IbxReq → State} (hf : ∀ t q, f t q = turn m (s.modelTrees m) t q) :
      s.forEach b.vecs f = s.forEach b.vecs (turn m (s.modelTrees m)) := by rw [funext fun t => funext (hf t)]
  simp only [State.batchComplete, hstreams, hmodel, hread, Bool.false_eq_true, if_false]
  rw [hloop fun t q => ?_]
  · rfl
  · obtain ⟨mac, frame, _ | v⟩ := q <;> rfl

theorem ibx_batchEnded : (batchEnded s m b).ibx =
    { s.ibx with streaming := none
                 seq := s.ibx.seq + BitVec.ofNat 32 (b.vecs.filter (fun q => q.bins.isSome)).length } :=
  congrArg (fun x : Ibx => { x with streaming := none }) (answered_turns m (s.modelTrees m) b.vecs s).ibx

theorem keeps_batchEnded : KeepsBut [.regs, .prhs, .ibx] s (batchEnded s m b) :=
  KeepsBut_mono (KeepsBut_append (KeepsBut_append (answered_turns m (s.modelTrees m) b.vecs s).keeps (keeps_count _ _ 1))
    (keeps_ibx _ _)) (by decide)

/-- IBX_VECTORS and IBX_BATCHES are apart. -/
theorem rd_batchEnded : (batchEnded s m b).rd (Reg.IBX_STAT_COUNT Reg.IBX_BATCHES) =
    min (s.rd (Reg.IBX_STAT_COUNT Reg.IBX_BATCHES) + 1) (Reg.IBX_STAT_COUNT Reg.IBX_BATCHES).max := by
  have hturns := rd_of_regsBut (answered_turns m (s.modelTrees m) b.vecs s).regs
    (f := Reg.IBX_STAT_COUNT Reg.IBX_BATCHES) (by decide)
  rw [← hturns]
  exact rd_count_same _ 1 rfl

/-- The one vector of a batch has its reply. -/
theorem replies_batchEnded {q : IbxReq} {v : List Nat} (hvecs : b.vecs = [q]) (hbins : q.bins = some v) :
    ((batchEnded s m b).prh q.mac).replies = (s.prh q.mac).replies ++ [replyTo s m (s.modelTrees m) q v] := by
  have hturn : s.forEach b.vecs (turn m (s.modelTrees m)) = s.ibexReply m (s.modelTrees m) q v := by
    rw [hvecs]
    show turn m (s.modelTrees m) s q = _
    rw [turn, hbins]
    rfl
  rw [← replies_ibexReply, batchEnded, batchCounted, hturn]
  rfl

end Complete

/-! ### Stops and their answers (R298, R310) -/

theorem choose_eq (x : Ibx) (n : Nat) :
    x.choose n = { x with stops := if x.chosen = none then x.stops - 1 else x.stops, chosen := some n } := by
  simp only [Ibx.choose, Option.isNone_iff_eq_none]

section Stops

variable {s : State}

/-- A stop that waits ends by itself with the oldest closed batch. -/
theorem ibxTimeout_waits {b : Batch} {rest : List Batch} (hstops : 0 < s.ibx.stops) (hchosen : s.ibx.chosen = none)
    (hclosed : s.ibx.closed = b :: rest) :
    s.ibxTimeout = { s with ibx := { s.ibx with stops := s.ibx.stops - 1, chosen := some b.model } } := by
  have hwaits : s.ibx.waitsHost = true := by simp [Ibx.waitsHost, hstops, hchosen]
  simp only [State.ibxTimeout, hwaits, hclosed, choose_eq, hchosen, if_true]

theorem ibxTimeout_none (h : s.ibx.waitsHost = false ∨ s.ibx.closed = []) : s.ibxTimeout = s := by
  unfold State.ibxTimeout
  split
  · next hwaits hclosed => simp [hwaits, hclosed] at h
  · rfl

theorem ibxRun_closed {n : Nat} (h : ∃ b ∈ s.ibx.closed, b.model = n) : s.ibxRun n = { s with ibx := s.ibx.choose n } :=
  if_pos (by simpa using h)

theorem ibxRun_none {n : Nat} (h : ∀ b ∈ s.ibx.closed, b.model ≠ n) : s.ibxRun n = s := if_neg (by simpa using h)

end Stops

/-! ### Models (R300, R301, R310) -/

/-- A model has become `x`, and of the streamer nothing else has changed. -/
def ModelBecomes (n : Nat) (x : Model) (s t : State) : Prop :=
  t.ibx.model? n = some x ∧ (∀ j, j ≠ n → t.ibx.model? j = s.ibx.model? j) ∧ t.ibx = { s.ibx with models := t.ibx.models }

theorem modelBecomes_setModel (s : State) (n : Nat) (x : Model) : ModelBecomes n x s (s.setModel n x) := by
  have hfind (j : Nat) : (s.setModel n x).ibx.model? j = if j = n then some x else s.ibx.model? j :=
    NatMap.find_ins s.ibx.models n x j
  exact ⟨by rw [hfind, if_pos rfl], fun j hj => by rw [hfind, if_neg hj], rfl⟩

theorem keeps_setModel (s : State) (n : Nat) (x : Model) : KeepsBut [.ibx] s (s.setModel n x) := keeps_ibx s _

section Models

variable {s : State} {n : Nat} {m : Model} (hmodel : s.ibx.model? n = some m)
include hmodel

/-- A suspended model is absent, and is reported. -/
theorem ibxSuspend_present (hst : m.st = .ready ∨ m.st = .validating) :
    s.ibxSuspend n = (s.setModel n { m with st := .absent }).report .modelAbsent n := by
  simp only [State.ibxSuspend, State.modelGone, hmodel, hst, if_true]

theorem ibxSuspend_absent (hst : m.st = .absent ∨ m.st = .none) : s.ibxSuspend n = s := by
  rcases hst with hst | hst <;> simp [State.ibxSuspend, hmodel, hst]

theorem ibxValidate_loaded (hst : m.st ≠ .none) : s.ibxValidate n = s.setModel n { m with st := .validating } := by
  simp only [State.ibxValidate, hmodel, hst, if_false]

end Models

/-- The bytes of every shard of a model have their CRC. -/
def shardsMatch (s : State) (m : Model) : Bool :=
  m.shards.all (fun d => decide (crc32c (Mem.read (s.stk d.stack).mem d.addr d.size) = d.crc))

/-- The end of a validation that could read every shard. -/
theorem exec_validateComplete {s : State} {k : ModelNo} {m : Model} (hmodel : s.ibx.model? k = some m)
    (hst : m.st = .validating) (hclean : CleanShards s m) : exec (.validateComplete k) s =
      actRim (fun s => s.setModel k { m with st := if shardsMatch s m then .ready else .absent }) s := by
  show execValidateComplete k s = _
  simp only [execValidateComplete, actRim, hmodel, hst, if_true, readShards_clean hclean]
  rfl

/-! ### What the streamer's commands answer -/

section Answers

variable {s : State} {k : ModelNo} {f : State → State}

/-- A command of the host to a model, over the link. -/
theorem exec_host_linked {i : Instr} (hi : exec i s = actRim (fun s => s.when s.host.linkUp f) s) (hlink : Linked s) :
    exec i s = actRim f s := by
  rw [hi]
  simp only [actRim, State.when, show s.host.linkUp = true from hlink, if_true]

/-- A command of the host that its function does not carry out does nothing, with the link and without. -/
theorem exec_host_same {i : Instr} (hi : exec i s = actRim (fun s => s.when s.host.linkUp f) s) (hf : f s = s) :
    exec i s = .next s := by
  refine exec_of_actRim_same hi ?_
  show (if s.host.linkUp then f s else s) = s
  rw [hf, ite_self]

end Answers

end Sys2Proof.Proofs.IbexBatches
end

section
/-! The statement on the Ibex streamer (R294 to R301, R310). -/

namespace Sys2Proof.Proofs.IbexStreams

open Sys2Proof.Machine Sys2Proof.Safety Sys2Proof.Laws Sys2Proof.Proofs.Frames Sys2Proof.Proofs.MacSteps
open Sys2Proof.Proofs.IbexBatches
open Sys2Proof.Proofs.ResidentWrites (keeps_ibx)
open Sys2Proof.Proofs.FrameReception (keeps_report)

/-- Settles O47, command by command: each changes the streamer, and only a batch that ends also its engines' replies and its
counters. -/
theorem ibexStreams : Obligations.IbexStreams := by
  intro s k x only
  refine ⟨fun b hopen => ?closes, fun b m hfree hgoes hnext hmodel => ?streams, fun hbusy => ?busy,
    fun b m q v hstreams hread hmodel => ?completes, fun b rest hstops hchosen hclosed => ?timeout, fun hidle => ?idle,
    fun hlink hclosed => ?run, fun hnone => ?ignored, fun m hlink hmodel => ?models, fun m hmodel hst hclean => ?validated⟩
  case closes =>
    have hb : b.model = k.val := by simpa using List.find?_some hopen
    refine ⟨fun hmode => ?_, fun hmode => ?_⟩
    · exact runs_of_actRim (exec_batchWaitExpire hopen) (closeBatch_auto hb hmode) (keeps_ibx s _) (by decide)
        ⟨rfl, keeps_ibx s _⟩
    · exact runs_of_actRim (exec_batchWaitExpire hopen) (closeBatch_assisted hb hmode) (keeps_closedStopped s k b)
        (by decide) ⟨rfl, rfl, keeps_closedStopped s k b⟩
  case streams =>
    obtain ⟨rest, hbatch, hrest⟩ := nextBatch_of_isNext hnext
    refine ⟨fun hready hclean => ?_, fun hst => ?_⟩
    · exact runs_of_actRim rfl
        (batchStream_ready hfree hgoes hbatch hmodel hready (cleanShards_of_service hclean)) (keeps_ibx s _) (by decide)
        ⟨rfl, rfl, rfl, rfl, hrest, rfl, keeps_ibx s _⟩
    · exact runs_of_actRim rfl (batchStream_absent hfree hgoes hbatch hmodel hst) (keeps_ibx s _) (by decide)
        ⟨rfl, rfl, keeps_ibx s _⟩
  case busy => exact exec_of_actRim_same rfl (batchStream_busy hbusy)
  case completes =>
    have hibx := ibx_batchEnded (s := s) (b := b) (m := m)
    exact runs_of_actRim rfl (batchComplete_read hstreams hread hmodel) keeps_batchEnded (by decide)
      ⟨rfl, by rw [hibx], by rw [hibx], by rw [hibx], rd_batchEnded,
        fun hvecs hbins => replies_batchEnded hvecs hbins, keeps_batchEnded⟩
  case timeout =>
    exact runs_of_actRim rfl (ibxTimeout_waits hstops hchosen hclosed) (keeps_ibx s _) (by decide) ⟨rfl, keeps_ibx s _⟩
  case idle => exact exec_of_actRim_same rfl (ibxTimeout_none hidle)
  case run =>
    exact runs_of_actRim (exec_host_linked (f := fun s => s.ibxRun k) rfl hlink) (ibxRun_closed hclosed) (keeps_ibx s _)
      (by decide) ⟨choose_eq x k, keeps_ibx s _⟩
  case ignored => exact exec_host_same (f := fun s => s.ibxRun k) rfl (ibxRun_none hnone)
  case models =>
    refine ⟨fun hst => ?_, fun hst => ?_, fun hst => ?_⟩
    · have hreport := keeps_report (s.setModel k { m with st := .absent }) .modelAbsent k
      have hkeeps := KeepsBut_append (keeps_setModel s k { m with st := .absent }) hreport
      obtain ⟨hmodel', hothers, hibx⟩ := modelBecomes_setModel s k { m with st := .absent }
      rw [← show ((s.setModel k { m with st := .absent }).report .modelAbsent k).ibx = _ from hreport.2 .ibx (by decide)]
        at hmodel' hothers hibx
      exact runs_of_actRim (exec_host_linked (f := fun s => s.ibxSuspend k) rfl hlink) (ibxSuspend_present hmodel hst)
        hkeeps (by decide) ⟨hmodel', hothers, hibx, hkeeps⟩
    · exact exec_host_same (f := fun s => s.ibxSuspend k) rfl (ibxSuspend_absent hmodel hst)
    · obtain ⟨hmodel', hothers, hibx⟩ := modelBecomes_setModel s k { m with st := .validating }
      exact runs_of_actRim (exec_host_linked (f := fun s => s.ibxValidate k) rfl hlink) (ibxValidate_loaded hmodel hst)
        (keeps_setModel s k _) (by decide) ⟨hmodel', hothers, hibx, keeps_setModel s k _⟩
  case validated =>
    obtain ⟨hmodel', hothers, -⟩ := modelBecomes_setModel s k { m with st := if shardsMatch s m then .ready else .absent }
    exact runs_of_actRim (exec_validateComplete hmodel hst (cleanShards_of_service hclean)) rfl (keeps_setModel s k _)
      (by decide) ⟨hmodel', hothers, keeps_setModel s k _⟩

end Sys2Proof.Proofs.IbexStreams
end

section
/-! A herd reset: its HALT stops the herd of a group of its own, its tiles are cleared, and the recovery goes to RELOAD (R377,
R479, R480). -/

namespace Sys2Proof.Proofs.HerdResets

open Sys2Proof.Machine Sys2Proof.Safety Sys2Proof.Laws Sys2Proof.Proofs.Frames
open Sys2Proof.Proofs.HerdCommands
open Sys2Proof.Proofs.WaferSections (keeps_updFlt)

/-! ### HALT of the fault controller at a herd at rest (R140, R377) -/

/-- A command of the fault controller is carried out at once by a controller at rest, and not even whose turn is next changes. -/
theorem herdCmd_fault {s : State} {h : Nat} {q : QCmd} (hrest : AtRest s h) (hsrc : q.src = .fault) :
    ∃ u, Taken s h .fault u ∧ u.herd h = s.herd h ∧ s.herdCmd h q = u.herdRun h q := by
  obtain ⟨hbarrier, hqueue⟩ := hrest
  have hherd : (s.enqueue h q).herd h = { s.herd h with queue := [q] } := by simp [State.enqueue, hqueue]
  have hnext : Herd.nextCmd { s.herd h with queue := [q] } = some (q, s.herd h) := by
    simp [Herd.nextCmd, takeSrc, hsrc, ← hqueue]
  set u := (s.enqueue h q).setHerd h (s.herd h) with hu
  have hsame : u.herd h = s.herd h := by simp [hu]
  have hdrop : u.dropBarrier h = u := by rw [State.dropBarrier, hsame, hbarrier]
  refine ⟨u, ⟨⟨_, hsame⟩, fun k hk => by simp [hu, State.enqueue, hk], ?_, nofun⟩, hsame, ?_⟩
  · exact KeepsBut_trans (keeps_updHerd s h _) (keeps_setHerd _ h _)
  · rw [State.herdCmd, if_neg (by simp [hsrc]), State.serve, hherd]
    simp only [List.length_singleton, State.serveHerd, hherd, hnext, hsrc, if_true]
    rw [← hu, hdrop]

/-- A RUNNING herd at rest, alone in its group, is halted. -/
theorem haltGroup_alone {s : State} {g h : Nat} (hgroup : s.groupHerds g = [h]) (hrest : AtRest s h)
    (hst : (s.herd h).st = .running) :
    ∃ u, Taken s h .fault u ∧ u.herd h = s.herd h ∧ s.haltGroup g = changed u h haltedHerd haltedTile := by
  obtain ⟨u, hu, hherd, hcmd⟩ := herdCmd_fault (q := fltCmd 2 0) hrest rfl
  have hhalt : u.herdDo h (fltCmd 2 0) = cmdOk (changed u h haltedHerd haltedTile) := if_pos (hu.st.trans hst)
  refine ⟨u, hu, hherd, ?_⟩
  rw [State.haltGroup, hgroup]
  exact hcmd.trans (herdRun_ok hhalt nofun)

/-! ### The reset of a herd (R377, R479, R480) -/

/-- A halted tile is cleared as it would have been before. -/
theorem clear_haltedTile (y : Tile) : (haltedTile y).clear = y.clear := by
  unfold haltedTile
  split <;> rfl

/-- The recovery after the reset of a herd with none in progress. -/
def resetFlt (s : State) (h : Nat) (x : Flt) : Flt :=
  { x with st := .reload, herd := h, group := s.groupOf h, failed := [], reload := [h], choice := none, stop := false
           moveTo := none, atFault := s.groupMarks (s.groupOf h), byReset := true }

/-- A herd has been reset: its controller is LOADED, its tiles are cleared, and its RELOAD starts. -/
structure HerdWasReset (s : State) (h : Nat) (t : State) : Prop where
  herd   : t.herd h = clearedHerd (s.herd h)
  others : HerdsBut h s t
  tile   : ∀ k, t.tile k = if herdOfKey k = h then (s.tile k).clear else s.tile k
  flt    : t.flt = resetFlt s h s.flt
  keeps  : KeepsBut [.tiles, .herds, .flt] s t

theorem startReset_alone {s : State} {h : Nat} (hidle : s.flt.st = .idle) (hst : (s.herd h).st = .running)
    (hrest : AtRest s h) (hgroup : s.groupHerds (s.groupOf h) = [h]) : HerdWasReset s h (s.startReset h) := by
  obtain ⟨u, hu, hherd, hhalt⟩ := haltGroup_alone hgroup hrest hst
  have hreset : s.startReset h =
      (changed (changed u h haltedHerd haltedTile) h clearedHerd Tile.clear).updFlt (resetFlt s h) := by
    rw [State.startReset, if_pos hidle, hhalt]
    rfl
  obtain ⟨htiles, hherds, hkeeps⟩ := changed_frame haltedHerd (g := haltedTile) hu rfl
  have hclear := keeps_changed (u := changed u h haltedHerd haltedTile) (h := h) clearedHerd (g := Tile.clear)
  have hboth : KeepsBut [.tiles, .herds] s _ := KeepsBut_trans hkeeps hclear
  rw [hreset]
  refine ⟨?_, fun k hk => ?_, fun k => ?_, ?_, KeepsBut_append hboth (keeps_updFlt _ _)⟩
  · have hhalted : (changed u h haltedHerd haltedTile).herd h = haltedHerd (s.herd h) := by rw [herd_changed, hherd]
    exact (herd_changed (g := Tile.clear) clearedHerd).trans ((congrArg clearedHerd hhalted).trans rfl)
  · exact (herdsBut_updHerd _ h clearedHerd k hk).trans (hherds k hk)
  · refine (tile_changed (h := h) clearedHerd rfl k).trans ?_
    rw [htiles]
    split
    · exact clear_haltedTile _
    · rfl
  · exact congrArg (resetFlt s h) (hboth.2 .flt (by decide))

end Sys2Proof.Proofs.HerdResets
end

section
/-! A port reset: the herd transport's frames stay, the frames of the parse contexts are counted as not scored, and the link,
the engine and the transmit timestamps start again (R284, R405, R479, R480). -/

namespace Sys2Proof.Proofs.PortResets

open Sys2Proof.Machine Sys2Proof.Safety Sys2Proof.Laws Sys2Proof.Proofs.Frames
open Sys2Proof.Proofs.ResidentWrites (forEach_induction keeps_ibx)
open Sys2Proof.Proofs.WaferSections (keeps_setTime)
open Sys2Proof.Proofs.StackSteps (inWord rd_count_same rd_le_max rd_of_regsBut)

/-! ### The herd transport of a port without messages (R355) -/

/-- Every MAC reads as before, and nothing else has changed. -/
structure SameMacs (s t : State) : Prop where
  mac   : ∀ k, t.mac k = s.mac k
  keeps : KeepsBut [.macs] s t

theorem SameMacs.trans {s t u : State} (h : SameMacs s t) (h' : SameMacs t u) : SameMacs s u :=
  ⟨fun k => (h'.mac k).trans (h.mac k), KeepsBut_trans h.keeps h'.keeps⟩

theorem sameMacs_updMac {s : State} {n : Nat} {f : MacSt → MacSt} (hf : f (s.mac n) = s.mac n) :
    SameMacs s (s.updMac n f) := by
  refine ⟨fun k => ?_, keeps_updMac s n f⟩
  rw [mac_updMac]
  split
  · next hk => rw [hf, hk]
  · rfl

/-- With no peer there are no messages to send again. -/
theorem htGoes_alone {s : State} (hpeers : s.jrn.peers = []) (n : Nat) (which : Nat → Bool) : s.htGoes n which = s := by
  have hjrn : { s with jrn := { s.jrn with peers := [] } } = s := by rw [← hpeers]
  simpa [State.htGoes, hpeers, State.forEach] using hjrn

theorem sameMacs_htGoes {s : State} (hpeers : s.jrn.peers = []) (n : Nat) (which : Nat → Bool) :
    SameMacs s (s.htGoes n which) := by
  rw [htGoes_alone hpeers]
  exact ⟨fun _ => rfl, KeepsBut_refl _ s⟩

/-- A test that frames pass keeps all of the frames that wait, and one that they fail keeps none. -/
theorem filter_frames {q : List HtTx} (hframes : ∀ x ∈ q, ∃ f, x = .frame f) {p : HtTx → Bool} :
    ((∀ f, p (.frame f) = true) → q.filter p = q) ∧ ((∀ f, p (.frame f) = false) → q.filter p = []) := by
  refine ⟨fun hp => List.filter_eq_self.2 fun x hx => ?_, fun hp => List.filter_eq_nil_iff.2 fun x hx => ?_⟩
  · obtain ⟨f, rfl⟩ := hframes x hx
    exact hp f
  · obtain ⟨f, rfl⟩ := hframes x hx
    simp [hp f]

/-- The transport's frames stay at a port that moves, where no messages wait. -/
theorem sameMacs_htMove {s : State} {n : Nat} (hpeers : s.jrn.peers = [])
    (hframes : ∀ x ∈ (s.mac n).ht, ∃ f, x = .frame f) : SameMacs s (s.htMove n) := by
  have hstay {p : HtTx → Bool} (hp : ∀ f, p (.frame f) = true) :
      SameMacs s (s.updMac n (fun x => { x with ht := (s.mac n).ht.filter p })) :=
    sameMacs_updMac (by rw [(filter_frames hframes).1 hp])
  have hloose : (s.mac n).ht.filter htLoose = [] := (filter_frames hframes).2 fun _ => rfl
  unfold State.htMove
  dsimp only
  split
  · split
    · exact ⟨fun _ => rfl, KeepsBut_refl _ s⟩
    · rw [hloose]
      refine ((hstay ?_).trans (sameMacs_updMac ?_)).trans (sameMacs_htGoes (by exact hpeers) _ _)
      · exact fun _ => rfl
      · rw [List.append_nil]
  · refine (hstay ?_).trans (sameMacs_htGoes (by exact hpeers) _ _)
    exact fun _ => rfl

/-! ### The frames of the parse contexts (R260, R479) -/

/-- A counter that counts once for every element of a list. -/
theorem rd_forEach_count {α : Type} {f : Fld} (hf : inWord f = true) (xs : List α) (s : State) :
    (s.forEach xs (fun s _ => s.count f 1)).rd f = min (s.rd f + xs.length) f.max := by
  induction xs generalizing s with
  | nil => exact (Nat.min_eq_left (rd_le_max s f)).symm
  | cons x xs ih =>
    refine (ih (s.count f 1)).trans ?_
    rw [rd_count_same s 1 hf, List.length_cons]
    omega

theorem regsBut_forEach_count {α : Type} (f : Fld) (xs : List α) (s : State) :
    RegsBut [f.off] s (s.forEach xs (fun s _ => s.count f 1)) :=
  forEach_induction (P := RegsBut [f.off] s) (fun t _ _ ht => RegsBut_trans ht (RegsBut_count t f 1)) (RegsBut_refl _ s)

/-! ### One port (R284, R405, R479) -/

/-- The MAC of a port that has been reset. -/
def resetMac (trains : Bool) (x : MacSt) : MacSt :=
  { MacSt.reset with ht := x.ht, nextRing := x.nextRing, nextId := x.nextId, training := trains }

/-- The transport has moved off the port, and the frames of its parse contexts are counted. -/
def portLeft (s : State) (n : Nat) : State :=
  (s.htMove n).forEach (s.prh n).ctxs (fun s _ => s.count (Reg.PRH_STAT_FRONT_COUNT n Reg.NS_NO_CONTEXT) 1)

/-- The engine of a port that has been reset: its ensembles stay (R479). -/
def resetPrh (x : Prh) : Prh := { Prh.reset with ens := x.ens }

/-- The link and the engine of the port start again. -/
def linkReset (s : State) (n : Nat) (trains : Bool) : State := (s.updMac n (resetMac trains)).updPrh n resetPrh

/-- What the reset of a port clears once the transport has left it. -/
theorem portClear_eq (s : State) (n : Nat) : s.portClear n =
    (linkReset (portLeft s n) n ((portLeft s n).leads n && (portLeft s n).macPowered n)).setTime
      { (portLeft s n).time with tsq := NatMap.del (portLeft s n).time.tsq n } := rfl

theorem regs_portClear (s : State) (n : Nat) : (s.portClear n).regs = (portLeft s n).regs := by
  rw [portClear_eq]
  rfl

section Left

variable {s : State} {n : Nat} (hmove : SameMacs s (s.htMove n))
include hmove

theorem keeps_portLeft : KeepsBut [.regs, .macs] s (portLeft s n) :=
  KeepsBut_mono (KeepsBut_append hmove.keeps (keeps_forEach (fun t _ => keeps_count t _ 1) _ _)) (by decide)

theorem mac_portLeft (k : Nat) : (portLeft s n).mac k = s.mac k := by
  have hcounted : (portLeft s n).macs = (s.htMove n).macs :=
    (keeps_forEach (l := [.regs]) (fun t _ => keeps_count t _ 1) _ _).2 .macs (by decide)
  rw [State.mac, hcounted]
  exact hmove.mac k

theorem rd_portLeft : (portLeft s n).rd (Reg.PRH_STAT_FRONT_COUNT n Reg.NS_NO_CONTEXT) =
    min (s.rd (Reg.PRH_STAT_FRONT_COUNT n Reg.NS_NO_CONTEXT) + (s.prh n).ctxs.length)
      (Reg.PRH_STAT_FRONT_COUNT n Reg.NS_NO_CONTEXT).max := by
  rw [← HostCommands.rd_of_regs (hmove.keeps.2 .regs (by decide))]
  exact rd_forEach_count rfl _ _

theorem regsBut_portLeft : RegsBut [Reg.PRH_STAT_FRONT n Reg.NS_NO_CONTEXT] s (portLeft s n) :=
  RegsBut_trans (RegsBut_of_regs (hmove.keeps.2 .regs (by decide)) _)
    (regsBut_forEach_count (Reg.PRH_STAT_FRONT_COUNT n Reg.NS_NO_CONTEXT) _ _)

/-- The port leads where it did: its MODE and its power are what they were. -/
theorem trains_portLeft : ((portLeft s n).leads n && (portLeft s n).macPowered n) = (s.leads n && s.macPowered n) := by
  have hmode : (portLeft s n).rd (Reg.MAC_CTRL_MODE n) = s.rd (Reg.MAC_CTRL_MODE n) :=
    rd_of_regsBut (regsBut_portLeft hmove) (f := Reg.MAC_CTRL_MODE n) (by
      simp only [Reg.MAC_CTRL_MODE, Reg.MAC_CTRL, Reg.PRH_STAT_FRONT, Reg.NS_NO_CONTEXT, List.mem_singleton]
      omega)
  have himg : (portLeft s n).img = s.img := (keeps_portLeft hmove).2 .img (by decide)
  have hpwr : (portLeft s n).pwr = s.pwr := (keeps_portLeft hmove).2 .pwr (by decide)
  have hleads : (portLeft s n).leads n = s.leads n := by
    unfold State.leads State.macMode
    rw [himg, hmode]
  have hpower : (portLeft s n).macPowered n = s.macPowered n := by
    unfold State.macPowered State.pdOn
    rw [hpwr]
  rw [hleads, hpower]

theorem mac_portClear (k : Nat) : (s.portClear n).mac k =
    if k = n then resetMac (s.leads n && s.macPowered n) (s.mac n) else s.mac k := by
  rw [portClear_eq, trains_portLeft hmove]
  refine (mac_updMac (portLeft s n) n k _).trans ?_
  rw [mac_portLeft hmove, mac_portLeft hmove]

theorem prh_portClear (k : Nat) : (s.portClear n).prh k = if k = n then resetPrh (s.prh n) else s.prh k := by
  have hprh (j : Nat) : (portLeft s n).prh j = s.prh j :=
    congrArg (fun x => NatMap.get x Prh.reset j) ((keeps_portLeft hmove).2 .prhs (by decide))
  rw [portClear_eq]
  refine (prh_updPrh ((portLeft s n).updMac n _) n k resetPrh).trans ?_
  rw [prh_after_updMac, prh_after_updMac, hprh, hprh]

theorem time_portClear : (s.portClear n).time = { s.time with tsq := NatMap.del s.time.tsq n } :=
  congrArg (fun x : TimeU => { x with tsq := NatMap.del x.tsq n }) ((keeps_portLeft hmove).2 .time (by decide))

theorem keeps_portClear : KeepsBut [.regs, .macs, .prhs, .time] s (s.portClear n) := by
  rw [portClear_eq]
  exact KeepsBut_mono (KeepsBut_append (KeepsBut_append (KeepsBut_append (keeps_portLeft hmove) (keeps_updMac _ n _))
    (keeps_updPrh _ n _)) (keeps_setTime _ _)) (by decide)

end Left

/-- A port has been reset. -/
structure PortWasReset (s : State) (n : Nat) (t : State) : Prop where
  mac     : t.mac n = resetMac (s.leads n && s.macPowered n) (s.mac n)
  others  : MacsBut n s t
  prh     : t.prh n = resetPrh (s.prh n)
  engines : ∀ k, k ≠ n → t.prh k = s.prh k
  time    : t.time = { s.time with tsq := NatMap.del s.time.tsq n }
  ibx     : t.ibx = { s.ibx with seq := 0 }
  counted : t.rd (Reg.PRH_STAT_FRONT_COUNT n Reg.NS_NO_CONTEXT) =
    min (s.rd (Reg.PRH_STAT_FRONT_COUNT n Reg.NS_NO_CONTEXT) + (s.prh n).ctxs.length)
      (Reg.PRH_STAT_FRONT_COUNT n Reg.NS_NO_CONTEXT).max
  regs    : RegsBut [Reg.PRH_STAT_FRONT n Reg.NS_NO_CONTEXT] s t
  keeps   : KeepsBut [.regs, .macs, .prhs, .ibx, .time] s t

/-- The reset of a port that is its own gang, outside a start. -/
theorem portReset_single {s : State} {n : Nat} (hstage : s.bru.stage = 7) (hgang : s.gangOf n = [n])
    (hpeers : s.jrn.peers = []) (hframes : ∀ x ∈ (s.mac n).ht, ∃ f, x = .frame f) : PortWasReset s n (s.portReset n) := by
  have hmove := sameMacs_htMove hpeers hframes
  have hreset : s.portReset n = { s.portClear n with ibx := { (s.portClear n).ibx with seq := 0 } } := by
    rw [State.portReset, if_neg (by simp [State.starting, hstage]), hgang]
    rfl
  have hclear := keeps_portClear hmove
  rw [hreset]
  refine ⟨?_, fun k hk => ?_, ?_, fun k hk => ?_, time_portClear hmove, ?_, ?_, ?_, ?_⟩
  · exact (mac_portClear hmove n).trans (if_pos rfl)
  · exact (mac_portClear hmove k).trans (if_neg hk)
  · exact (prh_portClear hmove n).trans (if_pos rfl)
  · exact (prh_portClear hmove k).trans (if_neg hk)
  · exact congrArg (fun x : Ibx => { x with seq := 0 }) (hclear.2 .ibx (by decide))
  · exact (HostCommands.rd_of_regs (regs_portClear s n) _).trans (rd_portLeft hmove)
  · exact RegsBut_trans (regsBut_portLeft hmove) (RegsBut_of_regs (regs_portClear s n) _)
  · exact KeepsBut_mono (KeepsBut_append hclear (keeps_ibx _ _)) (by decide)

end Sys2Proof.Proofs.PortResets
end

section
/-! The statement on herd, port and function-level resets (R284, R377, R405, R471, R479, R480). -/

namespace Sys2Proof.Proofs.SmallResets

open Sys2Proof.Machine Sys2Proof.Safety Sys2Proof.Laws Sys2Proof.Proofs.Frames
open Sys2Proof.Proofs.HerdResets Sys2Proof.Proofs.PortResets
open Sys2Proof.Proofs.StackUpkeep (find_filter_keys)

/-! ### Commands of the host -/

section Host

variable {i : Instr} {s : State} {f : State → State} (hi : exec i s = act (fun s => s.byHost f) s)
include hi

/-- Over the link a command of the host does what its function does. -/
theorem exec_host_linked (hlink : Linked s) : exec i s = act f s := by
  rw [hi]
  simp only [act, State.byHost, State.when, show s.host.linkUp = true from hlink, if_true]

/-- A command of the host whose function changes nothing does nothing, with the link and without. -/
theorem exec_host_same (hf : f s = s) : exec i s = .next s := by
  refine exec_of_act_same hi ?_
  rw [State.byHost, State.when, hf, ite_self]

end Host

/-- Outside a start the reset of a herd that is not DARK begins. -/
theorem herdReset_started {s : State} {h : Nat} (hstage : s.bru.stage = 7) (hst : (s.herd h).st = .running) :
    s.herdReset h = s.startReset h := if_neg (by simp [State.starting, hstage, hst])

/-- A herd reset and a port reset join a start in progress. -/
theorem resets_starting {s : State} (hstage : s.bru.stage < 7) (n : Nat) : s.herdReset n = s ∧ s.portReset n = s :=
  have hstart : s.starting = true := decide_eq_true hstage
  ⟨if_pos (.inl hstart), if_pos hstart⟩

/-! ### Mailboxes (R471, R479) -/

/-- A table without the keys of a range. -/
theorem get_filter_range {α : Type} (m : NatMap α) (d : α) (lo hi j : Nat) :
    NatMap.get (m.filter (fun e => decide (e.1 < lo ∨ hi ≤ e.1))) d j = if lo ≤ j ∧ j < hi then d else NatMap.get m d j := by
  have hkeys : (fun e : Nat × α => decide (e.1 < lo ∨ hi ≤ e.1)) = fun e => !(decide (lo ≤ e.1 ∧ e.1 < hi)) := by
    funext e
    rw [← decide_not, decide_eq_decide]
    omega
  rw [NatMap.get, hkeys, find_filter_keys m (fun j => decide (lo ≤ j ∧ j < hi)) j]
  by_cases hj : lo ≤ j ∧ j < hi <;> simp [hj, NatMap.get]

/-- The registers of the range are at their reset values. -/
theorem reg_resetRegs (s : State) (lo hi off : Nat) :
    (s.resetRegs lo hi).reg off = if lo ≤ off ∧ off < hi then resetVal off else s.reg off :=
  get_filter_range s.regs (resetVal off) lo hi off

/-- The bytes of the range are 0. -/
theorem byte_outside (m : Mem) (a b x : Nat) : Mem.byte (Mem.outside m a b) x = if a ≤ x ∧ x < b then 0 else Mem.byte m x :=
  get_filter_range m 0 a b x

theorem keeps_functionReset (s : State) : KeepsBut [.regs, .host] s s.functionReset :=
  ⟨rfl, fun p hp => by cases p <;> simp_all [Part.same, State.functionReset, State.resetRegs]⟩

/-- Settles O60: each reset clears what it names, and a herd or port reset during a start does nothing of its own. -/
theorem smallResets : Obligations.SmallResets := by
  refine ⟨fun s h hlink hstage hidle hst hrest hgroup => ?herd, fun s m hlink hstage hgang hpeers hframes => ?port,
    fun s hstage => ?start, fun s => ?function⟩
  case herd =>
    have hreset := startReset_alone hidle hst hrest hgroup
    exact runs_of_act (exec_host_linked (f := fun s => s.herdReset h) rfl hlink) (herdReset_started hstage hst)
      hreset.keeps (by decide) ⟨hreset.herd, hreset.others, hreset.tile, hreset.flt, hreset.keeps⟩
  case port =>
    have hreset := portReset_single hstage hgang hpeers hframes
    exact runs_of_act (exec_host_linked (f := fun s => s.portReset m) rfl hlink) rfl hreset.keeps (by decide)
      ⟨hreset.mac, hreset.others, hreset.prh, hreset.engines, hreset.time, hreset.ibx, hreset.counted, hreset.regs,
        hreset.keeps⟩
  case start =>
    exact ⟨fun h => exec_host_same (f := fun s => s.herdReset h) rfl (resets_starting hstage h).1,
      fun m => exec_host_same (f := fun s => s.portReset m) rfl (resets_starting hstage m).2⟩
  case function =>
    have hreg := reg_resetRegs s 0x300_0000 0x310_0000
    have hbyte := byte_outside s.host.bar2 0 0x10_0000
    refine runs_of_act rfl rfl (keeps_functionReset s) (by decide)
      ⟨fun off hlo hhi => ?_, fun off hout => ?_, fun a ha => ?_, fun a ha => ?_, rfl, keeps_functionReset s⟩
    · exact (hreg off).trans (if_pos ⟨hlo, hhi⟩)
    · exact (hreg off).trans (if_neg (by omega))
    · exact (hbyte a).trans (if_pos ⟨a.zero_le, ha⟩)
    · exact (hbyte a).trans (if_neg (by omega))

end Sys2Proof.Proofs.SmallResets
end
